-- ==== Sys2Proof/Word.lean ====
section
/-! DEFINITION. The word types of the block: what the manual treats as bits. -/

namespace Sys2Proof

/-- A 64-bit register, descriptor word or packet header word (R15, R85, R307). -/
abbrev Word := BitVec 64

/-- The bits of a binary32 value, an E8M0 code holder, or another 32-bit quantity (R97). -/
abbrev F32 := BitVec 32

/-- A byte of a packet body, of companion memory or of HBM. -/
abbrev Byte := BitVec 8

end Sys2Proof
end

