-- ==== Sys2Proof/Syntax.lean ====
section
/-! DEFINITION. The commands of the block: one constructor of `Instr` per row of spec/opcode_table.json, with the operands that
the row's rule names. A row whose event is the arrival of a packet carries the packet; a row whose event reads companion memory
carries what the coherent read returned; a row that is a measurement carries the measured value; a row that is the expiry of a
timer names the timer, and issuing it is the expiry. -/

namespace Sys2Proof

/-- A YFL packet (R307, R309): header word H0, the header words from H1 on, and the body. CRC and pad are functions of these. -/
structure Packet where
  h0 : Word
  hs : List Word
  body : List Byte
deriving DecidableEq, Repr

/-- A collective is named by communicator, STEP and SEQ (R49). -/
structure CollId where
  comm : Nat
  step : Nat
  seq : Nat
deriving DecidableEq, Repr

/-- A context is one chunk position of one collective: `part` is 0 DATA or 1 ROUTE (R51, R317). -/
structure CtxId where
  coll : CollId
  part : Nat
  index : Nat
deriving DecidableEq, Repr

/-- What a coherent read of companion memory returned: its bytes, or nothing where the windows refuse it or the companion
answers with an error (R459). -/
abbrev Readback := Option (List Byte)

/-- The address space a register access goes to: the register window (R14) or the sideband registers (R511). -/
inductive RegSpace where
  | window | sideband
deriving DecidableEq, Repr

/-- A check mismatch of a furrow group: physical cell 0–527, or 0x3FF for a stage, and the path, true for exponent (R163). -/
structure Mismatch where
  cell : Nat
  expPath : Bool
deriving DecidableEq, Repr

/-- One flit after decoding (R388). -/
structure Flit where
  start : Nat
  seq : Nat
  lane : Nat
  kind : Nat
  payload : List Byte
deriving DecidableEq, Repr

/-- A received codeword: how many symbols were in error, and the flit it spells when at most 15 were (R387). -/
structure Codeword where
  symErrors : Nat
  flit : Flit
deriving DecidableEq, Repr

/-- The fields of a CONTROL flit (R392). -/
structure Control where
  rxGood : Nat
  txSet : Nat
  newSet : Nat
  switchSeq : Nat
  switchValid : Bool
deriving DecidableEq, Repr

/-- A symbol of a stored HBM codeword that has been upset: symbol 0–67 and the bits that flipped (R270). -/
structure Upset where
  symbol : Nat
  bits : Byte
deriving DecidableEq, Repr

/-- What one participant answers during the creation of a cloche group (R245, R248, R249). -/
structure JoinAnswer where
  bed : Nat
  plane : Nat
  feed : Nat
  variant : Nat
  digest : BitVec 32
  status : Nat
  holder : Bool
  /-- false: the participant has not answered, and a holder's group record describes it -/
  answered : Bool
  /-- the holder's record marks it MISSING; its stamp there -/
  missing : Bool
  stamp : Nat
deriving DecidableEq, Repr

/-- What one other participant answers to the checks of a restore (R257): whether all its writes into its shard have settled, the stamps
that it knows by member position, a ledger entry for STEP with a valid CRC, and the restore of the group that it knows to run, as
(LOST_MASK, image). -/
structure RestoreAnswer where
  bed : Nat
  plane : Nat
  settled : Bool
  stamps : List (Nat × Nat)
  entry : Readback
  running : Option (Nat × Bool)
deriving DecidableEq, Repr

/-- The area that holds an uncorrectable SRAM word (R488): a packet of the buffer by its number, a retained copy by its number, a
reduction-memory slot of a context, or the context store entry of a context. -/
inductive SramArea where
  | packet (id : Nat)
  | retained (id : Nat)
  | trunkRetained (id : Nat)
  | slot (ctx : CtxId)
  | context (ctx : CtxId)
deriving DecidableEq, Repr

/-- Who waits on a sync counter (R424): a descriptor ring, or a member by downlink port and tag. -/
inductive Waiter where
  | ring (r : Nat)
  | member (port tag : Nat)
deriving DecidableEq, Repr

/-- A TOD_IN message of 16 bytes (R448). -/
abbrev TodMsg := List Byte

/-- What the boot ROM's coherent reads of an image returned, and whether its Ed448ph signature was read in full (R539). -/
abbrev ImageBytes := Option (List Byte)

/-- Commands of the block. -/
inductive Instr where
  -- registers (00)
  | registerWrite (sp : RegSpace) (off : Nat) (v : Word)
  | lowerHalfWrite (off : Nat) (v : BitVec 32)
  | upperHalfWrite (off : Nat) (v : BitVec 32)
  | lowerHalfRead (off : Nat)
  | rcRead (off : Nat) (upper : Bool)
  | misalignedAccess (off : Nat) (write : Bool)
  -- placement and hello (01, 09)
  | placementCommit
  | helloReceived (port : Fin 262) (p : Packet)
  | helloPeriodExpiry
  -- communicators and collectives (02)
  | commCreate (ring : Fin 65536) (list experts : Readback)
  | commDestroy (ring : Fin 65536)
  | commQuery (ring : Fin 65536)
  | allReduce (ring : Fin 65536)
  | reduceScatter (ring : Fin 65536)
  | allGather (ring : Fin 65536)
  | broadcast (ring : Fin 65536)
  | reduceUpdateBcast (ring : Fin 65536)
  | dispatch (ring : Fin 65536)
  | combine (ring : Fin 65536)
  | memberFence (ring : Fin 65536)
  | memberUnfence (ring : Fin 65536)
  | rmQuota (ring : Fin 65536)
  | quotaSetAside (comm : Nat)
  | contextAdmit (pool : Option Nat)
  | admissionTimeout (c : CollId)
  | contribReceived (port : Fin 256) (p : Packet)
  | spillReadbackDone (x : CtxId) (level index : Nat)
  | furrowGroupComplete (f : Fin 64) (bad : List Mismatch)
  | retainSpaceFreed
  | furrowRetire (f : Fin 64)
  | contextMoveDone (f : Fin 64)
  | furrowWaitTimeout (c : CollId)
  | furrowDisable (f : Fin 64)
  | furrowGated (f : Fin 64)
  | furrowEnable (f : Fin 64)
  | furrowInjectArm (f : Fin 64) (v : Word)
  | ackReceived (port : Fin 256) (p : Packet)
  | retentionTimeout (id : Nat) (addr : Nat)
  | contribDeadline (c : CollId) (addr : Nat)
  | trunkRetentionTimeout (id : Nat)
  | resultMissingTimeout (c : CollId) (addr : Nat)
  | verdictPassStart (c : CollId)
  | recordsReceived (port : Fin 262) (p : Packet)
  | endSend (c : CollId)
  | collectiveComplete (c : CollId)
  | columnReceived (port : Fin 262) (p : Packet)
  | tresultReceived (port : Fin 262) (p : Packet)
  | tackReceived (port : Fin 262) (p : Packet)
  | landedPacketRelease (port : Fin 262) (tc : Fin 8)
  -- trellis (06)
  | invocationStart (e : Fin 16)
  | bundleIssue (e : Fin 16)
  | streamComplete (e : Fin 16) (n : Nat)
  | icacheFillDone (e : Fin 16)
  | invocationLimit (e : Fin 16)
  | phase4End (c : CollId)
  | phase4Timeout (c : CollId)
  | progLoad (ring : Fin 65536)
  | progLoadDone (program : Nat) (image : Readback) (loadNs : Nat)
  | progUnload (ring : Fin 65536)
  | progUnloadDone (program : Nat)
  | clearFault (e : Fin 16)
  | engineDisable (e : Fin 16)
  | engineEnable (e : Fin 16)
  -- cloche (07)
  | clocheGroupCreate (ring : Fin 65536) (list : Readback)
  | groupJoinResolve (group : Nat) (answers : List JoinAnswer)
  | deltaReceived (port : Fin 262) (p : Packet)
  | stampReceived (port : Fin 262) (p : Packet)
  | ledgerWrite (ring : Fin 65536) (entry : Readback)
  | ledgerReceived (port : Fin 262) (p : Packet)
  | clocheRestore (ring : Fin 65536) (record image : Readback) (answers : List RestoreAnswer)
  | stripeReceived (port : Fin 262) (p : Packet)
  | restoreComplete (group : Nat)
  | clocheGroupDestroy (ring : Fin 65536)
  | clocheQuery (ring : Fin 65536)
  -- HBM (08)
  | scrubRead (ch : Fin 768) (upsets : List Upset)
  | channelAccessTimeout (ch : Fin 768)
  | channelMapout (ch : Fin 768)
  | slotRemapDone (slot : Nat)
  | migrationUnit (slot unit : Nat)
  | channelInjectArm (ch : Fin 768) (v : Word)
  | hbmStartDone (failed : List Nat)
  | selfRefreshEnter (stack : Fin 12)
  | apertureRead (addr len : Nat) (upsets : List Upset)
  | apertureWrite (addr : Nat) (data : List Byte)
  -- switch core (09, 10)
  | amoReqReceived (port : Fin 256) (p : Packet)
  | ptReceived (port : Fin 262) (p : Packet) (crcOk : Bool)
  | relayReceived (port : Fin 256) (p : Packet) (crcOk : Bool)
  | linkReceived (port : Fin 262) (p : Packet)
  | linkCreditTimer (port : Fin 262)
  | landRelease (port : Fin 262) (tc : Fin 8)
  | schedulerTick
  | sendOpportunity (port : Fin 262)
  | transmitComplete (port : Fin 262)
  | sieveEnable (v : Word)
  | sieveConsume (v : Word)
  | creditResendTimer (x : CtxId)
  -- routing and hoses (11)
  | trunkStateReceived (port : Fin 262) (p : Packet)
  | trunkStateSend
  | hoseOpen (ring : Fin 65536)
  | hoseSetupReceived (port : Fin 262) (p : Packet)
  | hoseReplyReceived (port : Fin 262) (p : Packet)
  | hoseSetupTimeout (h : Fin 4096)
  | hoseClose (ring : Fin 65536)
  | hoseTearSend (h : Fin 4096)
  | hoseTearReceived (port : Fin 262) (p : Packet)
  | hoseCloseTimeout (h : Fin 4096)
  | hoseOrphanTimeout (h : Fin 4096)
  | hoseDataReceived (port : Fin 262) (p : Packet) (crcOk : Bool)
  | hoseMarkReceived (port : Fin 262) (p : Packet)
  | hoseWindowReceived (port : Fin 262) (p : Packet)
  | hoseMarkTimer (h : Fin 4096)
  | hoseWindowTimer (h : Fin 4096)
  -- lanes (12)
  | laneEnable (l : Fin 576)
  | laneDisable (l : Fin 576)
  | laneSignalDetect (l : Fin 576)
  | laneCwLock (l : Fin 576)
  | laneTrainTimeout (l : Fin 576)
  | portForm (lp : Fin 263)
  | flitReceived (l : Fin 576) (c : Codeword)
  | controlFlitReceived (l : Fin 576) (c : Control)
  | controlFlitTimer (lp : Fin 263)
  | laneSignalLoss (l : Fin 576)
  | laneMarginCheck (l : Fin 576) (avgSymbols : Nat)
  | laneSwitchOffTimeout (l : Fin 576)
  | laneReadd (l : Fin 576)
  | laneClearHold (l : Fin 576)
  | lightIdleEnter (lp : Fin 263)
  | lightIdleBeacon (lp : Fin 263)
  | lightIdleExit (lp : Fin 263)
  | deepIdleEnter (port : Fin 256)
  | deepIdleWake (port : Fin 256)
  | deepCheckTimer (port : Fin 256)
  | laneInjectArm (l : Fin 576) (v : Word)
  | refSourceChange (v : Word)
  | refSourceLost
  | refSourceReturn (offsetPpb : Int) (spread : Bool)
  -- sync and time (13)
  | syncSignal (ring : Fin 65536)
  | syncWait (ring : Fin 65536)
  | syncFence (ring : Fin 65536)
  | syncCancel (ring : Fin 65536)
  | syncOpReceived (port : Fin 256) (p : Packet)
  | syncWaitTimeout (w : Waiter)
  | syncValWrite (v : Word)
  | syncDeadlockDetect (g : Fin 256)
  | timeSyncTimer
  | delayMeasureTimer
  | timeSyncReceived (port : Fin 262) (p : Packet)
  | delayReqReceived (port : Fin 262) (p : Packet) (turnaroundPs : Nat)
  | delayRspReceived (port : Fin 262) (p : Packet)
  | timeApplySet
  | ppsInEdge
  | todInReceived (msg : TodMsg)
  | ppsOutEdge
  | todOutSend
  | timeSourceTimeout
  | noMasterTimeout
  -- Holm link, run control, rings, interrupts (14)
  | assign (regBase hbmBase : Nat)
  | holmAckReceived (seq : Nat) (lost : Bool)
  | holmAckTimeout
  | runStop (fn : Fin 5)
  | runStopDone (fn : Fin 5)
  | runStart (fn : Fin 5)
  | runStartDone (fn : Fin 5)
  | drDoorbell (r : Fin 65536) (v : Word)
  | ringEnable (r : Fin 65536)
  | ringDisable (r : Fin 65536)
  | descriptorFetchDone (r : Fin 65536) (first : Nat) (data : Option (List (List Word)))
  | descriptorAccept (r : Fin 65536)
  | nop (ring : Fin 65536)
  | cplRingEnable (c : Fin 4096)
  | cplRingDisable (c : Fin 4096)
  | crDoorbell (c : Fin 4096) (v : Word)
  | cplRecordWrite (c : Fin 4096)
  | cplStallTimeout (c : Fin 4096)
  | irqCoalTimeout (c : Fin 4096)
  | irqSend
  | irqMaskWrite (v : Word)
  -- faults, resets, headless, twin (15)
  | faultAssert (src : Fin 22) (unit detail : Nat)
  | faultPairBroken (src : Fin 22)
  | faultGraceExpiry
  | faultClear
  | sramUeDetected (area : SramArea)
  | internalParityError (off : Nat)
  | faultLogRead (ring : Fin 65536)
  | warmReset (v : Word)
  | functionReset (fn : Fin 5)
  | linkReset (port : Nat)
  | heartbeatTimeout
  | headlessResume
  | twinDigestSend
  | twinDigestReceived (port : Fin 256) (p : Packet)
  | twinKeyTimeout (n : Nat)
  | twinEnable (v : Word)
  -- power and thermal (16)
  | powerOn (mv : Nat)
  | powerOnDone (mv v0 v1 esrMohm : Nat)
  | coldReset
  | coldResetRelease (mv v0 v1 esrMohm : Nat)
  | powerLoss (mv : Nat)
  | overVoltage (mv : Nat)
  | overVoltageRecovery (mv : Nat)
  | brownoutStart (mv : Nat) (duty : Nat)
  | brownoutEnd (mv : Nat) (durationUs : Nat)
  | holdupRecheck
  | holdupPeriodExpiry
  | holdupMeasureDone (v0 v1 esrMohm : Nat)
  | powerLimitSample (watts mv : Nat) (duty : Nat)
  | thermalThrottle (group : Fin 4) (tempC : Nat)
  | throttleStep (temps : List Nat)
  | thermalTrip (group : Fin 4) (tempC : Nat)
  | hardTrip (group : Fin 4) (tempC : Nat)
  | sbWarmRequest (v : Word)
  | dormantRequest (v : Word)
  | wakeRequest (v : Word)
  | sbEventsClear (v : Word)
  -- boot and identity (17)
  | imageLoad (v : Word)
  | imageLoadDone (image : ImageBytes) (loadUs : Nat)
  | stewardWatchdogExpiry
  | attest (ring : Fin 65536)
  | certRead (ring : Fin 65536)
  -- rows that the table lists last
  | laneCdrLock (l : Fin 576)
  | holmAckTimer
  | ppsOutPulseEnd
  | warmResetDone
  | functionResetDone
  | i3cDynamicAddress (a : Nat)
  | vinThresholdCrossing (mv : Nat)
deriving DecidableEq, Repr

end Sys2Proof
end

