-- ==== Sys2Proof/Decode.lean ====
section
/-! DEFINITION. The block takes commands, not instruction words: no row of spec/opcode_table.json gives bits. -/

namespace Sys2Proof

/-- The command that a word spells by the bits of the table. No row gives bits, so no word spells one. -/
def decodeTableWord (_nbits _w : Nat) : Option Instr := none

end Sys2Proof
end

