-- ==== Sys2Proof/Machine/Bits.lean ====
section
/-! DEFINITION. Bit fields, byte strings and maps: the helpers by which every other file names a field of a word, a byte range of
a packet or record, and an entry of a sparse table. -/

namespace Sys2Proof.Machine

/-- The field of width `w` at bit `lo` of `x`. -/
def bits (x lo w : Nat) : Nat := x / 2 ^ lo % 2 ^ w

/-- `x` with the field of width `w` at bit `lo` replaced by `v` modulo `2^w`. -/
def setBits (x lo w v : Nat) : Nat :=
  x % 2 ^ lo + v % 2 ^ w * 2 ^ lo + x / 2 ^ (lo + w) * 2 ^ (lo + w)

/-- Bit `i` of `x`. -/
def bitOf (x i : Nat) : Bool := x / 2 ^ i % 2 == 1

/-- A bit as a number. -/
def b2n (b : Bool) : Nat := if b then 1 else 0

/-- A value that counts up to `2^w − 1` and stays there. -/
def satAdd (w x n : Nat) : Nat := min (x + n) (2 ^ w - 1)

/-- `x` rounded up to a multiple of `m`. -/
def roundUp (x m : Nat) : Nat := (x + m - 1) / m * m

/-- Quotient rounded up. -/
def ceilDiv (x m : Nat) : Nat := (x + m - 1) / m

/-- The low `w` bits of `x` read as a two's-complement number. -/
def asInt (x w : Nat) : Int := if x % 2 ^ w < 2 ^ (w - 1) then (x % 2 ^ w : Nat) else (x % 2 ^ w : Nat) - (2 ^ w : Int)

/-- An integer as `w` two's-complement bits. -/
def ofInt (x : Int) (w : Nat) : Nat := (x % (2 ^ w : Int)).toNat

/-- Indices of the bits of `x` below `n` that are 1, in ascending order. -/
def bitIdx (x n : Nat) : List Nat := (List.range n).filter (bitOf x ·)

/-- The number of bits of `x` below `n` that are 1. -/
def popCount (x n : Nat) : Nat := (bitIdx x n).length

/-- The number whose set bits are those of `l`. -/
def ofBitIdx (l : List Nat) : Nat := l.foldl (fun a i => if bitOf a i then a else a + 2 ^ i) 0

/-- The lowest natural below `n` that satisfies `p`. -/
def firstBelow (n : Nat) (p : Nat → Bool) : Option Nat := (List.range n).find? p

/-- `n` bytes of `x`, least significant first. -/
def leBytes : Nat → Nat → List Byte
  | 0, _ => []
  | n + 1, x => BitVec.ofNat 8 x :: leBytes n (x / 256)

/-- The number that a byte string spells, least significant byte first. -/
def ofLE : List Byte → Nat
  | [] => 0
  | b :: l => b.toNat + 256 * ofLE l

/-- The `n` bytes at offset `o` of a byte string; bytes past its end are zero. -/
def bytesAt (l : List Byte) (o n : Nat) : List Byte :=
  let t := (l.drop o).take n
  t ++ List.replicate (n - t.length) 0

/-- The number spelt by the `n` bytes at offset `o`. -/
def natAt (l : List Byte) (o n : Nat) : Nat := ofLE (bytesAt l o n)

/-- A byte string with the bytes at offset `o` replaced; its length is kept. -/
def patch (l : List Byte) (o : Nat) (d : List Byte) : List Byte :=
  (l.take o ++ d ++ l.drop (o + d.length)).take l.length

/-- A byte string padded with zeros to `n` bytes, or cut to `n` bytes. -/
def toLen (n : Nat) (l : List Byte) : List Byte := (l ++ List.replicate (n - l.length) 0).take n

/-- `n` bytes cut into pieces of `k` bytes. -/
def piecesOf (k : Nat) : Nat → List Byte → List (List Byte)
  | 0, _ => []
  | n + 1, l => l.take k :: piecesOf k n (l.drop k)

/-- The bytes of a list of words. -/
def wordBytes (ws : List Word) : List Byte := ws.flatMap (fun w => leBytes 8 w.toNat)

/-- The words of a byte string, eight bytes each. -/
def bytesWords (n : Nat) (l : List Byte) : List Word :=
  (List.range n).map (fun i => BitVec.ofNat 64 (natAt l (8 * i) 8))

/-- Element `i` of a list of words, zero past its end. -/
def wordAt (ws : List Word) (i : Nat) : Nat := ((ws[i]?).getD 0).toNat

/-- The list without its element `i`. -/
def dropAt {α : Type} (l : List α) (i : Nat) : List α := l.take i ++ l.drop (i + 1)

/-- The first element that satisfies `p`, and the list without it. -/
def takeFirst {α : Type} (p : α → Bool) : List α → Option (α × List α)
  | [] => none
  | a :: l => if p a then some (a, l) else (takeFirst p l).map (fun r => (r.1, a :: r.2))

/-- The list with `f` applied to its first element that satisfies `p`. -/
def mapFirst {α : Type} (p : α → Bool) (f : α → α) : List α → List α
  | [] => []
  | a :: l => if p a then f a :: l else a :: mapFirst p f l

/-- The list with `f` applied to every element that satisfies `p`. -/
def mapIf {α : Type} (p : α → Bool) (f : α → α) (l : List α) : List α := l.map (fun a => if p a then f a else a)

/-- Sum of a list of numbers. -/
def sumOf (l : List Nat) : Nat := l.foldl (· + ·) 0

/-- Largest of a list of numbers, 0 of none. -/
def maxOf (l : List Nat) : Nat := l.foldl max 0

/-- A sparse table: what index `k` holds, where an unlisted index holds `d k`. -/
def Map.get {V : Type} (d : Nat → V) : List (Nat × V) → Nat → V
  | [], k => d k
  | e :: l, k => if e.1 = k then e.2 else Map.get d l k

/-- A sparse table without its entry for `k`. -/
def Map.erase {V : Type} (l : List (Nat × V)) (k : Nat) : List (Nat × V) := l.filter (fun e => e.1 != k)

/-- Inserts an entry before the first larger index. -/
def Map.ins {V : Type} : List (Nat × V) → Nat → V → List (Nat × V)
  | [], k, v => [(k, v)]
  | e :: l, k, v => if k < e.1 then (k, v) :: e :: l else e :: Map.ins l k v

/-- A sparse table with `v` at index `k`, in canonical form: a value that an unlisted index holds anyway is not listed. -/
def Map.put {V : Type} [DecidableEq V] (d : Nat → V) (l : List (Nat × V)) (k : Nat) (v : V) : List (Nat × V) :=
  if v = d k then Map.erase l k else Map.ins (Map.erase l k) k v

/-- Canonical form: indices strictly rising, and no entry equal to what an unlisted index holds. -/
def Map.wf {V : Type} [DecidableEq V] (d : Nat → V) : List (Nat × V) → Bool
  | [] => true
  | e :: l => decide (e.2 ≠ d e.1) && l.all (fun e' => decide (e.1 < e'.1)) && Map.wf d l

/-- Byte memory: a canonical list of cells whose unlisted addresses read as zero. -/
abbrev Memory := List (Nat × Byte)

/-- The canonical form of a byte memory. -/
abbrev Memory.wf (m : Memory) : Bool := Map.wf (fun _ => 0) m

/-- One byte. -/
def Memory.byte (m : Memory) (a : Nat) : Byte := Map.get (fun _ => 0) m a

/-- One byte stored. -/
def Memory.setByte (m : Memory) (a : Nat) (v : Byte) : Memory := Map.put (fun _ => 0) m a v

/-- `n` bytes from address `a` on. -/
def Memory.read (m : Memory) (a : Nat) : Nat → List Byte
  | 0 => []
  | n + 1 => m.byte a :: Memory.read m (a + 1) n

/-- A byte string stored from address `a` on. -/
def Memory.write (m : Memory) (a : Nat) : List Byte → Memory
  | [] => m
  | b :: l => Memory.write (m.setByte a b) (a + 1) l

end Sys2Proof.Machine
end

