-- ==== Sys2Proof/Machine/Formats.lean ====
section
/-! DEFINITION. Number formats, scales and conversions (spec 03): exact values, one rounding, the conversion table, the block
encoding of results, the reduction tree and the side reductions. -/

namespace Sys2Proof.Machine

/-- An element format: fraction bits, bias, largest finite code without sign, code of infinity if the format has one, the default
NaN, the width of its code and the bytes that an element takes in a chunk (R97, R98, R101). -/
structure Fmt where
  frac : Nat
  bias : Nat
  maxCode : Nat
  infCode : Option Nat
  nan : Nat
  width : Nat
  bytes : Nat
deriving DecidableEq, Repr

def e4m3 : Fmt := ⟨3, 7, 0x7E, none, 0x7F, 8, 1⟩
def e5m2 : Fmt := ⟨2, 15, 0x7B, some 0x7C, 0x7F, 8, 1⟩
def bf16 : Fmt := ⟨7, 127, 0x7F7F, some 0x7F80, 0x7FC0, 16, 2⟩
def b32 : Fmt := ⟨23, 127, 0x7F7FFFFF, some 0x7F800000, 0x7FC00000, 32, 4⟩
def s19 : Fmt := ⟨10, 127, 0x3FBFF, some 0x3FC00, 0x3FE00, 19, 4⟩

/-- The format of a code of R89; FP8_ANY and invalid codes have none. -/
def fmtOf : Nat → Option Fmt
  | 1 => some e4m3
  | 2 => some e5m2
  | 4 => some bf16
  | 5 => some b32
  | 6 => some s19
  | _ => none

/-- An exact value: not a number, an infinity, or sign and magnitude `n / d × 2^e`. -/
inductive Val where
  | nan
  | inf (neg : Bool)
  | fin (neg : Bool) (n d : Nat) (e : Int)
deriving DecidableEq, Repr

/-- The sign bit of a code. -/
def Fmt.neg (f : Fmt) (c : Nat) : Bool := bitOf c (f.width - 1)

/-- A code without its sign bit. -/
def Fmt.mag (f : Fmt) (c : Nat) : Nat := c % 2 ^ (f.width - 1)

/-- The exact value of a code (R97, R98). -/
def Fmt.value (f : Fmt) (c : Nat) : Val :=
  let m := f.mag c
  let s := f.neg c
  if m ≤ f.maxCode then
    let ex := m / 2 ^ f.frac
    let fr := m % 2 ^ f.frac
    if ex = 0 then .fin s fr 1 (1 - (f.bias : Int) - f.frac)
    else .fin s (2 ^ f.frac + fr) 1 ((ex : Int) - f.bias - f.frac)
  else if f.infCode = some m then .inf s
  else .nan

/-- `floor (log2 (n / d × 2^e))` of a positive magnitude. -/
def log2Floor (n d : Nat) (e : Int) : Int :=
  let a : Int := (Nat.log2 n : Int) - Nat.log2 d
  let le : Bool := if 0 ≤ a then decide (d * 2 ^ a.toNat ≤ n) else decide (d ≤ n * 2 ^ (-a).toNat)
  (if le then a else a - 1) + e

/-- How a conversion rounds. -/
inductive Round where
  | nearest | zero
deriving DecidableEq, Repr

/-- `n / d × 2^e` in units of `2^u`: quotient, numerator of the remainder, and denominator. -/
def inUnits (n d : Nat) (e u : Int) : Nat × Nat × Nat :=
  let num := n * 2 ^ (e - u).toNat
  let den := d * 2 ^ (u - e).toNat
  (num / den, num % den, den)

/-- A quotient rounded by its remainder. -/
def roundQ (r : Round) (q rem den : Nat) : Nat :=
  match r with
  | .zero => q
  | .nearest => if den < 2 * rem ∨ (2 * rem = den ∧ q % 2 = 1) then q + 1 else q

/-- The magnitude code of a positive magnitude in a format without an upper limit of the exponent (R97, R116): a value beyond the
range has a code above `maxCode`. -/
def Fmt.code (f : Fmt) (r : Round) (n d : Nat) (e : Int) : Nat :=
  if n = 0 then 0 else
  let k := max (log2Floor n d e) (1 - (f.bias : Int))
  let u := k - f.frac
  let q := inUnits n d e u
  ((k + f.bias - 1).toNat) * 2 ^ f.frac + roundQ r q.1 q.2.1 q.2.2

/-- The outcome of one conversion: the code, whether a finite value saturated (R118), whether the result is not finite (R119). -/
structure Conv where
  code : Nat
  sat : Bool
  nonfinite : Bool
deriving DecidableEq, Repr

/-- A code with its sign bit. -/
def Fmt.sign (f : Fmt) (neg : Bool) (m : Nat) : Nat := if neg then m + 2 ^ (f.width - 1) else m

/-- The conversion table (R116): `toInf` is E5M2_INF for conversions to E5M2, and true for the arithmetic of R109, which does not
saturate. -/
def convert (f : Fmt) (r : Round) (toInf : Bool) : Val → Conv
  | .nan => ⟨f.nan, false, true⟩
  | .inf s =>
    match f.infCode with
    | some c => ⟨f.sign s c, false, true⟩
    | none => ⟨f.nan, false, true⟩
  | .fin s n d e =>
    let c := f.code r n d e
    if c ≤ f.maxCode then ⟨f.sign s c, false, false⟩
    else
      match toInf, f.infCode with
      | true, some i => ⟨f.sign s i, false, true⟩
      | _, _ => ⟨f.sign s f.maxCode, true, false⟩

/-- Product of exact values; the sign of a zero product is the exclusive OR (R111). -/
def Val.mul : Val → Val → Val
  | .nan, _ => .nan
  | _, .nan => .nan
  | .inf s, .inf t => .inf (xor s t)
  | .inf s, .fin t n _ _ => if n = 0 then .nan else .inf (xor s t)
  | .fin s n _ _, .inf t => if n = 0 then .nan else .inf (xor s t)
  | .fin s n d e, .fin t n' d' e' => .fin (xor s t) (n * n') (d * d') (e + e')

/-- Quotient of an exact value by a positive normal scale (R113, R114). -/
def Val.div : Val → Val → Val
  | .nan, _ => .nan
  | .inf s, _ => .inf s
  | .fin s n d e, .fin t n' d' e' => .fin (xor s t) (n * d') (d * n') (e - e')
  | .fin _ _ _ _, _ => .nan

/-- An exact value times `2^k`. -/
def Val.scale (k : Int) : Val → Val
  | .fin s n d e => .fin s n d (e + k)
  | v => v

/-- The negated value. -/
def Val.negate : Val → Val
  | .nan => .nan
  | .inf s => .inf (!s)
  | .fin s n d e => .fin (!s) n d e

/-- The magnitude. -/
def Val.abs : Val → Val
  | .nan => .nan
  | .inf _ => .inf false
  | .fin _ n d e => .fin false n d e

/-- Exact sum of two finite values, with the zero signs of R109. -/
def Val.add : Val → Val → Val
  | .nan, _ => .nan
  | _, .nan => .nan
  | .inf s, .inf t => if s = t then .inf s else .nan
  | .inf s, .fin _ _ _ _ => .inf s
  | .fin _ _ _ _, .inf t => .inf t
  | .fin s n d e, .fin t n' d' e' =>
    let u := min e e'
    let a : Int := n * d' * 2 ^ (e - u).toNat
    let b : Int := n' * d * 2 ^ (e' - u).toNat
    let x : Int := (if s then -a else a) + (if t then -b else b)
    if x = 0 then .fin (s && t) 0 1 0
    else .fin (decide (x < 0)) x.natAbs (d * d') u

/-- Whether a value is finite. -/
def Val.finite : Val → Bool
  | .fin _ _ _ _ => true
  | _ => false

/-- Whether a value is zero. -/
def Val.isZero : Val → Bool
  | .fin _ n _ _ => n == 0
  | _ => false

/-- Whether magnitude `a` is below magnitude `b`, both finite. -/
def Val.magLt : Val → Val → Bool
  | .fin _ n d e, .fin _ n' d' e' =>
    let u := min e e'
    decide (n * d' * 2 ^ (e - u).toNat < n' * d * 2 ^ (e' - u).toNat)
  | _, _ => false

/-- The value of a binary32 code. -/
def f32Val (x : F32) : Val := b32.value x.toNat

/-- A value rounded once to binary32 as arithmetic does: beyond the range gives infinity (R109). -/
def toF32 (v : Val) : F32 := BitVec.ofNat 32 (convert b32 .nearest true v).code

/-- Whether a binary32 code is an infinity or NaN. -/
def f32Nonfinite (x : F32) : Bool := bits x.toNat 23 8 == 255

/-- The addition of the reduction (R109). -/
def addB32 (a b : F32) : F32 := toF32 ((f32Val a).add (f32Val b))

/-- The product of R111 and the square of R126: rounded once, beyond the range gives infinity. -/
def mulB32 (a b : F32) : F32 := toF32 ((f32Val a).mul (f32Val b))

/-- A binary32 code with the sign changed. -/
def negB32 (a : F32) : F32 := a ^^^ 0x80000000#32

/-- A positive, finite, normal binary32 value (R102, R106). -/
def coarseOk (c : Nat) : Bool := decide (0 < bits c 23 8) && decide (bits c 23 8 < 255) && decide (c < 2 ^ 31)

/-- The exponent of an E8M0 block scale; code 0xFF is not a number (R104). -/
def e8m0 (c : Nat) : Option Int := if c % 256 = 255 then none else some ((c % 256 : Nat) - 127 : Int)

/-- Decoding one element (R107): code, format, block scale code, coarse scale. -/
def decodeElem (f : Fmt) (code scale coarse : Nat) : Conv :=
  if !coarseOk coarse then ⟨b32.nan, false, true⟩ else
  match e8m0 scale with
  | none => ⟨b32.nan, false, true⟩
  | some k =>
    match f.value code with
    | .nan => ⟨b32.nan, false, true⟩
    | .inf s => ⟨b32.sign s 0x7F800000, false, true⟩
    | v => convert b32 .nearest false ((v.scale k).mul (b32.value coarse))

/-- The code of element `j` of a payload (R99, R101): an S19 container gives its upper 19 bits. -/
def elemCode (f : Fmt) (payload : List Byte) (j : Nat) : Nat :=
  let c := natAt payload (j * f.bytes) f.bytes
  if f.width = 19 then c / 2 ^ 13 else c

/-- The bytes of an element code (R99, R101). -/
def elemBytes (f : Fmt) (c : Nat) : List Byte :=
  if f.width = 19 then leBytes 4 (c * 2 ^ 13) else leBytes f.bytes c

/-- Elements of a contribution chunk (R101). -/
def Fmt.elems (f : Fmt) : Nat := 4096 / f.bytes

/-- A decoded run of elements: the binary32 values, how many saturated, and whether any is not finite. -/
structure Run where
  vals : List F32
  sats : Nat
  nonfinite : Bool
deriving DecidableEq, Repr

/-- Conversions gathered into a run. -/
def runOf (l : List Conv) : Run :=
  ⟨l.map (fun c => BitVec.ofNat 32 c.code), (l.filter (·.sat)).length, l.any (·.nonfinite)⟩

/-- Elements `lo` to `lo + n − 1` of a chunk decoded (R107): block scales apply to the 8-bit formats (R103). -/
def decodeRun (f : Fmt) (scales payload : List Byte) (coarse lo n : Nat) : Run :=
  runOf ((List.range n).map (fun i =>
    let j := lo + i
    decodeElem f (elemCode f payload j) (if f.bytes = 1 then natAt scales (j / 32) 1 else 127) coarse))

/-- A run of default NaNs (R102, R105). -/
def nanRun (n : Nat) : Run := ⟨List.replicate n (BitVec.ofNat 32 b32.nan), 0, true⟩

/-- Which entry modes a communicator has: S19_TRUNC and E5M2_INF (R87, R117). -/
structure EncMode where
  s19Trunc : Bool
  e5m2Inf : Bool
deriving DecidableEq, Repr

/-- The rounding of a conversion to a format for a communicator (R116, R117). -/
def roundOf (m : EncMode) (f : Fmt) : Round := if f.width = 19 && m.s19Trunc then .zero else .nearest

/-- One value converted for a communicator (R116, R117). -/
def convertFor (m : EncMode) (f : Fmt) (v : Val) : Conv :=
  convert f (roundOf m f) (f.width == 8 && f.frac == 2 && m.e5m2Inf) v

/-- The effective coarse scale of a result (R106). -/
def effScale (outScale : Nat) : Nat := if outScale = 0 then 0x3F800000 else outScale

/-- The larger of two finite magnitudes; a value that is not finite takes no part (R114, R179). -/
def maxMag (a b : Val) : Val := if b.finite && a.magLt b then b.abs else a

/-- `floor (log2 |v|)` of a nonzero finite value. -/
def Val.log2 : Val → Int
  | .fin _ n d e => log2Floor n d e
  | _ => 0

/-- The largest finite value of a format. -/
def Fmt.maxVal (f : Fmt) : Val := f.value f.maxCode

/-- Clamp of a block exponent (R114, R179). -/
def clampE (e : Int) : Int := max (-127) (min 127 e)

/-- The block exponent of R114 for values already divided by the coarse scale; `emax` is 8 for E4M3 and 15 for E5M2. -/
def blockExp (f : Fmt) (emax : Int) (q : List Val) : Int :=
  let a := q.foldl maxMag (.fin false 0 1 0)
  if a.isZero then 0 else
  let e := a.log2 - emax
  let past := match a.scale (-e) with
    | .fin _ n d x => decide (f.maxCode < f.code .nearest n d x)
    | _ => false
  clampE (if past then e + 1 else e)

/-- An encoded result payload: block scales (8-bit formats), payload, saturated elements, non-finite flag. -/
structure Encoded where
  scales : List Byte
  payload : List Byte
  sats : Nat
  nonfinite : Bool
deriving DecidableEq, Repr

/-- One block of 32 values in an 8-bit format (R114). -/
def encodeBlock (m : EncMode) (f : Fmt) (scale : Nat) (v : List F32) : Encoded :=
  let q := v.map (fun x => (f32Val x).div (b32.value scale))
  let e := blockExp f (if f.frac = 3 then 8 else 15) q
  let cs := q.map (fun x => convertFor m f (x.scale (-e)))
  ⟨[BitVec.ofNat 8 (e + 127).toNat], cs.flatMap (fun c => elemBytes f c.code), (cs.filter (·.sat)).length, cs.any (·.nonfinite)⟩

/-- Consecutive blocks of 32 values. -/
def encodeBlocks (m : EncMode) (f : Fmt) (scale : Nat) : Nat → List F32 → Encoded
  | 0, _ => ⟨[], [], 0, false⟩
  | n + 1, v =>
    let a := encodeBlock m f scale (v.take 32)
    let b := encodeBlocks m f scale n (v.drop 32)
    ⟨a.scales ++ b.scales, a.payload ++ b.payload, a.sats + b.sats, a.nonfinite || b.nonfinite⟩

/-- Result values encoded under R113 or R114. -/
def encodeRun (m : EncMode) (f : Fmt) (outScale : Nat) (v : List F32) : Encoded :=
  let scale := effScale outScale
  if f.bytes = 1 then encodeBlocks m f scale (ceilDiv v.length 32) v
  else
    let cs := v.map (fun x => convertFor m f ((f32Val x).div (b32.value scale)))
    ⟨[], cs.flatMap (fun c => elemBytes f c.code), (cs.filter (·.sat)).length, cs.any (·.nonfinite)⟩

/-- A node of the reduction: an absent input passes the other through (R121). -/
def nodeF (a b : Option F32) : Option F32 :=
  match a, b with
  | none, y => y
  | x, none => x
  | some x, some y => some (addB32 x y)

/-- One level of the tree. -/
def reduceLevel : List (Option F32) → List (Option F32)
  | a :: b :: l => nodeF a b :: reduceLevel l
  | [a] => [nodeF a none]
  | [] => []

/-- Levels of the tree, as many as the fuel says. -/
def reduceLevels : Nat → List (Option F32) → List (Option F32)
  | 0, l => l
  | n + 1, l => reduceLevels n (reduceLevel l)

/-- The number of levels of a tree over `m` leaves. -/
def levelsOf (m : Nat) : Nat := if m ≤ 1 then 0 else Nat.log2 (m - 1) + 1

/-- The reduction of a list of leaves, with +0 for none (R121). -/
def reduceTree (l : List (Option F32)) : F32 :=
  match reduceLevels (levelsOf l.length) l with
  | some v :: _ => v
  | _ => 0

/-- Element-wise node over two columns. -/
def nodeCol (a b : List F32) : List F32 := List.zipWith addB32 a b

/-- The square of the side sum (R148). -/
def squareF (v : F32) : F32 := mulB32 v v

/-- Largest magnitude; a NaN anywhere gives the default NaN (R149). -/
def amaxF (a b : F32) : F32 :=
  match f32Val a, f32Val b with
  | .nan, _ => BitVec.ofNat 32 b32.nan
  | _, .nan => BitVec.ofNat 32 b32.nan
  | .inf _, _ => 0x7F800000
  | _, .inf _ => 0x7F800000
  | x, y => if x.magLt y then b &&& 0x7FFFFFFF#32 else a &&& 0x7FFFFFFF#32

/-- The largest magnitude of a list of values, +0 of none. -/
def amaxRun (l : List F32) : F32 := l.foldl amaxF 0

/-- The side sum of one chunk position or source member (R149 level 1). -/
def sumSqRun (l : List F32) : F32 := reduceTree (l.map (fun v => some (squareF v)))

/-- The product of COMBINE (R111, R112): a decoded element in S19 times the gating weight. -/
def combineTerm (m : EncMode) (x : F32) (gateCode : Nat) : F32 × Nat :=
  let c := convertFor m s19 (f32Val x)
  (toF32 ((s19.value c.code).mul (s19.value gateCode)), b2n c.sat)

/-- The block exponent of a value recompressed on a trunk (R179). -/
def compressExp (w : List F32) : Int :=
  let a := (w.map f32Val).foldl maxMag (.fin false 0 1 0)
  if a.isZero then 0 else
  let e := a.log2 - 15
  clampE (if (e5m2.maxVal).magLt (a.scale (-e)) then e + 1 else e)

/-- Stochastic rounding of one value to E5M2 with draw `r` (R180, R181). -/
def compressElem (w : F32) (e : Int) (r : Nat) : Nat :=
  match f32Val w with
  | .nan => 0x7F
  | .inf s => e5m2.sign s 0x7C
  | .fin s n d x =>
    if n = 0 then e5m2.sign s 0 else
    let x' := x - e
    let lo := e5m2.code .zero n d x'
    match e5m2.value lo, e5m2.value (lo + 1) with
    | .fin _ a _ ea, .fin _ b _ eb =>
      let u := min x' (min ea eb)
      let g := n * 2 ^ (x' - u).toNat
      let l := a * d * 2 ^ (ea - u).toNat
      let h := b * d * 2 ^ (eb - u).toNat
      if g = l then e5m2.sign s lo
      else
        let t := (g - l) * 2 ^ 24 / (h - l)
        e5m2.sign s (if r < t then lo + 1 else lo)
    | _, _ => e5m2.sign s lo

/-- The seed mixer (R184). -/
def mixRound (k0 k1 : Word) (r : Nat) (x : Word × Word) : Word × Word :=
  let kr := if r % 2 = 0 then k1 else k0
  let rot := ([23, 9, 37, 50, 14, 41, 5, 28, 57, 19][r]?).getD 0
  let x1 := (x.2 ^^^ (x.1 + kr)).rotateLeft rot
  (x.1 + x1 + BitVec.ofNat 64 ((r + 1) * 0x5C83E6A1B2490D7F), x1)

/-- Ten rounds of the seed mixer (R184). -/
def mix (k0 k1 x0 x1 : Word) : Word × Word := (List.range 10).foldl (fun x r => mixRound k0 k1 r x) (x0, x1)

/-- The draw of element `j` (R185). -/
def drawOf (seedLo seedHi : Word) (step seq k h plane j : Nat) : Nat :=
  let s := mix seedLo seedHi (BitVec.ofNat 64 step) (BitVec.ofNat 64 (seq / 256))
  let x0 := k % 2 ^ 24 + h % 2 ^ 7 * 2 ^ 24 + plane % 16 * 2 ^ 31 + 2 ^ 63
  let y := mix s.1 s.2 (BitVec.ofNat 64 x0) (BitVec.ofNat 64 j)
  bits y.1.toNat 40 24

end Sys2Proof.Machine
end

