-- ==== Sys2Proof/Config.lean ====
section
/-! DEFINITION. What the spec leaves to the implementation or to secrets of one module: constants without a body, so that nothing
can evaluate them and every theorem holds whatever they are. -/

namespace Sys2Proof.Config

/-- A free value, drawn by the number of draws so far (`Ilpiac.free`): every value that the spec leaves undefined or does not
state comes from here (assumption 2). -/
opaque freeValue : Nat → BitVec 64

/-- Verification of Ed448ph (RFC 8032, R536): public key, context string, prehash, signature. -/
opaque ed448phVerify : List Byte → List Byte → List Byte → List Byte → Bool

/-- An Ed448 signature (RFC 8032, R544): private key, context string, message. -/
opaque ed448Sign : List Byte → List Byte → List Byte → List Byte

/-- The Ed448 public key of a private key (RFC 8032, R542). -/
opaque ed448Public : List Byte → List Byte

/-- The PUF response corrected with the helper data of the assembly record, or nothing where the correction fails its check
(R542). -/
opaque pufResponse : List Byte → Option (List Byte)

/-- What the decoder of an HBM codeword makes of three or more symbols in error, which its code does not cover (R270): `none` is a
detected error, `some d` a miscorrection that leaves the differences `d`, as (symbol, difference). -/
opaque rsBeyond : List (Nat × Nat) → Option (List (Nat × Nat))

end Sys2Proof.Config
end

