-- ==== Sys2Proof/Machine/RegMap.lean ====
section
/-! DEFINITION. The register window as the spec's field maps give it (R14, R18): one `Fld` per named field, the block bases and
strides, and the table that a software access is judged by. Sideband registers (R511) stand at keys from 2^32 on: a key space
of the model, no window offset. -/

namespace Sys2Proof.Machine

/-- Where a named field lies: register offset inside its block, stride of the register array, lowest bit, width. -/
structure Fld where
  off : Nat
  stride : Nat
  lo : Nat
  w : Nat
deriving DecidableEq, Repr

/-- The blocks of the register window (R14); `glob` covers every register that lies at one fixed offset. -/
inductive Blk where
  | glob | dport | tport | lane | furrow | engine | channel | stack | dqueue | tqueue | hose | dring | cring
deriving DecidableEq, Repr

/-- Region offset of a block kind (R14, R360, R381, R465, R471). -/
def Blk.base : Blk → Nat
  | .glob => 0
  | .dport => 0x00100000
  | .tport => 0x00200000
  | .lane => 0x00300000
  | .furrow => 0x00400000
  | .engine => 0x00500000
  | .channel => 0x00600000
  | .stack => 0x00700000
  | .dqueue => 0x00800000
  | .tqueue => 0x00A00000
  | .hose => 0x002A0000
  | .dring => 0x01000000
  | .cring => 0x01400000

/-- Stride of a block kind (R14, R360, R381, R465, R471). -/
def Blk.stride : Blk → Nat
  | .glob => 0
  | .dport => 0x1000
  | .tport => 0x4000
  | .lane => 0x400
  | .furrow => 0x1000
  | .engine => 0x10000
  | .channel => 0x200
  | .stack => 0x1000
  | .dqueue => 0x20
  | .tqueue => 0x20
  | .hose => 0x20
  | .dring => 0x40
  | .cring => 0x40

/-- Instances that the window has room for. -/
def Blk.count : Blk → Nat
  | .glob => 1
  | .dport => 256
  | .tport => 6
  | .lane => 576
  | .furrow => 64
  | .engine => 16
  | .channel => 768
  | .stack => 12
  | .dqueue => 65536
  | .tqueue => 6144
  | .hose => 4096
  | .dring => 65536
  | .cring => 4096

/-- Offset of instance `n` of a block: region offset plus n times the stride (R14). -/
def Blk.at (b : Blk) (n : Nat) : Nat := b.base + n * b.stride

/-- First key of the sideband registers (R511). -/
def sbBase : Nat := 0x100000000

namespace F

/-- IDENTITY [15:0] (R10). -/
def IDENTITY_VARIANT : Fld := ⟨0x0, 8, 0, 16⟩
/-- IDENTITY [23:16] (R10). -/
def IDENTITY_STEPPING : Fld := ⟨0x0, 8, 16, 8⟩
/-- IDENTITY [63:32] (R10). -/
def IDENTITY_MODULE_SERIAL : Fld := ⟨0x0, 8, 32, 32⟩
/-- CONTRACT_VERSION [15:0] (R11). -/
def CONTRACT_VERSION_MINOR : Fld := ⟨0x8, 8, 0, 16⟩
/-- CONTRACT_VERSION [31:16] (R11). -/
def CONTRACT_VERSION_MAJOR : Fld := ⟨0x8, 8, 16, 16⟩
/-- CAP_PRESENT [0:0] (R12). -/
def CAP_PRESENT_TRUNK : Fld := ⟨0x10, 8, 0, 1⟩
/-- CAP_PRESENT [1:1] (R12). -/
def CAP_PRESENT_HBM : Fld := ⟨0x10, 8, 1, 1⟩
/-- CAP_PRESENT [2:2] (R12). -/
def CAP_PRESENT_TRELLIS : Fld := ⟨0x10, 8, 2, 1⟩
/-- CAP_PRESENT [3:3] (R12). -/
def CAP_PRESENT_CLOCHE : Fld := ⟨0x10, 8, 3, 1⟩
/-- CAP_PRESENT [4:4] (R12). -/
def CAP_PRESENT_CLOCHE_CROSS_BED : Fld := ⟨0x10, 8, 4, 1⟩
/-- CAP_PRESENT [5:5] (R12). -/
def CAP_PRESENT_SPILL : Fld := ⟨0x10, 8, 5, 1⟩
/-- CAP_PRESENT [16:8] (R12). -/
def CAP_PRESENT_DOWNLINK_PORTS : Fld := ⟨0x10, 8, 8, 9⟩
/-- CAP_PRESENT [23:17] (R12). -/
def CAP_PRESENT_FURROWS : Fld := ⟨0x10, 8, 17, 7⟩
/-- CAP_PRESENT [28:24] (R12). -/
def CAP_PRESENT_TRELLIS_ENGINES : Fld := ⟨0x10, 8, 24, 5⟩
/-- CAP_PRESENT [32:29] (R12). -/
def CAP_PRESENT_HBM_STACKS : Fld := ⟨0x10, 8, 29, 4⟩
/-- CAP_SIZES [7:0] (R13). -/
def CAP_SIZES_LOG2_CONTEXTS : Fld := ⟨0x18, 8, 0, 8⟩
/-- CAP_SIZES [15:8] (R13). -/
def CAP_SIZES_LOG2_RM_SLOTS : Fld := ⟨0x18, 8, 8, 8⟩
/-- CAP_SIZES [23:16] (R13). -/
def CAP_SIZES_LOG2_MAX_MEMBERS : Fld := ⟨0x18, 8, 16, 8⟩
/-- CAP_SIZES [31:24] (R13). -/
def CAP_SIZES_LOG2_DESC_RINGS : Fld := ⟨0x18, 8, 24, 8⟩
/-- CAP_SIZES [39:32] (R13). -/
def CAP_SIZES_LOG2_CPL_RINGS : Fld := ⟨0x18, 8, 32, 8⟩
/-- CAP_SIZES [47:40] (R13). -/
def CAP_SIZES_LOG2_SYNC_COUNTERS : Fld := ⟨0x18, 8, 40, 8⟩
/-- CAP_SIZES [55:48] (R13). -/
def CAP_SIZES_LOG2_CHUNK_BYTES : Fld := ⟨0x18, 8, 48, 8⟩
/-- PLACEMENT [1:0] (R34). -/
def PLACEMENT_X : Fld := ⟨0x30100, 8, 0, 2⟩
/-- PLACEMENT [3:2] (R34). -/
def PLACEMENT_Y : Fld := ⟨0x30100, 8, 2, 2⟩
/-- PLACEMENT [5:4] (R34). -/
def PLACEMENT_Z : Fld := ⟨0x30100, 8, 4, 2⟩
/-- PLACEMENT [11:8] (R34). -/
def PLACEMENT_PLANE : Fld := ⟨0x30100, 8, 8, 4⟩
/-- PLACEMENT [15:12] (R34). -/
def PLACEMENT_BED_SLOT : Fld := ⟨0x30100, 8, 12, 4⟩
/-- PLACEMENT [31:16] (R34). -/
def PLACEMENT_FEED_ID : Fld := ⟨0x30100, 8, 16, 16⟩
/-- PLACEMENT [47:32] (R34). -/
def PLACEMENT_PLOT_ID : Fld := ⟨0x30100, 8, 32, 16⟩
/-- PLACEMENT [48:48] (R34). -/
def PLACEMENT_TIME_MASTER : Fld := ⟨0x30100, 8, 48, 1⟩
/-- PLACEMENT [63:63] (R34). -/
def PLACEMENT_VALID : Fld := ⟨0x30100, 8, 63, 1⟩
/-- PLACEMENT_EXTENT [2:0] (R35). -/
def PLACEMENT_EXTENT_NX : Fld := ⟨0x30108, 8, 0, 3⟩
/-- PLACEMENT_EXTENT [5:3] (R35). -/
def PLACEMENT_EXTENT_NY : Fld := ⟨0x30108, 8, 3, 3⟩
/-- PLACEMENT_EXTENT [8:6] (R35). -/
def PLACEMENT_EXTENT_NZ : Fld := ⟨0x30108, 8, 6, 3⟩
/-- PLACEMENT_EXTENT [63:32] (R35). -/
def PLACEMENT_EXTENT_GEN : Fld := ⟨0x30108, 8, 32, 32⟩
/-- PLACEMENT_STATUS [3:0] (R36). -/
def PLACEMENT_STATUS_REFUSE_CAUSE : Fld := ⟨0x30110, 8, 0, 4⟩
/-- PLACEMENT_STATUS [13:8] (R36). -/
def PLACEMENT_STATUS_TRUNK_MISMATCH : Fld := ⟨0x30110, 8, 8, 6⟩
/-- PLACEMENT_STATUS [31:16] (R36). -/
def PLACEMENT_STATUS_MEMBER_MISMATCH : Fld := ⟨0x30110, 8, 16, 16⟩
/-- FURROW_CTRL [0:0] (R160). -/
def FURROW_CTRL_ENABLE : Fld := ⟨0x0, 8, 0, 1⟩
/-- FURROW_CTRL [1:1] (R160). -/
def FURROW_CTRL_RETIRE : Fld := ⟨0x0, 8, 1, 1⟩
/-- FURROW_CTRL [11:8] (R160). -/
def FURROW_CTRL_CELL_FAIL_LIMIT : Fld := ⟨0x0, 8, 8, 4⟩
/-- FURROW_STATUS [1:0] (R161). -/
def FURROW_STATUS_STATE : Fld := ⟨0x8, 8, 0, 2⟩
/-- FURROW_STATUS [12:8] (R161). -/
def FURROW_STATUS_SPARES_LEFT : Fld := ⟨0x8, 8, 8, 5⟩
/-- FURROW_STATUS [33:16] (R161). -/
def FURROW_STATUS_ACTIVE_CONTEXTS : Fld := ⟨0x8, 8, 16, 18⟩
/-- CHECK_FAILS [31:0] (R162). -/
def CHECK_FAILS_SIG_FAILS : Fld := ⟨0x10, 8, 0, 32⟩
/-- CHECK_FAILS [63:32] (R162). -/
def CHECK_FAILS_EXP_FAILS : Fld := ⟨0x10, 8, 32, 32⟩
/-- LAST_FAIL [9:0] (R163). -/
def LAST_FAIL_CELL : Fld := ⟨0x18, 8, 0, 10⟩
/-- LAST_FAIL [10:10] (R163). -/
def LAST_FAIL_PATH : Fld := ⟨0x18, 8, 10, 1⟩
/-- LAST_FAIL [11:11] (R163). -/
def LAST_FAIL_VALID : Fld := ⟨0x18, 8, 11, 1⟩
/-- LAST_FAIL [33:16] (R163). -/
def LAST_FAIL_CONTEXT : Fld := ⟨0x18, 8, 16, 18⟩
/-- FURROW_INJECT [9:0] (R164). -/
def FURROW_INJECT_CELL : Fld := ⟨0x20, 8, 0, 10⟩
/-- FURROW_INJECT [10:10] (R164). -/
def FURROW_INJECT_PATH : Fld := ⟨0x20, 8, 10, 1⟩
/-- FURROW_INJECT [11:11] (R164). -/
def FURROW_INJECT_ARM : Fld := ⟨0x20, 8, 11, 1⟩
/-- FURROW_INJECT [12:12] (R164). -/
def FURROW_INJECT_STICKY : Fld := ⟨0x20, 8, 12, 1⟩
/-- BUSY_CYCLES [63:0] (R165). -/
def BUSY_CYCLES_CYCLES : Fld := ⟨0x28, 8, 0, 64⟩
/-- CELL_RETIRED [63:0] (R165). -/
def CELL_RETIRED_RETIRED : Fld := ⟨0x40, 8, 0, 64⟩
/-- RM_POLICY [0:0] (R167). -/
def RM_POLICY_RESERVE_MODE : Fld := ⟨0x440000, 8, 0, 1⟩
/-- RM_POLICY [31:16] (R167). -/
def RM_POLICY_RESERVE_CAP : Fld := ⟨0x440000, 8, 16, 16⟩
/-- RM_POLICY [47:32] (R167). -/
def RM_POLICY_SHARED_MIN : Fld := ⟨0x440000, 8, 32, 16⟩
/-- RM_STATUS [15:0] (R168). -/
def RM_STATUS_FREE_SLOTS : Fld := ⟨0x440008, 8, 0, 16⟩
/-- RM_STATUS [31:16] (R168). -/
def RM_STATUS_QUOTA_SLOTS : Fld := ⟨0x440008, 8, 16, 16⟩
/-- RM_STATUS [49:32] (R168). -/
def RM_STATUS_WAITING : Fld := ⟨0x440008, 8, 32, 18⟩
/-- RM_COUNTS [31:0] (R168). -/
def RM_COUNTS_SPILLS : Fld := ⟨0x440010, 8, 0, 32⟩
/-- RM_COUNTS [63:32] (R168). -/
def RM_COUNTS_RESTARTS : Fld := ⟨0x440010, 8, 32, 32⟩
/-- FURROW_RETIRED [63:0] (R168). -/
def FURROW_RETIRED_RETIRED : Fld := ⟨0x440018, 8, 0, 64⟩
/-- TRELLIS_CTRL [0:0] (R234). -/
def TRELLIS_CTRL_ENABLE : Fld := ⟨0x0, 8, 0, 1⟩
/-- TRELLIS_CTRL [1:1] (R234). -/
def TRELLIS_CTRL_CLEAR_FAULT : Fld := ⟨0x0, 8, 1, 1⟩
/-- TRELLIS_CTRL [12:8] (R234). -/
def TRELLIS_CTRL_LOG2_CYCLE_LIMIT : Fld := ⟨0x0, 8, 8, 5⟩
/-- TRELLIS_STATUS [2:0] (R235). -/
def TRELLIS_STATUS_STATE : Fld := ⟨0x8, 8, 0, 3⟩
/-- TRELLIS_STATUS [23:8] (R235). -/
def TRELLIS_STATUS_PROGRAM : Fld := ⟨0x8, 8, 8, 16⟩
/-- TRELLIS_STATUS [47:24] (R235). -/
def TRELLIS_STATUS_CHUNK : Fld := ⟨0x8, 8, 24, 24⟩
/-- TRELLIS_STATUS [63:48] (R235). -/
def TRELLIS_STATUS_COMM_ID : Fld := ⟨0x8, 8, 48, 16⟩
/-- TRELLIS_FAULT [3:0] (R236). -/
def TRELLIS_FAULT_CAUSE : Fld := ⟨0x10, 8, 0, 4⟩
/-- TRELLIS_FAULT [4:4] (R236). -/
def TRELLIS_FAULT_VALID : Fld := ⟨0x10, 8, 4, 1⟩
/-- TRELLIS_FAULT [23:8] (R236). -/
def TRELLIS_FAULT_BUNDLE : Fld := ⟨0x10, 8, 8, 16⟩
/-- TRELLIS_FAULT [63:24] (R236). -/
def TRELLIS_FAULT_DETAIL : Fld := ⟨0x10, 8, 24, 40⟩
/-- HAZARD_FAULT [15:0] (R237). -/
def HAZARD_FAULT_BUNDLE : Fld := ⟨0x18, 8, 0, 16⟩
/-- HAZARD_FAULT [17:16] (R237). -/
def HAZARD_FAULT_SLOT : Fld := ⟨0x18, 8, 16, 2⟩
/-- HAZARD_FAULT [20:18] (R237). -/
def HAZARD_FAULT_KIND : Fld := ⟨0x18, 8, 18, 3⟩
/-- HAZARD_FAULT [23:21] (R237). -/
def HAZARD_FAULT_LOC_TYPE : Fld := ⟨0x18, 8, 21, 3⟩
/-- HAZARD_FAULT [36:24] (R237). -/
def HAZARD_FAULT_LOC_INDEX : Fld := ⟨0x18, 8, 24, 13⟩
/-- HAZARD_FAULT [43:37] (R237). -/
def HAZARD_FAULT_SHORT_BY : Fld := ⟨0x18, 8, 37, 7⟩
/-- HAZARD_FAULT [63:48] (R237). -/
def HAZARD_FAULT_WRITER : Fld := ⟨0x18, 8, 48, 16⟩
/-- ISSUE_CYCLES [63:0] (R238). -/
def ISSUE_CYCLES_CYCLES : Fld := ⟨0x20, 8, 0, 64⟩
/-- FROZEN_CYCLES [63:0] (R238). -/
def FROZEN_CYCLES_CYCLES : Fld := ⟨0x28, 8, 0, 64⟩
/-- TRELLIS_COUNTS [31:0] (R238). -/
def TRELLIS_COUNTS_INVOCATIONS : Fld := ⟨0x30, 8, 0, 32⟩
/-- TRELLIS_COUNTS [63:32] (R238). -/
def TRELLIS_COUNTS_ICACHE_MISSES : Fld := ⟨0x30, 8, 32, 32⟩
/-- CH_CTRL [0:0] (R299). -/
def CH_CTRL_MAPOUT : Fld := ⟨0x0, 8, 0, 1⟩
/-- CH_CTRL [15:8] (R299). -/
def CH_CTRL_UE_LIMIT : Fld := ⟨0x0, 8, 8, 8⟩
/-- CH_CTRL [31:16] (R299). -/
def CH_CTRL_CE_LIMIT : Fld := ⟨0x0, 8, 16, 16⟩
/-- CH_STATUS [2:0] (R300). -/
def CH_STATUS_STATE : Fld := ⟨0x8, 8, 0, 3⟩
/-- CH_STATUS [17:8] (R300). -/
def CH_STATUS_SLOT : Fld := ⟨0x8, 8, 8, 10⟩
/-- CH_STATUS [22:20] (R300). -/
def CH_STATUS_CAUSE : Fld := ⟨0x8, 8, 20, 3⟩
/-- CH_STATUS [42:24] (R300). -/
def CH_STATUS_MIGRATED : Fld := ⟨0x8, 8, 24, 19⟩
/-- CH_ERRORS [31:0] (R301). -/
def CH_ERRORS_CE : Fld := ⟨0x10, 8, 0, 32⟩
/-- CH_ERRORS [63:32] (R301). -/
def CH_ERRORS_UE : Fld := ⟨0x10, 8, 32, 32⟩
/-- CH_LAST_ERROR [23:0] (R301). -/
def CH_LAST_ERROR_ACCESS : Fld := ⟨0x18, 8, 0, 24⟩
/-- CH_LAST_ERROR [30:24] (R301). -/
def CH_LAST_ERROR_SYMBOL : Fld := ⟨0x18, 8, 24, 7⟩
/-- CH_LAST_ERROR [31:31] (R301). -/
def CH_LAST_ERROR_KIND : Fld := ⟨0x18, 8, 31, 1⟩
/-- CH_LAST_ERROR [32:32] (R301). -/
def CH_LAST_ERROR_VALID : Fld := ⟨0x18, 8, 32, 1⟩
/-- CH_INJECT [23:0] (R301). -/
def CH_INJECT_ACCESS : Fld := ⟨0x20, 8, 0, 24⟩
/-- CH_INJECT [25:24] (R301). -/
def CH_INJECT_SYMBOLS : Fld := ⟨0x20, 8, 24, 2⟩
/-- CH_INJECT [26:26] (R301). -/
def CH_INJECT_ARM : Fld := ⟨0x20, 8, 26, 1⟩
/-- STACK_CTRL [0:0] (R302). -/
def STACK_CTRL_SELF_REFRESH : Fld := ⟨0x0, 8, 0, 1⟩
/-- STACK_STATUS [1:0] (R302). -/
def STACK_STATUS_STATE : Fld := ⟨0x8, 8, 0, 2⟩
/-- STACK_STATUS [15:8] (R302). -/
def STACK_STATUS_TEMP_C : Fld := ⟨0x8, 8, 8, 8⟩
/-- STACK_STATUS [22:16] (R302). -/
def STACK_STATUS_CHANNELS_OUT : Fld := ⟨0x8, 8, 16, 7⟩
/-- HBM_CONFIG [6:0] (R304). -/
def HBM_CONFIG_HEADROOM : Fld := ⟨0x740000, 8, 0, 7⟩
/-- HBM_CONFIG [17:8] (R304). -/
def HBM_CONFIG_DIRECT_GIB : Fld := ⟨0x740000, 8, 8, 10⟩
/-- HBM_CONFIG [31:24] (R304). -/
def HBM_CONFIG_SCRUB_HOURS : Fld := ⟨0x740000, 8, 24, 8⟩
/-- HBM_CONFIG [32:32] (R304). -/
def HBM_CONFIG_CLEAR_RECORDED : Fld := ⟨0x740000, 8, 32, 1⟩
/-- HBM_STATUS [1:0] (R304). -/
def HBM_STATUS_STATE : Fld := ⟨0x740008, 8, 0, 2⟩
/-- HBM_STATUS [17:8] (R304). -/
def HBM_STATUS_LOGICAL_GIB : Fld := ⟨0x740008, 8, 8, 10⟩
/-- HBM_STATUS [27:18] (R304). -/
def HBM_STATUS_GOOD_CHANNELS : Fld := ⟨0x740008, 8, 18, 10⟩
/-- HBM_STATUS [34:28] (R304). -/
def HBM_STATUS_RESERVE_LEFT : Fld := ⟨0x740008, 8, 28, 7⟩
/-- HBM_STATUS [35:35] (R304). -/
def HBM_STATUS_RELOCATE : Fld := ⟨0x740008, 8, 35, 1⟩
/-- HBM_STATUS [36:36] (R304). -/
def HBM_STATUS_BAD_CONFIG : Fld := ⟨0x740008, 8, 36, 1⟩
/-- CACHE_CTRL [3:0] (R305). -/
def CACHE_CTRL_KEEP_WAYS : Fld := ⟨0x740010, 8, 0, 4⟩
/-- CACHE_CTRL [4:4] (R305). -/
def CACHE_CTRL_ENABLE : Fld := ⟨0x740010, 8, 4, 1⟩
/-- CACHE_COUNTS [31:0] (R305). -/
def CACHE_COUNTS_HITS : Fld := ⟨0x740018, 8, 0, 32⟩
/-- CACHE_COUNTS [63:32] (R305). -/
def CACHE_COUNTS_MISSES : Fld := ⟨0x740018, 8, 32, 32⟩
/-- HINT_RANGE [18:0] (R305). -/
def HINT_RANGE_BASE_2M : Fld := ⟨0x740040, 8, 0, 19⟩
/-- HINT_RANGE [37:19] (R305). -/
def HINT_RANGE_LIMIT_2M : Fld := ⟨0x740040, 8, 19, 19⟩
/-- HINT_RANGE [39:38] (R305). -/
def HINT_RANGE_READ_HINT : Fld := ⟨0x740040, 8, 38, 2⟩
/-- HINT_RANGE [41:40] (R305). -/
def HINT_RANGE_WRITE_HINT : Fld := ⟨0x740040, 8, 40, 2⟩
/-- HINT_RANGE [42:42] (R305). -/
def HINT_RANGE_VALID : Fld := ⟨0x740040, 8, 42, 1⟩
/-- POOL_CFG [4:0] (R306). -/
def POOL_CFG_LOG2_BUF : Fld := ⟨0x740080, 8, 0, 5⟩
/-- POOL_CFG [31:8] (R306). -/
def POOL_CFG_COUNT : Fld := ⟨0x740080, 8, 8, 24⟩
/-- POOL_CFG [35:32] (R306). -/
def POOL_CFG_FALLBACK : Fld := ⟨0x740080, 8, 32, 4⟩
/-- POOL_STATUS [23:0] (R306). -/
def POOL_STATUS_FREE : Fld := ⟨0x7400c0, 8, 0, 24⟩
/-- POOL_STATUS [47:24] (R306). -/
def POOL_STATUS_MIN_FREE : Fld := ⟨0x7400c0, 8, 24, 24⟩
/-- POOL_STATUS [63:48] (R306). -/
def POOL_STATUS_REFUSED : Fld := ⟨0x7400c0, 8, 48, 16⟩
/-- SW_BUF_CFG [20:0] (R337). -/
def SW_BUF_CFG_RETAIN_CELLS : Fld := ⟨0x280000, 8, 0, 21⟩
/-- SW_BUF_CFG [41:21] (R337). -/
def SW_BUF_CFG_CONTRIB_CELLS : Fld := ⟨0x280000, 8, 21, 21⟩
/-- SW_COLL_CFG [2:0] (R337). -/
def SW_COLL_CFG_TC_CTRL : Fld := ⟨0x280008, 8, 0, 3⟩
/-- SW_COLL_CFG [6:4] (R337). -/
def SW_COLL_CFG_TC_DATA : Fld := ⟨0x280008, 8, 4, 3⟩
/-- SW_COLL_CFG [23:8] (R337). -/
def SW_COLL_CFG_HELLO_PERIOD_US : Fld := ⟨0x280008, 8, 8, 16⟩
/-- SW_BUF_STATUS [20:0] (R337). -/
def SW_BUF_STATUS_SHARED_FREE : Fld := ⟨0x280010, 8, 0, 21⟩
/-- SW_BUF_STATUS [41:21] (R337). -/
def SW_BUF_STATUS_RETAIN_USED : Fld := ⟨0x280010, 8, 21, 21⟩
/-- SW_BUF_STATUS [62:42] (R337). -/
def SW_BUF_STATUS_CONTRIB_USED : Fld := ⟨0x280010, 8, 42, 21⟩
/-- SW_BUF_STATUS [63:63] (R337). -/
def SW_BUF_STATUS_BAD_CONFIG : Fld := ⟨0x280010, 8, 63, 1⟩
/-- SW_CLASS_CFG [19:0] (R337). -/
def SW_CLASS_CFG_GUARANTEE : Fld := ⟨0x280040, 8, 0, 20⟩
/-- SW_CLASS_CFG [22:20] (R337). -/
def SW_CLASS_CFG_PUSH_RANK : Fld := ⟨0x280040, 8, 20, 3⟩
/-- SW_CLASS_CFG [31:24] (R337). -/
def SW_CLASS_CFG_LAND : Fld := ⟨0x280040, 8, 24, 8⟩
/-- SW_CLASS_STATUS [20:0] (R337). -/
def SW_CLASS_STATUS_SHARED_USED : Fld := ⟨0x280080, 8, 0, 21⟩
/-- SW_CLASS_STATUS [63:32] (R337). -/
def SW_CLASS_STATUS_EVICTED : Fld := ⟨0x280080, 8, 32, 32⟩
/-- SIEVE_CTRL [0:0] (R338). -/
def SIEVE_CTRL_ENABLE : Fld := ⟨0x280100, 8, 0, 1⟩
/-- SIEVE_CTRL [12:8] (R338). -/
def SIEVE_CTRL_LOG2_ENTRIES : Fld := ⟨0x280100, 8, 8, 5⟩
/-- SIEVE_CTRL [19:16] (R338). -/
def SIEVE_CTRL_LOG2_SAMPLE : Fld := ⟨0x280100, 8, 16, 4⟩
/-- SIEVE_CTRL [55:32] (R338). -/
def SIEVE_CTRL_THRESHOLD : Fld := ⟨0x280100, 8, 32, 24⟩
/-- SIEVE_FILTER [6:0] (R338). -/
def SIEVE_FILTER_EVENT_MASK : Fld := ⟨0x280108, 8, 0, 7⟩
/-- SIEVE_FILTER [15:8] (R338). -/
def SIEVE_FILTER_TC_MASK : Fld := ⟨0x280108, 8, 8, 8⟩
/-- SIEVE_FILTER [25:16] (R338). -/
def SIEVE_FILTER_PORT : Fld := ⟨0x280108, 8, 16, 10⟩
/-- SIEVE_FILTER [26:26] (R338). -/
def SIEVE_FILTER_TYPE_MATCH : Fld := ⟨0x280108, 8, 26, 1⟩
/-- SIEVE_FILTER [27:27] (R338). -/
def SIEVE_FILTER_COMM_MATCH : Fld := ⟨0x280108, 8, 27, 1⟩
/-- SIEVE_FILTER [35:28] (R338). -/
def SIEVE_FILTER_TYPE : Fld := ⟨0x280108, 8, 28, 8⟩
/-- SIEVE_FILTER [51:36] (R338). -/
def SIEVE_FILTER_COMM_ID : Fld := ⟨0x280108, 8, 36, 16⟩
/-- SIEVE_BASE [63:0] (R338). -/
def SIEVE_BASE_BASE : Fld := ⟨0x280110, 8, 0, 64⟩
/-- SIEVE_PROD [31:0] (R338). -/
def SIEVE_PROD_PROD : Fld := ⟨0x280118, 8, 0, 32⟩
/-- SIEVE_CONS [31:0] (R338). -/
def SIEVE_CONS_CONS : Fld := ⟨0x280120, 8, 0, 32⟩
/-- SIEVE_COUNTS [31:0] (R338). -/
def SIEVE_COUNTS_CAPTURED : Fld := ⟨0x280128, 8, 0, 32⟩
/-- SIEVE_COUNTS [63:32] (R338). -/
def SIEVE_COUNTS_DROPPED : Fld := ⟨0x280128, 8, 32, 32⟩
/-- PORT_STATUS [1:0] (R339). -/
def PORT_STATUS_STATE : Fld := ⟨0x0, 8, 0, 2⟩
/-- PORT_STATUS [2:2] (R339). -/
def PORT_STATUS_FENCED : Fld := ⟨0x0, 8, 2, 1⟩
/-- PORT_HELLO1 [63:0] (R339). -/
def PORT_HELLO1_H1 : Fld := ⟨0x8, 8, 0, 64⟩
/-- PORT_HELLO2 [63:0] (R339). -/
def PORT_HELLO2_H2 : Fld := ⟨0x10, 8, 0, 64⟩
/-- PORT_ERRORS [15:0] (R339). -/
def PORT_ERRORS_CRC_DISCARDS : Fld := ⟨0x18, 8, 0, 16⟩
/-- PORT_ERRORS [31:16] (R339). -/
def PORT_ERRORS_STOMPED : Fld := ⟨0x18, 8, 16, 16⟩
/-- PORT_ERRORS [47:32] (R339). -/
def PORT_ERRORS_NO_CREDIT : Fld := ⟨0x18, 8, 32, 16⟩
/-- PORT_ERRORS [63:48] (R339). -/
def PORT_ERRORS_MISADDRESSED : Fld := ⟨0x18, 8, 48, 16⟩
/-- PORT_TRAFFIC [31:0] (R339). -/
def PORT_TRAFFIC_RX_PACKETS : Fld := ⟨0x20, 8, 0, 32⟩
/-- PORT_TRAFFIC [63:32] (R339). -/
def PORT_TRAFFIC_TX_PACKETS : Fld := ⟨0x20, 8, 32, 32⟩
/-- PORT_SHAPE [21:0] (R358). -/
def PORT_SHAPE_RATE : Fld := ⟨0x40, 8, 0, 22⟩
/-- PORT_SHAPE [37:22] (R358). -/
def PORT_SHAPE_BURST : Fld := ⟨0x40, 8, 22, 16⟩
/-- CLASS_WEIGHT [7:0] (R358). -/
def CLASS_WEIGHT_WEIGHT_TC2 : Fld := ⟨0x48, 8, 0, 8⟩
/-- CLASS_WEIGHT [15:8] (R358). -/
def CLASS_WEIGHT_WEIGHT_TC3 : Fld := ⟨0x48, 8, 8, 8⟩
/-- CLASS_WEIGHT [23:16] (R358). -/
def CLASS_WEIGHT_WEIGHT_TC4 : Fld := ⟨0x48, 8, 16, 8⟩
/-- CLASS_WEIGHT [31:24] (R358). -/
def CLASS_WEIGHT_WEIGHT_TC5 : Fld := ⟨0x48, 8, 24, 8⟩
/-- CLASS_WEIGHT [39:32] (R358). -/
def CLASS_WEIGHT_WEIGHT_TC6 : Fld := ⟨0x48, 8, 32, 8⟩
/-- CLASS_WEIGHT [47:40] (R358). -/
def CLASS_WEIGHT_WEIGHT_TC7 : Fld := ⟨0x48, 8, 40, 8⟩
/-- SCHED_VTIME [47:0] (R358). -/
def SCHED_VTIME_VTIME : Fld := ⟨0x90, 8, 0, 48⟩
/-- LAT_STATUS [7:0] (R358). -/
def LAT_STATUS_ALARM : Fld := ⟨0x98, 8, 0, 8⟩
/-- CLASS_QMAP [9:0] (R358). -/
def CLASS_QMAP_QBASE : Fld := ⟨0x50, 8, 0, 10⟩
/-- CLASS_QMAP [13:10] (R358). -/
def CLASS_QMAP_LOG2_QCOUNT : Fld := ⟨0x50, 8, 10, 4⟩
/-- CLASS_LAT [23:0] (R358). -/
def CLASS_LAT_THRESH_NS : Fld := ⟨0xa0, 8, 0, 24⟩
/-- CLASS_LAT [55:24] (R358). -/
def CLASS_LAT_HWM_NS : Fld := ⟨0xa0, 8, 24, 32⟩
/-- POL_CFG [1:0] (R359). -/
def POL_CFG_MODE : Fld := ⟨0x100, 24, 0, 2⟩
/-- POL_CFG [2:2] (R359). -/
def POL_CFG_AWARE : Fld := ⟨0x100, 24, 2, 1⟩
/-- POL_CFG [4:3] (R359). -/
def POL_CFG_CLASS_PRE : Fld := ⟨0x100, 24, 3, 2⟩
/-- POL_CFG [5:5] (R359). -/
def POL_CFG_YELLOW_DROP : Fld := ⟨0x100, 24, 5, 1⟩
/-- POL_CFG [6:6] (R359). -/
def POL_CFG_RED_DROP : Fld := ⟨0x100, 24, 6, 1⟩
/-- POL_CFG [29:8] (R359). -/
def POL_CFG_CIR : Fld := ⟨0x100, 24, 8, 22⟩
/-- POL_CFG [51:30] (R359). -/
def POL_CFG_PIR : Fld := ⟨0x100, 24, 30, 22⟩
/-- POL_BUCKETS [23:0] (R359). -/
def POL_BUCKETS_CBS : Fld := ⟨0x108, 24, 0, 24⟩
/-- POL_BUCKETS [47:24] (R359). -/
def POL_BUCKETS_EBS_PBS : Fld := ⟨0x108, 24, 24, 24⟩
/-- POL_COUNTS [20:0] (R359). -/
def POL_COUNTS_GREEN : Fld := ⟨0x110, 24, 0, 21⟩
/-- POL_COUNTS [41:21] (R359). -/
def POL_COUNTS_YELLOW : Fld := ⟨0x110, 24, 21, 21⟩
/-- POL_COUNTS [62:42] (R359). -/
def POL_COUNTS_RED : Fld := ⟨0x110, 24, 42, 21⟩
/-- Q_SHAPE [21:0] (R360). -/
def Q_SHAPE_RATE : Fld := ⟨0x0, 8, 0, 22⟩
/-- Q_SHAPE [37:22] (R360). -/
def Q_SHAPE_BURST : Fld := ⟨0x0, 8, 22, 16⟩
/-- Q_SHAPE [45:38] (R360). -/
def Q_SHAPE_WEIGHT : Fld := ⟨0x0, 8, 38, 8⟩
/-- Q_STATUS [20:0] (R360). -/
def Q_STATUS_DEPTH_CELLS : Fld := ⟨0x8, 8, 0, 21⟩
/-- Q_STATUS [21:21] (R360). -/
def Q_STATUS_BACKLOGGED : Fld := ⟨0x8, 8, 21, 1⟩
/-- Q_STATUS [22:22] (R360). -/
def Q_STATUS_SHAPED : Fld := ⟨0x8, 8, 22, 1⟩
/-- Q_STATUS [23:23] (R360). -/
def Q_STATUS_NO_CREDIT : Fld := ⟨0x8, 8, 23, 1⟩
/-- Q_STATUS [55:32] (R360). -/
def Q_STATUS_DEPTH_PKTS : Fld := ⟨0x8, 8, 32, 24⟩
/-- Q_HWM [20:0] (R360). -/
def Q_HWM_HWM_CELLS : Fld := ⟨0x10, 8, 0, 21⟩
/-- Q_HWM [55:24] (R360). -/
def Q_HWM_HWM_NS : Fld := ⟨0x10, 8, 24, 32⟩
/-- Q_TAG [47:0] (R360). -/
def Q_TAG_START : Fld := ⟨0x18, 8, 0, 48⟩
/-- ROUTE_CTRL [15:0] (R382). -/
def ROUTE_CTRL_SETUP_TIMEOUT_US : Fld := ⟨0x290000, 8, 0, 16⟩
/-- ROUTE_CTRL [23:16] (R382). -/
def ROUTE_CTRL_ORPHAN_MS : Fld := ⟨0x290000, 8, 16, 8⟩
/-- ROUTE_CTRL [24:24] (R382). -/
def ROUTE_CTRL_AUTO_REROUTE : Fld := ⟨0x290000, 8, 24, 1⟩
/-- ROUTE_STATUS [31:0] (R382). -/
def ROUTE_STATUS_EPOCH : Fld := ⟨0x290008, 8, 0, 32⟩
/-- ROUTE_STATUS [39:32] (R382). -/
def ROUTE_STATUS_LOST_LINKS : Fld := ⟨0x290008, 8, 32, 8⟩
/-- ROUTE_STATUS [52:40] (R382). -/
def ROUTE_STATUS_HOSES_USED : Fld := ⟨0x290008, 8, 40, 13⟩
/-- ROUTE_COUNTS [31:0] (R382). -/
def ROUTE_COUNTS_UNREACHABLE : Fld := ⟨0x290010, 8, 0, 32⟩
/-- ROUTE_COUNTS [63:32] (R382). -/
def ROUTE_COUNTS_REROUTES : Fld := ⟨0x290010, 8, 32, 32⟩
/-- LINK_MAP [63:0] (R382). -/
def LINK_MAP_LOST : Fld := ⟨0x290040, 8, 0, 64⟩
/-- HOSE_CFG [1:0] (R383). -/
def HOSE_CFG_ROLE : Fld := ⟨0x0, 8, 0, 2⟩
/-- HOSE_CFG [4:2] (R383). -/
def HOSE_CFG_TC : Fld := ⟨0x0, 8, 2, 3⟩
/-- HOSE_CFG [10:5] (R383). -/
def HOSE_CFG_DST_BED : Fld := ⟨0x0, 8, 5, 6⟩
/-- HOSE_CFG [13:11] (R383). -/
def HOSE_CFG_OUT_PORT : Fld := ⟨0x0, 8, 11, 3⟩
/-- HOSE_CFG [25:14] (R383). -/
def HOSE_CFG_NEXT_LABEL : Fld := ⟨0x0, 8, 14, 12⟩
/-- HOSE_CFG [41:26] (R383). -/
def HOSE_CFG_COMM_ID : Fld := ⟨0x0, 8, 26, 16⟩
/-- HOSE_CFG [51:42] (R383). -/
def HOSE_CFG_QOFF : Fld := ⟨0x0, 8, 42, 10⟩
/-- HOSE_STATE [2:0] (R383). -/
def HOSE_STATE_STATE : Fld := ⟨0x8, 8, 0, 3⟩
/-- HOSE_STATE [6:3] (R383). -/
def HOSE_STATE_HOPS : Fld := ⟨0x8, 8, 3, 4⟩
/-- HOSE_STATE [30:7] (R383). -/
def HOSE_STATE_PATH : Fld := ⟨0x8, 8, 7, 24⟩
/-- HOSE_STATE [46:31] (R383). -/
def HOSE_STATE_WINDOW_CELLS : Fld := ⟨0x8, 8, 31, 16⟩
/-- HOSE_WIN [31:0] (R383). -/
def HOSE_WIN_SENT : Fld := ⟨0x10, 8, 0, 32⟩
/-- HOSE_WIN [63:32] (R383). -/
def HOSE_WIN_CONSUMED : Fld := ⟨0x10, 8, 32, 32⟩
/-- HOSE_COUNTS [31:0] (R383). -/
def HOSE_COUNTS_PACKETS : Fld := ⟨0x18, 8, 0, 32⟩
/-- HOSE_COUNTS [47:32] (R383). -/
def HOSE_COUNTS_REROUTES : Fld := ⟨0x18, 8, 32, 16⟩
/-- HOSE_COUNTS [63:48] (R383). -/
def HOSE_COUNTS_DISCARDS : Fld := ⟨0x18, 8, 48, 16⟩
/-- LANE_CTRL [0:0] (R414). -/
def LANE_CTRL_ENABLE : Fld := ⟨0x0, 8, 0, 1⟩
/-- LANE_CTRL [3:1] (R414). -/
def LANE_CTRL_MODE : Fld := ⟨0x0, 8, 1, 3⟩
/-- LANE_CTRL [4:4] (R414). -/
def LANE_CTRL_TX_INVERT : Fld := ⟨0x0, 8, 4, 1⟩
/-- LANE_CTRL [5:5] (R414). -/
def LANE_CTRL_RX_INVERT : Fld := ⟨0x0, 8, 5, 1⟩
/-- LANE_CTRL [6:6] (R414). -/
def LANE_CTRL_CLEAR_HOLD : Fld := ⟨0x0, 8, 6, 1⟩
/-- LANE_STATUS [2:0] (R414). -/
def LANE_STATUS_STATE : Fld := ⟨0x8, 8, 0, 3⟩
/-- LANE_STATUS [3:3] (R414). -/
def LANE_STATUS_SIGNAL : Fld := ⟨0x8, 8, 3, 1⟩
/-- LANE_STATUS [4:4] (R414). -/
def LANE_STATUS_CDR_LOCK : Fld := ⟨0x8, 8, 4, 1⟩
/-- LANE_STATUS [5:5] (R414). -/
def LANE_STATUS_CW_LOCK : Fld := ⟨0x8, 8, 5, 1⟩
/-- LANE_STATUS [10:8] (R414). -/
def LANE_STATUS_LAST_CAUSE : Fld := ⟨0x8, 8, 8, 3⟩
/-- LANE_STATUS [31:16] (R414). -/
def LANE_STATUS_REMOVALS : Fld := ⟨0x8, 8, 16, 16⟩
/-- LANE_STATUS [47:32] (R414). -/
def LANE_STATUS_TRAIN_RETRIES : Fld := ⟨0x8, 8, 32, 16⟩
/-- LANE_TXEQ [4:0] (R415). -/
def LANE_TXEQ_PRE2 : Fld := ⟨0x10, 8, 0, 5⟩
/-- LANE_TXEQ [9:5] (R415). -/
def LANE_TXEQ_PRE1 : Fld := ⟨0x10, 8, 5, 5⟩
/-- LANE_TXEQ [15:10] (R415). -/
def LANE_TXEQ_MAIN : Fld := ⟨0x10, 8, 10, 6⟩
/-- LANE_TXEQ [20:16] (R415). -/
def LANE_TXEQ_POST1 : Fld := ⟨0x10, 8, 16, 5⟩
/-- LANE_RXEQ [0:0] (R415). -/
def LANE_RXEQ_ADAPT : Fld := ⟨0x18, 8, 0, 1⟩
/-- LANE_RXEQ [1:1] (R415). -/
def LANE_RXEQ_FREEZE : Fld := ⟨0x18, 8, 1, 1⟩
/-- LANE_RXEQ [7:4] (R415). -/
def LANE_RXEQ_CTLE : Fld := ⟨0x18, 8, 4, 4⟩
/-- LANE_RXEQ [15:8] (R415). -/
def LANE_RXEQ_EYE : Fld := ⟨0x18, 8, 8, 8⟩
/-- LANE_DFE0 [7:0] (R415). -/
def LANE_DFE0_TAP1 : Fld := ⟨0x20, 8, 0, 8⟩
/-- LANE_DFE0 [15:8] (R415). -/
def LANE_DFE0_TAP2 : Fld := ⟨0x20, 8, 8, 8⟩
/-- LANE_DFE0 [23:16] (R415). -/
def LANE_DFE0_TAP3 : Fld := ⟨0x20, 8, 16, 8⟩
/-- LANE_DFE0 [31:24] (R415). -/
def LANE_DFE0_TAP4 : Fld := ⟨0x20, 8, 24, 8⟩
/-- LANE_DFE0 [39:32] (R415). -/
def LANE_DFE0_TAP5 : Fld := ⟨0x20, 8, 32, 8⟩
/-- LANE_DFE0 [47:40] (R415). -/
def LANE_DFE0_TAP6 : Fld := ⟨0x20, 8, 40, 8⟩
/-- LANE_DFE0 [55:48] (R415). -/
def LANE_DFE0_TAP7 : Fld := ⟨0x20, 8, 48, 8⟩
/-- LANE_DFE0 [63:56] (R415). -/
def LANE_DFE0_TAP8 : Fld := ⟨0x20, 8, 56, 8⟩
/-- LANE_DFE1 [7:0] (R415). -/
def LANE_DFE1_TAP9 : Fld := ⟨0x28, 8, 0, 8⟩
/-- LANE_DFE1 [15:8] (R415). -/
def LANE_DFE1_TAP10 : Fld := ⟨0x28, 8, 8, 8⟩
/-- LANE_DFE1 [23:16] (R415). -/
def LANE_DFE1_TAP11 : Fld := ⟨0x28, 8, 16, 8⟩
/-- LANE_DFE1 [31:24] (R415). -/
def LANE_DFE1_TAP12 : Fld := ⟨0x28, 8, 24, 8⟩
/-- LANE_FEC [31:0] (R416). -/
def LANE_FEC_CORR_SYMBOLS : Fld := ⟨0x30, 8, 0, 32⟩
/-- LANE_FEC [63:32] (R416). -/
def LANE_FEC_UNCORR : Fld := ⟨0x30, 8, 32, 32⟩
/-- LANE_TEST [2:0] (R416). -/
def LANE_TEST_PATTERN : Fld := ⟨0x38, 8, 0, 3⟩
/-- LANE_TEST [3:3] (R416). -/
def LANE_TEST_PRECODE : Fld := ⟨0x38, 8, 3, 1⟩
/-- LANE_TEST [4:4] (R416). -/
def LANE_TEST_CHECK_LOCK : Fld := ⟨0x38, 8, 4, 1⟩
/-- LANE_USER [63:0] (R416). -/
def LANE_USER_USER : Fld := ⟨0x40, 8, 0, 64⟩
/-- LANE_CHECK [31:0] (R416). -/
def LANE_CHECK_ERRORS : Fld := ⟨0x48, 8, 0, 32⟩
/-- LANE_CHECK [63:32] (R416). -/
def LANE_CHECK_BLOCKS : Fld := ⟨0x48, 8, 32, 32⟩
/-- LANE_INJECT [0:0] (R416). -/
def LANE_INJECT_ARM : Fld := ⟨0x50, 8, 0, 1⟩
/-- LANE_INJECT [1:1] (R416). -/
def LANE_INJECT_CONTINUOUS : Fld := ⟨0x50, 8, 1, 1⟩
/-- LANE_INJECT [6:2] (R416). -/
def LANE_INJECT_SYMBOLS : Fld := ⟨0x50, 8, 2, 5⟩
/-- LANE_INJECT [8:7] (R416). -/
def LANE_INJECT_KIND : Fld := ⟨0x50, 8, 7, 2⟩
/-- LANE_INJECT [14:9] (R416). -/
def LANE_INJECT_LOG2_PERIOD : Fld := ⟨0x50, 8, 9, 6⟩
/-- LANE_PORT [4:0] (R417). -/
def LANE_PORT_MIN_LANES : Fld := ⟨0x100, 8, 0, 5⟩
/-- LANE_PORT [5:5] (R417). -/
def LANE_PORT_LIGHT_EN : Fld := ⟨0x100, 8, 5, 1⟩
/-- LANE_PORT [17:8] (R417). -/
def LANE_PORT_LIGHT_AFTER_NS : Fld := ⟨0x100, 8, 8, 10⟩
/-- LANE_PORT [31:18] (R417). -/
def LANE_PORT_DEEP_AFTER_US : Fld := ⟨0x100, 8, 18, 14⟩
/-- LANE_PORT [39:32] (R417). -/
def LANE_PORT_DEEP_CHECK_MS : Fld := ⟨0x100, 8, 32, 8⟩
/-- LANE_PORT [43:40] (R417). -/
def LANE_PORT_MARGIN_SYMBOLS : Fld := ⟨0x100, 8, 40, 4⟩
/-- LANE_PORT [55:48] (R417). -/
def LANE_PORT_FLAP_LIMIT : Fld := ⟨0x100, 8, 48, 8⟩
/-- LANE_PORT_STATUS [15:0] (R417). -/
def LANE_PORT_STATUS_TX_SET : Fld := ⟨0x108, 8, 0, 16⟩
/-- LANE_PORT_STATUS [31:16] (R417). -/
def LANE_PORT_STATUS_RX_SET : Fld := ⟨0x108, 8, 16, 16⟩
/-- LANE_PORT_STATUS [33:32] (R417). -/
def LANE_PORT_STATUS_TX_IDLE : Fld := ⟨0x108, 8, 32, 2⟩
/-- LANE_PORT_STATUS [35:34] (R417). -/
def LANE_PORT_STATUS_RX_IDLE : Fld := ⟨0x108, 8, 34, 2⟩
/-- REF_CTRL [2:0] (R418). -/
def REF_CTRL_SOURCE : Fld := ⟨0x390000, 8, 0, 3⟩
/-- REF_CTRL [3:3] (R418). -/
def REF_CTRL_REF_OUT_EN : Fld := ⟨0x390000, 8, 3, 1⟩
/-- REF_CTRL [15:4] (R418). -/
def REF_CTRL_SPREAD_PPM : Fld := ⟨0x390000, 8, 4, 12⟩
/-- REF_STATUS [1:0] (R418). -/
def REF_STATUS_STATE : Fld := ⟨0x390008, 8, 0, 2⟩
/-- REF_STATUS [2:2] (R418). -/
def REF_STATUS_SPREAD_SEEN : Fld := ⟨0x390008, 8, 2, 1⟩
/-- REF_STATUS [27:4] (R418). -/
def REF_STATUS_OFFSET_PPB : Fld := ⟨0x390008, 8, 4, 24⟩
/-- SYNC_CTRL [13:0] (R450). -/
def SYNC_CTRL_MEMBER_BASE : Fld := ⟨0x40000, 8, 0, 14⟩
/-- SYNC_CTRL [28:14] (R450). -/
def SYNC_CTRL_MEMBER_COUNT : Fld := ⟨0x40000, 8, 14, 15⟩
/-- SYNC_CTRL [47:32] (R450). -/
def SYNC_CTRL_DEADLOCK_US : Fld := ⟨0x40000, 8, 32, 16⟩
/-- SYNC_STATUS [31:0] (R450). -/
def SYNC_STATUS_SATURATIONS : Fld := ⟨0x40008, 8, 0, 32⟩
/-- SYNC_STATUS [48:32] (R450). -/
def SYNC_STATUS_WAITS_HELD : Fld := ⟨0x40008, 8, 32, 17⟩
/-- SYNC_SEL [13:0] (R450). -/
def SYNC_SEL_COUNTER : Fld := ⟨0x40010, 8, 0, 14⟩
/-- SYNC_VAL [31:0] (R450). -/
def SYNC_VAL_VALUE : Fld := ⟨0x40018, 8, 0, 32⟩
/-- SYNC_VAL [32:32] (R450). -/
def SYNC_VAL_OVF : Fld := ⟨0x40018, 8, 32, 1⟩
/-- SYNC_VAL [33:33] (R450). -/
def SYNC_VAL_UNF : Fld := ⟨0x40018, 8, 33, 1⟩
/-- SYNC_VAL [50:34] (R450). -/
def SYNC_VAL_WAITERS : Fld := ⟨0x40018, 8, 34, 17⟩
/-- SYNC_DEADLOCK [63:0] (R450). -/
def SYNC_DEADLOCK_STALLED : Fld := ⟨0x40020, 8, 0, 64⟩
/-- SYNC_GROUP_SIZE [16:0] (R450). -/
def SYNC_GROUP_SIZE_SIZE : Fld := ⟨0x40800, 8, 0, 17⟩
/-- SYNC_OVF [63:0] (R450). -/
def SYNC_OVF_FLAGS : Fld := ⟨0x41000, 8, 0, 64⟩
/-- SYNC_UNF [63:0] (R450). -/
def SYNC_UNF_FLAGS : Fld := ⟨0x41800, 8, 0, 64⟩
/-- TIME_NOW_NS [63:0] (R451). -/
def TIME_NOW_NS_NS : Fld := ⟨0x30000, 8, 0, 64⟩
/-- TIME_NOW_FRAC [15:0] (R451). -/
def TIME_NOW_FRAC_FRAC : Fld := ⟨0x30008, 8, 0, 16⟩
/-- TIME_CTRL [0:0] (R451). -/
def TIME_CTRL_APPLY_SET : Fld := ⟨0x30010, 8, 0, 1⟩
/-- TIME_CTRL [15:1] (R451). -/
def TIME_CTRL_SYNC_PERIOD_US : Fld := ⟨0x30010, 8, 1, 15⟩
/-- TIME_CTRL [31:16] (R451). -/
def TIME_CTRL_STEP_NS : Fld := ⟨0x30010, 8, 16, 16⟩
/-- TIME_CTRL [41:32] (R451). -/
def TIME_CTRL_PPS_WIDTH_MS : Fld := ⟨0x30010, 8, 32, 10⟩
/-- TIME_STATUS [2:0] (R451). -/
def TIME_STATUS_STATE : Fld := ⟨0x30018, 8, 0, 3⟩
/-- TIME_STATUS [8:3] (R451). -/
def TIME_STATUS_MASTER_BED : Fld := ⟨0x30018, 8, 3, 6⟩
/-- TIME_STATUS [31:16] (R451). -/
def TIME_STATUS_STEPS : Fld := ⟨0x30018, 8, 16, 16⟩
/-- TIME_STATUS [63:32] (R451). -/
def TIME_STATUS_LAST_OFFSET_PS : Fld := ⟨0x30018, 8, 32, 32⟩
/-- TIME_SET_NS [63:0] (R451). -/
def TIME_SET_NS_NS : Fld := ⟨0x30020, 8, 0, 64⟩
/-- TIME_PATH [31:0] (R451). -/
def TIME_PATH_DELAY_PS : Fld := ⟨0x30028, 8, 0, 32⟩
/-- TIME_PATH [63:32] (R451). -/
def TIME_PATH_PPS_IN_DELAY_PS : Fld := ⟨0x30028, 8, 32, 32⟩
/-- TIME_PINS [0:0] (R451). -/
def TIME_PINS_PPS_OUT_EN : Fld := ⟨0x30030, 8, 0, 1⟩
/-- TIME_PINS [1:1] (R451). -/
def TIME_PINS_TOD_OUT_EN : Fld := ⟨0x30030, 8, 1, 1⟩
/-- RUN_CTRL [0:0] (R481). -/
def RUN_CTRL_SWITCH : Fld := ⟨0x100, 8, 0, 1⟩
/-- RUN_CTRL [1:1] (R481). -/
def RUN_CTRL_ADMISSION : Fld := ⟨0x100, 8, 1, 1⟩
/-- RUN_CTRL [2:2] (R481). -/
def RUN_CTRL_HBM : Fld := ⟨0x100, 8, 2, 1⟩
/-- RUN_CTRL [3:3] (R481). -/
def RUN_CTRL_SYNC : Fld := ⟨0x100, 8, 3, 1⟩
/-- RUN_CTRL [4:4] (R481). -/
def RUN_CTRL_TIME : Fld := ⟨0x100, 8, 4, 1⟩
/-- RUN_STATUS [3:0] (R481). -/
def RUN_STATUS_SWITCH_STATE : Fld := ⟨0x108, 8, 0, 4⟩
/-- RUN_STATUS [7:4] (R481). -/
def RUN_STATUS_ADMISSION_STATE : Fld := ⟨0x108, 8, 4, 4⟩
/-- RUN_STATUS [11:8] (R481). -/
def RUN_STATUS_HBM_STATE : Fld := ⟨0x108, 8, 8, 4⟩
/-- RUN_STATUS [15:12] (R481). -/
def RUN_STATUS_SYNC_STATE : Fld := ⟨0x108, 8, 12, 4⟩
/-- RUN_STATUS [19:16] (R481). -/
def RUN_STATUS_TIME_STATE : Fld := ⟨0x108, 8, 16, 4⟩
/-- RUN_REFUSE [4:0] (R481). -/
def RUN_REFUSE_STOP_REFUSED : Fld := ⟨0x110, 8, 0, 5⟩
/-- RUN_REFUSE [12:8] (R481). -/
def RUN_REFUSE_START_REFUSED : Fld := ⟨0x110, 8, 8, 5⟩
/-- RUN_REFUSE [19:16] (R481). -/
def RUN_REFUSE_LAST_CAUSE : Fld := ⟨0x110, 8, 16, 4⟩
/-- HOLM_BASE_REG [51:26] (R482). -/
def HOLM_BASE_REG_BASE : Fld := ⟨0x200, 8, 26, 26⟩
/-- HOLM_BASE_HBM [51:40] (R482). -/
def HOLM_BASE_HBM_BASE : Fld := ⟨0x208, 8, 40, 12⟩
/-- HOLM_STATUS [1:0] (R482). -/
def HOLM_STATUS_STATE : Fld := ⟨0x210, 8, 0, 2⟩
/-- HOLM_STATUS [31:16] (R482). -/
def HOLM_STATUS_REPLAYS : Fld := ⟨0x210, 8, 16, 16⟩
/-- HOLM_STATUS [47:32] (R482). -/
def HOLM_STATUS_WINDOW_REFUSALS : Fld := ⟨0x210, 8, 32, 16⟩
/-- HOLM_STATUS [63:48] (R482). -/
def HOLM_STATUS_POISONED_READS : Fld := ⟨0x210, 8, 48, 16⟩
/-- WINDOW_BASE [0:0] (R482). -/
def WINDOW_BASE_VALID : Fld := ⟨0x240, 16, 0, 1⟩
/-- WINDOW_BASE [1:1] (R482). -/
def WINDOW_BASE_READ : Fld := ⟨0x240, 16, 1, 1⟩
/-- WINDOW_BASE [2:2] (R482). -/
def WINDOW_BASE_WRITE : Fld := ⟨0x240, 16, 2, 1⟩
/-- WINDOW_BASE [51:12] (R482). -/
def WINDOW_BASE_BASE : Fld := ⟨0x240, 16, 12, 40⟩
/-- WINDOW_LIMIT [51:12] (R482). -/
def WINDOW_LIMIT_LIMIT : Fld := ⟨0x248, 16, 12, 40⟩
/-- IRQ_CAUSE [9:0] (R483). -/
def IRQ_CAUSE_CAUSE : Fld := ⟨0x300, 8, 0, 10⟩
/-- IRQ_MASK [9:0] (R483). -/
def IRQ_MASK_MASK : Fld := ⟨0x308, 8, 0, 10⟩
/-- IRQ_VECTOR [15:0] (R483). -/
def IRQ_VECTOR_VECTOR : Fld := ⟨0x340, 8, 0, 16⟩
/-- LAT_SUMMARY [63:0] (R483). -/
def LAT_SUMMARY_PORTS : Fld := ⟨0x400, 8, 0, 64⟩
/-- STATE_SUMMARY [63:0] (R483). -/
def STATE_SUMMARY_PORTS : Fld := ⟨0x440, 8, 0, 64⟩
/-- RING_ERROR [15:0] (R483). -/
def RING_ERROR_RING : Fld := ⟨0x480, 8, 0, 16⟩
/-- RING_ERROR [19:16] (R483). -/
def RING_ERROR_CAUSE : Fld := ⟨0x480, 8, 16, 4⟩
/-- RING_ERROR [32:32] (R483). -/
def RING_ERROR_VALID : Fld := ⟨0x480, 8, 32, 1⟩
/-- DR_DOORBELL [31:0] (R484). -/
def DR_DOORBELL_PROD : Fld := ⟨0x0, 8, 0, 32⟩
/-- DR_BASE [51:0] (R484). -/
def DR_BASE_BASE : Fld := ⟨0x8, 8, 0, 52⟩
/-- DR_CTRL [0:0] (R484). -/
def DR_CTRL_ENABLE : Fld := ⟨0x10, 8, 0, 1⟩
/-- DR_CTRL [5:1] (R484). -/
def DR_CTRL_LOG2_SIZE : Fld := ⟨0x10, 8, 1, 5⟩
/-- DR_CTRL [15:8] (R484). -/
def DR_CTRL_WEIGHT : Fld := ⟨0x10, 8, 8, 8⟩
/-- DR_STATUS [31:0] (R484). -/
def DR_STATUS_CONS : Fld := ⟨0x18, 8, 0, 32⟩
/-- DR_STATUS [34:32] (R484). -/
def DR_STATUS_STATE : Fld := ⟨0x18, 8, 32, 3⟩
/-- DR_STATUS [38:36] (R484). -/
def DR_STATUS_HOLD : Fld := ⟨0x18, 8, 36, 3⟩
/-- DR_STATUS [43:40] (R484). -/
def DR_STATUS_ERR_CAUSE : Fld := ⟨0x18, 8, 40, 4⟩
/-- CR_DOORBELL [31:0] (R485). -/
def CR_DOORBELL_CONS : Fld := ⟨0x0, 8, 0, 32⟩
/-- CR_DOORBELL [32:32] (R485). -/
def CR_DOORBELL_ARM : Fld := ⟨0x0, 8, 32, 1⟩
/-- CR_BASE [51:0] (R485). -/
def CR_BASE_BASE : Fld := ⟨0x8, 8, 0, 52⟩
/-- CR_CTRL [0:0] (R485). -/
def CR_CTRL_ENABLE : Fld := ⟨0x10, 8, 0, 1⟩
/-- CR_CTRL [5:1] (R485). -/
def CR_CTRL_LOG2_SIZE : Fld := ⟨0x10, 8, 1, 5⟩
/-- CR_CTRL [15:8] (R485). -/
def CR_CTRL_COAL_COUNT : Fld := ⟨0x10, 8, 8, 8⟩
/-- CR_CTRL [31:16] (R485). -/
def CR_CTRL_COAL_TIME : Fld := ⟨0x10, 8, 16, 16⟩
/-- CR_CTRL [47:32] (R485). -/
def CR_CTRL_VECTOR : Fld := ⟨0x10, 8, 32, 16⟩
/-- CR_STATUS [31:0] (R485). -/
def CR_STATUS_PROD : Fld := ⟨0x18, 8, 0, 32⟩
/-- CR_STATUS [32:32] (R485). -/
def CR_STATUS_ARMED : Fld := ⟨0x18, 8, 32, 1⟩
/-- CR_STATUS [33:33] (R485). -/
def CR_STATUS_STALLED : Fld := ⟨0x18, 8, 33, 1⟩
/-- CR_STATUS [55:40] (R485). -/
def CR_STATUS_PENDING : Fld := ⟨0x18, 8, 40, 16⟩
/-- FAULT_CTRL [19:0] (R506). -/
def FAULT_CTRL_GRACE_US : Fld := ⟨0x20000, 8, 0, 20⟩
/-- FAULT_FIRST [7:0] (R506). -/
def FAULT_FIRST_SOURCE : Fld := ⟨0x20008, 8, 0, 8⟩
/-- FAULT_FIRST [8:8] (R506). -/
def FAULT_FIRST_VALID : Fld := ⟨0x20008, 8, 8, 1⟩
/-- FAULT_FIRST [9:9] (R506). -/
def FAULT_FIRST_OVERFLOW : Fld := ⟨0x20008, 8, 9, 1⟩
/-- FAULT_FIRST [10:10] (R506). -/
def FAULT_FIRST_WIRE : Fld := ⟨0x20008, 8, 10, 1⟩
/-- FAULT_FIRST [11:11] (R506). -/
def FAULT_FIRST_STOPPED : Fld := ⟨0x20008, 8, 11, 1⟩
/-- FAULT_FIRST [31:16] (R506). -/
def FAULT_FIRST_UNIT : Fld := ⟨0x20008, 8, 16, 16⟩
/-- FAULT_FIRST [63:32] (R506). -/
def FAULT_FIRST_DETAIL : Fld := ⟨0x20008, 8, 32, 32⟩
/-- FAULT_TIME [63:0] (R506). -/
def FAULT_TIME_NS : Fld := ⟨0x20010, 8, 0, 64⟩
/-- FAULT_LINES [63:0] (R506). -/
def FAULT_LINES_LINES : Fld := ⟨0x20018, 8, 0, 64⟩
/-- FAULT_WIRES [63:0] (R506). -/
def FAULT_WIRES_BROKEN : Fld := ⟨0x20020, 8, 0, 64⟩
/-- FAULT_COUNTS [31:0] (R506). -/
def FAULT_COUNTS_LATCHED : Fld := ⟨0x20030, 8, 0, 32⟩
/-- FAULT_COUNTS [63:32] (R506). -/
def FAULT_COUNTS_ESCALATED : Fld := ⟨0x20030, 8, 32, 32⟩
/-- HB_CTRL [0:0] (R506). -/
def HB_CTRL_ENABLE : Fld := ⟨0x20100, 8, 0, 1⟩
/-- HB_CTRL [23:8] (R506). -/
def HB_CTRL_TIMEOUT_MS : Fld := ⟨0x20100, 8, 8, 16⟩
/-- HEARTBEAT [31:0] (R506). -/
def HEARTBEAT_COUNT : Fld := ⟨0x20108, 8, 0, 32⟩
/-- HEADLESS [0:0] (R506). -/
def HEADLESS_ACTIVE : Fld := ⟨0x20110, 8, 0, 1⟩
/-- HEADLESS [2:1] (R506). -/
def HEADLESS_CAUSE : Fld := ⟨0x20110, 8, 1, 2⟩
/-- HEADLESS [3:3] (R506). -/
def HEADLESS_RESUME : Fld := ⟨0x20110, 8, 3, 1⟩
/-- HEADLESS [63:32] (R506). -/
def HEADLESS_RECORDS_WAITING : Fld := ⟨0x20110, 8, 32, 32⟩
/-- RESET_CTRL [4:0] (R506). -/
def RESET_CTRL_FUNC : Fld := ⟨0x20200, 8, 0, 5⟩
/-- RESET_CTRL [5:5] (R506). -/
def RESET_CTRL_WARM : Fld := ⟨0x20200, 8, 5, 1⟩
/-- RESET_CTRL [15:8] (R506). -/
def RESET_CTRL_KEY : Fld := ⟨0x20200, 8, 8, 8⟩
/-- RESET_CTRL [25:16] (R506). -/
def RESET_CTRL_PORT : Fld := ⟨0x20200, 8, 16, 10⟩
/-- RESET_CTRL [26:26] (R506). -/
def RESET_CTRL_LINK : Fld := ⟨0x20200, 8, 26, 1⟩
/-- RESET_STATUS [2:0] (R506). -/
def RESET_STATUS_LAST : Fld := ⟨0x20208, 8, 0, 3⟩
/-- RESET_STATUS [3:3] (R506). -/
def RESET_STATUS_BY_SIDEBAND : Fld := ⟨0x20208, 8, 3, 1⟩
/-- RESET_STATUS [15:8] (R506). -/
def RESET_STATUS_CAUSE_SOURCE : Fld := ⟨0x20208, 8, 8, 8⟩
/-- RESET_STATUS [31:16] (R506). -/
def RESET_STATUS_FUNC_RESETS : Fld := ⟨0x20208, 8, 16, 16⟩
/-- RESET_STATUS [47:32] (R506). -/
def RESET_STATUS_LINK_RESETS : Fld := ⟨0x20208, 8, 32, 16⟩
/-- TWIN_CTRL [0:0] (R506). -/
def TWIN_CTRL_ENABLE : Fld := ⟨0x20300, 8, 0, 1⟩
/-- TWIN_CTRL [8:1] (R506). -/
def TWIN_CTRL_PORT : Fld := ⟨0x20300, 8, 1, 8⟩
/-- TWIN_STATUS [1:0] (R506). -/
def TWIN_STATUS_STATE : Fld := ⟨0x20308, 8, 0, 2⟩
/-- TWIN_STATUS [63:32] (R506). -/
def TWIN_STATUS_COMPARED : Fld := ⟨0x20308, 8, 32, 32⟩
/-- TWIN_DIVERGE0 [63:0] (R506). -/
def TWIN_DIVERGE0_STEP : Fld := ⟨0x20310, 8, 0, 64⟩
/-- TWIN_DIVERGE1 [31:0] (R506). -/
def TWIN_DIVERGE1_SEQ : Fld := ⟨0x20318, 8, 0, 32⟩
/-- TWIN_DIVERGE1 [39:32] (R506). -/
def TWIN_DIVERGE1_TYPE : Fld := ⟨0x20318, 8, 32, 8⟩
/-- TWIN_DIVERGE1 [55:40] (R506). -/
def TWIN_DIVERGE1_COMM_ID : Fld := ⟨0x20318, 8, 40, 16⟩
/-- TWIN_DIVERGE2 [63:0] (R506). -/
def TWIN_DIVERGE2_H3 : Fld := ⟨0x20320, 8, 0, 64⟩
/-- TWIN_DIVERGE3 [31:0] (R506). -/
def TWIN_DIVERGE3_OWN : Fld := ⟨0x20328, 8, 0, 32⟩
/-- TWIN_DIVERGE3 [63:32] (R506). -/
def TWIN_DIVERGE3_PARTNER : Fld := ⟨0x20328, 8, 32, 32⟩
/-- TWIN_DIVERGE4 [15:0] (R506). -/
def TWIN_DIVERGE4_INDEX_HI : Fld := ⟨0x20330, 8, 0, 16⟩
/-- SB_IDENT [63:0] (R511). -/
def SB_IDENT_IDENTITY : Fld := ⟨0x100000000, 8, 0, 64⟩
/-- SB_STATE [2:0] (R511). -/
def SB_STATE_POWER : Fld := ⟨0x100000008, 8, 0, 3⟩
/-- SB_STATE [3:3] (R511). -/
def SB_STATE_HEADLESS : Fld := ⟨0x100000008, 8, 3, 1⟩
/-- SB_STATE [4:4] (R511). -/
def SB_STATE_FAULT_VALID : Fld := ⟨0x100000008, 8, 4, 1⟩
/-- SB_STATE [12:5] (R511). -/
def SB_STATE_FAULT_SOURCE : Fld := ⟨0x100000008, 8, 5, 8⟩
/-- SB_STATE [15:13] (R511). -/
def SB_STATE_RESET_LAST : Fld := ⟨0x100000008, 8, 13, 3⟩
/-- SB_STATE [16:16] (R511). -/
def SB_STATE_JOURNAL_EN : Fld := ⟨0x100000008, 8, 16, 1⟩
/-- SB_REQUEST [0:0] (R511). -/
def SB_REQUEST_WARM : Fld := ⟨0x100000010, 8, 0, 1⟩
/-- SB_REQUEST [1:1] (R511). -/
def SB_REQUEST_DORMANT : Fld := ⟨0x100000010, 8, 1, 1⟩
/-- SB_REQUEST [2:2] (R511). -/
def SB_REQUEST_WAKE : Fld := ⟨0x100000010, 8, 2, 1⟩
/-- SB_REQUEST [15:8] (R511). -/
def SB_REQUEST_KEY : Fld := ⟨0x100000010, 8, 8, 8⟩
/-- SB_REQUEST [17:16] (R511). -/
def SB_REQUEST_RESULT : Fld := ⟨0x100000010, 8, 16, 2⟩
/-- SB_EVENTS [7:0] (R511). -/
def SB_EVENTS_EVENTS : Fld := ⟨0x100000018, 8, 0, 8⟩
/-- SB_EVENTS [15:8] (R511). -/
def SB_EVENTS_MASK : Fld := ⟨0x100000018, 8, 8, 8⟩
/-- SB_STAGE0 [62:0] (R511). -/
def SB_STAGE0_STAGE : Fld := ⟨0x100000020, 8, 0, 63⟩
/-- SB_STAGE1 [8:0] (R511). -/
def SB_STAGE1_EXTENT : Fld := ⟨0x100000028, 8, 0, 9⟩
/-- SB_COMMIT [0:0] (R511). -/
def SB_COMMIT_COMMIT : Fld := ⟨0x100000030, 8, 0, 1⟩
/-- SB_COMMIT [11:8] (R511). -/
def SB_COMMIT_REFUSE_CAUSE : Fld := ⟨0x100000030, 8, 8, 4⟩
/-- SB_COMMIT [63:32] (R511). -/
def SB_COMMIT_GEN : Fld := ⟨0x100000030, 8, 32, 32⟩
/-- SB_POWER [63:0] (R511). -/
def SB_POWER_POWER : Fld := ⟨0x100000040, 8, 0, 64⟩
/-- SB_TEMP [63:0] (R511). -/
def SB_TEMP_TEMP : Fld := ⟨0x100000048, 8, 0, 64⟩
/-- PWR_CTRL [11:0] (R532). -/
def PWR_CTRL_POWER_LIMIT_W : Fld := ⟨0x10000, 8, 0, 12⟩
/-- PWR_CTRL [23:12] (R532). -/
def PWR_CTRL_BROWNOUT_LIMIT_W : Fld := ⟨0x10000, 8, 12, 12⟩
/-- PWR_CTRL [31:24] (R532). -/
def PWR_CTRL_HOLDUP_PERIOD_H : Fld := ⟨0x10000, 8, 24, 8⟩
/-- PWR_CTRL [32:32] (R532). -/
def PWR_CTRL_HOLDUP_RECHECK : Fld := ⟨0x10000, 8, 32, 1⟩
/-- PWR_STATUS [15:0] (R532). -/
def PWR_STATUS_VIN_MV : Fld := ⟨0x10008, 8, 0, 16⟩
/-- PWR_STATUS [27:16] (R532). -/
def PWR_STATUS_PIN_W : Fld := ⟨0x10008, 8, 16, 12⟩
/-- PWR_STATUS [28:28] (R532). -/
def PWR_STATUS_EPISODE : Fld := ⟨0x10008, 8, 28, 1⟩
/-- PWR_STATUS [29:29] (R532). -/
def PWR_STATUS_JOURNAL_EN : Fld := ⟨0x10008, 8, 29, 1⟩
/-- PWR_STATUS [30:30] (R532). -/
def PWR_STATUS_LIMIT_UNMET : Fld := ⟨0x10008, 8, 30, 1⟩
/-- PWR_STATUS [35:32] (R532). -/
def PWR_STATUS_DUTY : Fld := ⟨0x10008, 8, 32, 4⟩
/-- PWR_STATUS [38:36] (R532). -/
def PWR_STATUS_THROTTLE_CAUSE : Fld := ⟨0x10008, 8, 36, 3⟩
/-- PWR_STATUS [63:48] (R532). -/
def PWR_STATUS_JOURNAL_DROPS : Fld := ⟨0x10008, 8, 48, 16⟩
/-- PWR_BROWNOUT [15:0] (R532). -/
def PWR_BROWNOUT_EPISODES : Fld := ⟨0x10010, 8, 0, 16⟩
/-- PWR_BROWNOUT [31:16] (R532). -/
def PWR_BROWNOUT_MIN_VIN_MV : Fld := ⟨0x10010, 8, 16, 16⟩
/-- PWR_BROWNOUT [63:32] (R532). -/
def PWR_BROWNOUT_LAST_US : Fld := ⟨0x10010, 8, 32, 32⟩
/-- HOLDUP [15:0] (R532). -/
def HOLDUP_CAP_UF : Fld := ⟨0x10018, 8, 0, 16⟩
/-- HOLDUP [31:16] (R532). -/
def HOLDUP_ENERGY_MJ : Fld := ⟨0x10018, 8, 16, 16⟩
/-- HOLDUP [43:32] (R532). -/
def HOLDUP_ESR_MOHM : Fld := ⟨0x10018, 8, 32, 12⟩
/-- HOLDUP [44:44] (R532). -/
def HOLDUP_VALID : Fld := ⟨0x10018, 8, 44, 1⟩
/-- THERM_STATUS [7:0] (R532). -/
def THERM_STATUS_CORE_C : Fld := ⟨0x10028, 8, 0, 8⟩
/-- THERM_STATUS [15:8] (R532). -/
def THERM_STATUS_IO_C : Fld := ⟨0x10028, 8, 8, 8⟩
/-- THERM_STATUS [23:16] (R532). -/
def THERM_STATUS_HBM_C : Fld := ⟨0x10028, 8, 16, 8⟩
/-- THERM_STATUS [31:24] (R532). -/
def THERM_STATUS_STAGE_C : Fld := ⟨0x10028, 8, 24, 8⟩
/-- THERM_STATUS [39:32] (R532). -/
def THERM_STATUS_BANK_C : Fld := ⟨0x10028, 8, 32, 8⟩
/-- THERM_STATUS [40:40] (R532). -/
def THERM_STATUS_BANK_HOT : Fld := ⟨0x10028, 8, 40, 1⟩
/-- THERM_STATUS [44:41] (R532). -/
def THERM_STATUS_THROTTLING : Fld := ⟨0x10028, 8, 41, 4⟩
/-- PD_STATE [63:0] (R532). -/
def PD_STATE_ON : Fld := ⟨0x10040, 8, 0, 64⟩
/-- PD_RETAIN [63:0] (R532). -/
def PD_RETAIN_RETAIN : Fld := ⟨0x10080, 8, 0, 64⟩
/-- BOOT_CTRL [1:0] (R548). -/
def BOOT_CTRL_KIND : Fld := ⟨0x50000, 8, 0, 2⟩
/-- BOOT_CTRL [2:2] (R548). -/
def BOOT_CTRL_LOAD : Fld := ⟨0x50000, 8, 2, 1⟩
/-- BOOT_ADDR [51:0] (R548). -/
def BOOT_ADDR_ADDR : Fld := ⟨0x50008, 8, 0, 52⟩
/-- BOOT_LEN [21:0] (R548). -/
def BOOT_LEN_BYTES : Fld := ⟨0x50010, 8, 0, 22⟩
/-- BOOT_STATUS [2:0] (R548). -/
def BOOT_STATUS_STATE : Fld := ⟨0x50018, 8, 0, 3⟩
/-- BOOT_STATUS [7:4] (R548). -/
def BOOT_STATUS_RESULT : Fld := ⟨0x50018, 8, 4, 4⟩
/-- BOOT_STATUS [8:8] (R548). -/
def BOOT_STATUS_IDENTITY_OK : Fld := ⟨0x50018, 8, 8, 1⟩
/-- BOOT_STATUS [9:9] (R548). -/
def BOOT_STATUS_RECORD_B : Fld := ⟨0x50018, 8, 9, 1⟩
/-- BOOT_STATUS [63:32] (R548). -/
def BOOT_STATUS_LOAD_US : Fld := ⟨0x50018, 8, 32, 32⟩
/-- MEAS_STEWARD [63:0] (R548). -/
def MEAS_STEWARD_BYTES : Fld := ⟨0x50040, 8, 0, 64⟩
/-- MEAS_UCODE [63:0] (R548). -/
def MEAS_UCODE_BYTES : Fld := ⟨0x50080, 8, 0, 64⟩
/-- IMAGE_STEWARD [31:0] (R548). -/
def IMAGE_STEWARD_VERSION : Fld := ⟨0x500c0, 8, 0, 32⟩
/-- IMAGE_STEWARD [63:32] (R548). -/
def IMAGE_STEWARD_SVN : Fld := ⟨0x500c0, 8, 32, 32⟩
/-- IMAGE_UCODE [31:0] (R548). -/
def IMAGE_UCODE_VERSION : Fld := ⟨0x500c8, 8, 0, 32⟩
/-- IMAGE_UCODE [63:32] (R548). -/
def IMAGE_UCODE_SVN : Fld := ⟨0x500c8, 8, 32, 32⟩
/-- KEYID_STEWARD [63:0] (R548). -/
def KEYID_STEWARD_KEY_ID : Fld := ⟨0x500d0, 8, 0, 64⟩
/-- KEYID_UCODE [63:0] (R548). -/
def KEYID_UCODE_KEY_ID : Fld := ⟨0x500d8, 8, 0, 64⟩
/-- DEVICE_KEY_ID [63:0] (R548). -/
def DEVICE_KEY_ID_KEY_ID : Fld := ⟨0x500e0, 8, 0, 64⟩
/-- FAULT_ACTION [2s + 1 : 2s] of source s (R506). -/
def FAULT_ACTION_OF (s : Nat) : Fld := ⟨0x20028, 8, 2 * s, 2⟩

end F

/-- The access type of a field (R18). -/
inductive FTy where
  | rw | ro | rc | w1c | w1s | rws
deriving DecidableEq, Repr

/-- One field of a register in a field map. Bits that no field names are reserved: they read as zero (R17). -/
structure FSpec where
  lo : Nat
  w : Nat
  ty : FTy
deriving DecidableEq, Repr

/-- A register, or an array of `cnt` registers, of a block; `resets j` is the reset value of element j of the array (the last
value stands for the elements after it). -/
structure RegDef where
  blk : Blk
  off : Nat
  cnt : Nat
  stride : Nat
  fields : List FSpec
  resets : List Nat
deriving DecidableEq, Repr

/-- IDENTITY, CONTRACT_VERSION, CAP_PRESENT, CAP_SIZES, RUN_CTRL, RUN_STATUS, RUN_REFUSE, HOLM_BASE_REG, HOLM_BASE_HBM, HOLM_STATUS, WINDOW_BASE, WINDOW_LIMIT, IRQ_CAUSE, IRQ_MASK, IRQ_VECTOR, LAT_SUMMARY, STATE_SUMMARY, RING_ERROR. -/
def regDefsGlob0 : List RegDef := [
  ⟨.glob, 0x0, 1, 8, [⟨0, 16, .ro⟩, ⟨16, 8, .ro⟩, ⟨32, 32, .ro⟩], [0x0]⟩,
  ⟨.glob, 0x8, 1, 8, [⟨0, 16, .ro⟩, ⟨16, 16, .ro⟩], [0x10000]⟩,
  ⟨.glob, 0x10, 1, 8, [⟨0, 1, .ro⟩, ⟨1, 1, .ro⟩, ⟨2, 1, .ro⟩, ⟨3, 1, .ro⟩, ⟨4, 1, .ro⟩, ⟨5, 1, .ro⟩, ⟨8, 9, .ro⟩, ⟨17, 7, .ro⟩, ⟨24, 5, .ro⟩, ⟨29, 4, .ro⟩], [0x0]⟩,
  ⟨.glob, 0x18, 1, 8, [⟨0, 8, .ro⟩, ⟨8, 8, .ro⟩, ⟨16, 8, .ro⟩, ⟨24, 8, .ro⟩, ⟨32, 8, .ro⟩, ⟨40, 8, .ro⟩, ⟨48, 8, .ro⟩], [0xc0e0c100e0f12]⟩,
  ⟨.glob, 0x100, 1, 8, [⟨0, 1, .rw⟩, ⟨1, 1, .rw⟩, ⟨2, 1, .rw⟩, ⟨3, 1, .rw⟩, ⟨4, 1, .rw⟩], [0x0]⟩,
  ⟨.glob, 0x108, 1, 8, [⟨0, 4, .ro⟩, ⟨4, 4, .ro⟩, ⟨8, 4, .ro⟩, ⟨12, 4, .ro⟩, ⟨16, 4, .ro⟩], [0x0]⟩,
  ⟨.glob, 0x110, 1, 8, [⟨0, 5, .w1c⟩, ⟨8, 5, .w1c⟩, ⟨16, 4, .ro⟩], [0x0]⟩,
  ⟨.glob, 0x200, 1, 8, [⟨26, 26, .ro⟩], [0x0]⟩,
  ⟨.glob, 0x208, 1, 8, [⟨40, 12, .ro⟩], [0x0]⟩,
  ⟨.glob, 0x210, 1, 8, [⟨0, 2, .ro⟩, ⟨16, 16, .rc⟩, ⟨32, 16, .rc⟩, ⟨48, 16, .rc⟩], [0x0]⟩,
  ⟨.glob, 0x240, 8, 16, [⟨0, 1, .rw⟩, ⟨1, 1, .rw⟩, ⟨2, 1, .rw⟩, ⟨12, 40, .rw⟩], [0x0]⟩,
  ⟨.glob, 0x248, 8, 16, [⟨12, 40, .rw⟩], [0x0]⟩,
  ⟨.glob, 0x300, 1, 8, [⟨0, 10, .w1c⟩], [0x0]⟩,
  ⟨.glob, 0x308, 1, 8, [⟨0, 10, .rw⟩], [0x3ff]⟩,
  ⟨.glob, 0x340, 10, 8, [⟨0, 16, .rw⟩], [0x0]⟩,
  ⟨.glob, 0x400, 5, 8, [⟨0, 64, .w1c⟩], [0x0]⟩,
  ⟨.glob, 0x440, 5, 8, [⟨0, 64, .w1c⟩], [0x0]⟩,
  ⟨.glob, 0x480, 1, 8, [⟨0, 16, .ro⟩, ⟨16, 4, .ro⟩, ⟨32, 1, .w1c⟩], [0x0]⟩]

/-- PLACEMENT, PLACEMENT_EXTENT, PLACEMENT_STATUS, TIME_NOW_NS, TIME_NOW_FRAC, TIME_CTRL, TIME_STATUS, TIME_SET_NS, TIME_PATH, TIME_PINS. -/
def regDefsGlob3 : List RegDef := [
  ⟨.glob, 0x30100, 1, 8, [⟨0, 2, .ro⟩, ⟨2, 2, .ro⟩, ⟨4, 2, .ro⟩, ⟨8, 4, .ro⟩, ⟨12, 4, .ro⟩, ⟨16, 16, .ro⟩, ⟨32, 16, .ro⟩, ⟨48, 1, .ro⟩, ⟨63, 1, .ro⟩], [0x0]⟩,
  ⟨.glob, 0x30108, 1, 8, [⟨0, 3, .ro⟩, ⟨3, 3, .ro⟩, ⟨6, 3, .ro⟩, ⟨32, 32, .ro⟩], [0x0]⟩,
  ⟨.glob, 0x30110, 1, 8, [⟨0, 4, .ro⟩, ⟨8, 6, .w1c⟩, ⟨16, 16, .rc⟩], [0x0]⟩,
  ⟨.glob, 0x30000, 1, 8, [⟨0, 64, .ro⟩], [0x0]⟩,
  ⟨.glob, 0x30008, 1, 8, [⟨0, 16, .ro⟩], [0x0]⟩,
  ⟨.glob, 0x30010, 1, 8, [⟨0, 1, .w1s⟩, ⟨1, 15, .rws⟩, ⟨16, 16, .rws⟩, ⟨32, 10, .rws⟩], [0x6403e800c8]⟩,
  ⟨.glob, 0x30018, 1, 8, [⟨0, 3, .ro⟩, ⟨3, 6, .ro⟩, ⟨16, 16, .rc⟩, ⟨32, 32, .ro⟩], [0x0]⟩,
  ⟨.glob, 0x30020, 1, 8, [⟨0, 64, .rw⟩], [0x0]⟩,
  ⟨.glob, 0x30028, 1, 8, [⟨0, 32, .ro⟩, ⟨32, 32, .rw⟩], [0x0]⟩,
  ⟨.glob, 0x30030, 1, 8, [⟨0, 1, .rw⟩, ⟨1, 1, .rw⟩], [0x3]⟩]

/-- FURROW_CTRL, FURROW_STATUS, CHECK_FAILS, LAST_FAIL, FURROW_INJECT, BUSY_CYCLES, CELL_RETIRED. -/
def regDefsFurrow : List RegDef := [
  ⟨.furrow, 0x0, 1, 8, [⟨0, 1, .rw⟩, ⟨1, 1, .w1s⟩, ⟨8, 4, .rws⟩], [0x301]⟩,
  ⟨.furrow, 0x8, 1, 8, [⟨0, 2, .ro⟩, ⟨8, 5, .ro⟩, ⟨16, 18, .ro⟩], [0x1000]⟩,
  ⟨.furrow, 0x10, 1, 8, [⟨0, 32, .rc⟩, ⟨32, 32, .rc⟩], [0x0]⟩,
  ⟨.furrow, 0x18, 1, 8, [⟨0, 10, .ro⟩, ⟨10, 1, .ro⟩, ⟨11, 1, .w1c⟩, ⟨16, 18, .ro⟩], [0x0]⟩,
  ⟨.furrow, 0x20, 1, 8, [⟨0, 10, .rw⟩, ⟨10, 1, .rw⟩, ⟨11, 1, .w1s⟩, ⟨12, 1, .rw⟩], [0x0]⟩,
  ⟨.furrow, 0x28, 1, 8, [⟨0, 64, .ro⟩], [0x0]⟩,
  ⟨.furrow, 0x40, 9, 8, [⟨0, 64, .ro⟩], [0x0]⟩]

/-- RM_POLICY, RM_STATUS, RM_COUNTS, FURROW_RETIRED. -/
def regDefsGlob44 : List RegDef := [
  ⟨.glob, 0x440000, 1, 8, [⟨0, 1, .rws⟩, ⟨16, 16, .rws⟩, ⟨32, 16, .rws⟩], [0x80000400000]⟩,
  ⟨.glob, 0x440008, 1, 8, [⟨0, 16, .ro⟩, ⟨16, 16, .ro⟩, ⟨32, 18, .ro⟩], [0x8000]⟩,
  ⟨.glob, 0x440010, 1, 8, [⟨0, 32, .rc⟩, ⟨32, 32, .rc⟩], [0x0]⟩,
  ⟨.glob, 0x440018, 1, 8, [⟨0, 64, .ro⟩], [0x0]⟩]

/-- TRELLIS_CTRL, TRELLIS_STATUS, TRELLIS_FAULT, HAZARD_FAULT, ISSUE_CYCLES, FROZEN_CYCLES, TRELLIS_COUNTS. -/
def regDefsEngine : List RegDef := [
  ⟨.engine, 0x0, 1, 8, [⟨0, 1, .rw⟩, ⟨1, 1, .w1s⟩, ⟨8, 5, .rws⟩], [0x1801]⟩,
  ⟨.engine, 0x8, 1, 8, [⟨0, 3, .ro⟩, ⟨8, 16, .ro⟩, ⟨24, 24, .ro⟩, ⟨48, 16, .ro⟩], [0x0]⟩,
  ⟨.engine, 0x10, 1, 8, [⟨0, 4, .ro⟩, ⟨4, 1, .ro⟩, ⟨8, 16, .ro⟩, ⟨24, 40, .ro⟩], [0x0]⟩,
  ⟨.engine, 0x18, 1, 8, [⟨0, 16, .ro⟩, ⟨16, 2, .ro⟩, ⟨18, 3, .ro⟩, ⟨21, 3, .ro⟩, ⟨24, 13, .ro⟩, ⟨37, 7, .ro⟩, ⟨48, 16, .ro⟩], [0x0]⟩,
  ⟨.engine, 0x20, 1, 8, [⟨0, 64, .ro⟩], [0x0]⟩,
  ⟨.engine, 0x28, 1, 8, [⟨0, 64, .ro⟩], [0x0]⟩,
  ⟨.engine, 0x30, 1, 8, [⟨0, 32, .ro⟩, ⟨32, 32, .ro⟩], [0x0]⟩]

/-- CH_CTRL, CH_STATUS, CH_ERRORS, CH_LAST_ERROR, CH_INJECT. -/
def regDefsChannel : List RegDef := [
  ⟨.channel, 0x0, 1, 8, [⟨0, 1, .w1s⟩, ⟨8, 8, .rws⟩, ⟨16, 16, .rws⟩], [0x4000200]⟩,
  ⟨.channel, 0x8, 1, 8, [⟨0, 3, .ro⟩, ⟨8, 10, .ro⟩, ⟨20, 3, .ro⟩, ⟨24, 19, .ro⟩], [0x3ff00]⟩,
  ⟨.channel, 0x10, 1, 8, [⟨0, 32, .rc⟩, ⟨32, 32, .rc⟩], [0x0]⟩,
  ⟨.channel, 0x18, 1, 8, [⟨0, 24, .ro⟩, ⟨24, 7, .ro⟩, ⟨31, 1, .ro⟩, ⟨32, 1, .w1c⟩], [0x0]⟩,
  ⟨.channel, 0x20, 1, 8, [⟨0, 24, .rw⟩, ⟨24, 2, .rw⟩, ⟨26, 1, .w1s⟩], [0x1000000]⟩]

/-- STACK_CTRL, STACK_STATUS. -/
def regDefsStack : List RegDef := [
  ⟨.stack, 0x0, 1, 8, [⟨0, 1, .rw⟩], [0x0]⟩,
  ⟨.stack, 0x8, 1, 8, [⟨0, 2, .ro⟩, ⟨8, 8, .ro⟩, ⟨16, 7, .ro⟩], [0x0]⟩]

/-- HBM_CONFIG, HBM_STATUS, CACHE_CTRL, CACHE_COUNTS, HINT_RANGE, POOL_CFG, POOL_STATUS. -/
def regDefsGlob74 : List RegDef := [
  ⟨.glob, 0x740000, 1, 8, [⟨0, 7, .rws⟩, ⟨8, 10, .rws⟩, ⟨24, 8, .rws⟩, ⟨32, 1, .w1s⟩], [0x18000000]⟩,
  ⟨.glob, 0x740008, 1, 8, [⟨0, 2, .ro⟩, ⟨8, 10, .ro⟩, ⟨18, 10, .ro⟩, ⟨28, 7, .ro⟩, ⟨35, 1, .ro⟩, ⟨36, 1, .ro⟩], [0x0]⟩,
  ⟨.glob, 0x740010, 1, 8, [⟨0, 4, .rws⟩, ⟨4, 1, .rws⟩], [0x18]⟩,
  ⟨.glob, 0x740018, 1, 8, [⟨0, 32, .rc⟩, ⟨32, 32, .rc⟩], [0x0]⟩,
  ⟨.glob, 0x740040, 8, 8, [⟨0, 19, .rw⟩, ⟨19, 19, .rw⟩, ⟨38, 2, .rw⟩, ⟨40, 2, .rw⟩, ⟨42, 1, .rw⟩], [0x0]⟩,
  ⟨.glob, 0x740080, 8, 8, [⟨0, 5, .rws⟩, ⟨8, 24, .rws⟩, ⟨32, 4, .rws⟩], [0x10080000c, 0xf0100000c, 0xf0200000d, 0xf00010014, 0xf0000001a, 0xf00010013, 0xf0000000c]⟩,
  ⟨.glob, 0x7400c0, 8, 8, [⟨0, 24, .ro⟩, ⟨24, 24, .ro⟩, ⟨48, 16, .rc⟩], [0x0]⟩]

/-- SW_BUF_CFG, SW_COLL_CFG, SW_BUF_STATUS, SW_CLASS_CFG, SW_CLASS_STATUS, SIEVE_CTRL, SIEVE_FILTER, SIEVE_BASE, SIEVE_PROD, SIEVE_CONS, SIEVE_COUNTS. -/
def regDefsGlob28 : List RegDef := [
  ⟨.glob, 0x280000, 1, 8, [⟨0, 21, .rws⟩, ⟨21, 21, .rws⟩], [0x10000030000]⟩,
  ⟨.glob, 0x280008, 1, 8, [⟨0, 3, .rws⟩, ⟨4, 3, .rws⟩, ⟨8, 16, .rws⟩], [0x3e821]⟩,
  ⟨.glob, 0x280010, 1, 8, [⟨0, 21, .ro⟩, ⟨21, 21, .ro⟩, ⟨42, 21, .ro⟩, ⟨63, 1, .ro⟩], [0x2c000]⟩,
  ⟨.glob, 0x280040, 8, 8, [⟨0, 20, .rws⟩, ⟨20, 3, .rws⟩, ⟨24, 8, .rws⟩], [0x10700800, 0x10600800, 0x10500800, 0x10400800, 0x10300800, 0x10200800, 0x10100800, 0x10000800]⟩,
  ⟨.glob, 0x280080, 8, 8, [⟨0, 21, .ro⟩, ⟨32, 32, .rc⟩], [0x0]⟩,
  ⟨.glob, 0x280100, 1, 8, [⟨0, 1, .rw⟩, ⟨8, 5, .rws⟩, ⟨16, 4, .rws⟩, ⟨32, 24, .rws⟩], [0x100000c00]⟩,
  ⟨.glob, 0x280108, 1, 8, [⟨0, 7, .rws⟩, ⟨8, 8, .rws⟩, ⟨16, 10, .rws⟩, ⟨26, 1, .rws⟩, ⟨27, 1, .rws⟩, ⟨28, 8, .rws⟩, ⟨36, 16, .rws⟩], [0x3ffff03]⟩,
  ⟨.glob, 0x280110, 1, 8, [⟨0, 64, .rws⟩], [0x0]⟩,
  ⟨.glob, 0x280118, 1, 8, [⟨0, 32, .ro⟩], [0x0]⟩,
  ⟨.glob, 0x280120, 1, 8, [⟨0, 32, .rw⟩], [0x0]⟩,
  ⟨.glob, 0x280128, 1, 8, [⟨0, 32, .rc⟩, ⟨32, 32, .rc⟩], [0x0]⟩]

/-- PORT_STATUS, PORT_HELLO1, PORT_HELLO2, PORT_ERRORS, PORT_TRAFFIC, PORT_SHAPE, CLASS_WEIGHT, SCHED_VTIME, LAT_STATUS, CLASS_QMAP, CLASS_LAT, POL_CFG, POL_BUCKETS, POL_COUNTS. -/
def regDefsDport : List RegDef := [
  ⟨.dport, 0x0, 1, 8, [⟨0, 2, .ro⟩, ⟨2, 1, .ro⟩], [0x0]⟩,
  ⟨.dport, 0x8, 1, 8, [⟨0, 64, .ro⟩], [0x0]⟩,
  ⟨.dport, 0x10, 1, 8, [⟨0, 64, .ro⟩], [0x0]⟩,
  ⟨.dport, 0x18, 1, 8, [⟨0, 16, .rc⟩, ⟨16, 16, .rc⟩, ⟨32, 16, .rc⟩, ⟨48, 16, .rc⟩], [0x0]⟩,
  ⟨.dport, 0x20, 1, 8, [⟨0, 32, .ro⟩, ⟨32, 32, .ro⟩], [0x0]⟩,
  ⟨.dport, 0x40, 1, 8, [⟨0, 22, .rw⟩, ⟨22, 16, .rw⟩], [0x0]⟩,
  ⟨.dport, 0x48, 1, 8, [⟨0, 8, .rw⟩, ⟨8, 8, .rw⟩, ⟨16, 8, .rw⟩, ⟨24, 8, .rw⟩, ⟨32, 8, .rw⟩, ⟨40, 8, .rw⟩], [0x101010101010]⟩,
  ⟨.dport, 0x90, 1, 8, [⟨0, 48, .ro⟩], [0x0]⟩,
  ⟨.dport, 0x98, 1, 8, [⟨0, 8, .w1c⟩], [0x0]⟩,
  ⟨.dport, 0x50, 8, 8, [⟨0, 10, .rws⟩, ⟨10, 4, .rws⟩], [0x1400, 0x1420, 0x1440, 0x1460, 0x1480, 0x14a0, 0x14c0, 0x14e0]⟩,
  ⟨.dport, 0xa0, 8, 8, [⟨0, 24, .rw⟩, ⟨24, 32, .rc⟩], [0x0]⟩,
  ⟨.dport, 0x100, 9, 24, [⟨0, 2, .rw⟩, ⟨2, 1, .rw⟩, ⟨3, 2, .rw⟩, ⟨5, 1, .rw⟩, ⟨6, 1, .rw⟩, ⟨8, 22, .rw⟩, ⟨30, 22, .rw⟩], [0x40]⟩,
  ⟨.dport, 0x108, 9, 24, [⟨0, 24, .rw⟩, ⟨24, 24, .rw⟩], [0x0]⟩,
  ⟨.dport, 0x110, 9, 24, [⟨0, 21, .rc⟩, ⟨21, 21, .rc⟩, ⟨42, 21, .rc⟩], [0x0]⟩]

/-- PORT_STATUS, PORT_HELLO1, PORT_HELLO2, PORT_ERRORS, PORT_TRAFFIC, PORT_SHAPE, CLASS_WEIGHT, SCHED_VTIME, LAT_STATUS, CLASS_QMAP, CLASS_LAT. -/
def regDefsTport : List RegDef := [
  ⟨.tport, 0x0, 1, 8, [⟨0, 2, .ro⟩, ⟨2, 1, .ro⟩], [0x0]⟩,
  ⟨.tport, 0x8, 1, 8, [⟨0, 64, .ro⟩], [0x0]⟩,
  ⟨.tport, 0x10, 1, 8, [⟨0, 64, .ro⟩], [0x0]⟩,
  ⟨.tport, 0x18, 1, 8, [⟨0, 16, .rc⟩, ⟨16, 16, .rc⟩, ⟨32, 16, .rc⟩, ⟨48, 16, .rc⟩], [0x0]⟩,
  ⟨.tport, 0x20, 1, 8, [⟨0, 32, .ro⟩, ⟨32, 32, .ro⟩], [0x0]⟩,
  ⟨.tport, 0x40, 1, 8, [⟨0, 22, .rw⟩, ⟨22, 16, .rw⟩], [0x0]⟩,
  ⟨.tport, 0x48, 1, 8, [⟨0, 8, .rw⟩, ⟨8, 8, .rw⟩, ⟨16, 8, .rw⟩, ⟨24, 8, .rw⟩, ⟨32, 8, .rw⟩, ⟨40, 8, .rw⟩], [0x101010101010]⟩,
  ⟨.tport, 0x90, 1, 8, [⟨0, 48, .ro⟩], [0x0]⟩,
  ⟨.tport, 0x98, 1, 8, [⟨0, 8, .w1c⟩], [0x0]⟩,
  ⟨.tport, 0x50, 8, 8, [⟨0, 10, .rws⟩, ⟨10, 4, .rws⟩], [0x1c00, 0x1c80, 0x1d00, 0x1d80, 0x1e00, 0x1e80, 0x1f00, 0x1f80]⟩,
  ⟨.tport, 0xa0, 8, 8, [⟨0, 24, .rw⟩, ⟨24, 32, .rc⟩], [0x0]⟩]

/-- Q_SHAPE, Q_STATUS, Q_HWM, Q_TAG. -/
def regDefsDqueue : List RegDef := [
  ⟨.dqueue, 0x0, 1, 8, [⟨0, 22, .rw⟩, ⟨22, 16, .rw⟩, ⟨38, 8, .rw⟩], [0x40000000000]⟩,
  ⟨.dqueue, 0x8, 1, 8, [⟨0, 21, .ro⟩, ⟨21, 1, .ro⟩, ⟨22, 1, .ro⟩, ⟨23, 1, .ro⟩, ⟨32, 24, .ro⟩], [0x0]⟩,
  ⟨.dqueue, 0x10, 1, 8, [⟨0, 21, .rc⟩, ⟨24, 32, .rc⟩], [0x0]⟩,
  ⟨.dqueue, 0x18, 1, 8, [⟨0, 48, .ro⟩], [0x0]⟩]

/-- Q_SHAPE, Q_STATUS, Q_HWM, Q_TAG. -/
def regDefsTqueue : List RegDef := [
  ⟨.tqueue, 0x0, 1, 8, [⟨0, 22, .rw⟩, ⟨22, 16, .rw⟩, ⟨38, 8, .rw⟩], [0x40000000000]⟩,
  ⟨.tqueue, 0x8, 1, 8, [⟨0, 21, .ro⟩, ⟨21, 1, .ro⟩, ⟨22, 1, .ro⟩, ⟨23, 1, .ro⟩, ⟨32, 24, .ro⟩], [0x0]⟩,
  ⟨.tqueue, 0x10, 1, 8, [⟨0, 21, .rc⟩, ⟨24, 32, .rc⟩], [0x0]⟩,
  ⟨.tqueue, 0x18, 1, 8, [⟨0, 48, .ro⟩], [0x0]⟩]

/-- ROUTE_CTRL, ROUTE_STATUS, ROUTE_COUNTS, LINK_MAP. -/
def regDefsGlob29 : List RegDef := [
  ⟨.glob, 0x290000, 1, 8, [⟨0, 16, .rws⟩, ⟨16, 8, .rws⟩, ⟨24, 1, .rw⟩], [0x10a0064]⟩,
  ⟨.glob, 0x290008, 1, 8, [⟨0, 32, .ro⟩, ⟨32, 8, .ro⟩, ⟨40, 13, .ro⟩], [0x0]⟩,
  ⟨.glob, 0x290010, 1, 8, [⟨0, 32, .rc⟩, ⟨32, 32, .rc⟩], [0x0]⟩,
  ⟨.glob, 0x290040, 6, 8, [⟨0, 64, .ro⟩], [0x0]⟩]

/-- HOSE_CFG, HOSE_STATE, HOSE_WIN, HOSE_COUNTS. -/
def regDefsHose : List RegDef := [
  ⟨.hose, 0x0, 1, 8, [⟨0, 2, .ro⟩, ⟨2, 3, .ro⟩, ⟨5, 6, .ro⟩, ⟨11, 3, .ro⟩, ⟨14, 12, .ro⟩, ⟨26, 16, .ro⟩, ⟨42, 10, .ro⟩], [0x0]⟩,
  ⟨.hose, 0x8, 1, 8, [⟨0, 3, .ro⟩, ⟨3, 4, .ro⟩, ⟨7, 24, .ro⟩, ⟨31, 16, .ro⟩], [0x0]⟩,
  ⟨.hose, 0x10, 1, 8, [⟨0, 32, .ro⟩, ⟨32, 32, .ro⟩], [0x0]⟩,
  ⟨.hose, 0x18, 1, 8, [⟨0, 32, .ro⟩, ⟨32, 16, .rc⟩, ⟨48, 16, .rc⟩], [0x0]⟩]

/-- LANE_CTRL, LANE_STATUS, LANE_TXEQ, LANE_RXEQ, LANE_DFE0, LANE_DFE1, LANE_FEC, LANE_TEST, LANE_USER, LANE_CHECK, LANE_INJECT, LANE_PORT, LANE_PORT_STATUS. -/
def regDefsLane : List RegDef := [
  ⟨.lane, 0x0, 1, 8, [⟨0, 1, .rw⟩, ⟨1, 3, .rws⟩, ⟨4, 1, .rws⟩, ⟨5, 1, .rws⟩, ⟨6, 1, .w1s⟩], [0x1]⟩,
  ⟨.lane, 0x8, 1, 8, [⟨0, 3, .ro⟩, ⟨3, 1, .ro⟩, ⟨4, 1, .ro⟩, ⟨5, 1, .ro⟩, ⟨8, 3, .ro⟩, ⟨16, 16, .rc⟩, ⟨32, 16, .rc⟩], [0x0]⟩,
  ⟨.lane, 0x10, 1, 8, [⟨0, 5, .rws⟩, ⟨5, 5, .rws⟩, ⟨10, 6, .rws⟩, ⟨16, 5, .rws⟩], [0x0]⟩,
  ⟨.lane, 0x18, 1, 8, [⟨0, 1, .rws⟩, ⟨1, 1, .rw⟩, ⟨4, 4, .rws⟩, ⟨8, 8, .ro⟩], [0x81]⟩,
  ⟨.lane, 0x20, 1, 8, [⟨0, 8, .rws⟩, ⟨8, 8, .rws⟩, ⟨16, 8, .rws⟩, ⟨24, 8, .rws⟩, ⟨32, 8, .rws⟩, ⟨40, 8, .rws⟩, ⟨48, 8, .rws⟩, ⟨56, 8, .rws⟩], [0x0]⟩,
  ⟨.lane, 0x28, 1, 8, [⟨0, 8, .rws⟩, ⟨8, 8, .rws⟩, ⟨16, 8, .rws⟩, ⟨24, 8, .rws⟩], [0x0]⟩,
  ⟨.lane, 0x30, 1, 8, [⟨0, 32, .rc⟩, ⟨32, 32, .rc⟩], [0x0]⟩,
  ⟨.lane, 0x38, 1, 8, [⟨0, 3, .rws⟩, ⟨3, 1, .rws⟩, ⟨4, 1, .ro⟩], [0x2]⟩,
  ⟨.lane, 0x40, 1, 8, [⟨0, 64, .rws⟩], [0x0]⟩,
  ⟨.lane, 0x48, 1, 8, [⟨0, 32, .rc⟩, ⟨32, 32, .rc⟩], [0x0]⟩,
  ⟨.lane, 0x50, 1, 8, [⟨0, 1, .w1s⟩, ⟨1, 1, .rw⟩, ⟨2, 5, .rw⟩, ⟨7, 2, .rw⟩, ⟨9, 6, .rw⟩], [0x2004]⟩,
  ⟨.lane, 0x100, 1, 8, [⟨0, 5, .rws⟩, ⟨5, 1, .rw⟩, ⟨8, 10, .rw⟩, ⟨18, 14, .rw⟩, ⟨32, 8, .rw⟩, ⟨40, 4, .rw⟩, ⟨48, 8, .rws⟩], [0x4080a0000c820]⟩,
  ⟨.lane, 0x108, 1, 8, [⟨0, 16, .ro⟩, ⟨16, 16, .ro⟩, ⟨32, 2, .ro⟩, ⟨34, 2, .ro⟩], [0x0]⟩]

/-- REF_CTRL, REF_STATUS. -/
def regDefsGlob39 : List RegDef := [
  ⟨.glob, 0x390000, 1, 8, [⟨0, 3, .rw⟩, ⟨3, 1, .rw⟩, ⟨4, 12, .rw⟩], [0x0]⟩,
  ⟨.glob, 0x390008, 1, 8, [⟨0, 2, .ro⟩, ⟨2, 1, .ro⟩, ⟨4, 24, .ro⟩], [0x0]⟩]

/-- SYNC_CTRL, SYNC_STATUS, SYNC_SEL, SYNC_VAL, SYNC_DEADLOCK, SYNC_GROUP_SIZE, SYNC_OVF, SYNC_UNF. -/
def regDefsGlob4 : List RegDef := [
  ⟨.glob, 0x40000, 1, 8, [⟨0, 14, .rws⟩, ⟨14, 15, .rws⟩, ⟨32, 16, .rw⟩], [0x3e800000000]⟩,
  ⟨.glob, 0x40008, 1, 8, [⟨0, 32, .rc⟩, ⟨32, 17, .ro⟩], [0x0]⟩,
  ⟨.glob, 0x40010, 1, 8, [⟨0, 14, .rw⟩], [0x0]⟩,
  ⟨.glob, 0x40018, 1, 8, [⟨0, 32, .rw⟩, ⟨32, 1, .ro⟩, ⟨33, 1, .ro⟩, ⟨34, 17, .ro⟩], [0x0]⟩,
  ⟨.glob, 0x40020, 4, 8, [⟨0, 64, .w1c⟩], [0x0]⟩,
  ⟨.glob, 0x40800, 256, 8, [⟨0, 17, .rw⟩], [0x0]⟩,
  ⟨.glob, 0x41000, 256, 8, [⟨0, 64, .w1c⟩], [0x0]⟩,
  ⟨.glob, 0x41800, 256, 8, [⟨0, 64, .w1c⟩], [0x0]⟩]

/-- DR_DOORBELL, DR_BASE, DR_CTRL, DR_STATUS. -/
def regDefsDring : List RegDef := [
  ⟨.dring, 0x0, 1, 8, [⟨0, 32, .rw⟩], [0x0]⟩,
  ⟨.dring, 0x8, 1, 8, [⟨0, 52, .rws⟩], [0x0]⟩,
  ⟨.dring, 0x10, 1, 8, [⟨0, 1, .rw⟩, ⟨1, 5, .rws⟩, ⟨8, 8, .rws⟩], [0x10c]⟩,
  ⟨.dring, 0x18, 1, 8, [⟨0, 32, .ro⟩, ⟨32, 3, .ro⟩, ⟨36, 3, .ro⟩, ⟨40, 4, .ro⟩], [0x0]⟩]

/-- CR_DOORBELL, CR_BASE, CR_CTRL, CR_STATUS. -/
def regDefsCring : List RegDef := [
  ⟨.cring, 0x0, 1, 8, [⟨0, 32, .rw⟩, ⟨32, 1, .w1s⟩], [0x0]⟩,
  ⟨.cring, 0x8, 1, 8, [⟨0, 52, .rws⟩], [0x0]⟩,
  ⟨.cring, 0x10, 1, 8, [⟨0, 1, .rw⟩, ⟨1, 5, .rws⟩, ⟨8, 8, .rw⟩, ⟨16, 16, .rw⟩, ⟨32, 16, .rw⟩], [0x10c]⟩,
  ⟨.cring, 0x18, 1, 8, [⟨0, 32, .ro⟩, ⟨32, 1, .ro⟩, ⟨33, 1, .ro⟩, ⟨40, 16, .ro⟩], [0x0]⟩]

/-- FAULT_CTRL, FAULT_FIRST, FAULT_TIME, FAULT_LINES, FAULT_WIRES, FAULT_ACTION, FAULT_COUNTS, HB_CTRL, HEARTBEAT, HEADLESS, RESET_CTRL, RESET_STATUS, TWIN_CTRL, TWIN_STATUS, TWIN_DIVERGE0, TWIN_DIVERGE1, TWIN_DIVERGE2, TWIN_DIVERGE3, TWIN_DIVERGE4. -/
def regDefsGlob2 : List RegDef := [
  ⟨.glob, 0x20000, 1, 8, [⟨0, 20, .rw⟩], [0x3e8]⟩,
  ⟨.glob, 0x20008, 1, 8, [⟨0, 8, .ro⟩, ⟨8, 1, .w1c⟩, ⟨9, 1, .w1c⟩, ⟨10, 1, .ro⟩, ⟨11, 1, .ro⟩, ⟨16, 16, .ro⟩, ⟨32, 32, .ro⟩], [0x0]⟩,
  ⟨.glob, 0x20010, 1, 8, [⟨0, 64, .ro⟩], [0x0]⟩,
  ⟨.glob, 0x20018, 1, 8, [⟨0, 64, .ro⟩], [0x0]⟩,
  ⟨.glob, 0x20020, 1, 8, [⟨0, 64, .ro⟩], [0x0]⟩,
  ⟨.glob, 0x20028, 1, 8, [⟨2, 2, .ro⟩, ⟨4, 2, .rw⟩, ⟨6, 2, .rw⟩, ⟨8, 2, .rw⟩, ⟨10, 2, .rw⟩, ⟨12, 2, .ro⟩, ⟨14, 2, .rw⟩, ⟨16, 2, .ro⟩, ⟨18, 2, .rw⟩, ⟨20, 2, .rw⟩, ⟨22, 2, .rw⟩, ⟨24, 2, .rw⟩, ⟨26, 2, .ro⟩, ⟨28, 2, .rw⟩, ⟨30, 2, .rw⟩, ⟨32, 2, .ro⟩, ⟨34, 2, .ro⟩, ⟨36, 2, .ro⟩, ⟨38, 2, .ro⟩, ⟨40, 2, .ro⟩, ⟨42, 2, .ro⟩], [0x3c80000000]⟩,
  ⟨.glob, 0x20030, 1, 8, [⟨0, 32, .rc⟩, ⟨32, 32, .rc⟩], [0x0]⟩,
  ⟨.glob, 0x20100, 1, 8, [⟨0, 1, .rw⟩, ⟨8, 16, .rw⟩], [0x6400]⟩,
  ⟨.glob, 0x20108, 1, 8, [⟨0, 32, .rw⟩], [0x0]⟩,
  ⟨.glob, 0x20110, 1, 8, [⟨0, 1, .ro⟩, ⟨1, 2, .ro⟩, ⟨3, 1, .w1s⟩, ⟨32, 32, .ro⟩], [0x0]⟩,
  ⟨.glob, 0x20200, 1, 8, [⟨0, 5, .w1s⟩, ⟨5, 1, .w1s⟩, ⟨8, 8, .rw⟩, ⟨16, 10, .rw⟩, ⟨26, 1, .w1s⟩], [0x0]⟩,
  ⟨.glob, 0x20208, 1, 8, [⟨0, 3, .ro⟩, ⟨3, 1, .ro⟩, ⟨8, 8, .ro⟩, ⟨16, 16, .rc⟩, ⟨32, 16, .rc⟩], [0x0]⟩,
  ⟨.glob, 0x20300, 1, 8, [⟨0, 1, .rws⟩, ⟨1, 8, .rws⟩], [0x1fe]⟩,
  ⟨.glob, 0x20308, 1, 8, [⟨0, 2, .ro⟩, ⟨32, 32, .ro⟩], [0x0]⟩,
  ⟨.glob, 0x20310, 1, 8, [⟨0, 64, .ro⟩], [0x0]⟩,
  ⟨.glob, 0x20318, 1, 8, [⟨0, 32, .ro⟩, ⟨32, 8, .ro⟩, ⟨40, 16, .ro⟩], [0x0]⟩,
  ⟨.glob, 0x20320, 1, 8, [⟨0, 64, .ro⟩], [0x0]⟩,
  ⟨.glob, 0x20328, 1, 8, [⟨0, 32, .ro⟩, ⟨32, 32, .ro⟩], [0x0]⟩,
  ⟨.glob, 0x20330, 1, 8, [⟨0, 16, .ro⟩], [0x0]⟩]

/-- SB_IDENT, SB_STATE, SB_REQUEST, SB_EVENTS, SB_STAGE0, SB_STAGE1, SB_COMMIT, SB_POWER, SB_TEMP. -/
def regDefsGlobSb : List RegDef := [
  ⟨.glob, 0x100000000, 1, 8, [⟨0, 64, .ro⟩], [0x0]⟩,
  ⟨.glob, 0x100000008, 1, 8, [⟨0, 3, .ro⟩, ⟨3, 1, .ro⟩, ⟨4, 1, .ro⟩, ⟨5, 8, .ro⟩, ⟨13, 3, .ro⟩, ⟨16, 1, .ro⟩], [0x0]⟩,
  ⟨.glob, 0x100000010, 1, 8, [⟨0, 1, .w1s⟩, ⟨1, 1, .w1s⟩, ⟨2, 1, .w1s⟩, ⟨8, 8, .rw⟩, ⟨16, 2, .ro⟩], [0x0]⟩,
  ⟨.glob, 0x100000018, 1, 8, [⟨0, 8, .w1c⟩, ⟨8, 8, .rw⟩], [0x0]⟩,
  ⟨.glob, 0x100000020, 1, 8, [⟨0, 63, .rw⟩], [0x0]⟩,
  ⟨.glob, 0x100000028, 1, 8, [⟨0, 9, .rw⟩], [0x0]⟩,
  ⟨.glob, 0x100000030, 1, 8, [⟨0, 1, .w1s⟩, ⟨8, 4, .ro⟩, ⟨32, 32, .ro⟩], [0x0]⟩,
  ⟨.glob, 0x100000040, 1, 8, [⟨0, 64, .ro⟩], [0x0]⟩,
  ⟨.glob, 0x100000048, 1, 8, [⟨0, 64, .ro⟩], [0x0]⟩]

/-- PWR_CTRL, PWR_STATUS, PWR_BROWNOUT, HOLDUP, THERM_STATUS, PD_STATE, PD_RETAIN. -/
def regDefsGlob1 : List RegDef := [
  ⟨.glob, 0x10000, 1, 8, [⟨0, 12, .rw⟩, ⟨12, 12, .rw⟩, ⟨24, 8, .rw⟩, ⟨32, 1, .w1s⟩], [0x18640000]⟩,
  ⟨.glob, 0x10008, 1, 8, [⟨0, 16, .ro⟩, ⟨16, 12, .ro⟩, ⟨28, 1, .ro⟩, ⟨29, 1, .ro⟩, ⟨30, 1, .ro⟩, ⟨32, 4, .ro⟩, ⟨36, 3, .ro⟩, ⟨48, 16, .rc⟩], [0xf00000000]⟩,
  ⟨.glob, 0x10010, 1, 8, [⟨0, 16, .rc⟩, ⟨16, 16, .rc⟩, ⟨32, 32, .ro⟩], [0xffff0000]⟩,
  ⟨.glob, 0x10018, 1, 8, [⟨0, 16, .ro⟩, ⟨16, 16, .ro⟩, ⟨32, 12, .ro⟩, ⟨44, 1, .ro⟩], [0x0]⟩,
  ⟨.glob, 0x10028, 1, 8, [⟨0, 8, .ro⟩, ⟨8, 8, .ro⟩, ⟨16, 8, .ro⟩, ⟨24, 8, .ro⟩, ⟨32, 8, .ro⟩, ⟨40, 1, .ro⟩, ⟨41, 4, .ro⟩], [0x0]⟩,
  ⟨.glob, 0x10040, 5, 8, [⟨0, 64, .ro⟩], [0x0]⟩,
  ⟨.glob, 0x10080, 5, 8, [⟨0, 64, .ro⟩], [0x0]⟩]

/-- BOOT_CTRL, BOOT_ADDR, BOOT_LEN, BOOT_STATUS, MEAS_STEWARD, MEAS_UCODE, IMAGE_STEWARD, IMAGE_UCODE, KEYID_STEWARD, KEYID_UCODE, DEVICE_KEY_ID. -/
def regDefsGlob5 : List RegDef := [
  ⟨.glob, 0x50000, 1, 8, [⟨0, 2, .rw⟩, ⟨2, 1, .w1s⟩], [0x0]⟩,
  ⟨.glob, 0x50008, 1, 8, [⟨0, 52, .rw⟩], [0x0]⟩,
  ⟨.glob, 0x50010, 1, 8, [⟨0, 22, .rw⟩], [0x0]⟩,
  ⟨.glob, 0x50018, 1, 8, [⟨0, 3, .ro⟩, ⟨4, 4, .ro⟩, ⟨8, 1, .ro⟩, ⟨9, 1, .ro⟩, ⟨32, 32, .ro⟩], [0x0]⟩,
  ⟨.glob, 0x50040, 8, 8, [⟨0, 64, .ro⟩], [0x0]⟩,
  ⟨.glob, 0x50080, 8, 8, [⟨0, 64, .ro⟩], [0x0]⟩,
  ⟨.glob, 0x500c0, 1, 8, [⟨0, 32, .ro⟩, ⟨32, 32, .ro⟩], [0x0]⟩,
  ⟨.glob, 0x500c8, 1, 8, [⟨0, 32, .ro⟩, ⟨32, 32, .ro⟩], [0x0]⟩,
  ⟨.glob, 0x500d0, 1, 8, [⟨0, 64, .ro⟩], [0x0]⟩,
  ⟨.glob, 0x500d8, 1, 8, [⟨0, 64, .ro⟩], [0x0]⟩,
  ⟨.glob, 0x500e0, 1, 8, [⟨0, 64, .ro⟩], [0x0]⟩]

/-- The register definitions of a block kind; the fixed-offset registers are grouped by 64 KiB page. -/
def regDefsOf (b : Blk) (off : Nat) : List RegDef :=
  match b with
  | .dport => regDefsDport
  | .tport => regDefsTport
  | .lane => regDefsLane
  | .furrow => regDefsFurrow
  | .engine => regDefsEngine
  | .channel => regDefsChannel
  | .stack => regDefsStack
  | .dqueue => regDefsDqueue
  | .tqueue => regDefsTqueue
  | .hose => regDefsHose
  | .dring => regDefsDring
  | .cring => regDefsCring
  | .glob =>
    if off ≥ sbBase then regDefsGlobSb else
    match off / 0x10000 with
    | 0x0 => regDefsGlob0
    | 0x3 => regDefsGlob3
    | 0x44 => regDefsGlob44
    | 0x74 => regDefsGlob74
    | 0x28 => regDefsGlob28
    | 0x29 => regDefsGlob29
    | 0x39 => regDefsGlob39
    | 0x4 => regDefsGlob4
    | 0x2 => regDefsGlob2
    | 0x1 => regDefsGlob1
    | 0x5 => regDefsGlob5
    | _ => []

end Sys2Proof.Machine
end

