-- ==== Sys2Proof/Machine/State.lean ====
section
/-! DEFINITION. The state of the block as plain data: everything that spec/ gives it. Registers that the register window or the
sideband shows stand in `Ilpiac.regs`, by their offset (Machine/RegMap.lean); every other piece of state has a field of its own. A
table `List (Nat × X)` is canonical (`Map.put`): an index that it does not list holds the initial value of its kind. -/

namespace Sys2Proof.Machine

/-! ### Switch core (09), scheduling (10), routing and hoses (11) -/

/-- The area of the packet buffer that a packet occupies (R328); `hose` is the cells that a hose set aside (R371). -/
inductive Area where
  | control | retain | contrib | land | shared | hose
deriving DecidableEq, Repr

/-- A packet in the packet buffer (R328, R330): its area and cells, where it came in, the number of egress-queue pointers to it,
whether retention or a context holds it, whether its CRC was wrong when it left by cut-through, the landing cells (port, class)
that it still occupies, and the hose that it travels on here (R372, R373). -/
structure BufPkt where
  id : Nat
  pkt : Packet
  area : Area
  cells : Nat
  ingress : Nat
  refs : Nat
  held : Bool
  crcBad : Bool
  land : Option (Nat × Nat)
  hose : Option Nat
deriving DecidableEq, Repr

/-- A pointer in an egress queue: the packet, when it was enqueued (fabric time, ns), its size (R340, R356) and its place in the order
of all enqueues (R329). -/
structure QEnt where
  id : Nat
  since : Nat
  size : Nat
  order : Nat
deriving DecidableEq, Repr

/-- What the registers do not show of a queue: its finish tag, and its bucket in 1/65,536 byte (R348, R351). -/
structure QueueX where
  finish : Nat
  tokens : Int
deriving DecidableEq, Repr

/-- What the registers do not show of a class of a port: class tags, the virtual time of its queue level, the queue served last
(R347, R348), and the landing figures of R313 and R314: cells in use, FREED and RECEIVED of this end as a receiver, SENT of this end
as a sender, and the partner's LAND, FREED and SENT. -/
structure ClassX where
  start : Nat
  finish : Nat
  vq : Nat
  last : Nat
  landUsed : Nat
  freed : Nat
  received : Nat
  sent : Nat
  pLand : Nat
  pFreed : Nat
deriving DecidableEq, Repr

/-- The buckets of a policer, in 1/65,536 byte (R354). -/
structure PolX where
  tc : Nat
  te : Nat
deriving DecidableEq, Repr

/-- A copy in transmission on a port (R346): packet, class, queue, and whether it is to end with a stomped CRC. -/
structure TxRec where
  id : Nat
  pkt : Packet
  cls : Nat
  queue : Nat
  stomp : Bool
deriving DecidableEq, Repr

/-- A response kept for a member (R322, R432): the tag and the response packet. -/
structure Kept where
  tag : Nat
  rsp : Packet
deriving DecidableEq, Repr

/-- What the registers do not show of a port (0–255 D, 256–261 T). -/
structure PortX where
  cls : List (Nat × ClassX)
  tokens : Int
  tx : Option TxRec
  pol : List (Nat × PolX)
  /-- landed packets in order of arrival, by packet number -/
  landed : List Nat
  /-- a trunk port held by a FENCE of the collector (R492) -/
  fenceHeld : Bool
  amoKept : List Kept
  amoLatest : Option Nat
  syncKept : List Kept
  syncLatest : Option Nat
deriving DecidableEq, Repr

/-- What the registers do not show of a hose entry (R369 to R379): its setup identifier, the label and port toward the source, the
source and sink beds, the hop that it takes, the packets that wait at the origin, the cells set aside, the CONSUMED last reported,
the descriptor that waits for its opening or closing, whether a close has been accepted, and whether it has left its first path. -/
structure HoseX where
  setupId : Nat
  prevLabel : Nat
  prevPort : Nat
  srcBed : Nat
  hop : Nat
  waiting : List Packet
  aside : Nat
  reported : Nat
  desc : Option (Nat × Nat)
  closing : Bool
  rerouted : Bool
deriving DecidableEq, Repr

/-- The switch core. -/
structure Switch where
  buf : List BufPkt
  nextId : Nat
  nextOrder : Nat
  queues : List (Nat × List QEnt)
  qx : List (Nat × QueueX)
  ports : List (Nat × PortX)
  hoses : List (Nat × HoseX)
  nextSetup : Nat
  /-- torn hoses whose HOSE_CLOSE waits for TORN: hose, setup identifier, ring and number of the descriptor (R375) -/
  closes : List (Nat × (Nat × (Nat × Nat)))
  /-- cells of the CONTROL area in use -/
  control : Nat
  /-- last TRUNK_STATE serial applied, by origin bed (R364) -/
  serials : List (Nat × Nat)
  ownSerial : Nat
  /-- matching events counted by the sieve since the last kept one (R335) -/
  sample : Nat
deriving DecidableEq, Repr

/-! ### Companion control (14) and the fault collector (15) -/

/-- A Holm message of R455 from the Ilpiac to the companion. -/
inductive HolmMsg where
  | assignAck
  | regData (data : List Byte)
  | apertureData (data : List Byte) (poison : Bool)
  | cohRead (addr : Nat)
  | cohWrite (addr : Nat) (data : List Byte)
  | interrupt (vector : Nat)
deriving DecidableEq, Repr

/-- A DATA flit of the Holm port in the replay buffer (R453): its sequence number, its message and how often it was sent. -/
structure HolmFlit where
  seq : Nat
  msg : HolmMsg
  sends : Nat
deriving DecidableEq, Repr

/-- The Holm link layer (R453): unacknowledged flits, messages that wait for room in the replay buffer, the number of the next
flit, the
number of the last flit acknowledged to the companion, and whether the port has reached UP since the last reset (R499). -/
structure Holm where
  replay : List HolmFlit
  waiting : List HolmMsg
  nextSeq : Nat
  ackSent : Nat
  wasUp : Bool
deriving DecidableEq, Repr

/-- An accepted descriptor whose completion record has not been written (R468): ring, number, words W0 to W7, whether its operation
has begun, and whether its record is due. -/
structure AccDesc where
  ring : Nat
  num : Nat
  words : List Word
  started : Bool
  due : Bool
deriving DecidableEq, Repr

/-- A completion record that is due (R92, R472): its completion ring, its four words without PHASE, whether it asks for an
interrupt, the descriptor it reports, and the collective that it closes (R52, R473). -/
structure CplRec where
  cring : Nat
  words : List Word
  irq : Bool
  ring : Nat
  num : Nat
  coll : Option CollId
  /-- the communicator identifier that becomes free with this record (R48) -/
  frees : Option Nat
deriving DecidableEq, Repr

/-- Descriptors of a ring that have been fetched ahead of acceptance, by descriptor number (R467, R469); no words stand for one whose fetch ahead
of the head failed. -/
structure RingX where
  fetched : List (Nat × List Word)
deriving DecidableEq, Repr

/-- An assertion of a fault source (R489): source, unit, detail, broken pair, and whether it has been latched since it began. -/
structure Assertion where
  src : Nat
  unit : Nat
  detail : Nat
  wire : Bool
  latched : Bool
deriving DecidableEq, Repr

/-- A target on which a FENCE of the collector is in force (R492): a RUN_CTRL function, a descriptor ring or a completion ring. -/
inductive FenceTarget where
  | function (n : Nat)
  | dring (r : Nat)
  | cring (c : Nat)
deriving DecidableEq, Repr

/-- A fence in force and the source that took it. -/
structure Fence where
  src : Nat
  target : FenceTarget
deriving DecidableEq, Repr

/-- An entry of the fault log, or of the journal before it is committed (R493, R516): 32 bytes. -/
structure LogEntry where
  time : Nat
  src : Nat
  wire : Bool
  action : Nat
  unit : Nat
  detail : Nat
  serial : Nat
deriving DecidableEq, Repr

/-- The fault collector: assertions in order of arrival, the last action of each source and the furrow cycle at which it was taken
(R490), the furrow cycle of the latest latch, fences in force, and sources whose action is due at once (R490: GRACE_US of 0, THERMAL,
STEWARD). -/
structure Faults where
  asserts : List Assertion
  lastAct : List (Nat × (Nat × Nat))
  fences : List Fence
  latchedAt : Nat
  due : List Nat
deriving DecidableEq, Repr

/-- A key and digest of twin mode (R503). -/
structure TwinRec where
  key : List Word
  digest : Nat
deriving DecidableEq, Repr

/-- Twin mode: own and partner digests that have found no counterpart, and own digests not sent yet (R503, R504). -/
structure Twin where
  own : List TwinRec
  partner : List TwinRec
  unsent : List TwinRec
deriving DecidableEq, Repr

/-- A register access that waits for the end of a warm reset (R494): a write of a whole register, of one field of a register, of half a
register, a read of `size` bytes, and an access that R15 does not allow. -/
inductive HeldAccess where
  | write (off : Nat) (v : Word)
  | field (off lo w v : Nat)
  | half (off : Nat) (upper : Bool) (v : BitVec 32)
  | read (off : Nat) (size : Nat)
  | misaligned (off : Nat) (write : Bool)
deriving DecidableEq, Repr

/-- The companion's side of the block. -/
structure ControlSide where
  holm : Holm
  drings : List (Nat × RingX)
  descs : List AccDesc
  cpl : List CplRec
  irqDue : List Nat
  /-- completion rings whose oldest pending record was written COAL_TIME ago while ARMED was 0 (R475) -/
  coalDue : List Nat
  /-- pending lower halves (R16) and latched upper halves (R549), by register offset -/
  pendLo : List (Nat × Nat)
  latchHi : List (Nat × Nat)
  held : List HeldAccess
  /-- writes of the Ilpiac into its own aperture that have not taken effect yet within the running command (R458) -/
  own : List (Nat × List Byte)
  /-- completion rings that take no record until they are enabled anew or the module resumes, after a loss of the companion (R500, R501) -/
  crWait : List Nat
  /-- a warm reset has begun and not ended (R494) -/
  resetting : Bool
  /-- a function reset of SWITCH, HBM, ... in progress, by function number (R492) -/
  funcReset : List Nat
deriving DecidableEq, Repr

/-! ### Collectives (02), furrows (04) and the trunk phase (05) -/

/-- The counters of COMM_QUERY (R84). -/
structure CommCounts where
  done : Nat
  failed : Nat
  replays : Nat
  duplicates : Nat
  saturations : Nat
  dropped : Nat
  badExpert : Nat
  stray : Nat
  lastMember : Nat
  lastLateness : Nat
  lastStep : Nat
  lastSeq : Nat
  admissionWait : Nat
  hist : List Nat
deriving DecidableEq, Repr

/-- A routing record of a dispatch: source member index, token, slot, expert and gating weight (S19 container) (R60, R317). -/
structure RouteEnt where
  src : Nat
  token : Nat
  slot : Nat
  expert : Nat
  gate : Nat
deriving DecidableEq, Repr

/-- The routing state of a dispatch (R61, R65): its step and sequence, its sizes, the routing records of the local members, the
per-expert valid-entry counts by bed, and the row-map entries received for experts owned in this bed, by (expert, row). -/
structure Routing where
  step : Nat
  seq : Nat
  tokens : Nat
  topk : Nat
  capacity : Nat
  rowBytes : Nat
  inFmt : Nat
  held : Bool
  ents : List RouteEnt
  counts : List (Nat × (Nat × List Nat))
  rowMap : List ((Nat × Nat) × Nat)
deriving DecidableEq, Repr

/-- A residual of error feedback (R187 to R189): collective tensor SEQ[31:8], chunk position, node number, column, its 8 KiB buffer in
HBM, the half of the buffer that holds the current values, the STEP of its stamp, the new values of open collectives (R188), and the
collective that wrote the other half last. -/
structure Residual where
  tensor : Nat
  k : Nat
  node : Nat
  col : Nat
  buf : Nat
  half : Nat
  stamp : Nat
  fresh : List (CollId × List F32)
  other : Option CollId
deriving DecidableEq, Repr

/-- A communicator record (R43 to R48, R87): what creation fixed, the digest, the marks of R47 and R59, the last (STEP, SEQ), the
quota and a waiting increase (target, ring, descriptor), routing states, counters and residuals. -/
structure Comm where
  id : Nat
  members : List Nat
  s19Trunc : Bool
  e5m2Inf : Bool
  compress : Bool
  feedback : Bool
  seedLo : Word
  seedHi : Word
  retentionNs : Nat
  replayLimit : Nat
  timeoutUs : Nat
  experts : List Nat
  digest : Nat
  mismatch : Bool
  stale : Bool
  lastKey : Option (Nat × Nat)
  quota : Nat
  quotaWait : Option (Nat × (Nat × Nat))
  quotaSet : Nat
  routes : List Routing
  cnt : CommCounts
  residuals : List Residual
deriving DecidableEq, Repr

/-- A record of RECORDS KIND 0 or 1 (R327). -/
structure VRec where
  bed : Nat
  status : Nat
  info : Nat
  fault : Option (Nat × Nat)
  digest : Nat
  sumSq : Option F32
  nonfinite : Bool
  amax : F32
deriving DecidableEq, Repr

/-- A result chunk that waits for room in the retention buffer (R76), or that travels: part, result index, expert, format, coarse
scale, block scales and payload. -/
structure ResChunk where
  part : Nat
  index : Nat
  expert : Nat
  fmt : Nat
  coarse : Nat
  body : List Byte
deriving DecidableEq, Repr

/-- A result chunk that waits for RETAIN cells: chunk and destinations (fabric addresses). -/
structure HeldRes where
  coll : CollId
  res : ResChunk
  dests : List Nat
deriving DecidableEq, Repr

/-- An open collective (R52): its descriptor, what it has recorded, its verdict, delivery and lateness. -/
structure Coll where
  key : CollId
  words : List Word
  ring : Nat
  num : Nat
  /-- fabric time of acceptance, ns -/
  acceptedAt : Nat
  /-- refused at acceptance (R70): it has no contexts -/
  refused : Bool
  /-- taken part in without a descriptor (R500) -/
  headless : Bool
  info : Nat
  status : Option Nat
  fault : Option (Nat × Nat)
  /-- contexts not yet admitted and contexts admitted so far -/
  admitted : Nat
  /-- contexts whose contributions are all accepted -/
  accepted : Nat
  /-- result positions whose values exist here, as owner, copier or updater -/
  made : List (Nat × Nat)
  /-- result chunks (part, index) that exist here for local delivery -/
  haveRes : List (Nat × (Nat × Nat))
  /-- own verdict input has been sent -/
  started : Bool
  records : List VRec
  /-- records sent, as (neighbour bed, bed of the record) -/
  recordsSent : List (Nat × Nat)
  phase3 : List VRec
  phase3Sent : List (Nat × Nat)
  countsSent : List (Nat × Nat)
  /-- G and F of phase 3 (R151) -/
  agreed : Option (F32 × Bool)
  /-- final status once the commit point has passed (R67) -/
  final : Option Nat
  finalInfo : Nat
  finalFault : Option (Nat × Nat)
  unknownComm : Bool
  /-- local members still in delivery, and those to whom END has been sent -/
  delivery : List Nat
  ended : List Nat
  lost : Option (Nat × Nat)
  /-- first and last acceptance of a contribution, and its member (R82) -/
  firstAt : Option Nat
  lastAt : Nat
  lastMember : Nat
  sats : Nat
  dropped : Nat
  /-- side sums of the chunk positions (or source members) computed here, and the amax (R149) -/
  side : List (Nat × F32)
  /-- values of DISPATCH rows and COMBINE outputs that enter the side sums, by member, token and slot in order (R149) -/
  sideVals : List (Nat × List F32)
  amax : F32
  nonfinite : Bool
deriving DecidableEq, Repr

/-- An accepted contribution of a context (R53): leaf number, member, packet number in the buffer, format code, coarse scale, block
scales and payload. -/
structure Contrib where
  leaf : Nat
  addr : Nat
  buf : Nat
  fmt : Nat
  coarse : Nat
  scales : List Byte
  payload : List Byte
deriving DecidableEq, Repr

/-- A held subtree (R131): level, index, its value, and the HBM address of its spill slot if it has been spilled (R146). -/
structure Held where
  level : Nat
  index : Nat
  vals : List F32
  spill : Option Nat
deriving DecidableEq, Repr

/-- A node in progress in the furrow: column, and where its value goes (an in-bed subtree (level, index), or a heap number of the trunk
tree), its operands, how many of its groups of 512 have passed, the cells that failed in the issue before, and whether it waits for
a spill read-back (R131, R153). -/
structure NodeOp where
  col : Nat
  trunk : Bool
  level : Nat
  index : Nat
  a : List F32
  b : List F32
  passed : Nat
  failed : List Nat
  waitSpill : Option Nat
deriving DecidableEq, Repr

/-- A collective context (R51): reservation, home furrow, contributions, the column in progress, leaves accepted and not yet visited,
held subtrees, the node in progress, roots, values of the trunk tree by heap number and column, result columns, and the counter and
flag of R118 and R119. -/
structure Ctx where
  id : CtxId
  store : Nat
  home : Option Nat
  quota : Bool
  reserved : Nat
  cells : Nat
  m : Nat
  contribs : List Contrib
  seen : List Nat
  col : Nat
  inOrder : Bool
  next : Nat
  todo : List Nat
  held : List Held
  op : Option NodeOp
  roots : List (Nat × List F32)
  trunk : List ((Nat × Nat) × List F32)
  /-- columns received over a trunk, by heap number and column (R77, R173) -/
  gotCols : List (Nat × Nat)
  /-- columns of the own value that have been sent to the next bed (R172) -/
  sentCols : Nat
  result : List (Nat × List F32)
  emitted : List Nat
  sats : Nat
  nonfinite : Bool
  credited : Bool
  done : Bool
deriving DecidableEq, Repr

/-- A run of contexts of one collective that wait at admission, indices `lo` to `hi − 1` of a part (R139). -/
structure AdmRun where
  coll : CollId
  part : Nat
  lo : Nat
  hi : Nat
deriving DecidableEq, Repr

/-- An admission queue: its pool (none: the shared pool), its runs, and since when its head has been the head (R139, R141). -/
structure AdmQueue where
  pool : Option Nat
  runs : List AdmRun
  headAt : Nat
deriving DecidableEq, Repr

/-- A destination of a retained copy: fabric address, how often the copy was sent, acknowledged or not (R73, R74). -/
structure Dest where
  addr : Nat
  sends : Nat
  acked : Bool
deriving DecidableEq, Repr

/-- A retained result or END copy (R73): number, collective, part and index, the buffered packet and its destinations. -/
structure Retained where
  id : Nat
  coll : CollId
  part : Nat
  expert : Nat
  index : Nat
  pkt : Packet
  buf : Nat
  dests : List Dest
deriving DecidableEq, Repr

/-- A retained trunk transfer (R77): number, the collective it belongs to (none for cloche types), its packet, destination bed and
plane (cloche transfers may leave the plane in RELAY), and how often it was sent. -/
structure TrunkCopy where
  id : Nat
  coll : Option CollId
  group : Option Nat
  pkt : Packet
  bed : Nat
  plane : Nat
  sends : Nat
  /-- the collective whose invocation wrote what a delta carries (R252) -/
  writer : Option CollId
deriving DecidableEq, Repr

/-- What the registers do not show of a furrow: contexts with a node ready, in order; the physical cell of each logical position that is
not its own; mismatches by cell with the furrow cycle of each; contexts that are to move (R154, R155). -/
structure FurrowX where
  queue : List CtxId
  cellMap : List (Nat × Nat)
  fails : List (Nat × Nat)
  moving : Bool
deriving DecidableEq, Repr

/-- The collective engine. -/
structure Collectives where
  comms : List Comm
  colls : List Coll
  ctxs : List Ctx
  queues : List AdmQueue
  retained : List Retained
  trunk : List TrunkCopy
  /-- trunk transfers that wait for room in the retention buffer (R76), oldest first -/
  trunkWait : List TrunkCopy
  /-- communicators destroyed whose record has not been written (R48) -/
  dying : List Nat
  heldRes : List HeldRes
  nextCopy : Nat
  furrows : List (Nat × FurrowX)
  /-- ended collectives, of which late packets are duplicates (R53, R552) -/
  past : List CollId
deriving DecidableEq, Repr

/-! ### Trellis engines (06) -/

/-- A program image that engines hold (R222): handle, bundles, entry, operand image, PRELOAD_BYTES, STATE_STRIDE, and the HBM buffer of the
bundles from 16,384 on (R224). -/
structure Program where
  handle : Nat
  bundles : List (BitVec 128)
  entry : Nat
  opnd : List Byte
  preload : Nat
  stride : Nat
  buffer : Option Nat
deriving DecidableEq, Repr

/-- A location that operations write with a latency (R207): a tile, scalar or loop count register, or a tile-buffer granule; `ready` is the
engine cycle from which it holds its new value, `writer` the bundle that writes it. -/
structure Pend where
  kind : Nat
  index : Nat
  ready : Nat
  writer : Nat
deriving DecidableEq, Repr

/-- A stream in flight (R209): its number, direction, physical buffer, offset in the buffer, HBM address, length, bundle, and the
invocation (collective, chunk position) it belongs to; `fill` marks the fill of a pair (R201). -/
structure Stream where
  num : Nat
  sin : Bool
  buf : Nat
  off : Nat
  hbm : Nat
  len : Nat
  writer : Nat
  coll : CollId
  k : Nat
  fill : Bool
deriving DecidableEq, Repr

/-- An active loop (R220): its first and last bundle, iterations in all and completed ones. -/
structure LoopFrame where
  first : Nat
  last : Nat
  count : Nat
  done : Nat
deriving DecidableEq, Repr

/-- A running invocation (R196 to R203): what it computes, the physical pair it uses, its engine cycle, the bundle that issues next and not before
which cycle, registers that have been written, loops from the outermost in, pending writes, the tile ALU, granules written, columns emitted
with their values, the context values of R199, and the instruction-cache line that it waits for. -/
structure Inv where
  coll : CollId
  k : Nat
  base : Nat
  cycle : Nat
  pc : Nat
  notBefore : Nat
  tiles : List (Nat × List F32)
  scalars : List (Nat × Word)
  lcs : List (Nat × Nat)
  loops : List LoopFrame
  pend : List Pend
  aluUntil : Nat
  aluWriter : Nat
  written : List Nat
  emitted : List (Nat × List F32)
  cx : List Word
  missLine : Option Nat
deriving DecidableEq, Repr

/-- An invocation assigned to an engine that has not started (R196, R201): collective, chunk position, physical pair, and whether its fill has
begun and ended. -/
structure Assigned where
  coll : CollId
  k : Nat
  base : Nat
  filling : Bool
  filled : Bool
deriving DecidableEq, Repr

/-- A trellis engine: program, running and assigned invocations, tile buffers by physical byte address, streams in flight, and the lines of the
instruction cache, most recently used first. -/
structure Engine where
  prog : Option Program
  cur : Option Inv
  next : Option Assigned
  lastBase : Nat
  buffers : Memory
  streams : List Stream
  nextStream : Nat
  lines : List Nat
deriving DecidableEq, Repr

/-- A PROG_LOAD in progress (R224): descriptor, handle, engines, image address and length, report address. -/
structure Loading where
  ring : Nat
  num : Nat
  handle : Nat
  mask : Nat
  imageAddr : Nat
  imageBytes : Nat
  reportAddr : Nat
deriving DecidableEq, Repr

/-- A PROG_UNLOAD that waits (R227). -/
structure Unloading where
  ring : Nat
  num : Nat
  handle : Nat
deriving DecidableEq, Repr

/-- A collective in phase 4: owned chunk positions not yet assigned, and the failure status of a stopped engine, 0 for none (R196, R230, R231). -/
structure Phase4 where
  coll : CollId
  todo : List Nat
  fail : Nat
deriving DecidableEq, Repr

/-- The trellis. -/
structure Trellis where
  engines : List (Nat × Engine)
  loads : List Loading
  unloads : List Unloading
  phase4 : List Phase4
deriving DecidableEq, Repr

/-! ### HBM, the memory-side cache and the pool manager (08), the cloche (07) -/

/-- A migrating slot (R279): slot, source channel, whether the source can be read, target channel, and the units whose bit is set. -/
structure Migration where
  slot : Nat
  source : Nat
  readable : Bool
  target : Nat
  units : List Nat
deriving DecidableEq, Repr

/-- A line of the memory-side cache (R287, R288): line number (logical address div 64), data, modified or not, KEEP or not. -/
structure CacheLine where
  line : Nat
  data : List Byte
  modified : Bool
  keep : Bool
deriving DecidableEq, Repr

/-- A pool carved from HBM (R294, R295): its lowest logical address, buffer size as a base-2 logarithm, count, and the buffers taken by index. -/
structure Pool where
  num : Nat
  base : Nat
  log2 : Nat
  count : Nat
  taken : List Nat
deriving DecidableEq, Repr

/-- The configuration of a start of the HBM function (R285, R496). -/
structure HbmStart where
  headroom : Nat
  direct : Nat
  pools : List Nat
  good : List Nat
deriving DecidableEq, Repr

/-- The HBM. Physical byte addresses are channel × 2^30 + offset; codewords are numbered channel × 2^24 + access. `data` holds the 64 data
bytes of every codeword as written, `poison` the codewords whose tag has POISON set, `errors` the symbols of stored codewords that differ
from what was written, as (symbol, difference). `slotmap` gives each slot's channel, none for an unbacked slot; `lines` is the cache, most
recently used line first. -/
structure Hbm where
  data : Memory
  poison : List Nat
  errors : List (Nat × List (Nat × Nat))
  slotmap : List (Option Nat)
  reserve : List Nat
  migrations : List Migration
  /-- distinct accesses with a correctable error, by channel, with the furrow cycle of each (R278) -/
  ceSeen : List (Nat × (Nat × Nat))
  /-- uncorrectable errors since the function started, by channel (R278) -/
  ueCount : List (Nat × Nat)
  lines : List CacheLine
  pools : List Pool
  /-- first byte above the direct area (R295) -/
  directEnd : Nat
  lastStart : Option HbmStart
  /-- channels in an access that is held for a map-out (R280), by slot -/
  heldSlots : List Nat
  /-- the access of each channel that the scrub reads next (R274) -/
  scrubAt : List (Nat × Nat)
deriving DecidableEq, Repr

/-- A participant of a cloche group at a location (R245, R247): bed, plane, feed and variant once known. -/
structure Site where
  bed : Nat
  plane : Nat
  feed : Nat
  variant : Nat
  known : Bool
deriving DecidableEq, Repr

/-- A member entry of the participant list (R247). -/
structure GMember where
  bed : Nat
  plane : Nat
  comm : Nat
  base : Nat
deriving DecidableEq, Repr

/-- A ledger entry of a member (R254, R255): position and its 512 bytes. -/
structure LedgerEnt where
  pos : Nat
  bytes : List Byte
deriving DecidableEq, Repr

/-- A piece kept here (R240): its number, whether it is the Q piece, and the HBM addresses of its buffers. -/
structure Piece where
  num : Nat
  q : Bool
  bufs : List Nat
deriving DecidableEq, Repr

/-- A stripe under reconstruction at a keeper (R258, R259): piece, Q or P, stripe number in the piece, positions whose stripes are folded in, the
running XOR and the running weighted XOR. -/
structure Rebuild where
  piece : Nat
  stripe : Nat
  srcs : List Nat
  xorSum : List Byte
  gfSum : List Byte
deriving DecidableEq, Repr

/-- A restore in which this module takes part (R256 to R263): as target its descriptor, source, mask, step, and stripes written; the stripes being
rebuilt at a keeper. -/
structure Restore where
  target : Bool
  ring : Nat
  num : Nat
  image : Bool
  mask : Nat
  step : Nat
  written : List Nat
  rebuilds : List Rebuild
  shard : List Byte
deriving DecidableEq, Repr

/-- A LEDGER_WRITE whose copies are not all acknowledged, or that waits for a restore (R255). -/
structure LedgerWait where
  ring : Nat
  num : Nat
  entry : List Byte
  waiting : Bool
deriving DecidableEq, Repr

/-- A cloche group (R239): its definition, sites, what is MISSING, stamps, counts, ledger, pieces, and what is in progress. -/
structure Group where
  id : Nat
  q : Bool
  k : Nat
  shardBytes : Nat
  relay : Nat
  tc : Nat
  members : List GMember
  pKeep : List (Nat × Nat)
  qKeep : List (Nat × Nat)
  sites : List Site
  digest : Nat
  /-- descriptor of a creation that has not completed (R249) -/
  forming : Option (Nat × Nat)
  lost : Bool
  missM : List Nat
  missP : List Nat
  missQ : List Nat
  stamps : List Nat
  stamp : Nat
  sent : Nat
  applied : Nat
  unsettled : Nat
  ledger : List LedgerEnt
  pieces : List Piece
  ledgerBuf : Option Nat
  restore : Option Restore
  ledgerWaits : List LedgerWait
  /-- deltas applied here, by H1 and body (R77, R251) -/
  seen : List (Word × List Byte)
  /-- the lost-stripe marks of R272 and R284 that participants know -/
  lostStripes : List Nat
deriving DecidableEq, Repr

/-! ### Serial lanes (12), synchronisation and fabric time (13) -/

/-- What the registers do not show of a lane: the latest 16 codewords, newest first, true for uncorrectable (R401), the furrow cycles of its
removals (R405), whether it waits to be turned off after a set change (R402), and whether it is held while ENABLE is 0 (R405). -/
structure LaneX where
  recent : List Bool
  removals : List Nat
  offDue : Bool
  held : Bool
deriving DecidableEq, Repr

/-- A set change that has been announced (R392, R402). -/
structure SetSwitch where
  set : Nat
  seq : Nat
deriving DecidableEq, Repr

/-- The link layer of a port (0–255 D, 256–261 T, 262 Holm): the RX_GOOD that this end sends, the partner's RX_GOOD and TX_SET, the set changes
pending in each direction, the number of the flit that the transmitter was at in a furrow cycle, whether the port is formed, the number of the
next flit expected, flits that arrived or were lost ahead of it, the bytes of the packet being assembled, and whether packet bytes are being
discarded until the next boundary, with whether that discard has been counted (R389 to R391). -/
structure LinkX where
  rxGood : Nat
  pRxGood : Nat
  pTxSet : Nat
  txSwitch : Option SetSwitch
  rxSwitch : Option SetSwitch
  seqBase : Nat
  seqClk : Nat
  formed : Bool
  expect : Nat
  reorder : List (Nat × Option Flit)
  asm : List Byte
  skip : Option Bool
deriving DecidableEq, Repr

/-- A wait held in the sync unit (R422): counter, level or ticket, target or amount, who waits, deadlock group, the timeout in µs (0: none), and the number
of a ring's descriptor or the class of a member's request. -/
structure SyncWaitE where
  counter : Nat
  level : Bool
  amount : Nat
  who : Waiter
  group : Nat
  timeout : Nat
  num : Nat
  tc : Nat
deriving DecidableEq, Repr

/-- The sync unit: counter values (unlisted: 0), waits in order of arrival. -/
structure SyncUnit where
  vals : List (Nat × Nat)
  waits : List SyncWaitE
deriving DecidableEq, Repr

/-- The timekeeper (R434 to R448): fabric time in ns and 1/65,536 ns, the phase of the reference cycle, the remainder of INC, the offset that slewing
still has to remove (1/65,536 ns), corrections within 2 ns in a row, time masters named, the spread in force, measured delays (1/65,536 ns) and
the outstanding DELAY_REQ (serial and departure) by port, serial numbers, SECONDS of the latest TOD_IN message since the last edge, the SECONDS
of the last edge, PPS_OUT, and the latest TOD_OUT message. -/
structure TimeX where
  ns : Nat
  frac : Nat
  phase : Nat
  rem : Nat
  slew : Int
  within : Nat
  masters : List Nat
  spread : Nat
  delays : List (Nat × Nat)
  reqs : List (Nat × (Nat × (Nat × Nat)))
  serial : Nat
  todSeconds : Option Nat
  lastSeconds : Option Nat
  ppsHigh : Bool
  todOut : List Byte
deriving DecidableEq, Repr
/-! ### Module record, power, boot (15, 16, 17) -/

/-- One copy of the assembly record (R533): whether its MAGIC, FORMAT and CRC are valid, and its fields. `keys` are the 57-byte public
keys of the first KEY_COUNT slots; `caps` and `sizes` the values of CAP_PRESENT and CAP_SIZES; `taps` the words of LANE_TXEQ of lanes whose
word is not zero; `puf` the 4,096 bytes of helper data. -/
structure AssemblyCopy where
  valid : Bool
  variant : Nat
  stepping : Nat
  serial : Nat
  minSvnSteward : Nat
  minSvnUcode : Nat
  keys : List (List Byte)
  puf : List Byte
  caps : Nat
  sizes : Nat
  taps : List (Nat × Nat)
deriving DecidableEq, Repr

/-- The module record (R522): the two copies of the assembly record, the certificate region without its trailing zeros, the fault log
(latest 65,536 entries, oldest first), the serial number of the next entry, and the map-out list (R283), oldest first. -/
structure ModuleRecord where
  copyA : AssemblyCopy
  copyB : AssemblyCopy
  certs : List Byte
  log : List LogEntry
  serial : Nat
  mapOut : List Nat
deriving DecidableEq, Repr

/-- A journal record that waits in SRAM (R521): a fault-log entry, or the map-out of a channel or its clearing (R283, R304). -/
inductive JRec where
  | entry (e : LogEntry)
  | mapOut (ch : Nat)
  | clearMapOut
deriving DecidableEq, Repr

/-- Where the power stage stands (R513 to R516, R530): off after a loss, off after an over-voltage, in the power-on sequence, held in cold
reset, running, or off at a hard trip. -/
inductive PowerPhase where
  | off | offOver | starting | coldHeld | running | hardTrip
deriving DecidableEq, Repr

/-- What the registers do not show of power and sideband: the phase, the issue duties in sixteenths that brown-out, power limit and
thermal throttling demand, the milliseconds for which every sensor group has stayed 3 °C below its throttle limit, whether a hold-up
measurement runs, the pins READY and FAULT_N (true: released high), SLOT_ID, the dynamic sideband address, in-band interrupts raised
(their data bytes, oldest first), whether the module is dormant, whether a sideband request is being carried out, and the journal
records in SRAM. -/
structure Power where
  phase : PowerPhase
  dutyBrown : Nat
  dutyLimit : Nat
  dutyTherm : Nat
  cool : Nat
  measuring : Bool
  ready : Bool
  faultN : Bool
  slotId : Nat
  dynAddr : Option Nat
  ibi : List Nat
  dormant : Bool
  request : Bool
  journal : List JRec
deriving DecidableEq, Repr

/-- An accepted image (R535 to R539): its measurement, VERSION, SVN, KEY_ID and body in its destination. -/
structure Image where
  meas : List Byte
  version : Nat
  svn : Nat
  keyId : Nat
  entry : Nat
  body : List Byte
deriving DecidableEq, Repr

/-- An image load in progress (R537, R538): KIND, address, length, the state before LOADING, and whether the Holm port has left UP since. -/
structure ImageLoading where
  kind : Nat
  addr : Nat
  len : Nat
  prev : Nat
  lost : Bool
deriving DecidableEq, Repr

/-- The boot state: held images, a load in progress, a placement commit that waits for READY (R541), and whether the steward and its
watchdog run (R540). -/
structure Boot where
  steward : Option Image
  ucode : Option Image
  load : Option ImageLoading
  heldCommit : Bool
  watchdog : Bool
deriving DecidableEq, Repr

/-! ### The whole block -/

/-- The block without its queue. `regs` is the register window and the sideband registers, a canonical table whose unlisted registers
hold their reset values; `clk` counts furrow cycles; `free` counts the free values drawn (the model's own field). -/
structure Ilpiac where
  regs : List (Nat × Word)
  clk : Nat
  free : Nat
  ctl : ControlSide
  flt : Faults
  twin : Twin
  sw : Switch
  coll : Collectives
  trellis : Trellis
  hbm : Hbm
  groups : List Group
  lanes : List (Nat × LaneX)
  links : List (Nat × LinkX)
  sync : SyncUnit
  time : TimeX
  record : ModuleRecord
  power : Power
  boot : Boot
deriving DecidableEq, Repr

/-- The state of the model: the block and the queue of commands that wait, first in first out. -/
structure State where
  m : Ilpiac
  pending : List Instr
deriving DecidableEq, Repr

/-- The block raises no fault of its own kind: every command that the spec gives an effect ends in a next state, and a fault that the
spec describes (R487) is state of its fault collector. -/
inductive Fault where
deriving DecidableEq, Repr

/-- Why the model gives a command no next state. -/
inductive Refusal where
  /-- the dispatch has no meaning for this row: raised by Dispatch.lean alone; safe -/
  | notModelled (mnemonic : String)
deriving DecidableEq, Repr

/-- DESIGN CHOICE (assumption 1): the assembly record of the model's module: a YT-I560 of stepping 1 and serial 1 with every unit of
its variant present, one key slot filled with zeros, security versions and taps zero. -/
def AssemblyCopy.factory : AssemblyCopy where
  valid := true
  variant := 1
  stepping := 1
  serial := 1
  minSvnSteward := 0
  minSvnUcode := 0
  keys := [List.replicate 57 0]
  puf := []
  caps := 0x19081003f
  sizes := 0xc0e0c100e0f12
  taps := []

/-- Registers that the assembly record fills (R10, R12, R13, R534) and that no field map gives a reset value: IDENTITY, CAP_PRESENT,
CAP_SIZES and the copy of IDENTITY on the sideband (R511). -/
def assemblyRegs (c : AssemblyCopy) : List (Nat × Word) :=
  let ident := BitVec.ofNat 64 (setBits (setBits (setBits 0 0 16 c.variant) 16 8 c.stepping) 32 32 c.serial)
  [(0x0, ident), (0x10, BitVec.ofNat 64 c.caps), (0x18, BitVec.ofNat 64 c.sizes), (0x100000000, ident)]

/-- The module after reset with nothing connected: every register at the value of its field map (unlisted in `regs`, CAP_SIZES among them)
or of the assembly record, every queue, buffer and table empty, the power-on sequence begun (R514) and no image held (R537). -/
def Ilpiac.reset : Ilpiac where
  regs := (assemblyRegs AssemblyCopy.factory).filter (fun x => x.1 != 0x18)
  clk := 0
  free := 0
  ctl := { holm := { replay := [], waiting := [], nextSeq := 0, ackSent := 0, wasUp := false }, drings := [], descs := [], cpl := [], irqDue := [], coalDue := [],
           pendLo := [], latchHi := [], held := [], own := [], crWait := [], resetting := false, funcReset := [] }
  flt := { asserts := [], lastAct := [], latchedAt := 0, fences := [], due := [] }
  twin := { own := [], partner := [], unsent := [] }
  sw := { buf := [], nextId := 0, nextOrder := 0, queues := [], qx := [], ports := [], hoses := [], nextSetup := 0, closes := [], control := 0, serials := [],
          ownSerial := 0, sample := 0 }
  coll := { comms := [], colls := [], ctxs := [], queues := [], retained := [], trunk := [], trunkWait := [], dying := [], heldRes := [], nextCopy := 0, furrows := [],
            past := [] }
  trellis := { engines := [], loads := [], unloads := [], phase4 := [] }
  hbm := { data := [], poison := [], errors := [], slotmap := [], reserve := [], migrations := [], ceSeen := [], ueCount := [], lines := [],
           pools := [], directEnd := 0, lastStart := none, heldSlots := [], scrubAt := [] }
  groups := []
  lanes := []
  links := []
  sync := { vals := [], waits := [] }
  time := { ns := 0, frac := 0, phase := 0, rem := 0, slew := 0, within := 0, masters := [], spread := 0, delays := [], reqs := [],
            serial := 0, todSeconds := none, lastSeconds := none, ppsHigh := false, todOut := [] }
  record := { copyA := AssemblyCopy.factory, copyB := AssemblyCopy.factory, certs := [], log := [], serial := 0, mapOut := [] }
  power := { phase := .starting, dutyBrown := 16, dutyLimit := 16, dutyTherm := 16, cool := 0, measuring := false, ready := false, faultN := true,
             slotId := 0, dynAddr := none, ibi := [], dormant := false, request := false, journal := [] }
  boot := { steward := none, ucode := none, load := none, heldCommit := false, watchdog := false }

/-- The state right after reset: the module of `Ilpiac.reset`, and no command waiting. -/
def State.reset : State where
  m := Ilpiac.reset
  pending := []

end Sys2Proof.Machine
end

