-- ==== Sys2Proof/Machine/Ops.lean ====
section
/-! DEFINITION. The named operations that every family shares: registers by field, free values, events and interrupts, the fault
collector's latch, messages to the companion, and completion records that become due. -/

namespace Sys2Proof.Machine

/-! ### Registers -/

/-- The block, its instance and the offset inside it that a key of the register table belongs to (R14). -/
def locate (k : Nat) : Blk × Nat × Nat :=
  let go (b : Blk) : Blk × Nat × Nat := (b, (k - b.base) / b.stride, (k - b.base) % b.stride)
  if k < 0x100000 then (.glob, 0, k)
  else if k < 0x200000 then go .dport
  else if k < 0x218000 then go .tport
  else if k < 0x2A0000 then (.glob, 0, k)
  else if k < 0x2C0000 then go .hose
  else if k < 0x300000 then (.glob, 0, k)
  else if k < 0x390000 then go .lane
  else if k < 0x400000 then (.glob, 0, k)
  else if k < 0x440000 then go .furrow
  else if k < 0x500000 then (.glob, 0, k)
  else if k < 0x600000 then go .engine
  else if k < 0x660000 then go .channel
  else if k < 0x700000 then (.glob, 0, k)
  else if k < 0x70C000 then go .stack
  else if k < 0x800000 then (.glob, 0, k)
  else if k < 0xA00000 then go .dqueue
  else if k < 0xA30000 then go .tqueue
  else if k < 0x1000000 then (.glob, 0, k)
  else if k < 0x1400000 then go .dring
  else if k < 0x1440000 then go .cring
  else (.glob, 0, k)

/-- The register definition that holds a block offset, and the element of its array. -/
def regDefAt (b : Blk) (off : Nat) : Option (RegDef × Nat) :=
  ((regDefsOf b off).find? (fun d => decide (d.off ≤ off) && decide ((off - d.off) % d.stride = 0) &&
    decide ((off - d.off) / d.stride < d.cnt))).map (fun d => (d, (off - d.off) / d.stride))

/-- The register definition of a key. -/
def regDefOf (k : Nat) : Option (RegDef × Nat) :=
  let l := locate k
  regDefAt l.1 l.2.2

/-- The reset value of element `j` of a register array. -/
def RegDef.reset (d : RegDef) (j : Nat) : Nat := (d.resets[j]?).getD (d.resets.getLastD 0)

/-- Whether LANE_PORT and LANE_PORT_STATUS exist in a lane block: in that of a port's lowest lane (R413). -/
def lanePortHere (n : Nat) : Bool := if n < 512 then n % 2 == 0 else if n < 560 then n % 8 == 0 else n == 560

/-- The reset value of LANE_PORT.MIN_LANES: 1 downlink, 4 trunk, 8 Holm (R417). -/
def minLanesReset (n : Nat) : Nat := if n < 512 then 1 else if n < 560 then 4 else 8

/-- The reset value of the register at a key: the field map's (R14), and zero where no register lies. -/
def regReset (k : Nat) : Word :=
  let l := locate k
  match regDefAt l.1 l.2.2 with
  | some (d, j) =>
    if l.1 = .lane ∧ l.2.2 = 0x100 then
      (if lanePortHere l.2.1 then BitVec.ofNat 64 (d.reset j + minLanesReset l.2.1) else 0)
    else BitVec.ofNat 64 (d.reset j)
  | none => 0

/-- The value that the register at a key holds. -/
def Ilpiac.reg (m : Ilpiac) (k : Nat) : Word := Map.get regReset m.regs k

/-- A register that takes a value. -/
def Ilpiac.setReg (m : Ilpiac) (k : Nat) (v : Word) : Ilpiac := { m with regs := Map.put regReset m.regs k v }

/-- The key of a field's register: instance `n` of its block, element `j` of its array. -/
def Fld.key (f : Fld) (b : Blk) (n j : Nat) : Nat := b.at n + f.off + j * f.stride

/-- The value of a field. -/
def Ilpiac.rd (m : Ilpiac) (b : Blk) (n : Nat) (f : Fld) (j : Nat := 0) : Nat := bits (m.reg (f.key b n j)).toNat f.lo f.w

/-- A field that takes a value. -/
def Ilpiac.wr (m : Ilpiac) (b : Blk) (n : Nat) (f : Fld) (v : Nat) (j : Nat := 0) : Ilpiac :=
  m.setReg (f.key b n j) (BitVec.ofNat 64 (setBits (m.reg (f.key b n j)).toNat f.lo f.w v))

/-- A field of a register at a fixed offset. -/
def Ilpiac.g (m : Ilpiac) (f : Fld) (j : Nat := 0) : Nat := m.rd .glob 0 f j

/-- A field of a register at a fixed offset takes a value. -/
def Ilpiac.gw (m : Ilpiac) (f : Fld) (v : Nat) (j : Nat := 0) : Ilpiac := m.wr .glob 0 f v j

/-- A count that saturates at the largest value of its field (R301, R339, R482, R506, R532). -/
def Ilpiac.cnt (m : Ilpiac) (b : Blk) (n : Nat) (f : Fld) (k : Nat) (j : Nat := 0) : Ilpiac :=
  m.wr b n f (satAdd f.w (m.rd b n f j) k) j

/-- A saturating count of a register at a fixed offset. -/
def Ilpiac.gcnt (m : Ilpiac) (f : Fld) (k : Nat) (j : Nat := 0) : Ilpiac := m.cnt .glob 0 f k j

/-- A count that wraps at the width of its field. -/
def Ilpiac.wrapCnt (m : Ilpiac) (b : Blk) (n : Nat) (f : Fld) (k : Nat) (j : Nat := 0) : Ilpiac :=
  m.wr b n f (m.rd b n f j + k) j

/-- A block kind of a port 0–261 (R483): D0–D255, then T0–T5. -/
def portBlk (p : Nat) : Blk := if p < 256 then .dport else .tport

/-- The instance of a port in its block kind. -/
def portIdx (p : Nat) : Nat := if p < 256 then p else p - 256

/-- A field of a port block (R339, R357). -/
def Ilpiac.pg (m : Ilpiac) (p : Nat) (f : Fld) (j : Nat := 0) : Nat := m.rd (portBlk p) (portIdx p) f j

/-- A field of a port block takes a value. -/
def Ilpiac.pw (m : Ilpiac) (p : Nat) (f : Fld) (v : Nat) (j : Nat := 0) : Ilpiac := m.wr (portBlk p) (portIdx p) f v j

/-- A saturating count of a port block. -/
def Ilpiac.pcnt (m : Ilpiac) (p : Nat) (f : Fld) (k : Nat) (j : Nat := 0) : Ilpiac := m.cnt (portBlk p) (portIdx p) f k j

/-- One step over a list. -/
def Ilpiac.over {α : Type} (m : Ilpiac) (l : List α) (f : Ilpiac → α → Ilpiac) : Ilpiac := l.foldl f m

/-- A change under a condition. -/
def Ilpiac.when (m : Ilpiac) (c : Bool) (f : Ilpiac → Ilpiac) : Ilpiac := if c then f m else m

/-! ### Free values -/

/-- The next free value (assumption 2). -/
def Ilpiac.draw (m : Ilpiac) : Nat × Ilpiac := ((Config.freeValue m.free).toNat, { m with free := m.free + 1 })

/-! ### Variant (R4 to R6) -/

/-- Whether a unit of CAP_PRESENT is present. -/
def Ilpiac.has (m : Ilpiac) (f : Fld) : Bool := m.g f == 1

/-- Present downlink ports (R12). -/
def Ilpiac.downlinks (m : Ilpiac) : Nat := m.g F.CAP_PRESENT_DOWNLINK_PORTS

/-- Whether port 0–261 is present (R4, R5). -/
def Ilpiac.portPresent (m : Ilpiac) (p : Nat) : Bool :=
  if p < 256 then decide (p < m.downlinks) else m.has F.CAP_PRESENT_TRUNK && decide (p < 262)

/-- Whether furrow, engine, channel or stack `n` is present (R4, R5). -/
def Ilpiac.furrowPresent (m : Ilpiac) (n : Nat) : Bool := decide (n < m.g F.CAP_PRESENT_FURROWS)
def Ilpiac.enginePresent (m : Ilpiac) (n : Nat) : Bool := decide (n < m.g F.CAP_PRESENT_TRELLIS_ENGINES)
def Ilpiac.channelPresent (m : Ilpiac) (n : Nat) : Bool := decide (n < 64 * m.g F.CAP_PRESENT_HBM_STACKS)
def Ilpiac.stackPresent (m : Ilpiac) (n : Nat) : Bool := decide (n < m.g F.CAP_PRESENT_HBM_STACKS)

/-! ### Run control (R461) and placement (R34, R40) -/

/-- The state field of RUN_CTRL function `n` (R481). -/
def F.RUN_STATE (n : Nat) : Fld := ⟨0x108, 8, 4 * n, 4⟩

/-- The RUN_CTRL bit of function `n` (R481). -/
def F.RUN_BIT (n : Nat) : Fld := ⟨0x100, 8, n, 1⟩

/-- State of a function: 0 STOPPED, 1 STARTING, 2 RUNNING, 3 STOPPING, 4 REFUSED (R481). -/
def Ilpiac.runState (m : Ilpiac) (n : Nat) : Nat := m.g (F.RUN_STATE n)

/-- Whether a function is RUNNING; the HBM function of a variant without HBM holds nothing (R464). -/
def Ilpiac.running (m : Ilpiac) (n : Nat) : Bool := m.runState n == 2

/-- Whether a function is stopped, a refused start counting as stopped (R462). -/
def Ilpiac.fnStopped (m : Ilpiac) (n : Nat) : Bool := m.runState n == 0 || m.runState n == 4

/-- Whether a placement has been committed (R32). -/
def Ilpiac.placed (m : Ilpiac) : Bool := m.g F.PLACEMENT_VALID == 1

/-- The bed index of this module (R40). -/
def Ilpiac.bed (m : Ilpiac) : Nat := m.g F.PLACEMENT_X + 4 * m.g F.PLACEMENT_Y + 16 * m.g F.PLACEMENT_Z

/-- The extents (R35). -/
def Ilpiac.extents (m : Ilpiac) : Nat × Nat × Nat := (m.g F.PLACEMENT_EXTENT_NX, m.g F.PLACEMENT_EXTENT_NY, m.g F.PLACEMENT_EXTENT_NZ)

/-- Whether a bed lies inside the extents (R23, R40). -/
def Ilpiac.bedInside (m : Ilpiac) (b : Nat) : Bool :=
  decide (b % 4 < m.extents.1) && decide (b / 4 % 4 < m.extents.2.1) && decide (b / 16 < m.extents.2.2)

/-- The plane of this module (R34). -/
def Ilpiac.plane (m : Ilpiac) : Nat := m.g F.PLACEMENT_PLANE

/-- Whether fabric time has been set (R443). -/
def Ilpiac.timeSet (m : Ilpiac) : Bool := m.g F.TIME_STATUS_STATE != 0

/-- Whether the module has stopped (R491). -/
def Ilpiac.stopped (m : Ilpiac) : Bool := m.g F.SB_STATE_POWER == 3

/-! ### Messages to the companion (R453, R455, R456) -/

/-- Flits that the Holm replay buffer holds (R453). -/
def holmWindow : Nat := 192

/-- Waiting messages that move into the replay buffer while it has room. -/
def Holm.fill : Nat → Holm → Holm
  | 0, h => h
  | n + 1, h =>
    match h.waiting with
    | [] => h
    | x :: l =>
      if h.replay.length < holmWindow then
        Holm.fill n { h with waiting := l, replay := h.replay ++ [⟨h.nextSeq, x, 1⟩], nextSeq := (h.nextSeq + 1) % 256 }
      else h

/-- A message to the companion, behind every message issued before it (R456 item 3). While the port is not UP nothing is sent. -/
def Ilpiac.send (m : Ilpiac) (x : HolmMsg) : Ilpiac :=
  if m.g F.HOLM_STATUS_STATE = 2 then
    let h := { m.ctl.holm with waiting := m.ctl.holm.waiting ++ [x] }
    { m with ctl := { m.ctl with holm := Holm.fill h.waiting.length h } }
  else m

/-- A byte string as coherent writes of at most 64 bytes that end at 64-byte lines (R455). -/
def cohPieces (addr : Nat) (d : List Byte) : List (Nat × List Byte) :=
  (piecesOf 64 (ceilDiv d.length 64) d).zipIdx.map (fun x => (addr + 64 * x.2, x.1))

/-! ### Events and interrupts (R475 to R477, R512) -/

/-- IRQ events (R476). -/
inductive Event where
  | fault | sieve | portLatency | syncDeadlock | placement | ringError | cplStall | portState | time | run
deriving DecidableEq, Repr

/-- The bit of an event in IRQ_CAUSE (R476). -/
def Event.bit : Event → Nat
  | .fault => 0 | .sieve => 1 | .portLatency => 2 | .syncDeadlock => 3 | .placement => 4
  | .ringError => 5 | .cplStall => 6 | .portState => 7 | .time => 8 | .run => 9

/-- An interrupt message that is due; IRQ_SEND sends it (R477). -/
def Ilpiac.irqDue (m : Ilpiac) (vector : Nat) : Ilpiac := { m with ctl := { m.ctl with irqDue := m.ctl.irqDue ++ [vector] } }

/-- An event of R476: its bit of IRQ_CAUSE is set, and one interrupt is due when the bit was 0 and is not masked. -/
def Ilpiac.event (m : Ilpiac) (e : Event) : Ilpiac :=
  let c := m.g F.IRQ_CAUSE_CAUSE
  if bitOf c e.bit then m
  else
    let m' := m.gw F.IRQ_CAUSE_CAUSE (c + 2 ^ e.bit)
    if bitOf (m.g F.IRQ_MASK_MASK) e.bit then m' else m'.irqDue (m'.g F.IRQ_VECTOR_VECTOR e.bit)

/-- A sideband event (R511): 0 BROWNOUT, 1 THERMAL, 2 HEADLESS, 3 FAULT, 4 PLACEMENT, 5 REQUEST, 6 HOLDUP, 7 READY. A bit that changes
from 0 to 1 and is not masked raises an in-band interrupt whose data byte is SB_EVENTS [7:0] (R512). -/
def Ilpiac.sbEvent (m : Ilpiac) (e : Nat) : Ilpiac :=
  let c := m.g F.SB_EVENTS_EVENTS
  if bitOf c e then m
  else
    let m' := m.gw F.SB_EVENTS_EVENTS (c + 2 ^ e)
    if bitOf (m.g F.SB_EVENTS_MASK) e then m'
    else { m' with power := { m'.power with ibi := m'.power.ibi ++ [c + 2 ^ e] } }

/-! ### The fault collector (R486 to R490) -/

/-- Sources of R487. -/
def srcRegAccess : Nat := 0x01
def srcPlacement : Nat := 0x02
def srcFurrow : Nat := 0x03
def srcTrellis : Nat := 0x04
def srcHbmUe : Nat := 0x05
def srcHbmAddress : Nat := 0x06
def srcRelocate : Nat := 0x07
def srcCloche : Nat := 0x08
def srcLink : Nat := 0x09
def srcLane : Nat := 0x0A
def srcReference : Nat := 0x0B
def srcTime : Nat := 0x0C
def srcCplStall : Nat := 0x0D
def srcSramUe : Nat := 0x0E
def srcInternal : Nat := 0x0F
def srcBrownout : Nat := 0x10
def srcThermal : Nat := 0x11
def srcSteward : Nat := 0x12
def srcCompanion : Nat := 0x13
def srcTwin : Nat := 0x14
def srcHoldup : Nat := 0x15

/-- Sources that report single events: each new event asserts the source anew, and the assertion ends with its latch (R550; for
REG_ACCESS, FURROW and HBM_ADDRESS assumption 10). -/
def singleEvent (s : Nat) : Bool := [srcRegAccess, srcFurrow, srcHbmAddress, srcCloche, srcSramUe, srcInternal].contains s

/-- Sources that take STOP at the moment they assert (R490). -/
def stopSource (s : Nat) : Bool := s == srcThermal || s == srcSteward

/-- Whether a source asserts now (FAULT_LINES, R506). -/
def Ilpiac.asserting (m : Ilpiac) (s : Nat) : Bool := m.flt.asserts.any (fun a => a.src == s)

/-- FAULT_LINES (R506). -/
def Ilpiac.faultLines (m : Ilpiac) : Nat := ofBitIdx (m.flt.asserts.map (·.src))

/-- The assertions with those marked as seen that a latch of `a` records: `a` itself of a single-event source, else all of its source (R489). -/
def Ilpiac.marked (m : Ilpiac) (a : Assertion) : List Assertion :=
  let seen := fun (b : Assertion) => ({ b with latched := true } : Assertion)
  if singleEvent a.src then mapFirst (· == a) seen m.flt.asserts else mapIf (·.src == a.src) seen m.flt.asserts

/-- The collector marks the assertions that a latch of `a` records (R489). -/
def Ilpiac.markLatched (m : Ilpiac) (a : Assertion) : Ilpiac := { m with flt := { m.flt with latchedAt := m.clk, asserts := m.marked a } }

/-- One assertion more. -/
def Ilpiac.addAssert (m : Ilpiac) (a : Assertion) : Ilpiac := { m with flt := { m.flt with asserts := m.flt.asserts ++ [a] } }

/-- FAULT_FIRST and FAULT_TIME take an assertion (R489). -/
def Ilpiac.firstFault (m : Ilpiac) (a : Assertion) : Ilpiac :=
  ((((((m.gw F.FAULT_FIRST_SOURCE a.src).gw F.FAULT_FIRST_VALID 1).gw F.FAULT_FIRST_WIRE (b2n a.wire)).gw F.FAULT_FIRST_STOPPED 0).gw
    F.FAULT_FIRST_UNIT a.unit).gw F.FAULT_FIRST_DETAIL a.detail).gw F.FAULT_TIME_NS (if m.timeSet then m.time.ns else 0)

/-- With a grace of zero the action of a latched source is due at once, and so is that of a source of R490's last paragraph. -/
def Ilpiac.dueAtOnce (m : Ilpiac) (src : Nat) : Ilpiac :=
  if m.g F.FAULT_CTRL_GRACE_US = 0 ∨ stopSource src then { m with flt := { m.flt with due := m.flt.due ++ [src] } } else m

/-- Latches an assertion in FAULT_FIRST and FAULT_TIME and sets the FAULT events (R489, R476, R511). -/
def Ilpiac.latch (m : Ilpiac) (a : Assertion) : Ilpiac :=
  (((((m.markLatched a).firstFault a).gcnt F.FAULT_COUNTS_LATCHED 1).event .fault).sbEvent 3).dueAtOnce a.src

/-- Latches the lowest-numbered source that asserts and has not been latched since it began to assert (R489). -/
def Ilpiac.latchNext (m : Ilpiac) : Ilpiac :=
  match (List.range 64).findSome? (fun s => m.flt.asserts.find? (fun a => a.src == s && !a.latched)) with
  | some a => if m.g F.FAULT_FIRST_VALID = 0 then m.latch a else m
  | none => m

/-- A source asserts (R489): with the latch free it is latched; while the latch is held another source sets OVERFLOW only. THERMAL and
STEWARD displace any latched source (R490). A source that asserts already begins nothing anew, but for single events; a unit that
asserts already stays as it is. -/
def Ilpiac.raise (m : Ilpiac) (src unit detail : Nat) (wire : Bool := false) : Ilpiac :=
  let was := m.flt.asserts.any (fun b => b.src == src && b.latched) && !singleEvent src
  let a : Assertion := ⟨src, unit, detail, wire, was⟩
  let on := m.asserting src && !singleEvent src
  if !singleEvent src ∧ m.flt.asserts.any (fun b => b.src == src && b.unit == unit && b.wire == wire) then m
  else
  let m := m.addAssert a
  if on then m
  else if stopSource src then m.latch a
  else if m.g F.FAULT_FIRST_VALID = 1 then
    (if m.g F.FAULT_FIRST_SOURCE = src then m else m.gw F.FAULT_FIRST_OVERFLOW 1)
  else m.latchNext

/-- A condition that ends: the assertions of a source for the units that satisfy `p` are withdrawn, and a collector FENCE for a source
that no longer asserts ends (R492). -/
def Ilpiac.release (m : Ilpiac) (src : Nat) (p : Nat → Bool) : Ilpiac :=
  let l := m.flt.asserts.filter (fun a => !(a.src == src && p a.unit && !a.wire))
  let f := if l.any (·.src == src) || singleEvent src then m.flt.fences else m.flt.fences.filter (·.src != src)
  { m with flt := { m.flt with asserts := l, fences := f } }

/-- A register-access fault (R15, R19): DETAIL is the register-window offset (R506). -/
def Ilpiac.regAccess (m : Ilpiac) (off : Nat) : Ilpiac := m.raise srcRegAccess 0 off

/-- Whether the collector holds a target by a FENCE (R492). -/
def Ilpiac.fenced (m : Ilpiac) (t : FenceTarget) : Bool := m.flt.fences.any (·.target == t)

/-! ### Descriptors and completion records (R85, R92, R472, R473) -/

/-- Status codes (R95). -/
def stOk : Nat := 0x00
def stTimeout : Nat := 0x40
def stFenced : Nat := 0x41
def stAborted : Nat := 0x42
def stStateStale : Nat := 0x43
def stTrunkLost : Nat := 0x44
def stCommMismatch : Nat := 0x45
def stHazardFault : Nat := 0x46
def stMemoryFault : Nat := 0x47
def stHeadless : Nat := 0x48
def stStepSkew : Nat := 0x49
def stFeedShared : Nat := 0x4A
def stNoResources : Nat := 0x4B
def stBadDescriptor : Nat := 0x60
def stAbsentUnit : Nat := 0x61
def stUnplaced : Nat := 0x62
def stUnknownComm : Nat := 0x63
def stDuplicateComm : Nat := 0x64

/-- The fields of W0 of a descriptor (R85). -/
def wOp (ws : List Word) : Nat := bits (wordAt ws 0) 0 8
def wIrq (ws : List Word) : Bool := bitOf (wordAt ws 0) 8
def wRing (ws : List Word) : Nat := bits (wordAt ws 0) 16 12
def wTag (ws : List Word) : Nat := bits (wordAt ws 0) 32 32

/-- What a completion record reports beside tag, status and opcode (R92). -/
structure CplInfo where
  comm : Nat := 0
  fault : Option (Nat × Nat) := none
  info : Nat := 0
  step : Nat := 0
  seq : Nat := 0
  count : Nat := 0
deriving DecidableEq, Repr

/-- The four words of a completion record without PHASE (R92); `fault` is member and FAULT_STATUS. -/
def cplWords (ws : List Word) (status : Nat) (i : CplInfo) : List Word :=
  let w0 := wTag ws + status % 256 * 2 ^ 32 + wOp ws * 2 ^ 40
  let w1 := i.comm % 2 ^ 16 + (match i.fault with
    | some f => f.2 % 256 * 2 ^ 16 + f.1 % 2 ^ 14 * 2 ^ 24 + 2 ^ 38
    | none => 0) + i.info % 2 ^ 9 * 2 ^ 48
  let w3 := i.seq % 2 ^ 32 + min i.count (2 ^ 32 - 1) * 2 ^ 32
  [BitVec.ofNat 64 w0, BitVec.ofNat 64 w1, BitVec.ofNat 64 i.step, BitVec.ofNat 64 w3]

/-- Records in completion ring `c`: PROD − CONS modulo 2^32 (R473). -/
def Ilpiac.crHeld (m : Ilpiac) (c : Nat) : Nat :=
  (m.rd .cring c F.CR_STATUS_PROD + 2 ^ 32 - m.rd .cring c F.CR_DOORBELL_CONS) % 2 ^ 32

/-- Whether a completion ring can take a record now: enabled, not full, not fenced, not waiting since the
loss of the companion (R473, R474, R492, R500). -/
def Ilpiac.crTakes (m : Ilpiac) (c : Nat) : Bool :=
  m.rd .cring c F.CR_CTRL_ENABLE == 1 && decide (m.crHeld c < 2 ^ m.rd .cring c F.CR_CTRL_LOG2_SIZE) && !m.fenced (.cring c) &&
    !m.ctl.crWait.contains c

/-- CR_STATUS.STALLED follows whether a due record of the ring must wait (R473). -/
def Ilpiac.stall (m : Ilpiac) (c : Nat) : Ilpiac :=
  m.wr .cring c F.CR_STATUS_STALLED (b2n (m.ctl.cpl.any (·.cring == c) && !m.crTakes c))

/-- A completion record becomes due, behind the records of its ring (R472). -/
def Ilpiac.due (m : Ilpiac) (r : CplRec) : Ilpiac :=
  Ilpiac.stall { m with ctl := { m.ctl with
    cpl := m.ctl.cpl ++ [r],
    descs := mapIf (fun d => d.ring == r.ring && d.num == r.num) (fun d => { d with due := true }) m.ctl.descs } } r.cring

/-- The completion of an accepted descriptor. -/
def Ilpiac.complete (m : Ilpiac) (ring num : Nat) (ws : List Word) (status : Nat) (i : CplInfo := {}) (coll : Option CollId := none) : Ilpiac :=
  m.due ⟨wRing ws, cplWords ws status i, wIrq ws, ring, num, coll, none⟩

/-- The oldest accepted descriptor of a ring that has not begun, when its opcode is `op`; it begins. -/
def Ilpiac.begin (m : Ilpiac) (ring op : Nat) : Option (AccDesc × Ilpiac) :=
  match m.ctl.descs.find? (fun d => d.ring == ring && !d.started) with
  | none => none
  | some d =>
    if wOp d.words = op ∧ !d.due then
      some (d, { m with ctl := { m.ctl with descs := mapFirst (fun x => x == d) (fun x => { x with started := true }) m.ctl.descs } })
    else none

/-- Runs a descriptor's operation, when one waits to begin; otherwise nothing happens (assumption 4). -/
def Ilpiac.runDesc (m : Ilpiac) (ring op : Nat) (f : AccDesc → Ilpiac → Ilpiac) : Ilpiac :=
  match m.begin ring op with
  | some (d, m') => f d m'
  | none => m

/-- A field of a descriptor word. -/
def AccDesc.f (d : AccDesc) (w lo n : Nat) : Nat := bits (wordAt d.words w) lo n

/-- The descriptor completes. -/
def Ilpiac.done (m : Ilpiac) (d : AccDesc) (status : Nat) (i : CplInfo := {}) : Ilpiac := m.complete d.ring d.num d.words status i

/-- Whether every listed bit range `(word, lo, width)` of a descriptor is zero (R91). -/
def AccDesc.zero (d : AccDesc) (l : List (Nat × Nat × Nat)) : Bool := l.all (fun x => bits (wordAt d.words x.1) x.2.1 x.2.2 == 0)

/-- The reserved bits of W0 are zero (R85). -/
def AccDesc.w0ok (d : AccDesc) : Bool := d.zero [(0, 9, 7), (0, 28, 4)]

/-! ### Windows (R457 to R459) -/

/-- Whether an address range lies in one window that grants the access (R458, R459). -/
def Ilpiac.windowOk (m : Ilpiac) (addr len : Nat) (write : Bool) : Bool :=
  (List.range 8).any (fun i =>
    m.g F.WINDOW_BASE_VALID i == 1 &&
    (if write then m.g F.WINDOW_BASE_WRITE i == 1 else m.g F.WINDOW_BASE_READ i == 1) &&
    decide (m.g F.WINDOW_BASE_BASE i * 4096 ≤ addr) && decide (addr + len ≤ m.g F.WINDOW_LIMIT_LIMIT i * 4096))

/-- The first board address of the register window and of the aperture (R457). -/
def Ilpiac.regBase (m : Ilpiac) : Nat := m.g F.HOLM_BASE_REG_BASE * 2 ^ 26
def Ilpiac.hbmBase (m : Ilpiac) : Nat := m.g F.HOLM_BASE_HBM_BASE * 2 ^ 40

/-- Whether a range lies in the register window, or in the aperture (R457, R458). -/
def Ilpiac.inRegWindow (m : Ilpiac) (addr len : Nat) : Bool := decide (m.regBase ≤ addr) && decide (addr + len ≤ m.regBase + 2 ^ 26)
def Ilpiac.inAperture (m : Ilpiac) (addr len : Nat) : Bool :=
  m.has F.CAP_PRESENT_HBM && decide (m.hbmBase ≤ addr) && decide (addr + len ≤ m.hbmBase + m.g F.CAP_PRESENT_HBM_STACKS * 2 ^ 36)

/-- The address check of R459: served inside the Ilpiac, or inside one window that grants the access. -/
def Ilpiac.addrOk (m : Ilpiac) (addr len : Nat) (write : Bool) : Bool :=
  m.inRegWindow addr len || m.inAperture addr len || m.windowOk addr len write

/-- The Ilpiac writes a byte string at a board address that was checked: into its own aperture (the write takes effect at the end of the
command), into companion memory by coherent writes, or not at all where it falls into the register window, an access that R15 does
not allow (assumption 5). -/
def Ilpiac.boardWrite (m : Ilpiac) (addr : Nat) (d : List Byte) : Ilpiac :=
  if m.inAperture addr d.length then { m with ctl := { m.ctl with own := m.ctl.own ++ [(addr - m.hbmBase, d)] } }
  else if m.inRegWindow addr d.length then m.regAccess (addr - m.regBase)
  else m.over (cohPieces addr d) (fun m x => m.send (.cohWrite x.1 x.2))

/-- Counts the refusals among the addresses of a descriptor, as (address, length, write) (R459). -/
def Ilpiac.noteRefusals (m : Ilpiac) (l : List (Nat × Nat × Bool)) : Ilpiac :=
  m.gcnt F.HOLM_STATUS_WINDOW_REFUSALS ((l.filter (fun x => !m.addrOk x.1 x.2.1 x.2.2)).length)

/-- Counts a refusal by the windows (R459). -/
def Ilpiac.windowRefusal (m : Ilpiac) : Ilpiac := m.gcnt F.HOLM_STATUS_WINDOW_REFUSALS 1

end Sys2Proof.Machine
end

