-- ==== Sys2Proof/Machine/Hbm.lean ====
section
/-! DEFINITION. HBM, the memory-side cache, near-memory adders and the pool manager (spec 08), and the journal (R516, R521). -/

namespace Sys2Proof.Machine

/-! ### The journal (R493, R521, R522) -/

/-- One journal record takes effect on the module record: an entry gets its serial number, and the log keeps the latest 65,536. -/
def ModuleRecord.commit (r : ModuleRecord) : JRec → ModuleRecord
  | .entry e =>
    let l := r.log ++ [{ e with serial := r.serial }]
    { r with log := l.drop (l.length - 65536), serial := (r.serial + 1) % 2 ^ 32 }
  | .mapOut ch => { r with mapOut := r.mapOut.filter (· != ch) ++ [ch] }
  | .clearMapOut => { r with mapOut := [] }

/-- Journal records that the 1 MiB SRAM buffer holds, at 32 bytes each (R521). -/
def journalRoom : Nat := 32768

/-- A journal record: committed at once while JOURNAL_EN is 1 (assumption 12), kept in SRAM otherwise, where a full buffer drops its oldest. -/
def Ilpiac.journal (m : Ilpiac) (r : JRec) : Ilpiac :=
  if m.g F.PWR_STATUS_JOURNAL_EN = 1 then { m with record := m.record.commit r }
  else
    let l := m.power.journal ++ [r]
    let extra := l.length - journalRoom
    let m := { m with power := { m.power with journal := l.drop extra } }
    if extra = 0 then m else m.gcnt F.PWR_STATUS_JOURNAL_DROPS extra

/-- The journal buffer is committed (R516, R521). -/
def Ilpiac.journalCommit (m : Ilpiac) : Ilpiac :=
  { m with record := m.power.journal.foldl ModuleRecord.commit m.record, power := { m.power with journal := [] } }

/-- Channels that the map-out list names, the records that wait in SRAM included (R283). -/
def Ilpiac.recordedOut (m : Ilpiac) : List Nat := (m.power.journal.foldl ModuleRecord.commit m.record).mapOut

/-- FAULT_TIME of an event now: fabric time, or 0 while it is UNSET (R493). -/
def Ilpiac.stampNs (m : Ilpiac) : Nat := if m.timeSet then m.time.ns else 0

/-! ### GF(2^8) with polynomial 0x11D (R241, R270) -/

/-- Multiplication by 0x02. -/
def gfDouble (x : Byte) : Byte := if x.getLsbD 7 then (x <<< 1) ^^^ 0x1D#8 else x <<< 1

/-- Product of two field elements, the second read bit by bit from the top. -/
def gfMul (a b : Byte) : Byte :=
  [7, 6, 5, 4, 3, 2, 1, 0].foldl (fun acc i => let d := gfDouble acc; if b.getLsbD i then d ^^^ a else d) 0

/-- `a` to the power `n`. -/
def gfPow (a : Byte) : Nat → Byte
  | 0 => 1
  | n + 1 => gfMul a (gfPow a n)

/-- The inverse of a nonzero element: its power 254. -/
def gfInv (a : Byte) : Byte := gfPow a 254

/-- `g^i` with g = 0x02. -/
def gfG (i : Nat) : Byte := gfPow 2 i

/-- XOR of byte strings of one length. -/
def xorBytes (a b : List Byte) : List Byte := List.zipWith (· ^^^ ·) a b

/-- A byte string times a coefficient. -/
def gfScale (c : Byte) (l : List Byte) : List Byte := l.map (gfMul c)

/-! ### Channels and map-out (R278 to R284) -/

def Ilpiac.chState (m : Ilpiac) (ch : Nat) : Nat := m.rd .channel ch F.CH_STATUS_STATE
def chActive : Nat := 0
def chReserve : Nat := 1
def chSource : Nat := 2
def chOut : Nat := 3

/-- Channels of the module. -/
def Ilpiac.channels (m : Ilpiac) : List Nat := List.range (64 * m.g F.CAP_PRESENT_HBM_STACKS)

/-- N of R275. -/
def Ilpiac.slots (m : Ilpiac) : Nat := m.g F.HBM_STATUS_LOGICAL_GIB

/-- Whether the HBM function serves accesses: until it is STOPPED (R286, R462). -/
def Ilpiac.hbmOn (m : Ilpiac) : Bool := m.has F.CAP_PRESENT_HBM && (m.runState 2 == 2 || m.runState 2 == 3)

/-- Reserve order (R276): j from 63 down, within each j the stacks from the highest down. -/
def reserveOrder (ns : Nat) : List Nat :=
  (List.range 64).reverse.flatMap (fun j => (List.range ns).reverse.map (fun s => s * 64 + j))

/-- The channel that backs a slot. -/
def Ilpiac.backing (m : Ilpiac) (slot : Nat) : Option Nat := ((m.hbm.slotmap[slot]?).getD none)

/-- The migration of a slot, if one runs. -/
def Ilpiac.migration (m : Ilpiac) (slot : Nat) : Option Migration := m.hbm.migrations.find? (fun g => g.slot == slot)

/-- CHANNELS_OUT of a channel's stack follows the channel states (R302). -/
def Ilpiac.countOut (m : Ilpiac) (ch : Nat) : Ilpiac :=
  m.wr .stack (ch / 64) F.STACK_STATUS_CHANNELS_OUT (((List.range 64).filter (fun j => m.chState (ch / 64 * 64 + j) == chOut)).length)

/-- A channel becomes MAPPED_OUT. -/
def Ilpiac.outNow (m : Ilpiac) (ch : Nat) : Ilpiac :=
  let m := m.wr .channel ch F.CH_STATUS_STATE chOut
  let m := m.wr .channel ch F.CH_STATUS_SLOT 0x3FF
  (m.wr .channel ch F.CH_STATUS_MIGRATED 0).countOut ch

/-- The map-out is written to the fault log, with channel number and cause, and to the map-out list (R283, R522). The log entry's
SOURCE byte has no stated value: a free value (assumption 13). -/
def Ilpiac.recordOut (m : Ilpiac) (ch cause : Nat) : Ilpiac :=
  let d := m.draw
  ((d.2.journal (.entry { time := d.2.stampNs, src := d.1 % 256, wire := false, action := 0, unit := ch, detail := cause, serial := 0 })).journal (.mapOut ch))

/-- Stripes of groups that a 4 KiB unit of logical space holds: group, and stripe of the own shard (R284). -/
def Ilpiac.lostUnit (m : Ilpiac) (a : Nat) : Ilpiac :=
  { m with groups := m.groups.map (fun g =>
      match g.members.find? (fun x => x.bed == m.bed && x.plane == m.plane) with
      | some x =>
        if x.base ≤ a ∧ a < x.base + g.shardBytes then
          { g with lostStripes := g.lostStripes.filter (· != (a - x.base) / 4096) ++ [(a - x.base) / 4096] }
        else g
      | none => g) }

/-- The logical address of unit `u` of a slot (R275). -/
def Ilpiac.unitAddr (m : Ilpiac) (slot u : Nat) : Nat := (u * m.slots + slot) * 4096

/-- A slot begins to migrate to channel `q` with every bit clear (R279, R281). -/
def Ilpiac.migrate (m : Ilpiac) (slot source : Nat) (readable : Bool) (q : Nat) : Ilpiac :=
  let m := { m with hbm := { m.hbm with
    slotmap := m.hbm.slotmap.set slot (some q)
    reserve := m.hbm.reserve.filter (· != q)
    migrations := m.hbm.migrations.filter (fun (g : Migration) => g.slot != slot) ++ [({ slot, source, readable, target := q, units := [] } : Migration)]
    heldSlots := m.hbm.heldSlots.filter (· != slot) ++ [slot] } }
  let m := m.wr .channel q F.CH_STATUS_STATE chActive
  let m := m.wr .channel q F.CH_STATUS_SLOT slot
  let m := m.wr .channel q F.CH_STATUS_MIGRATED 0
  m.gw F.HBM_STATUS_RESERVE_LEFT m.hbm.reserve.length

/-- A slot loses its backing (R282): RELOCATE and the relocation-demand fault; reads return poison from then on. -/
def Ilpiac.unback (m : Ilpiac) (slot : Nat) : Ilpiac :=
  let m := { m with hbm := { m.hbm with
    slotmap := m.hbm.slotmap.set slot none
    migrations := m.hbm.migrations.filter (fun g => g.slot != slot) } }
  (m.gw F.HBM_STATUS_RELOCATE 1).raise srcRelocate 0 0

/-- A channel is mapped out for a cause of R278; `readable` is false for DEAD (R278 to R282). -/
def Ilpiac.mapOut (m : Ilpiac) (ch cause : Nat) : Ilpiac :=
  let readable := cause != 1
  if !m.channelPresent ch ∨ m.chState ch = chOut then m
  else if m.chState ch = chSource then
    -- a source that fails during its migration can no longer be read (R281)
    if readable then m
    else { m with hbm := { m.hbm with migrations := mapIf (fun g => g.source == ch) (fun g => { g with readable := false }) m.hbm.migrations } }
  else
    let m := m.wr .channel ch F.CH_STATUS_CAUSE cause
    let m := m.recordOut ch cause
    let m := m.gw F.HBM_STATUS_GOOD_CHANNELS (m.g F.HBM_STATUS_GOOD_CHANNELS - 1)
    if m.chState ch = chReserve then
      let m := { m with hbm := { m.hbm with reserve := m.hbm.reserve.filter (· != ch) } }
      (m.outNow ch).gw F.HBM_STATUS_RESERVE_LEFT m.hbm.reserve.length
    else
      let slot := m.rd .channel ch F.CH_STATUS_SLOT
      if m.backing slot ≠ some ch then m.outNow ch
      else
        let old := m.migration slot
        match m.hbm.reserve with
        | q :: _ =>
          match old with
          | some g => (m.outNow ch).migrate slot g.source g.readable q
          | none =>
            let m := (m.wr .channel ch F.CH_STATUS_STATE chSource).wr .channel ch F.CH_STATUS_MIGRATED 0
            m.migrate slot ch readable q
        | [] =>
          let m := match old with
            | some g => m.outNow g.source
            | none => m
          (m.outNow ch).unback slot

/-- The map-out of a channel in service: nothing outside a running function has a slot. -/
def Ilpiac.failChannel (m : Ilpiac) (ch cause : Nat) : Ilpiac := if m.hbmOn then m.mapOut ch cause else m

/-! ### Codewords (R269 to R272) -/

/-- Symbols of a stored codeword that differ from what was written. -/
def Ilpiac.cwErrors (m : Ilpiac) (cw : Nat) : List (Nat × Nat) := Map.get (fun _ => []) m.hbm.errors cw
def Ilpiac.setErrors (m : Ilpiac) (cw : Nat) (l : List (Nat × Nat)) : Ilpiac :=
  { m with hbm := { m.hbm with errors := Map.put (fun _ => []) m.hbm.errors cw l } }

/-- Whether a codeword's tag has POISON set. -/
def Ilpiac.poisoned (m : Ilpiac) (cw : Nat) : Bool := m.hbm.poison.contains cw
def Ilpiac.setPoison (m : Ilpiac) (cw : Nat) (b : Bool) : Ilpiac :=
  { m with hbm := { m.hbm with poison := m.hbm.poison.filter (· < cw) ++ (if b then [cw] else []) ++ m.hbm.poison.filter (cw < ·) } }

/-- The 64 data bytes of a codeword as written. -/
def Ilpiac.cwData (m : Ilpiac) (cw : Nat) : List Byte := m.hbm.data.read (cw * 64) 64
def Ilpiac.setData (m : Ilpiac) (cw : Nat) (d : List Byte) : Ilpiac := { m with hbm := { m.hbm with data := m.hbm.data.write (cw * 64) d } }

/-- Bits of a symbol flip; a symbol that returns to what was written is no longer in error. -/
def flipSymbol (l : List (Nat × Nat)) (sym d : Nat) : List (Nat × Nat) :=
  let old := ((l.find? (fun e : Nat × Nat => e.1 == sym)).map (·.2)).getD 0
  let v := Nat.xor old d
  let r := l.filter (fun e : Nat × Nat => e.1 != sym)
  if v = 0 then r else r ++ [(sym, v)]

/-- A codeword's data with the differences of its data symbols. -/
def withErrors (d : List Byte) (l : List (Nat × Nat)) : List Byte :=
  l.foldl (fun d e => if e.1 < 64 then patch d e.1 [(d[e.1]?).getD 0 ^^^ BitVec.ofNat 8 e.2] else d) d

/-- Upsets of a stored codeword. -/
def Ilpiac.upset (m : Ilpiac) (cw : Nat) (us : List Upset) : Ilpiac :=
  m.setErrors cw (us.foldl (fun l u => flipSymbol l (u.symbol % 68) u.bits.toNat) (m.cwErrors cw))

/-- Furrow cycles of 24 hours at 1.2 GHz. -/
def dayCycles : Nat := 24 * 3600 * 1200000000

/-- A corrected read (R271, R278). -/
def Ilpiac.countCe (m : Ilpiac) (cw sym : Nat) : Ilpiac :=
  let ch := cw / 2 ^ 24
  let acc := cw % 2 ^ 24
  let m := m.cnt .channel ch F.CH_ERRORS_CE 1
  let m := m.wr .channel ch F.CH_LAST_ERROR_ACCESS acc
  let m := m.wr .channel ch F.CH_LAST_ERROR_SYMBOL sym
  let m := m.wr .channel ch F.CH_LAST_ERROR_KIND 0
  let m := m.wr .channel ch F.CH_LAST_ERROR_VALID 1
  let seen := m.hbm.ceSeen.filter (fun e => decide (m.clk < e.2.2 + dayCycles) && !(e.1 == ch && e.2.1 == acc)) ++ [(ch, (acc, m.clk))]
  let m := { m with hbm := { m.hbm with ceSeen := seen } }
  let lim := m.rd .channel ch F.CH_CTRL_CE_LIMIT
  if lim ≠ 0 ∧ lim ≤ (seen.filter (fun e => e.1 == ch)).length then m.failChannel ch 3 else m

/-- An uncorrectable read: poison, count and fault (R271, R278). -/
def Ilpiac.countUe (m : Ilpiac) (cw : Nat) : Ilpiac :=
  let ch := cw / 2 ^ 24
  let acc := cw % 2 ^ 24
  let first := m.rd .channel ch F.CH_LAST_ERROR_VALID == 0 || m.rd .channel ch F.CH_LAST_ERROR_KIND == 0
  let m := m.cnt .channel ch F.CH_ERRORS_UE 1
  let m := m.wr .channel ch F.CH_LAST_ERROR_ACCESS acc
  let m := m.wr .channel ch F.CH_LAST_ERROR_SYMBOL 0x7F
  let m := m.wr .channel ch F.CH_LAST_ERROR_KIND 1
  let m := m.wr .channel ch F.CH_LAST_ERROR_VALID 1
  let m := if first then m.raise srcHbmUe ch acc else m
  let n := Map.get (fun _ => 0) m.hbm.ueCount ch + 1
  let m := { m with hbm := { m.hbm with ueCount := Map.put (fun _ => 0) m.hbm.ueCount ch n } }
  if max 1 (m.rd .channel ch F.CH_CTRL_UE_LIMIT) ≤ n then m.failChannel ch 2 else m

/-- One read of a codeword at the base die: data, or poison (R271, R272). -/
def Ilpiac.cwRead (m : Ilpiac) (cw : Nat) : Option (List Byte) × Ilpiac :=
  let out := fun (m : Ilpiac) => if m.poisoned cw then none else some (m.cwData cw)
  let bad := fun (m : Ilpiac) (l : List (Nat × Nat)) =>
    (none, (((m.setData cw (withErrors (m.cwData cw) l)).setErrors cw []).setPoison cw true).countUe cw)
  match m.cwErrors cw with
  | [] => (out m, m)
  | [e] =>
    let m := m.setErrors cw []
    (out m, m.countCe cw e.1)
  | [a, b] => bad m [a, b]
  | l =>
    match Config.rsBeyond l with
    | none => bad m l
    | some d =>
      let m := (m.setData cw (withErrors (m.cwData cw) d)).setErrors cw []
      let m := if (d.find? (fun e => e.1 == 64)).any (fun e => e.2 % 2 == 1) then m.setPoison cw (!m.poisoned cw) else m
      let sym := ((l.find? (fun e => !d.contains e)).map (·.1)).getD 0
      (out m, m.countCe cw sym)

/-- Corrupted symbols of an armed CH_INJECT (R301): which symbols and which bits is open, so they are free values. -/
def Ilpiac.inject (m : Ilpiac) (cw : Nat) : Ilpiac :=
  let ch := cw / 2 ^ 24
  if m.rd .channel ch F.CH_INJECT_ARM = 1 ∧ m.rd .channel ch F.CH_INJECT_ACCESS = cw % 2 ^ 24 then
    let m := m.wr .channel ch F.CH_INJECT_ARM 0
    let d := m.draw
    let s1 := d.1 % 68
    let s2 := (s1 + 1 + d.1 / 68 % 67) % 68
    let v := d.1 / 2 ^ 32 % 255 + 1
    if m.rd .channel ch F.CH_INJECT_SYMBOLS = 2 then d.2.setErrors cw [(s1, v), (s2, v)] else d.2.setErrors cw [(s1, v)]
  else m

/-- A full write of a codeword with new check symbols. -/
def Ilpiac.cwWrite (m : Ilpiac) (cw : Nat) (d : List Byte) (poison : Bool) : Ilpiac :=
  (((m.setData cw d).setErrors cw []).setPoison cw poison).inject cw

/-- A stack that an access reaches leaves self-refresh (R302). -/
def Ilpiac.wakeStack (m : Ilpiac) (ch : Nat) : Ilpiac :=
  if m.rd .stack (ch / 64) F.STACK_STATUS_STATE = 1 then m.wr .stack (ch / 64) F.STACK_STATUS_STATE 0 else m

/-! ### Logical space and migration (R275, R279) -/

/-- Units of a slot. -/
def slotUnits : Nat := 262144

/-- The migration of a slot ends when every bit is set: its source becomes MAPPED_OUT (R279). -/
def Ilpiac.migrationEnd (m : Ilpiac) (g : Migration) : Ilpiac :=
  if g.units.length < slotUnits then m
  else
    let m := { m with hbm := { m.hbm with migrations := m.hbm.migrations.filter (fun x => x.slot != g.slot) } }
    m.outNow g.source

/-- One unit of a migrating slot is copied, or filled with poison when its source cannot be read, and its bit is set (R279). -/
def Ilpiac.copyUnit (m : Ilpiac) (slot unit : Nat) : Ilpiac :=
  match m.migration slot with
  | none => m
  | some g =>
    if g.units.contains unit ∨ slotUnits ≤ unit then m
    else
      let m := (if g.readable then m.wakeStack g.source else m).wakeStack g.target
      let m := m.over (List.range 64) (fun m i =>
        let off := unit * 64 + i
        let dest := g.target * 2 ^ 24 + off
        if g.readable then
          match m.cwRead (g.source * 2 ^ 24 + off) with
          | (some d, m) => m.cwWrite dest d false
          | (none, m) => (m.cwWrite dest (m.cwData (g.source * 2 ^ 24 + off)) true).lostUnit (m.unitAddr slot unit)
        else m.cwWrite dest (List.replicate 64 0) true)
      let m := if g.readable then m else m.lostUnit (m.unitAddr slot unit)
      match m.migration slot with
      | none => m
      | some g' =>
        if g'.target ≠ g.target then m
        else
          let g' := { g' with units := g'.units ++ [unit] }
          let m := { m with hbm := { m.hbm with migrations := mapIf (fun x => x.slot == slot) (fun _ => g') m.hbm.migrations } }
          (m.wr .channel g'.target F.CH_STATUS_MIGRATED g'.units.length).migrationEnd g'

/-- Slot, unit and access of a 64-byte line of logical space (R275). -/
def Ilpiac.placeOf (m : Ilpiac) (line : Nat) : Nat × Nat × Nat :=
  let u := line / 64
  let n := max 1 m.slots
  (u % n, u / n, line % 64)

/-- The codeword that a read of a line reaches: none where it returns poison without an access (R279, R282). -/
def Ilpiac.readAt (m : Ilpiac) (line : Nat) : Option Nat :=
  let p := m.placeOf line
  if !m.hbmOn ∨ m.slots * 2 ^ 24 ≤ line then none
  else
    match m.backing p.1 with
    | none => none
    | some ch =>
      let at_ := fun c => c * 2 ^ 24 + p.2.1 * 64 + p.2.2
      match m.migration p.1 with
      | none => some (at_ ch)
      | some g =>
        if g.units.contains p.2.1 then some (at_ ch)
        else if g.readable then some (at_ g.source) else none

/-- One read of a line from HBM, past the cache. -/
def Ilpiac.lineRead (m : Ilpiac) (line : Nat) : Option (List Byte) × Ilpiac :=
  match m.readAt line with
  | none => (none, m)
  | some cw => (m.wakeStack (cw / 2 ^ 24)).cwRead cw

/-- The codeword that a write of a line reaches, after the unit has been copied (R279); none where the slot is unbacked. -/
def Ilpiac.writeAt (m : Ilpiac) (line : Nat) : Option Nat × Ilpiac :=
  let p := m.placeOf line
  if !m.hbmOn ∨ m.slots * 2 ^ 24 ≤ line then (none, m)
  else
    let m := m.copyUnit p.1 p.2.1
    match m.backing p.1 with
    | none => (none, m)
    | some ch => (some (ch * 2 ^ 24 + p.2.1 * 64 + p.2.2), m.wakeStack ch)

/-- What a write or adder operation did: whether it succeeded, the content before it (none: poison), and the content after it. -/
structure Wrote where
  ok : Bool
  old : Option (List Byte)
  new : List Byte
deriving DecidableEq, Repr

/-- A write of one line at the base die (R269, R272): `f` gives the new content. A write of all 64 bytes reads no old content, unless
`need` asks for it, as a shard stripe does for its delta. -/
def Ilpiac.lineWrite (m : Ilpiac) (line : Nat) (full need : Bool) (f : List Byte → List Byte) : Wrote × Ilpiac :=
  match m.writeAt line with
  | (none, m) => (⟨false, none, []⟩, m)
  | (some cw, m) =>
    if full && !need then (⟨true, none, f []⟩, m.cwWrite cw (f []) false)
    else
    match m.cwRead cw with
    | (some d, m) => (⟨true, some d, f d⟩, m.cwWrite cw (f d) false)
    | (none, m) =>
      if full then (⟨true, none, f []⟩, m.cwWrite cw (f []) false)
      else (⟨false, none, []⟩, m)

/-! ### The memory-side cache (R287, R288, R305) -/

/-- Hints (R288). -/
def hintNormal : Nat := 0
def hintStream : Nat := 1
def hintKeep : Nat := 2
def hintDiscard : Nat := 3

/-- Ways and sets (R287). -/
def cacheWays : Nat := 12
def cacheSets : Nat := 131072

def Ilpiac.setLines (m : Ilpiac) (l : List CacheLine) : Ilpiac := { m with hbm := { m.hbm with lines := l } }

/-- A cached line. -/
def Ilpiac.cached (m : Ilpiac) (line : Nat) : Option CacheLine := m.hbm.lines.find? (fun c => c.line == line)

/-- A line leaves the cache. -/
def Ilpiac.dropLine (m : Ilpiac) (line : Nat) : Ilpiac := m.setLines (m.hbm.lines.filter (fun c => c.line != line))

/-- A modified line is written back. -/
def Ilpiac.writeBack (m : Ilpiac) (c : CacheLine) : Ilpiac := if c.modified then (m.lineWrite c.line true false (fun _ => c.data)).2 else m

/-- A line is written back if modified and leaves the cache. -/
def Ilpiac.evictLine (m : Ilpiac) (line : Nat) : Ilpiac :=
  match m.cached line with
  | none => m
  | some c => (m.dropLine line).writeBack c

/-- KEEP_WAYS (R305). -/
def Ilpiac.keepWays (m : Ilpiac) : Nat := min 11 (m.g F.CACHE_CTRL_KEEP_WAYS)

/-- The line that a new line of its set replaces, if one must go (R288). -/
def Ilpiac.replaced (m : Ilpiac) (line : Nat) (keep : Bool) : Option Nat :=
  let s := m.hbm.lines.filter (fun c => c.line % cacheSets == line % cacheSets)
  let ks := s.filter (·.keep)
  if keep && decide (m.keepWays ≤ ks.length) then (ks.getLast?).map (·.line)
  else if cacheWays ≤ s.length then ((s.filter (fun c => !c.keep)).getLast?).map (·.line)
  else none

/-- A line enters the cache as the most recently used. -/
def Ilpiac.allocate (m : Ilpiac) (line : Nat) (d : List Byte) (modified keep : Bool) : Ilpiac :=
  let keep := keep && decide (0 < m.keepWays)
  let m := match m.replaced line keep with
    | some v => m.evictLine v
    | none => m
  m.setLines (⟨line, d, modified, keep⟩ :: m.hbm.lines)

/-- A hit makes its line the most recently used. -/
def Ilpiac.touch (m : Ilpiac) (c : CacheLine) : Ilpiac := (m.dropLine c.line).setLines (c :: (m.dropLine c.line).hbm.lines)

/-- Whether accesses use the cache (R305, R286). -/
def Ilpiac.cacheOn (m : Ilpiac) : Bool := m.g F.CACHE_CTRL_ENABLE == 1 && m.hbmOn

/-- Reads one line; `spill` marks the furrow spill path, whose DISCARD read drops a modified line (R288). -/
def Ilpiac.readLine (m : Ilpiac) (line hint : Nat) (spill : Bool := false) : Option (List Byte) × Ilpiac :=
  if !m.cacheOn then m.lineRead line
  else
    match m.cached line with
    | some c =>
      let m := m.gcnt F.CACHE_COUNTS_HITS 1
      if hint = hintDiscard then (some c.data, if spill then m.dropLine line else m.evictLine line)
      else if hint = hintStream then (some c.data, m)
      else (some c.data, m.touch c)
    | none =>
      match (m.gcnt F.CACHE_COUNTS_MISSES 1).lineRead line with
      | (none, m) => (none, m)
      | (some d, m) => (some d, if hint = hintNormal ∨ hint = hintKeep then m.allocate line d false (hint == hintKeep) else m)

/-- Writes `d` at offset `off` of one line; `through` marks shard ranges, which are written through (R242, R287). -/
def Ilpiac.writeLine (m : Ilpiac) (line off : Nat) (d : List Byte) (hint : Nat) (through : Bool) : Wrote × Ilpiac :=
  let full := off = 0 ∧ d.length = 64
  let put := fun old => if full then d else patch old off d
  if !m.cacheOn then m.lineWrite line full through put
  else
    match m.cached line with
    | some c =>
      let m := m.gcnt F.CACHE_COUNTS_HITS 1
      let new := put c.data
      if hint = hintStream then
        let r := (m.dropLine line).lineWrite line true false (fun _ => new)
        (⟨r.1.ok, some c.data, new⟩, r.2)
      else if through then
        let r := m.lineWrite line true false (fun _ => new)
        (⟨r.1.ok, some c.data, new⟩, if r.1.ok then r.2.touch { c with data := new, modified := false } else r.2.dropLine line)
      else (⟨true, some c.data, new⟩, m.touch { c with data := new, modified := true })
    | none =>
      let m := m.gcnt F.CACHE_COUNTS_MISSES 1
      if hint = hintStream ∨ through then
        let r := m.lineWrite line full through put
        if r.1.ok ∧ hint ≠ hintStream then (r.1, r.2.allocate line r.1.new false (hint == hintKeep)) else r
      else if (m.writeAt line).1 = none then (⟨false, none, []⟩, m)
      else if full then (⟨true, none, d⟩, m.allocate line d true (hint == hintKeep))
      else
        match m.lineRead line with
        | (some old, m) => (⟨true, some old, put old⟩, m.allocate line (put old) true (hint == hintKeep))
        | (none, m) => (⟨false, none, []⟩, m)

/-- All modified lines are written back and the cache is emptied. -/
def Ilpiac.flushCache (m : Ilpiac) : Ilpiac := (m.over m.hbm.lines (fun m c => m.writeBack c)).setLines []

/-- The hint of an address by the first valid HINT_RANGE that contains it (R289, R305). -/
def Ilpiac.hintAt (m : Ilpiac) (a : Nat) (write : Bool) : Nat :=
  match (List.range 8).find? (fun i => m.g F.HINT_RANGE_VALID i == 1 && decide (m.g F.HINT_RANGE_BASE_2M i * 2 ^ 21 ≤ a) &&
      decide (a < m.g F.HINT_RANGE_LIMIT_2M i * 2 ^ 21)) with
  | some i => if write then m.g F.HINT_RANGE_WRITE_HINT i else m.g F.HINT_RANGE_READ_HINT i
  | none => hintNormal

/-- The lines of a byte range: line, offset in it and number of bytes. -/
def lineParts (a n : Nat) : List (Nat × Nat × Nat) :=
  if n = 0 then [] else
  (List.range ((a + n - 1) / 64 - a / 64 + 1)).map (fun i =>
    let line := a / 64 + i
    let lo := if i = 0 then a % 64 else 0
    let hi := min 64 (a + n - line * 64)
    (line, lo, hi - lo))

/-- Reads a byte range; poison in any line gives none. -/
def Ilpiac.memRead (m : Ilpiac) (a n hint : Nat) (spill : Bool := false) : Option (List Byte) × Ilpiac :=
  (lineParts a n).foldl (fun (acc : Option (List Byte) × Ilpiac) (x : Nat × Nat × Nat) =>
    match acc.2.readLine x.1 hint spill with
    | (some d, m) => (acc.1.map (fun l => l ++ bytesAt d x.2.1 x.2.2), m)
    | (none, m) => (none, m)) (some [], m)

/-! ### Near-memory adders (R290) -/

/-- Element bytes of an adder operation; other codes are refused. -/
def amoElem (op : Nat) : Option Nat :=
  match op with
  | 0x0 => some 4 | 0x1 => some 2 | 0x2 => some 4 | 0x3 => some 8 | 0x4 => some 1 | 0x5 => some 1 | 0x6 => some 4 | 0x8 => some 4 | 0x9 => some 8
  | _ => none

/-- bfloat16 addition: the exact sum rounded once (R290). -/
def addBf16 (a b : Nat) : Nat := (convert bf16 .nearest true ((bf16.value a).add (bf16.value b))).code

/-- One element of an adder operation: its memory afterwards. -/
def amoElemF (op : Nat) (coef : Byte) (mem src : Nat) : Nat :=
  match op with
  | 0x0 => (addB32 (BitVec.ofNat 32 mem) (BitVec.ofNat 32 src)).toNat
  | 0x1 => addBf16 mem src
  | 0x2 => (mem + src) % 2 ^ 32
  | 0x8 => (mem + src) % 2 ^ 32
  | 0x3 => (mem + src) % 2 ^ 64
  | 0x9 => (mem + src) % 2 ^ 64
  | 0x4 => Nat.xor mem src
  | 0x5 => Nat.xor mem (gfMul coef (BitVec.ofNat 8 src)).toNat
  | _ => mem

/-- An adder operation over a byte string: memory afterwards. -/
def amoApply (op : Nat) (coef : Byte) (mem src : List Byte) : List Byte :=
  match amoElem op with
  | none => mem
  | some e => (List.range (src.length / e)).flatMap (fun i => leBytes e (amoElemF op coef (natAt mem (i * e) e) (natAt src (i * e) e)))

/-- What an adder operation returns. -/
def amoReturns (op : Nat) (mem src : List Byte) : List Byte :=
  if op = 0x8 ∨ op = 0x9 then mem.take src.length
  else if op = 0x6 then
    (List.range (src.length / 4)).flatMap (fun i => leBytes 4 (addB32 (BitVec.ofNat 32 (natAt mem (i * 4) 4)) (BitVec.ofNat 32 (natAt src (i * 4) 4))).toNat)
  else []

/-- Whether an adder request is well formed: 4 to 64 bytes, a multiple of the element, aligned to it, inside one 64-byte access (R290). -/
def amoShape (op a n : Nat) : Bool :=
  match amoElem op with
  | none => false
  | some e => decide (4 ≤ n) && decide (n ≤ 64) && n % e == 0 && a % e == 0 && decide (a % 64 + n ≤ 64)

/-- An adder operation at its base die: a cached line of the target is written back and invalidated first (R287, R290). SUM_F32 reads only. -/
def Ilpiac.adder (m : Ilpiac) (op a : Nat) (coef : Byte) (src : List Byte) : Option (List Byte) × Wrote × Ilpiac :=
  let m := m.evictLine (a / 64)
  let off := a % 64
  if op = 0x6 then
    match m.lineRead (a / 64) with
    | (some d, m) => (some (amoReturns op (bytesAt d off src.length) src), ⟨true, some d, d⟩, m)
    | (none, m) => (none, ⟨false, none, []⟩, m)
  else
    let f := fun d => patch d off (amoApply op coef (bytesAt d off src.length) src)
    let r := m.lineWrite (a / 64) false true f
    match r.1.ok, r.1.old with
    | true, some d => (some (amoReturns op (bytesAt d off src.length) src), r.1, r.2)
    | _, _ => (none, r.1, r.2)

/-! ### Pools (R294 to R297) -/

/-- POOL_CFG of pool `i` (R306). -/
def Ilpiac.poolLog2 (m : Ilpiac) (i : Nat) : Nat := if i = 0 then 12 else m.g F.POOL_CFG_LOG2_BUF i
def Ilpiac.poolCount (m : Ilpiac) (i : Nat) : Nat := if i = 0 then 32768 else m.g F.POOL_CFG_COUNT i
def Ilpiac.poolFallback (m : Ilpiac) (i : Nat) : Nat := m.g F.POOL_CFG_FALLBACK i

/-- The pool that FALLBACK links reach after `n` steps. -/
def Ilpiac.fallChain (m : Ilpiac) (i : Nat) : Nat → Option Nat
  | 0 => some i
  | n + 1 => match m.fallChain i n with
    | none => none
    | some j => if m.poolFallback j = 0xF then none else some (m.poolFallback j)

/-- FALLBACK rules of R296, and buffer sizes of R306. -/
def Ilpiac.poolsOk (m : Ilpiac) : Bool :=
  (List.range 8).all (fun i =>
    decide (12 ≤ m.poolLog2 i) && decide (m.poolLog2 i ≤ 30) &&
    (m.poolFallback i == 0xF ||
      (decide (m.poolFallback i < 8) && m.poolFallback i != i && decide (m.poolLog2 i ≤ m.poolLog2 (m.poolFallback i)))) &&
    (m.fallChain i 8).isNone)

/-- The carves of pools `i` to 7 below address `top`; none where one does not fit (R295). -/
def Ilpiac.carve (m : Ilpiac) : Nat → Nat → Nat → Option (List Pool)
  | 0, _, _ => some []
  | n + 1, i, top =>
    let c := m.poolCount i
    let sz := 2 ^ m.poolLog2 i
    if c = 0 then m.carve n (i + 1) top
    else if top < c * sz then none
    else
      let base := (top - c * sz) / sz * sz
      (m.carve n (i + 1) base).map (fun l => ⟨i, base, m.poolLog2 i, c, []⟩ :: l)

/-- The lowest address of the carves. -/
def lowestCarve (n : Nat) (l : List Pool) : Nat := ((l.getLast?).map (·.base)).getD (n * 2 ^ 30)

def Ilpiac.pool (m : Ilpiac) (i : Nat) : Option Pool := m.hbm.pools.find? (fun p => p.num == i)

/-- FREE and MIN_FREE of a pool follow its buffers (R306). -/
def Ilpiac.poolStat (m : Ilpiac) (i : Nat) : Ilpiac :=
  match m.pool i with
  | none => m
  | some p =>
    let f := p.count - p.taken.length
    let m := m.gw F.POOL_STATUS_FREE f i
    if f < m.g F.POOL_STATUS_MIN_FREE i then m.gw F.POOL_STATUS_MIN_FREE f i else m

/-- Buffers of pool 0 that no context has reserved (R294; assumption 76). -/
def Ilpiac.pool0Free (m : Ilpiac) : Nat := 32768 - sumOf (m.coll.ctxs.map (·.reserved))

/-- POOL_STATUS0: FREE follows the reservations, and MIN_FREE follows FREE while the HBM function runs (R306; assumption 76). -/
def Ilpiac.pool0Stat (m : Ilpiac) : Ilpiac :=
  let f := m.pool0Free
  let m := m.gw F.POOL_STATUS_FREE f 0
  if m.hbmOn ∧ f < m.g F.POOL_STATUS_MIN_FREE 0 then m.gw F.POOL_STATUS_MIN_FREE f 0 else m

/-- A request on a pool is refused (R297). -/
def Ilpiac.poolRefuse (m : Ilpiac) (i : Nat) : Ilpiac := m.gcnt F.POOL_STATUS_REFUSED 1 i

/-- A buffer of exactly this pool: the lowest free one. -/
def Ilpiac.poolTakeHere (m : Ilpiac) (i : Nat) : Option (Nat × Ilpiac) :=
  match m.pool i with
  | none => none
  | some p =>
    match firstBelow p.count (fun k => !p.taken.contains k) with
    | none => none
    | some k =>
      let m := { m with hbm := { m.hbm with pools := mapIf (fun x => x.num == i) (fun x => { x with taken := x.taken ++ [k] }) m.hbm.pools } }
      some (p.base + k * 2 ^ p.log2, m.poolStat i)

/-- Whether the pool manager answers requests on HBM pools (R297, R461). -/
def Ilpiac.poolsOpen (m : Ilpiac) : Bool := m.hbmOn && m.g F.HBM_STATUS_RELOCATE == 0 && !m.fenced (.function 2)

/-- A buffer of pool `i`, 1 to 7, with one fallback step; none when refused (R294, R296, R297). -/
def Ilpiac.poolTake (m : Ilpiac) (i : Nat) : Option Nat × Ilpiac :=
  if !m.poolsOpen then (none, m.poolRefuse i)
  else
    match m.poolTakeHere i with
    | some (a, m) => (some a, m)
    | none =>
      match m.poolTakeHere (m.poolFallback i) with
      | some (a, m) => (some a, m)
      | none => (none, m.poolRefuse i)

/-- A spill slot: a request beyond a context's reservation goes to the pool that POOL_CFG0.FALLBACK names, which counts the request when it
is refused (R294, R297). -/
def Ilpiac.spillTake (m : Ilpiac) : Option Nat × Ilpiac :=
  let i := m.poolFallback 0
  if 7 < i then (none, m)
  else if !m.poolsOpen then (none, m.poolRefuse i)
  else
    match m.poolTakeHere i with
    | some (a, m) => (some a, m)
    | none => (none, m.poolRefuse i)

/-- A buffer returns to the pool that holds its address. -/
def Ilpiac.poolGive (m : Ilpiac) (a : Nat) : Ilpiac :=
  match m.hbm.pools.find? (fun p => decide (p.base ≤ a) && decide (a < p.base + p.count * 2 ^ p.log2)) with
  | none => m
  | some p =>
    let k := (a - p.base) / 2 ^ p.log2
    Ilpiac.poolStat { m with hbm := { m.hbm with pools := mapIf (fun x => x.num == p.num) (fun x => { x with taken := x.taken.filter (· != k) }) m.hbm.pools } } p.num

/-- `n` buffers of a pool, or none of them. -/
def Ilpiac.poolTakeN (m : Ilpiac) (i : Nat) : Nat → Option (List Nat) × Ilpiac
  | 0 => (some [], m)
  | n + 1 =>
    match m.poolTake i with
    | (none, m) => (none, m)
    | (some a, m) =>
      match m.poolTakeN i n with
      | (some l, m) => (some (a :: l), m)
      | (none, m) => (none, m.poolGive a)

/-- Whether a range lies in the direct area (R295, R291). -/
def Ilpiac.inDirect (m : Ilpiac) (a n : Nat) : Bool := decide (a + n ≤ m.hbm.directEnd)

/-! ### The start of the HBM function (R275, R276, R283, R285, R295) -/

/-- What a start computes: good channels, reserve, slot map and pools; none where it is refused. -/
structure HbmLayout where
  good : List Nat
  reserve : List Nat
  slotmap : List (Option Nat)
  n : Nat
  pools : List Pool
  directEnd : Nat
deriving DecidableEq, Repr

/-- HEADROOM (R304). -/
def Ilpiac.headroom (m : Ilpiac) : Nat := min 64 (m.g F.HBM_CONFIG_HEADROOM)

/-- The layout of a start over the channels `good`. -/
def Ilpiac.hbmLayout (m : Ilpiac) (good : List Nat) : Option HbmLayout :=
  let h := m.headroom
  if good.length < h ∨ !m.poolsOk then none
  else
    let n := good.length - h
    let reserve := ((reserveOrder (m.g F.CAP_PRESENT_HBM_STACKS)).filter (fun c => good.contains c)).take h
    match m.carve 7 1 (n * 2 ^ 30) with
    | none => none
    | some pools =>
      let low := lowestCarve n pools
      let d := m.g F.HBM_CONFIG_DIRECT_GIB
      if low < d * 2 ^ 30 then none
      else some { good, reserve, slotmap := (good.filter (fun c => !reserve.contains c)).map some, n, pools,
                  directEnd := (if d = 0 then low / 2 ^ 30 else d) * 2 ^ 30 }

/-- The configuration of a start (R285). -/
def Ilpiac.hbmConfig (m : Ilpiac) (good : List Nat) : HbmStart :=
  { headroom := m.headroom, direct := m.g F.HBM_CONFIG_DIRECT_GIB, good,
    pools := (List.range 7).flatMap (fun i => [m.poolLog2 (i + 1), m.poolCount (i + 1), m.poolFallback (i + 1)]) }

/-- Channels that a start may train: those that the fault log does not list, or all of them after CLEAR_RECORDED (R283). -/
def Ilpiac.trainable (m : Ilpiac) : List Nat :=
  m.channels.filter (fun c => m.g F.HBM_CONFIG_CLEAR_RECORDED == 1 || !m.recordedOut.contains c)

/-- Channel states of a start. -/
def Ilpiac.startChannels (m : Ilpiac) (good reserve failed : List Nat) (slotmap : List (Option Nat)) : Ilpiac :=
  let m := m.over m.channels (fun m c =>
    if good.contains c then
      let m := m.wr .channel c F.CH_STATUS_STATE (if reserve.contains c then chReserve else chActive)
      let m := m.wr .channel c F.CH_STATUS_CAUSE 0
      let m := m.wr .channel c F.CH_STATUS_MIGRATED 0
      m.wr .channel c F.CH_STATUS_SLOT (if reserve.contains c then 0x3FF else slotmap.findIdx (· == some c))
    else
      let m := m.wr .channel c F.CH_STATUS_STATE chOut
      let m := m.wr .channel c F.CH_STATUS_MIGRATED 0
      let m := m.wr .channel c F.CH_STATUS_SLOT 0x3FF
      m.wr .channel c F.CH_STATUS_CAUSE (if failed.contains c then 1 else 5))
  m.over (List.range (m.g F.CAP_PRESENT_HBM_STACKS)) (fun m s => (m.wr .stack s F.STACK_STATUS_STATE 0).countOut (64 * s))

/-- The end of a start of the HBM function: `true` when it runs, `false` when it is refused (R285). The channels in `failed` fail
training (R278). -/
def Ilpiac.hbmStart (m : Ilpiac) (failed : List Nat) : Bool × Ilpiac :=
  let train := m.trainable
  let bad := failed.filter (fun c => train.contains c)
  let good := train.filter (fun c => !bad.contains c)
  let m := if m.g F.HBM_CONFIG_CLEAR_RECORDED = 1 then (m.journal .clearMapOut).gw F.HBM_CONFIG_CLEAR_RECORDED 0 else m
  let m := m.over bad (fun m c => m.recordOut c 1)
  let m := m.gw F.HBM_STATUS_GOOD_CHANNELS good.length
  match m.hbmLayout good with
  | none =>
    let m := m.startChannels good [] bad []
    (false, (m.gw F.HBM_STATUS_STATE 3).gw F.HBM_STATUS_BAD_CONFIG 1)
  | some l =>
    let cfg := m.hbmConfig good
    let keep := m.hbm.lastStart == some cfg
    let h := m.hbm
    let m := { m with hbm := { h with
      slotmap := l.slotmap, reserve := l.reserve, migrations := [], ueCount := [], pools := l.pools, directEnd := l.directEnd,
      lastStart := some cfg, heldSlots := [],
      data := if keep then h.data else [], poison := if keep then h.poison else [], errors := if keep then h.errors else [],
      lines := if keep then h.lines else [] } }
    let m := m.startChannels good l.reserve bad l.slotmap
    let m := m.gw F.HBM_STATUS_STATE 2
    let m := m.gw F.HBM_STATUS_BAD_CONFIG 0
    let m := m.gw F.HBM_STATUS_RELOCATE 0
    let m := m.gw F.HBM_STATUS_LOGICAL_GIB l.n
    let m := m.gw F.HBM_STATUS_RESERVE_LEFT l.reserve.length
    let m := m.release srcRelocate (fun _ => true)
    let m := m.over (List.range 7) (fun m i =>
      let c := ((m.pool (i + 1)).map (·.count)).getD 0
      (m.gw F.POOL_STATUS_FREE c (i + 1)).gw F.POOL_STATUS_MIN_FREE c (i + 1))
    (true, (m.gw F.POOL_STATUS_FREE m.pool0Free 0).gw F.POOL_STATUS_MIN_FREE m.pool0Free 0)

/-- The stop of the HBM function: the cache is written back and emptied, and nothing is migrating any longer. -/
def Ilpiac.hbmStop (m : Ilpiac) : Ilpiac := m.flushCache.gw F.HBM_STATUS_STATE 0

/-! ### Scrub and self-refresh (R274, R302) -/

/-- SCRUB_READ: the next codeword of an ACTIVE channel is read and corrected past the cache (R274); the accesses of a channel come in ascending
order (assumption 63). -/
def Ilpiac.scrubRead (m : Ilpiac) (ch : Nat) (us : List Upset) : Ilpiac :=
  if !m.hbmOn ∨ !m.channelPresent ch ∨ m.chState ch ≠ chActive then m
  else
    let a := Map.get (fun _ => 0) m.hbm.scrubAt ch
    let cw := ch * 2 ^ 24 + a
    let m := (((m.wakeStack ch).upset cw us).cwRead cw).2
    { m with hbm := { m.hbm with scrubAt := Map.put (fun _ => 0) m.hbm.scrubAt ch ((a + 1) % 2 ^ 24) } }

/-- SLOT_REMAP_DONE: accesses that were held for the change of a slot's channel proceed (R280). -/
def Ilpiac.remapDone (m : Ilpiac) (slot : Nat) : Ilpiac :=
  { m with hbm := { m.hbm with heldSlots := m.hbm.heldSlots.filter (· != slot) } }

/-- A stack enters self-refresh when SELF_REFRESH is set and no migration touches it (R302). -/
def Ilpiac.selfRefresh (m : Ilpiac) (s : Nat) : Ilpiac :=
  if m.stackPresent s ∧ m.rd .stack s F.STACK_CTRL_SELF_REFRESH = 1 ∧ m.rd .stack s F.STACK_STATUS_STATE = 0 ∧
      !(m.hbm.migrations.any (fun g => g.source / 64 == s || g.target / 64 == s)) then m.wr .stack s F.STACK_STATUS_STATE 1
  else m

end Sys2Proof.Machine
end

