-- ==== Sys2Proof/Machine/Operands.lean ====
section
/-! DEFINITION. Operand forms: the fields of YFL packets (R307 to R327, R376, R431, R445, R503) and the CRC over them. -/

namespace Sys2Proof

open Machine

/-! ### CRC-32C (R308) -/

/-- One bit of the reflected CRC. -/
def crcBit (c : BitVec 32) : BitVec 32 := if c.getLsbD 0 then (c >>> 1) ^^^ 0x82F63B78#32 else c >>> 1

/-- One byte of the reflected CRC. -/
def crcByte (c : BitVec 32) (b : Byte) : BitVec 32 :=
  crcBit (crcBit (crcBit (crcBit (crcBit (crcBit (crcBit (crcBit (c ^^^ b.setWidth 32))))))))

/-- CRC-32C of a byte string: initial value and final XOR of all ones (R308). -/
def crc32c (l : List Byte) : BitVec 32 := l.foldl crcByte 0xFFFFFFFF#32 ^^^ 0xFFFFFFFF#32

/-! ### H0 (R309) -/

def Packet.ty (p : Packet) : Nat := bits p.h0.toNat 0 8
def Packet.tc (p : Packet) : Nat := bits p.h0.toNat 8 3
def Packet.len (p : Packet) : Nat := bits p.h0.toNat 12 13
def Packet.dst (p : Packet) : Nat := bits p.h0.toNat 32 14
def Packet.dstIlp (p : Packet) : Bool := bitOf p.h0.toNat 46
def Packet.src (p : Packet) : Nat := bits p.h0.toNat 48 14
def Packet.srcIlp (p : Packet) : Bool := bitOf p.h0.toNat 62

/-- Header word Hn, n from 1. -/
def Packet.h (p : Packet) (n : Nat) : Nat := wordAt p.hs (n - 1)

/-- A field of header word Hn. -/
def Packet.f (p : Packet) (n lo w : Nat) : Nat := bits (p.h n) lo w

/-- The bytes that LEN counts. -/
def Packet.size (p : Packet) : Nat := 8 + 8 * p.hs.length + p.body.length

/-- Destination and source bed (R362). -/
def Packet.dstBed (p : Packet) : Nat := if p.dstIlp then p.dst % 64 else p.dst / 256
def Packet.srcBed (p : Packet) : Nat := if p.srcIlp then p.src % 64 else p.src / 256

/-- The packet's bytes 0 to LEN − 1. -/
def Packet.bytes (p : Packet) : List Byte := leBytes 8 p.h0.toNat ++ wordBytes p.hs ++ p.body

/-- The packet's bytes through its CRC. -/
def Packet.wire (p : Packet) : List Byte := p.bytes ++ leBytes 4 (crc32c p.bytes).toNat

/-- A packet with the LEN of its parts. -/
def Packet.make (ty tc dst : Nat) (dstIlp : Bool) (src : Nat) (srcIlp : Bool) (hs : List Nat) (body : List Byte) : Packet :=
  let n := 8 + 8 * hs.length + body.length
  { h0 := BitVec.ofNat 64 (ty % 256 + tc % 8 * 2 ^ 8 + n % 8192 * 2 ^ 12 + dst % 16384 * 2 ^ 32 + b2n dstIlp * 2 ^ 46 +
      src % 16384 * 2 ^ 48 + b2n srcIlp * 2 ^ 62),
    hs := hs.map (BitVec.ofNat 64), body := body }

/-- Header words after H0 of a packet type (R310, R311, R314, R316, R321, R323 to R325, R376, R431, R445, R503). -/
def hdrWords (ty : Nat) : Nat :=
  match ty with
  | 0x01 => 3 | 0x02 => 4
  | 0x08 => 3 | 0x09 => 4 | 0x0A => 4 | 0x0B => 4 | 0x0C => 3 | 0x0D => 4
  | 0x10 => 2 | 0x11 => 1 | 0x18 => 1 | 0x19 => 1
  | 0x40 => 2 | 0x41 => 2 | 0x48 => 3 | 0x49 => 1 | 0x4A => 1
  | 0x60 => 3 | 0x61 => 4 | 0x62 => 3 | 0x63 => 3
  | 0x64 => 1 | 0x65 => 1 | 0x66 => 1 | 0x67 => 2
  | 0x68 => 2 | 0x69 => 1 | 0x6A => 1 | 0x6B => 1 | 0x6C => 1 | 0x6D => 1 | 0x6E => 1
  | _ => 0

/-- A packet read from bytes 0 through its CRC, or nothing where the CRC or the length is wrong (R308). -/
def Packet.parse (l : List Byte) : Option Packet :=
  let n := natAt l 0 8
  let len := bits n 12 13
  let hw := hdrWords (bits n 0 8)
  if len + 4 ≤ l.length ∧ 8 + 8 * hw ≤ len ∧ natAt l len 4 = (crc32c (l.take len)).toNat then
    some { h0 := BitVec.ofNat 64 n, hs := bytesWords hw (l.drop 8), body := (l.take len).drop (8 + 8 * hw) }
  else none

/-- LEN lies in its range, agrees with the packet, and the header is whole (R307, R308). -/
def Packet.lenOk (p : Packet) : Bool :=
  decide (8 ≤ p.len) && decide (p.len ≤ 4352) && p.len == p.size && p.hs.length == hdrWords p.ty

/-- Reserved bits of H0 are zero (R309). -/
def Packet.h0Ok (p : Packet) : Bool :=
  !bitOf p.h0.toNat 11 && bits p.h0.toNat 25 7 == 0 && !bitOf p.h0.toNat 47 && !bitOf p.h0.toNat 63 &&
  (!p.dstIlp || p.dst / 64 == 0) && (!p.srcIlp || p.src / 64 == 0)

/-- Reserved bits of the words after H0 are zero (R310): each listed field `(word, lo, width)` of a type. -/
def Packet.zeroOk (p : Packet) : Bool :=
  let z (l : List (Nat × Nat × Nat)) : Bool := l.all (fun x => p.f x.1 x.2.1 x.2.2 == 0)
  match p.ty with
  | 0x01 => z [(1, 41, 7), (2, 18, 6), (2, 48, 16)]
  | 0x0D => z [(4, 13, 51)]
  | 0x09 => z [(4, 24, 40)]
  | 0x10 => z [(2, 21, 11)]
  | 0x18 => z [(1, 32, 32)]
  | 0x19 => z [(1, 4, 60)]
  | 0x60 => z [(3, 34, 30)]
  | 0x61 => z [(4, 24, 40)]
  | 0x63 => z [(3, 46, 18)]
  | 0x66 => z [(1, 20, 44)]
  | 0x67 => z [(1, 21, 43)]
  | 0x68 => z [(1, 19, 3), (1, 52, 12), (2, 30, 2)]
  | 0x69 => z [(1, 28, 4)]
  | 0x6A => z [(1, 12, 52)]
  | 0x6B => z [(1, 12, 52)]
  | 0x6C => z [(1, 12, 20)]
  | 0x6D => z [(1, 12, 20)]
  | 0x6E => z [(1, 12, 20)]
  | 0x48 => z [(2, 28, 4), (3, 25, 7)]
  | 0x40 => z [(1, 19, 13)]
  | 0x49 => z [(1, 32, 32)]
  | _ => true

/-! ### Collective headers (R316, R317) -/

def Packet.step (p : Packet) : Nat := p.h 1
def Packet.seq (p : Packet) : Nat := p.f 2 0 32
def Packet.comm (p : Packet) : Nat := p.f 2 32 16
def Packet.hi (p : Packet) : Nat := p.f 2 48 16
def Packet.index (p : Packet) : Nat := p.f 3 0 24
def Packet.part (p : Packet) : Nat := p.f 3 24 4
def Packet.fmt (p : Packet) : Nat := p.f 3 28 4
def Packet.coarse (p : Packet) : Nat := p.f 3 32 32
def Packet.count (p : Packet) : Nat := p.f 4 0 24

/-- The collective that a packet names (R49). -/
def Packet.coll (p : Packet) : CollId := ⟨p.comm, p.step, p.seq⟩

/-- The position of a DATA packet (R317); INDEX alone for every other part. -/
def Packet.pos (p : Packet) : Nat := if p.part = 0 then p.hi * 2 ^ 24 + p.index else p.index

/-- H1 to H3 of R316. -/
def collHdr (c : CollId) (hi index part fmt coarse : Nat) : List Nat :=
  [c.step, c.seq % 2 ^ 32 + c.comm % 2 ^ 16 * 2 ^ 32 + hi % 2 ^ 16 * 2 ^ 48,
   index % 2 ^ 24 + part % 16 * 2 ^ 24 + fmt % 16 * 2 ^ 28 + coarse % 2 ^ 32 * 2 ^ 32]

/-- H1 to H3 for a position or a row: DATA splits the position into INDEX_HI and INDEX, ROW names its expert in the upper field. -/
def partHdr (c : CollId) (part expert index fmt coarse : Nat) : List Nat :=
  if part = 0 then collHdr c (index / 2 ^ 24) index part fmt coarse else collHdr c expert index part fmt coarse

/-! ### Sizes (R313, R318, R328, R340) -/

/-- Cells of a packet: ⌈(LEN + 4) / 256⌉. -/
def Packet.cells (p : Packet) : Nat := ceilDiv (p.len + 4) 256

/-- Size of a packet for scheduler, shapers and policers: 16 × ⌈(LEN + 4) / 16⌉ bytes. -/
def Packet.sched (p : Packet) : Nat := 16 * ceilDiv (p.len + 4) 16

/-- The payload of CONTRIB, RESULT or TRESULT, and its block scales: one byte for each 32 payload bytes of the 8-bit formats (R318). -/
def splitScales (fmt : Nat) (body : List Byte) : List Byte × List Byte :=
  if fmt = 1 ∨ fmt = 2 then (body.take (body.length / 33), body.drop (body.length / 33)) else ([], body)

/-- Packets that need no link credit on a trunk: HELLO, LINK, TACK, sync and time packets, whose area is CONTROL (R310, R328). -/
def controlType (ty : Nat) : Bool := [0x01, 0x02, 0x61].contains ty || (decide (0x40 ≤ ty) && decide (ty ≤ 0x4F))

/-- Packets that travel against the window of a hose, not against link credit (R373). -/
def hoseType (ty : Nat) : Bool := [0x6A, 0x6B, 0x6C].contains ty

/-- Packets from a member that need a link credit (R310, R431). -/
def memberCredited (ty : Nat) : Bool := [0x10, 0x18, 0x19, 0x40].contains ty

/-- Packet types that the table lists for a port: a downlink takes them from its member, a trunk from its neighbour, the twin port from
its twin (R310, R325, R431, R445, R502). -/
def typeListed (trunk twin : Bool) (ty : Nat) : Bool :=
  if twin then [0x01, 0x02, 0x70].contains ty
  else if trunk then [0x01, 0x02, 0x18, 0x48, 0x49, 0x4A].contains ty || (decide (0x60 ≤ ty) && decide (ty ≤ 0x6E))
  else [0x01, 0x02, 0x08, 0x09, 0x10, 0x18, 0x19, 0x40, 0x4A].contains ty

end Sys2Proof
end

