-- ==== Sys2Proof/Machine/Switch.lean ====
section
/-! DEFINITION. The switch core (spec 09) and the scheduler (spec 10): packet buffer, push-out, landing cells and link credits, egress
queues, service order, shapers, policers, latency marks, and the sieve. -/

namespace Sys2Proof.Machine

/-! ### Initial values of what the registers do not show -/

def QueueX.init : QueueX := { finish := 0, tokens := 0 }
def ClassX.init : ClassX :=
  { start := 0, finish := 0, vq := 0, last := 1023, landUsed := 0, freed := 0, received := 0, sent := 0, pLand := 0, pFreed := 0 }
def PolX.init : PolX := { tc := 0, te := 0 }
def PortX.init : PortX :=
  { cls := [], tokens := 0, tx := none, pol := [], landed := [], fenceHeld := false,
    amoKept := [], amoLatest := none, syncKept := [], syncLatest := none }

/-- What the registers do not show of a port. -/
def Ilpiac.port (m : Ilpiac) (p : Nat) : PortX := Map.get (fun _ => PortX.init) m.sw.ports p
def Ilpiac.setPort (m : Ilpiac) (p : Nat) (x : PortX) : Ilpiac :=
  { m with sw := { m.sw with ports := Map.put (fun _ => PortX.init) m.sw.ports p x } }

/-- What the registers do not show of a class of a port. -/
def Ilpiac.cls (m : Ilpiac) (p c : Nat) : ClassX := Map.get (fun _ => ClassX.init) (m.port p).cls c
def Ilpiac.setCls (m : Ilpiac) (p c : Nat) (x : ClassX) : Ilpiac :=
  m.setPort p { m.port p with cls := Map.put (fun _ => ClassX.init) (m.port p).cls c x }

/-- The egress queue with key `port × 1024 + q`. -/
def Ilpiac.queue (m : Ilpiac) (k : Nat) : List QEnt := Map.get (fun _ => []) m.sw.queues k
def Ilpiac.setQueue (m : Ilpiac) (k : Nat) (l : List QEnt) : Ilpiac :=
  { m with sw := { m.sw with queues := Map.put (fun _ => []) m.sw.queues k l } }
def Ilpiac.qx (m : Ilpiac) (k : Nat) : QueueX := Map.get (fun _ => QueueX.init) m.sw.qx k
def Ilpiac.setQx (m : Ilpiac) (k : Nat) (x : QueueX) : Ilpiac :=
  { m with sw := { m.sw with qx := Map.put (fun _ => QueueX.init) m.sw.qx k x } }

/-- Block and instance of a queue's registers (R360). -/
def queueBlk (k : Nat) : Blk × Nat :=
  if k / 1024 < 256 then (.dqueue, 256 * (k / 1024) + k % 1024) else (.tqueue, 1024 * (k / 1024 - 256) + k % 1024)

/-- A field of a queue's registers. -/
def Ilpiac.qg (m : Ilpiac) (k : Nat) (f : Fld) : Nat := m.rd (queueBlk k).1 (queueBlk k).2 f
def Ilpiac.qw (m : Ilpiac) (k : Nat) (f : Fld) (v : Nat) : Ilpiac := m.wr (queueBlk k).1 (queueBlk k).2 f v

/-- The index that an internal source has as ingress (R342). -/
def internal : Nat := 262

/-- Whether a port is a trunk port. -/
def isTrunk (p : Nat) : Bool := decide (256 ≤ p) && decide (p < 262)

/-- PORT_STATUS.STATE (R339). -/
def Ilpiac.portState (m : Ilpiac) (p : Nat) : Nat := m.pg p F.PORT_STATUS_STATE
def Ilpiac.portUp (m : Ilpiac) (p : Nat) : Bool := m.portState p == 2
def Ilpiac.portFenced (m : Ilpiac) (p : Nat) : Bool := m.pg p F.PORT_STATUS_FENCED == 1

/-- Whether a port is the twin port (R502). -/
def Ilpiac.isTwin (m : Ilpiac) (p : Nat) : Bool := m.g F.TWIN_CTRL_ENABLE == 1 && m.g F.TWIN_CTRL_PORT == p && decide (p < 256)

/-- A change of PORT_STATUS.STATE sets the port's bit of STATE_SUMMARY and the PORT_STATE event (R476, R483). -/
def Ilpiac.setPortState (m : Ilpiac) (p st : Nat) : Ilpiac :=
  if m.portState p = st then m
  else
    let m := m.pw p F.PORT_STATUS_STATE st
    let m := m.gw F.STATE_SUMMARY_PORTS (ofBitIdx (p % 64 :: bitIdx (m.g F.STATE_SUMMARY_PORTS (p / 64)) 64)) (p / 64)
    m.event .portState

/-! ### The sieve (R334, R335) -/

/-- Packets that carry COMM_ID in H2: collective packets and the trunk packets of R316. -/
def carriesComm (ty : Nat) : Bool := (decide (0x08 ≤ ty) && decide (ty ≤ 0x0D)) || (decide (0x60 ≤ ty) && decide (ty ≤ 0x63))

/-- Whether the sieve selects an event (R335, R338). -/
def Ilpiac.sieveWants (m : Ilpiac) (ev port : Nat) (p : Packet) : Bool :=
  m.g F.SIEVE_CTRL_ENABLE == 1 && bitOf (m.g F.SIEVE_FILTER_EVENT_MASK) ev && bitOf (m.g F.SIEVE_FILTER_TC_MASK) p.tc &&
  (m.g F.SIEVE_FILTER_PORT == 0x3FF || m.g F.SIEVE_FILTER_PORT == port) &&
  (m.g F.SIEVE_FILTER_TYPE_MATCH == 0 || m.g F.SIEVE_FILTER_TYPE == p.ty) &&
  (m.g F.SIEVE_FILTER_COMM_MATCH == 0 || (carriesComm p.ty && m.g F.SIEVE_FILTER_COMM_ID == p.comm))

/-- Ring size of the sieve: 2^n entries, n from 6 to 24 (R338). -/
def Ilpiac.sieveSize (m : Ilpiac) : Nat := 2 ^ min 24 (max 6 (m.g F.SIEVE_CTRL_LOG2_ENTRIES))

/-- PROD − CONS of the sieve. -/
def Ilpiac.sieveHeld (m : Ilpiac) : Nat := (m.g F.SIEVE_PROD_PROD + 2 ^ 32 - m.g F.SIEVE_CONS_CONS) % 2 ^ 32

/-- The 64 bytes of a sieve entry (R334). -/
def Ilpiac.sieveEntry (m : Ilpiac) (ev port : Nat) (p : Packet) : List Byte :=
  leBytes 8 m.time.ns ++ leBytes 2 m.time.frac ++ leBytes 2 port ++ leBytes 1 ev ++ leBytes 1 p.tc ++ leBytes 2 p.len ++
    toLen 48 (p.bytes.take p.len)

/-- The sieve interrupt, at THRESHOLD entries held (R335). -/
def Ilpiac.sieveLevel (m : Ilpiac) : Ilpiac :=
  if m.sieveHeld ≥ m.g F.SIEVE_CTRL_THRESHOLD then m.event .sieve else m

/-- A packet event at the capture point: of the selected events one in 2^LOG2_SAMPLE is kept, and a kept one is written unless the ring
is full or the windows refuse it (R335, R459). -/
def Ilpiac.capture (m : Ilpiac) (ev port : Nat) (p : Packet) : Ilpiac :=
  if !m.sieveWants ev port p then m
  else if m.sw.sample + 1 < 2 ^ m.g F.SIEVE_CTRL_LOG2_SAMPLE then { m with sw := { m.sw with sample := m.sw.sample + 1 } }
  else
    let m := { m with sw := { m.sw with sample := 0 } }
    let a := m.g F.SIEVE_BASE_BASE + 64 * (m.g F.SIEVE_PROD_PROD % m.sieveSize)
    if m.sieveHeld ≥ m.sieveSize then m.gcnt F.SIEVE_COUNTS_DROPPED 1
    else if !m.addrOk a 64 true then (m.gcnt F.SIEVE_COUNTS_DROPPED 1).windowRefusal
    else
      let m := m.boardWrite a (m.sieveEntry ev port p)
      let m := m.gw F.SIEVE_PROD_PROD (m.g F.SIEVE_PROD_PROD + 1)
      (m.gcnt F.SIEVE_COUNTS_CAPTURED 1).sieveLevel

/-- The PORT value of a sieve entry (R334). -/
def sievePort (ingress : Nat) : Nat := if ingress = internal then 0x3FF else ingress

/-- A packet refused under R310 or R323 (R339). -/
def Ilpiac.misaddressed (m : Ilpiac) (port : Nat) (p : Packet) : Ilpiac :=
  (m.pcnt port F.PORT_ERRORS_MISADDRESSED 1).capture 6 port p

/-- A packet discarded under R308. -/
def Ilpiac.crcDiscard (m : Ilpiac) (port : Nat) (p : Packet) : Ilpiac :=
  (m.pcnt port F.PORT_ERRORS_CRC_DISCARDS 1).capture 2 port p

/-! ### The packet buffer (R328, R330) -/

/-- Landing cells of a port and class as the receiving end (R313). -/
def Ilpiac.landCells (m : Ilpiac) (p c : Nat) : Nat := m.g F.SW_CLASS_CFG_LAND c * (if isTrunk p then 16 else 4)

/-- Trunk ports present. -/
def Ilpiac.trunks (m : Ilpiac) : Nat := if m.has F.CAP_PRESENT_TRUNK then 6 else 0

/-- The LAND area (R328). -/
def Ilpiac.landTotal (m : Ilpiac) : Nat :=
  sumOf ((List.range 8).map (fun c => m.g F.SW_CLASS_CFG_LAND c)) * 4 * (m.downlinks + 4 * m.trunks)

/-- Cells of CONTROL (R328). -/
def controlCells : Nat := 4096

/-- The sum of the GUARANTEE values. -/
def Ilpiac.guarantees (m : Ilpiac) : Nat := sumOf ((List.range 8).map (fun c => m.g F.SW_CLASS_CFG_GUARANTEE c))

/-- Cells that the areas other than SHARED take (R328). -/
def Ilpiac.fixedCells (m : Ilpiac) : Nat :=
  controlCells + m.g F.SW_BUF_CFG_RETAIN_CELLS + m.g F.SW_BUF_CFG_CONTRIB_CELLS + m.landTotal

/-- Cells that hoses set aside (R371). -/
def Ilpiac.asideCells (m : Ilpiac) : Nat := sumOf (m.sw.hoses.map (fun h => h.2.aside))

/-- SHARED_FREE follows the cells in use and set aside (R328, R371). -/
def Ilpiac.recount (m : Ilpiac) : Ilpiac :=
  m.gw F.SW_BUF_STATUS_SHARED_FREE
    (1048576 - m.fixedCells - sumOf ((List.range 8).map (fun c => m.g F.SW_CLASS_STATUS_SHARED_USED c)) - m.asideCells)

/-- A packet takes its cells of an area. -/
def Ilpiac.areaTake (m : Ilpiac) (a : Area) (tc n : Nat) : Ilpiac :=
  match a with
  | .control => { m with sw := { m.sw with control := m.sw.control + n } }
  | .retain => m.gw F.SW_BUF_STATUS_RETAIN_USED (m.g F.SW_BUF_STATUS_RETAIN_USED + n)
  | .contrib => m.gw F.SW_BUF_STATUS_CONTRIB_USED (m.g F.SW_BUF_STATUS_CONTRIB_USED + n)
  | .shared => (m.gw F.SW_CLASS_STATUS_SHARED_USED (m.g F.SW_CLASS_STATUS_SHARED_USED tc + n) tc).recount
  | .land => m
  | .hose => m

/-- A packet gives its cells back. -/
def Ilpiac.areaGive (m : Ilpiac) (a : Area) (tc n : Nat) : Ilpiac :=
  match a with
  | .control => { m with sw := { m.sw with control := m.sw.control - n } }
  | .retain => m.gw F.SW_BUF_STATUS_RETAIN_USED (m.g F.SW_BUF_STATUS_RETAIN_USED - n)
  | .contrib => m.gw F.SW_BUF_STATUS_CONTRIB_USED (m.g F.SW_BUF_STATUS_CONTRIB_USED - n)
  | .shared => (m.gw F.SW_CLASS_STATUS_SHARED_USED (m.g F.SW_CLASS_STATUS_SHARED_USED tc - n) tc).recount
  | .land => m
  | .hose => m

/-- Free cells of an area; landing and hose cells are counted by port and by hose. -/
def Ilpiac.areaFree (m : Ilpiac) (a : Area) : Nat :=
  match a with
  | .control => controlCells - m.sw.control
  | .retain => m.g F.SW_BUF_CFG_RETAIN_CELLS - m.g F.SW_BUF_STATUS_RETAIN_USED
  | .contrib => m.g F.SW_BUF_CFG_CONTRIB_CELLS - m.g F.SW_BUF_STATUS_CONTRIB_USED
  | .shared => m.g F.SW_BUF_STATUS_SHARED_FREE
  | .land => 0
  | .hose => 0

/-- A buffered packet. -/
def Ilpiac.bufPkt (m : Ilpiac) (id : Nat) : Option BufPkt := m.sw.buf.find? (fun b => b.id == id)

/-- A change of a buffered packet. -/
def Ilpiac.setBuf (m : Ilpiac) (id : Nat) (f : BufPkt → BufPkt) : Ilpiac :=
  { m with sw := { m.sw with buf := mapFirst (fun b => b.id == id) f m.sw.buf } }

/-- A packet is stored once; the answer is its number (R330). -/
def Ilpiac.store (m : Ilpiac) (p : Packet) (a : Area) (ingress : Nat) (held : Bool := false) (land : Option (Nat × Nat) := none)
    (hose : Option Nat := none) (crcBad : Bool := false) : Nat × Ilpiac :=
  let id := m.sw.nextId
  let m := m.areaTake a p.tc p.cells
  (id, { m with sw := { m.sw with
    nextId := id + 1,
    buf := m.sw.buf ++ [{ id, pkt := p, area := a, cells := p.cells, ingress, refs := 0, held, crcBad, land, hose }] } })

/-- Landing cells of a packet are freed: FREED counts them for the partner (R313, R314). -/
def Ilpiac.landFree (m : Ilpiac) (b : BufPkt) : Ilpiac :=
  match b.land with
  | none => m
  | some (p, c) =>
    let x := m.cls p c
    m.setCls p c { x with landUsed := x.landUsed - b.cells, freed := (x.freed + b.cells) % 2 ^ 32 }

/-- The cells of a packet are freed when its REFCOUNT is 0 and nothing holds it (R330). -/
def Ilpiac.reap (m : Ilpiac) (id : Nat) : Ilpiac :=
  match m.bufPkt id with
  | none => m
  | some b =>
    if b.refs = 0 ∧ !b.held then
      Ilpiac.areaGive (Ilpiac.landFree { m with sw := { m.sw with buf := m.sw.buf.filter (fun x => x.id != id) } } b) b.area b.pkt.tc b.cells
    else m

/-- Retention or a context lets a packet go. -/
def Ilpiac.unhold (m : Ilpiac) (id : Nat) : Ilpiac := (m.setBuf id (fun b => { b with held := false })).reap id

/-- One pointer fewer. -/
def Ilpiac.unref (m : Ilpiac) (id : Nat) : Ilpiac := (m.setBuf id (fun b => { b with refs := b.refs - 1 })).reap id

/-- A packet moves to another area and leaves its landing cells. -/
def Ilpiac.moveArea (m : Ilpiac) (id : Nat) (a : Area) : Ilpiac :=
  match m.bufPkt id with
  | none => m
  | some b =>
    let m := (m.areaGive b.area b.pkt.tc b.cells).landFree b
    (m.areaTake a b.pkt.tc b.cells).setBuf id (fun b => { b with area := a, land := none })

/-! ### Queues (R342, R345) -/

/-- First queue and number of queues of a class (R342). -/
def Ilpiac.qbase (m : Ilpiac) (p c : Nat) : Nat := m.pg p F.CLASS_QMAP_QBASE c
def Ilpiac.qcount (m : Ilpiac) (p c : Nat) : Nat := 2 ^ m.pg p F.CLASS_QMAP_LOG2_QCOUNT c

/-- The queue of a packet of class `c` from an ingress index (R342). -/
def Ilpiac.queueFor (m : Ilpiac) (p c ingress : Nat) : Nat := m.qbase p c + ingress % m.qcount p c

/-- The class that owns a queue of a port. -/
def Ilpiac.classOf (m : Ilpiac) (p q : Nat) : Nat :=
  (firstBelow 8 (fun c => decide (m.qbase p c ≤ q) && decide (q < m.qbase p c + m.qcount p c))).getD 0

/-- CREDIT_c of a trunk port as the sending end (R313). -/
def Ilpiac.credit (m : Ilpiac) (p c : Nat) : Nat :=
  let x := m.cls p c
  (x.pLand * 16 + x.pFreed + 2 ^ 32 - x.sent) % 2 ^ 32

/-- Whether a packet spends link credit on a port: every datagram on a trunk (R313, R373). -/
def spendsCredit (p : Nat) (k : Packet) : Bool := isTrunk p && !controlType k.ty && !hoseType k.ty

/-- Whether a datagram continues on its ring: it arrived on T(k xor 1) and leaves on Tk (R366). -/
def continues (port ingress : Nat) : Bool := isTrunk ingress && ingress - 256 == Nat.xor (port - 256) 1

/-- The link-credit condition of R345, with the larger amount of R366 for a datagram that enters a ring. -/
def Ilpiac.creditOk (m : Ilpiac) (port : Nat) (b : BufPkt) : Bool :=
  !spendsCredit port b.pkt || decide (b.cells + (if continues port b.ingress then 0 else 18) ≤ m.credit port b.pkt.tc)

/-- Packets that a port may send in its state: only HELLO before its check has passed, only HELLO and LINK while it is fenced, and only
those and the time packets while SWITCH does not run (R312, R331, R461). -/
def Ilpiac.mayCarry (m : Ilpiac) (port ty : Nat) : Bool :=
  let st := m.portState port
  if st = 0 then false
  else if st ≠ 2 then ty == 0x01
  else if m.portFenced port then ty == 0x01 || ty == 0x02
  else if m.isTwin port then ty == 0x01 || ty == 0x02 || ty == 0x70
  else if m.running 0 then true
  else [0x01, 0x02, 0x48, 0x49, 0x4A].contains ty

/-- Whether a queue is eligible (R345). -/
def Ilpiac.eligible (m : Ilpiac) (k : Nat) : Bool :=
  match m.queue k with
  | [] => false
  | e :: _ =>
    match m.bufPkt e.id with
    | none => false
    | some b =>
      (m.qg k F.Q_SHAPE_RATE == 0 || decide (0 ≤ (m.qx k).tokens)) && m.creditOk (k / 1024) b && m.mayCarry (k / 1024) b.pkt.ty

/-- The keys of the queues of a port that hold packets. -/
def Ilpiac.portQueues (m : Ilpiac) (p : Nat) : List Nat := (m.sw.queues.map (·.1)).filter (fun k => k / 1024 == p)

/-- The eligible queues of a port, by key. -/
def Ilpiac.eligQ (m : Ilpiac) (p : Nat) : List Nat := (m.portQueues p).filter m.eligible

/-- `a` is smaller than `b`, modulo 2^48 (R348). -/
def tagLt (a b : Nat) : Bool :=
  let d := (b + 2 ^ 48 - a % 2 ^ 48) % 2 ^ 48
  decide (1 ≤ d) && decide (d ≤ 2 ^ 47 - 1)

/-- The later of two tags. -/
def tagMax (a b : Nat) : Nat := if tagLt a b then b else a

/-- Start tags of the queues and classes that have become eligible (R348, R349). -/
def Ilpiac.wake (m : Ilpiac) (p : Nat) (before : List Nat) : Ilpiac :=
  let now := m.eligQ p
  let fresh := now.filter (fun k => !before.contains k)
  let clsOf := fun k => m.classOf p (k % 1024)
  let m := m.over (fresh.filter (fun k => decide (2 ≤ clsOf k))) (fun m k =>
    m.qw k F.Q_TAG_START (tagMax (m.cls p (clsOf k)).vq (m.qx k).finish))
  m.over ((List.range 8).filter (fun c => decide (2 ≤ c) && now.any (fun k => clsOf k == c) && !before.any (fun k => clsOf k == c))) (fun m c =>
    let x := m.cls p c
    m.setCls p c { x with start := tagMax (m.pg p F.SCHED_VTIME_VTIME) x.finish })

/-- A change that may make queues of a port eligible. -/
def Ilpiac.waking (m : Ilpiac) (p : Nat) (f : Ilpiac → Ilpiac) : Ilpiac := (f m).wake p (m.eligQ p)

/-- Cells of the packets in a queue. -/
def Ilpiac.depthCells (m : Ilpiac) (k : Nat) : Nat :=
  sumOf ((m.queue k).map (fun e => match m.bufPkt e.id with | some b => b.cells | none => 0))

/-- Q_STATUS and the depth mark of Q_HWM follow the queue (R356, R360). -/
def Ilpiac.qstat (m : Ilpiac) (k : Nat) : Ilpiac :=
  let q := m.queue k
  let d := m.depthCells k
  let m := m.qw k F.Q_STATUS_DEPTH_CELLS d
  let m := m.qw k F.Q_STATUS_DEPTH_PKTS q.length
  let m := m.qw k F.Q_STATUS_BACKLOGGED (b2n (!q.isEmpty))
  let m := m.qw k F.Q_STATUS_SHAPED (b2n (m.qg k F.Q_SHAPE_RATE != 0 && decide ((m.qx k).tokens < 0)))
  let m := m.qw k F.Q_STATUS_NO_CREDIT (b2n (match q with
    | [] => false
    | e :: _ => (match m.bufPkt e.id with | some b => !m.creditOk (k / 1024) b | none => false)))
  m.qw k F.Q_HWM_HWM_CELLS (min (2 ^ 21 - 1) (max (m.qg k F.Q_HWM_HWM_CELLS) d))

/-- A pointer enters a queue; a pointer for a port that may not carry the packet is dropped at enqueue (R312, R330, R331). -/
def Ilpiac.enqAt (m : Ilpiac) (port q id : Nat) : Ilpiac :=
  match m.bufPkt id with
  | none => m
  | some b =>
    if !m.mayCarry port b.pkt.ty then
      Ilpiac.reap (if m.portFenced port then m.capture 4 port b.pkt else m) id
    else
      let k := port * 1024 + q
      m.waking port (fun m =>
        let m := m.setBuf id (fun b => { b with refs := b.refs + 1 })
        let m := m.setQueue k (m.queue k ++ [{ id, since := m.time.ns, size := b.pkt.sched, order := m.sw.nextOrder }])
        Ilpiac.qstat { m with sw := { m.sw with nextOrder := m.sw.nextOrder + 1 } } k)

/-- A pointer enters the queue of its class and ingress (R342). -/
def Ilpiac.enq (m : Ilpiac) (port id : Nat) : Ilpiac :=
  match m.bufPkt id with
  | none => m
  | some b => m.enqAt port (m.queueFor port b.pkt.tc b.ingress) id

/-- The pointers of a queue that satisfy `p` are removed; `ev` is the sieve event of each (R331). -/
def Ilpiac.dropFrom (m : Ilpiac) (k : Nat) (p : QEnt → Bool) (ev : Option Nat) : Ilpiac :=
  let out := (m.queue k).filter p
  let m := m.setQueue k ((m.queue k).filter (fun e => !p e))
  let m := m.over out (fun m e =>
    match m.bufPkt e.id with
    | none => m
    | some b => Ilpiac.unref (match ev with | some v => m.capture v (k / 1024) b.pkt | none => m) e.id)
  if out.isEmpty then m else m.qstat k

/-- A new packet of the Ilpiac enters the buffer and the queue of a port; CONTROL packets that find no cell are not sent. -/
def Ilpiac.emit (m : Ilpiac) (port : Nat) (p : Packet) (a : Area) (ingress : Nat := internal) : Ilpiac :=
  if m.areaFree a < p.cells then m
  else
    let s := m.store p a ingress
    (s.2.enq port s.1).reap s.1

/-! ### Push-out (R329) -/

/-- A pointer that push-out may take: a queued packet of SHARED. -/
structure Victim where
  id : Nat
  key : Nat
  tc : Nat
  cells : Nat
  order : Nat
deriving DecidableEq, Repr

/-- All pointers to SHARED packets that are queued and not in transmission. -/
def Ilpiac.sharedQueued (m : Ilpiac) : List Victim :=
  m.sw.queues.flatMap (fun x => x.2.filterMap (fun e =>
    match m.bufPkt e.id with
    | some b => if b.area = .shared then some ⟨e.id, x.1, b.pkt.tc, b.cells, e.order⟩ else none
    | none => none))

/-- The shared cells that class `e` holds on a port. -/
def heldOn (l : List Victim) (e port : Nat) : Nat := sumOf ((l.filter (fun v => v.tc == e && v.key / 1024 == port)).map (·.cells))

/-- One turn of the push-out loop: the next victim, if a class is eligible. -/
def Ilpiac.nextVictim (m : Ilpiac) (c : Nat) (left taken : List Victim) : Option Victim :=
  let used := fun e => m.g F.SW_CLASS_STATUS_SHARED_USED e - sumOf ((taken.filter (fun v => v.tc == e)).map (·.cells))
  let rank := fun e => m.g F.SW_CLASS_CFG_PUSH_RANK e
  let el := (List.range 8).filter (fun e =>
    decide (rank e < rank c) && decide (m.g F.SW_CLASS_CFG_GUARANTEE e < used e) && left.any (fun v => v.tc == e))
  match el.foldl (fun a e => match a with | none => some e | some b => if rank e < rank b then some e else some b) (none : Option Nat) with
  | none => none
  | some e =>
    let ports := (left.filter (fun v => v.tc == e)).map (fun v => v.key / 1024)
    let best := maxOf (ports.map (heldOn left e))
    match (List.range 262).find? (fun p => ports.contains p && heldOn left e p == best) with
    | none => none
    | some p => (left.filter (fun v => v.tc == e && v.key / 1024 == p)).foldl (fun a v =>
        match a with | none => some v | some b => if b.order < v.order then some v else some b) none

/-- The victims of push-out for a packet of class `c` and `n` cells, or none (R329). -/
def Ilpiac.victims (m : Ilpiac) (c n : Nat) : Nat → List Victim → List Victim → Option (List Victim)
  | 0, _, _ => none
  | fuel + 1, left, taken =>
    if n ≤ m.g F.SW_BUF_STATUS_SHARED_FREE + sumOf (taken.map (·.cells)) then some taken
    else
      match m.nextVictim c left taken with
      | none => none
      | some v => m.victims c n fuel (left.filter (fun x => x != v)) (taken ++ [v])

/-- Room in SHARED for a packet of class `c` and `n` cells: at once, or by push-out, or not (R329). -/
def Ilpiac.sharedRoom (m : Ilpiac) (c n : Nat) : Option Ilpiac :=
  if m.g F.SW_CLASS_STATUS_SHARED_USED c < m.g F.SW_CLASS_CFG_GUARANTEE c ∨ n ≤ m.g F.SW_BUF_STATUS_SHARED_FREE then some m
  else
    let l := m.sharedQueued
    match m.victims c n (l.length + 1) l [] with
    | none => none
    | some vs => some (m.over vs (fun m v =>
        (m.dropFrom v.key (fun e => e.id == v.id) (some 3)).gcnt F.SW_CLASS_STATUS_EVICTED 1 v.tc))

/-- A buffered packet moves into SHARED and to a port, or it cannot move (R328, R329). -/
def Ilpiac.toShared (m : Ilpiac) (id port : Nat) : Option Ilpiac :=
  match m.bufPkt id with
  | none => none
  | some b =>
    match m.sharedRoom b.pkt.tc b.cells with
    | none => none
    | some m => some (((m.moveArea id .shared).enq port id).reap id)

/-- A response of the Ilpiac in SHARED: it enters by R329 or is not sent, and the requester asks again (R322). -/
def Ilpiac.emitShared (m : Ilpiac) (port : Nat) (p : Packet) : Ilpiac :=
  match m.sharedRoom p.tc p.cells with
  | none => m
  | some m =>
    let s := m.store p .shared internal
    (s.2.enq port s.1).reap s.1

/-! ### Service order (R346 to R352) -/

/-- The entity with the smallest start tag, the lowest number on a tie. -/
def minTag (start : Nat → Nat) : List Nat → Option Nat
  | [] => none
  | x :: l =>
    match minTag start l with
    | none => some x
    | some y => if tagLt (start y) (start x) then some y else some x

/-- A finish tag (R348). -/
def finishTag (start size w : Nat) : Nat := (start + ceilDiv (size * 65536) (max 1 w)) % 2 ^ 48

/-- The weight of class `c` (R358). -/
def Ilpiac.classWeight (m : Ilpiac) (p c : Nat) : Nat := m.rd (portBlk p) (portIdx p) ⟨0x48, 8, 8 * (c - 2), 8⟩

/-- The first eligible queue of a strict class after the one served last (R347). -/
def roundRobin (last : Nat) (l : List Nat) : Option Nat :=
  match l.find? (fun k => decide (last < k % 1024)) with
  | some k => some k
  | none => l.head?

/-- The queue that a port serves next (R346 to R348). -/
def Ilpiac.selectQ (m : Ilpiac) (p : Nat) : Option Nat :=
  let el := m.eligQ p
  let ofClass := fun c => el.filter (fun k => m.classOf p (k % 1024) == c)
  match roundRobin (m.cls p 0).last (ofClass 0) with
  | some k => some k
  | none =>
    match roundRobin (m.cls p 1).last (ofClass 1) with
    | some k => some k
    | none =>
      match minTag (fun c => (m.cls p c).start) ((List.range 8).filter (fun c => decide (2 ≤ c) && !(ofClass c).isEmpty)) with
      | none => none
      | some c => minTag (fun k => m.qg k F.Q_TAG_START) (ofClass c)

/-- The latency marks of a packet that leaves a queue (R356). -/
def Ilpiac.sojourn (m : Ilpiac) (k ns : Nat) : Ilpiac :=
  let p := k / 1024
  let c := m.classOf p (k % 1024)
  let m := m.qw k F.Q_HWM_HWM_NS (min (2 ^ 32 - 1) (max (m.qg k F.Q_HWM_HWM_NS) ns))
  let m := m.pw p F.CLASS_LAT_HWM_NS (min (2 ^ 32 - 1) (max (m.pg p F.CLASS_LAT_HWM_NS c) ns)) c
  let t := m.pg p F.CLASS_LAT_THRESH_NS c
  if t ≠ 0 ∧ t < ns then
    let m := m.pw p F.LAT_STATUS_ALARM (ofBitIdx (c :: bitIdx (m.pg p F.LAT_STATUS_ALARM) 8))
    let m := m.gw F.LAT_SUMMARY_PORTS (ofBitIdx (p % 64 :: bitIdx (m.g F.LAT_SUMMARY_PORTS (p / 64)) 64)) (p / 64)
    m.event .portLatency
  else m

/-- Tokens of a queue and of its port at the start of a transmission (R351, R352). -/
def Ilpiac.spendTokens (m : Ilpiac) (k size : Nat) : Ilpiac :=
  let p := k / 1024
  let m := if m.qg k F.Q_SHAPE_RATE = 0 then m else m.setQx k { m.qx k with tokens := (m.qx k).tokens - (size * 65536 : Nat) }
  if m.pg p F.PORT_SHAPE_RATE = 0 then m else m.setPort p { m.port p with tokens := (m.port p).tokens - (size * 65536 : Nat) }

/-- SENT_c of a trunk port (R313, R314). -/
def Ilpiac.spendCredit (m : Ilpiac) (port : Nat) (p : Packet) : Ilpiac :=
  if spendsCredit port p then
    let x := m.cls port p.tc
    m.setCls port p.tc { x with sent := (x.sent + p.cells) % 2 ^ 32 }
  else m

/-- The departure of a time packet (R438, R439): TIME_SYNC takes the time at which it leaves, and the departure of a DELAY_REQ is kept. -/
def Ilpiac.depart (m : Ilpiac) (port : Nat) (p : Packet) : Packet × Ilpiac :=
  if p.ty = 0x48 then
    ({ p with hs := [BitVec.ofNat 64 m.time.ns, BitVec.ofNat 64 (setBits (p.h 2) 0 16 m.time.frac), BitVec.ofNat 64 (p.h 3)] }, m)
  else if p.ty = 0x49 then
    (p, { m with time := { m.time with reqs := Map.put (fun _ => (0, (0, 0))) m.time.reqs port (p.f 1 0 32, (m.time.ns, m.time.frac)) } })
  else (p, m)

/-- The head packet of a queue starts its transmission: tags by R348, strict order by R347, tokens, credit and marks. -/
def Ilpiac.serve (m : Ilpiac) (k : Nat) : Ilpiac :=
  match m.queue k with
  | [] => m
  | e :: rest =>
    match m.bufPkt e.id with
    | none => m.setQueue k rest
    | some b =>
      let p := k / 1024
      let c := m.classOf p (k % 1024)
      let qs := m.qg k F.Q_TAG_START
      let cs := (m.cls p c).start
      let m := m.setQueue k rest
      let m := (m.spendTokens k e.size).spendCredit p b.pkt
      let m :=
        if c < 2 then m.setCls p c { m.cls p c with last := k % 1024 }
        else
          let qf := finishTag qs e.size (m.qg k F.Q_SHAPE_WEIGHT)
          let cf := finishTag cs e.size (m.classWeight p c)
          let m := m.pw p F.SCHED_VTIME_VTIME cs
          let m := m.setQx k { m.qx k with finish := qf }
          let m := m.setCls p c { m.cls p c with vq := qs, finish := cf }
          let m := if m.eligible k then m.qw k F.Q_TAG_START qf else m
          if (m.eligQ p).any (fun j => m.classOf p (j % 1024) == c) then m.setCls p c { m.cls p c with start := cf } else m
      let m := (m.sojourn k (m.time.ns - e.since)).qstat k
      let r := m.depart p b.pkt
      r.2.setPort p { r.2.port p with tx := some { id := e.id, pkt := r.1, cls := c, queue := k % 1024, stomp := b.crcBad } }

/-- Whether the transmitter of a port is idle, in light or deep idle (R406, R407, R413). -/
def Ilpiac.txOff (m : Ilpiac) (p : Nat) : Bool := m.rd .lane (if p < 256 then 2 * p else 512 + 8 * (p - 256)) F.LANE_PORT_STATUS_TX_IDLE != 0

/-- A send opportunity of an idle port whose shaper holds zero or more tokens and whose transmitter runs (R346, R406, R407). -/
def Ilpiac.sendOpportunity (m : Ilpiac) (p : Nat) : Ilpiac :=
  if (m.port p).tx.isSome ∨ m.txOff p ∨ (m.pg p F.PORT_SHAPE_RATE ≠ 0 ∧ (m.port p).tokens < 0) then m
  else
    match m.selectQ p with
    | some k => m.serve k
    | none => m

/-- The end of a copy's transmission: REFCOUNT falls, cells that nothing holds are freed, counts and the sieve follow (R308, R330). -/
def Ilpiac.transmitComplete (m : Ilpiac) (p : Nat) : Ilpiac :=
  match (m.port p).tx with
  | none => m
  | some t =>
    let m := m.setPort p { m.port p with tx := none }
    let m := m.wrapCnt (portBlk p) (portIdx p) F.PORT_TRAFFIC_TX_PACKETS 1
    let m := if t.stomp then m.pcnt p F.PORT_ERRORS_STOMPED 1 else m
    (m.capture 1 p t.pkt).unref t.id

/-- A copy in transmission is ended with a stomped CRC (R308, R331). -/
def Ilpiac.stompTx (m : Ilpiac) (p : Nat) : Ilpiac :=
  match (m.port p).tx with
  | none => m
  | some t => m.setPort p { m.port p with tx := some { t with stomp := true } }

/-- A fence on a port empties its queues but for HELLO and LINK, stomps the copy in transmission and marks the port (R331, R361). -/
def Ilpiac.fenceQueues (m : Ilpiac) (p : Nat) : Ilpiac :=
  let m := m.pw p F.PORT_STATUS_FENCED 1
  let keep := fun (m : Ilpiac) (e : QEnt) => match m.bufPkt e.id with | some b => b.pkt.ty == 0x01 || b.pkt.ty == 0x02 | none => false
  let m := m.over (m.portQueues p) (fun m k => m.dropFrom k (fun e => !keep m e) (some 4))
  match (m.port p).tx with
  | some t => if t.pkt.ty = 0x01 ∨ t.pkt.ty = 0x02 then m else m.stompTx p
  | none => m

/-- A port that leaves UP: everything queued for it and the copy in transmission is discarded, each counting in CRC_DISCARDS, hose
packets in DISCARDS of their entry (R365, R379). -/
def Ilpiac.flushPort (m : Ilpiac) (p : Nat) : Ilpiac :=
  let gone := (m.portQueues p).flatMap (fun k => m.queue k)
  let lost := gone.map (·.id) ++ (match (m.port p).tx with | some t => [t.id] | none => [])
  let m := m.over lost (fun m id =>
    match m.bufPkt id with
    | none => m
    | some b =>
      match b.hose with
      | some h => m.cnt .hose h F.HOSE_COUNTS_DISCARDS 1
      | none => m.pcnt p F.PORT_ERRORS_CRC_DISCARDS 1)
  let m := m.over (m.portQueues p) (fun m k => m.dropFrom k (fun _ => true) none)
  match (m.port p).tx with
  | some t => (m.setPort p { m.port p with tx := none }).unref t.id
  | none => m

/-! ### Token refill and policers (R341, R351, R353 to R355) -/

/-- Tokens that a rate of `r` Mb/s brings in one scheduler tick, in 1/65,536 byte: r × 10⁶ / 8 × 16 / 1.2 GHz bytes (R351). -/
def tickTokens (r : Nat) : Nat := r * 1000000 * 16 * 65536 / (8 * 1200000000)

/-- One refill of a bucket of `burst` units of 64 bytes (R351). -/
def refill (tokens : Int) (rate burst : Nat) : Int := min (tokens + (tickTokens rate : Nat)) ((burst * 64 * 65536 : Nat) : Int)

/-- Refill of a policer (R354). -/
def PolX.refill (x : PolX) (mode cir pir cbs ebs : Nat) : PolX :=
  let cap := cbs * 65536
  let capE := ebs * 65536
  let t := x.tc + tickTokens cir
  if mode = 1 then { tc := min t cap, te := min (x.te + (t - cap)) capE }
  else if mode = 2 then { tc := min t cap, te := min (x.te + tickTokens (max pir cir)) capE }
  else x

/-- The buckets of policer `i` of a downlink port. -/
def Ilpiac.polx (m : Ilpiac) (p i : Nat) : PolX := Map.get (fun _ => PolX.init) (m.port p).pol i
def Ilpiac.setPolx (m : Ilpiac) (p i : Nat) (x : PolX) : Ilpiac :=
  m.setPort p { m.port p with pol := Map.put (fun _ => PolX.init) (m.port p).pol i x }

/-- Keys of the queues of a port whose shaper has a rate (R351, R360). -/
def Ilpiac.shaped (m : Ilpiac) (p : Nat) : List Nat :=
  let lo := if p < 256 then 0x800000 + p * 0x2000 else 0xA00000 + (p - 256) * 0x8000
  let hi := lo + (if p < 256 then 0x2000 else 0x8000)
  m.regs.filterMap (fun x =>
    if lo ≤ x.1 ∧ x.1 < hi ∧ x.1 % 0x20 = 0 ∧ x.2.toNat % 2 ^ 22 ≠ 0 then some (p * 1024 + (x.1 - lo) / 0x20) else none)

/-- Policers of a port that meter. -/
def Ilpiac.policers (m : Ilpiac) (p : Nat) : List Nat :=
  if p < 256 then (List.range 9).filter (fun i => m.pg p F.POL_CFG_MODE i == 1 || m.pg p F.POL_CFG_MODE i == 2) else []

/-- One scheduler tick of a port: shapers of its queues and of the port, and its policers (R341, R351). -/
def Ilpiac.tickPort (m : Ilpiac) (p : Nat) : Ilpiac :=
  m.waking p (fun m =>
    let m := m.over (m.shaped p) (fun m k =>
      (m.setQx k { m.qx k with tokens := refill (m.qx k).tokens (m.qg k F.Q_SHAPE_RATE) (m.qg k F.Q_SHAPE_BURST) }).qstat k)
    let r := m.pg p F.PORT_SHAPE_RATE
    let m := if r = 0 then m else m.setPort p { m.port p with tokens := refill (m.port p).tokens r (m.pg p F.PORT_SHAPE_BURST) }
    m.over (m.policers p) (fun m i =>
      m.setPolx p i ((m.polx p i).refill (m.pg p F.POL_CFG_MODE i) (m.pg p F.POL_CFG_CIR i) (m.pg p F.POL_CFG_PIR i)
        (m.pg p F.POL_BUCKETS_CBS i) (m.pg p F.POL_BUCKETS_EBS_PBS i))))

/-- Ports with a shaper or a policer that a tick refills: a register of theirs is not at its reset value. -/
def Ilpiac.tickPorts (m : Ilpiac) : List Nat :=
  let own := fun (p k : Nat) =>
    (let b := (portBlk p).at (portIdx p); decide (b ≤ k) && decide (k < b + 0x200)) ||
    (let lo := if p < 256 then 0x800000 + p * 0x2000 else 0xA00000 + (p - 256) * 0x8000
     decide (lo ≤ k) && decide (k < lo + (if p < 256 then 0x2000 else 0x8000)))
  (List.range 262).filter (fun p => m.regs.any (fun x => own p x.1))

/-! ### What a write of a shaper or policer brings about (R351, R354) -/

/-- A bucket after RATE or BURST has been written: full when the rate was 0, else capped at the burst. -/
def writtenTokens (was rate burst : Nat) (t : Int) : Int :=
  let cap : Int := ((burst * 64 * 65536 : Nat) : Int)
  if rate = 0 then 0 else if was = 0 then cap else min t cap

/-- Q_SHAPE of queue `k` has been written; `was` is the rate before. -/
def Ilpiac.queueShaped (m : Ilpiac) (k was : Nat) : Ilpiac :=
  m.waking (k / 1024) (fun m =>
    (m.setQx k { m.qx k with tokens := writtenTokens was (m.qg k F.Q_SHAPE_RATE) (m.qg k F.Q_SHAPE_BURST) (m.qx k).tokens }).qstat k)

/-- PORT_SHAPE has been written. -/
def Ilpiac.portShaped (m : Ilpiac) (p was : Nat) : Ilpiac :=
  m.waking p (fun m =>
    m.setPort p { m.port p with tokens := writtenTokens was (m.pg p F.PORT_SHAPE_RATE) (m.pg p F.PORT_SHAPE_BURST) (m.port p).tokens })

/-- A policer's MODE has changed: its buckets are full. -/
def Ilpiac.policerFull (m : Ilpiac) (p i : Nat) : Ilpiac :=
  if m.pg p F.POL_CFG_MODE i = 1 ∨ m.pg p F.POL_CFG_MODE i = 2 then
    m.setPolx p i { tc := m.pg p F.POL_BUCKETS_CBS i * 65536, te := m.pg p F.POL_BUCKETS_EBS_PBS i * 65536 }
  else m.setPolx p i PolX.init

/-- The colour that a policer gives (R354): 0 green, 1 yellow, 2 red, and the tokens that it takes. -/
def PolX.meter (x : PolX) (mode : Nat) (aware : Bool) (k size : Nat) : Nat × PolX :=
  let b := size * 65536
  let k := if aware then min k 2 else 0
  if mode = 1 then
    (if k = 0 ∧ b ≤ x.tc then (0, { x with tc := x.tc - b })
     else if k ≠ 2 ∧ b ≤ x.te then (1, { x with te := x.te - b })
     else (2, x))
  else
    (if k = 2 ∨ x.te < b then (2, x)
     else if k = 1 ∨ x.tc < b then (1, { x with te := x.te - b })
     else (0, { tc := x.tc - b, te := x.te - b }))

/-- One policer: the colour it gives and whether it lets the packet pass (R355). -/
def Ilpiac.police1 (m : Ilpiac) (p i k size : Nat) : Ilpiac × Nat × Bool :=
  let mode := m.pg p F.POL_CFG_MODE i
  if mode = 0 ∨ mode = 3 then (m, min k 2, true)
  else
    let r := (m.polx p i).meter mode (m.pg p F.POL_CFG_AWARE i == 1) k size
    let m := m.setPolx p i r.2
    let m := if r.1 = 0 then m.pcnt p F.POL_COUNTS_GREEN 1 i
      else if r.1 = 1 then m.pcnt p F.POL_COUNTS_YELLOW 1 i else m.pcnt p F.POL_COUNTS_RED 1 i
    (m, r.1, !((r.1 == 1 && m.pg p F.POL_CFG_YELLOW_DROP i == 1) || (r.1 == 2 && m.pg p F.POL_CFG_RED_DROP i == 1)))

/-- A policed packet of class `c` passes through P_c and then through P8 (R355); the answer says whether it is forwarded. -/
def Ilpiac.police (m : Ilpiac) (p : Nat) (k : Packet) : Ilpiac × Bool :=
  if isTrunk p ∨ [0x10, 0x18, 0x19].contains k.ty = false then (m, true)
  else
    let a := m.police1 p k.tc (m.pg p F.POL_CFG_CLASS_PRE k.tc) k.sched
    if a.2.2 then
      let b := a.1.police1 p 8 a.2.1 k.sched
      (b.1, b.2.2)
    else (a.1, false)

/-! ### Link credits (R313, R314) -/

/-- A LINK packet: the FREED counts of a receiving end, or the SENT counts of a sending end; the Ilpiac is the receiving end of its
downlinks and both ends of its trunks. On a trunk DST_ILP = 1 marks the FREED counts and DST_ILP = 0 the SENT counts (assumption 6). -/
def linkPacket (counts : List Nat) (dst : Nat) (dstIlp : Bool) (src : Nat) : Packet :=
  Packet.make 0x02 0 dst dstIlp src true ((List.range 4).map (fun i => (counts[2 * i]?).getD 0 % 2 ^ 32 + (counts[2 * i + 1]?).getD 0 % 2 ^ 32 * 2 ^ 32)) []

/-- Count `c` of a LINK packet (R314). -/
def linkCount (p : Packet) (c : Nat) : Nat := p.f (1 + c / 2) (32 * (c % 2)) 32

end Sys2Proof.Machine
end

