-- ==== Sys2Proof/Machine/Route.lean ====
section
/-! DEFINITION. Routing, the link map and hoses (spec 11). -/

namespace Sys2Proof.Machine

/-! ### Beds, links and the link map (R24, R362 to R364) -/

/-- Coordinate of a bed index in dimension `d` (R40). -/
def coord (bed d : Nat) : Nat := bed / 4 ^ d % 4

/-- A bed index with one coordinate replaced. -/
def withCoord (bed d v : Nat) : Nat := bed - coord bed d * 4 ^ d + v % 4 * 4 ^ d

/-- Extent of dimension `d` (R35). -/
def Ilpiac.extent (m : Ilpiac) (d : Nat) : Nat :=
  if d = 0 then m.g F.PLACEMENT_EXTENT_NX else if d = 1 then m.g F.PLACEMENT_EXTENT_NY else m.g F.PLACEMENT_EXTENT_NZ

/-- The bed that trunk port `k` of a bed reaches (R24). -/
def Ilpiac.neighbour (m : Ilpiac) (bed k : Nat) : Nat :=
  let d := k / 2
  let n := max 1 (m.extent d)
  withCoord bed d ((coord bed d + (if k % 2 = 0 then 1 else n - 1)) % n)

/-- Whether the link map says that a bed has announced a port lost (R363). -/
def Ilpiac.portLost (m : Ilpiac) (bed k : Nat) : Bool := bitOf (m.g F.LINK_MAP_LOST k) bed

/-- A link is lost when the port at either end of it is lost (R363). -/
def Ilpiac.linkLost (m : Ilpiac) (bed k : Nat) : Bool :=
  m.portLost bed k || m.portLost (m.neighbour bed k) (Nat.xor k 1)

/-- Whether no link of a walk of `hops` steps is lost. -/
def Ilpiac.walkOk (m : Ilpiac) (bed k : Nat) : Nat → Bool
  | 0 => true
  | n + 1 => !m.linkLost bed k && m.walkOk (m.neighbour bed k) k n

/-- The hops of the two directions of a dimension, and the direction tried first (R362): plus is `false`. -/
def Ilpiac.ringHops (m : Ilpiac) (d a t srcBed : Nat) : Nat × Nat × Bool :=
  let n := max 1 (m.extent d)
  let up := (t + n - a % n) % n
  let dn := (a + n - t % n) % n
  (up, dn, if n = 2 then decide (srcBed % 2 = 1) else decide (dn < up))

/-- `ring_port` of R362 with the hops of its walk; `none` is unreachable. -/
def Ilpiac.ringPort (m : Ilpiac) (bed d t srcBed : Nat) : Option (Nat × Nat) :=
  let h := m.ringHops d (coord bed d) t srcBed
  let try1 := fun (minus : Bool) =>
    let k := 2 * d + b2n minus
    let hops := if minus then h.2.1 else h.1
    if m.walkOk bed k hops then some (k, hops) else none
  match try1 h.2.2 with
  | some r => some r
  | none => try1 (!h.2.2)

/-- `route` of R362 over an order of dimensions: the trunk port toward the destination bed, `none` when the walk of the first differing
dimension is lost in both directions. -/
def Ilpiac.routeVia (m : Ilpiac) (bed dest srcBed : Nat) : List Nat → Option (Nat × Nat)
  | [] => none
  | d :: l => if coord bed d = coord dest d then m.routeVia bed dest srcBed l else m.ringPort bed d (coord dest d) srcBed

/-- The trunk port on which a packet for another bed leaves (R362). -/
def Ilpiac.route (m : Ilpiac) (dest srcBed : Nat) : Option Nat := (m.routeVia m.bed dest srcBed [0, 1, 2]).map (·.1)

/-- The port that the route would take with no link lost. -/
def Ilpiac.routeClear (m : Ilpiac) (dest srcBed : Nat) : Option Nat :=
  match [0, 1, 2].find? (fun d => coord m.bed d != coord dest d) with
  | none => none
  | some d => some (2 * d + b2n (m.ringHops d (coord m.bed d) (coord dest d) srcBed).2.2)

/-- Whether lost links take a packet off its usual port (INFO bit REROUTED, R93). -/
def Ilpiac.detoured (m : Ilpiac) (dest srcBed : Nat) : Bool :=
  (m.route dest srcBed).isSome && m.route dest srcBed != m.routeClear dest srcBed

/-- Links that the map holds lost; the link of a bed and an even port names it once. -/
def Ilpiac.lostLinks (m : Ilpiac) : Nat :=
  sumOf ((List.range 64).map (fun b => sumOf ([0, 2, 4].map (fun k =>
    b2n (m.bedInside b && decide (2 ≤ m.extent (k / 2)) && m.linkLost b k)))))

/-- The mask of a bed in the map: bit k when Tk is lost. -/
def Ilpiac.lostMask (m : Ilpiac) (bed : Nat) : Nat := ofBitIdx ((List.range 6).filter (fun k => m.portLost bed k))

/-- A bed's mask enters the map; a change counts in EPOCH (R365). -/
def Ilpiac.setMask (m : Ilpiac) (bed mask : Nat) : Ilpiac :=
  if m.lostMask bed = mask % 64 then m
  else
    let m := m.over (List.range 6) (fun m k =>
      m.gw F.LINK_MAP_LOST (setBits (m.g F.LINK_MAP_LOST k) bed 1 (bits mask k 1)) k)
    let m := m.gw F.ROUTE_STATUS_EPOCH (m.g F.ROUTE_STATUS_EPOCH + 1)
    m.gw F.ROUTE_STATUS_LOST_LINKS m.lostLinks

/-- Own ports that are lost: a port of a dimension with extent 2 or more that is not UP (R363). -/
def Ilpiac.ownMask (m : Ilpiac) : Nat :=
  if m.placed && m.has F.CAP_PRESENT_TRUNK then
    ofBitIdx ((List.range 6).filter (fun k => decide (2 ≤ m.extent (k / 2)) && !m.portUp (256 + k)))
  else 0

/-! ### Datagrams (R362, R365) -/

/-- An address of the Ilpiac of a bed. -/
def Ilpiac.packet (m : Ilpiac) (ty tc dstBed : Nat) (hs : List Nat) (body : List Byte := []) : Packet :=
  Packet.make ty tc dstBed true m.bed true hs body

/-- A buffered packet is queued as a datagram, or it counts as unreachable (R365). -/
def Ilpiac.datagram (m : Ilpiac) (id : Nat) : Ilpiac :=
  match m.bufPkt id with
  | none => m
  | some b =>
    match m.route b.pkt.dstBed b.pkt.srcBed with
    | some k => m.enq (256 + k) id
    | none => m.gcnt F.ROUTE_COUNTS_UNREACHABLE 1

/-- A packet of the Ilpiac that nothing retains travels as a datagram. -/
def Ilpiac.sendDatagram (m : Ilpiac) (p : Packet) (a : Area) : Ilpiac :=
  if m.areaFree a < p.cells then m
  else
    let s := m.store p a internal
    (s.2.datagram s.1).reap s.1

/-- A packet to the neighbour at a trunk port. -/
def Ilpiac.sendOn (m : Ilpiac) (k : Nat) (p : Packet) : Ilpiac := m.emit (256 + k) p .shared

/-! ### Hose entries (R369 to R373, R383) -/

def HoseX.init : HoseX :=
  { setupId := 0, prevLabel := 0, prevPort := 0, srcBed := 0, hop := 0, waiting := [], aside := 0, reported := 0, desc := none,
    closing := false, rerouted := false }

def Ilpiac.hx (m : Ilpiac) (h : Nat) : HoseX := Map.get (fun _ => HoseX.init) m.sw.hoses h
def Ilpiac.setHx (m : Ilpiac) (h : Nat) (x : HoseX) : Ilpiac :=
  { m with sw := { m.sw with hoses := Map.put (fun _ => HoseX.init) m.sw.hoses h x } }
def Ilpiac.hg (m : Ilpiac) (h : Nat) (f : Fld) : Nat := m.rd .hose h f
def Ilpiac.hw (m : Ilpiac) (h : Nat) (f : Fld) (v : Nat) : Ilpiac := m.wr .hose h f v

/-- Roles (R383). -/
def roleFree : Nat := 0
def roleSource : Nat := 1
def roleTransit : Nat := 2
def roleSink : Nat := 3

/-- States of a hose (R383). -/
def hoseSetup : Nat := 1
def hoseActive : Nat := 2
def hoseRerouting : Nat := 3
def hoseFailed : Nat := 4
def hoseTearing : Nat := 5

/-- Entries that are not FREE: a HoseX that differs from its initial value or a role that is not FREE. -/
def Ilpiac.hosesUsed (m : Ilpiac) : List Nat :=
  ((m.sw.hoses.map (·.1)) ++ (m.regs.filterMap (fun r =>
      if (locate r.1).1 = .hose ∧ (locate r.1).2.2 = 0 then some (locate r.1).2.1 else none))).eraseDups.filter
    (fun h => m.hg h F.HOSE_CFG_ROLE != roleFree)

/-- HOSES_USED (R382). -/
def Ilpiac.countHoses (m : Ilpiac) : Ilpiac := m.gw F.ROUTE_STATUS_HOSES_USED m.hosesUsed.length

/-- The lowest FREE entry (R371). -/
def Ilpiac.freeHose (m : Ilpiac) : Option Nat := firstBelow 4096 (fun h => m.hg h F.HOSE_CFG_ROLE == roleFree)

/-- Hop `i` of a path field (R369). -/
def pathHop (path i : Nat) : Nat := bits path (3 * i) 3

/-- An entry takes its role and its path. -/
def Ilpiac.takeHose (m : Ilpiac) (h role tc dstBed out comm qoff hops path window : Nat) (x : HoseX) : Ilpiac :=
  let m := m.hw h F.HOSE_CFG_ROLE role
  let m := m.hw h F.HOSE_CFG_TC tc
  let m := m.hw h F.HOSE_CFG_DST_BED dstBed
  let m := m.hw h F.HOSE_CFG_OUT_PORT out
  let m := m.hw h F.HOSE_CFG_NEXT_LABEL 0
  let m := m.hw h F.HOSE_CFG_COMM_ID comm
  let m := m.hw h F.HOSE_CFG_QOFF qoff
  let m := m.hw h F.HOSE_STATE_STATE hoseSetup
  let m := m.hw h F.HOSE_STATE_HOPS hops
  let m := m.hw h F.HOSE_STATE_PATH path
  let m := m.hw h F.HOSE_STATE_WINDOW_CELLS window
  let m := m.hw h F.HOSE_WIN_SENT 0
  let m := m.hw h F.HOSE_WIN_CONSUMED 0
  let m := m.hw h F.HOSE_COUNTS_PACKETS 0
  let m := m.hw h F.HOSE_COUNTS_REROUTES 0
  let m := m.hw h F.HOSE_COUNTS_DISCARDS 0
  ((m.setHx h x).countHoses).recount

/-- An entry and the cells that it set aside are released; packets of it that are still here belong to no entry any longer. -/
def Ilpiac.freeHoseEntry (m : Ilpiac) (h : Nat) : Ilpiac :=
  let m : Ilpiac := { m with sw := { m.sw with buf := mapIf (fun b => b.hose == some h) (fun b => { b with hose := none }) m.sw.buf } }
  let m := m.setReg (F.HOSE_CFG_ROLE.key .hose h 0) 0
  let m := m.setReg (F.HOSE_STATE_STATE.key .hose h 0) 0
  let m := m.setReg (F.HOSE_WIN_SENT.key .hose h 0) 0
  ((m.setHx h HoseX.init).countHoses).recount

/-- Whether a hop may set `n` cells of SHARED aside (R371). -/
def Ilpiac.mayAside (m : Ilpiac) (n : Nat) : Bool := decide (m.guarantees + n ≤ m.g F.SW_BUF_STATUS_SHARED_FREE)

/-- The trunk queue of a hose on a port (R372). -/
def Ilpiac.hoseQueue (m : Ilpiac) (port h : Nat) : Nat :=
  let tc := m.hg h F.HOSE_CFG_TC
  m.qbase port tc + m.hg h F.HOSE_CFG_QOFF % m.qcount port tc

/-- A hose packet is queued at a hop on the port toward the next hop; a lost port discards it (R379). -/
def Ilpiac.hoseForward (m : Ilpiac) (h : Nat) (p : Packet) (ingress : Nat) (crcBad : Bool := false) : Ilpiac :=
  let port := 256 + m.hg h F.HOSE_CFG_OUT_PORT
  if !m.portUp port then m.cnt .hose h F.HOSE_COUNTS_DISCARDS 1
  else
    let s := m.store p .hose ingress false none (some h) crcBad
    let m := (s.2.enqAt port (m.hoseQueue port h) s.1).reap s.1
    m.wrapCnt .hose h F.HOSE_COUNTS_PACKETS 1

/-- Cells in the window of a source hose: (SENT − CONSUMED) modulo 2^32 (R373). -/
def Ilpiac.hoseOut (m : Ilpiac) (h : Nat) : Nat := (m.hg h F.HOSE_WIN_SENT + 2 ^ 32 - m.hg h F.HOSE_WIN_CONSUMED) % 2 ^ 32

/-- A packet type on a hose, addressed from its source to its sink (R376). -/
def Ilpiac.hosePacket (m : Ilpiac) (h ty h1 : Nat) (body : List Byte := []) : Packet :=
  Packet.make ty (m.hg h F.HOSE_CFG_TC) (m.hg h F.HOSE_CFG_DST_BED) true m.bed true [m.hg h F.HOSE_CFG_NEXT_LABEL + h1] body

/-- Whether the window takes a hose packet (R373). -/
def Ilpiac.hoseRoom (m : Ilpiac) (h : Nat) (p : Packet) : Bool := decide (m.hoseOut h + p.cells ≤ m.hg h F.HOSE_STATE_WINDOW_CELLS)

/-- A HOSE_DATA or HOSE_MARK is enqueued at its source: SENT counts its cells (R373). -/
def Ilpiac.hoseInject (m : Ilpiac) (h : Nat) (p : Packet) : Ilpiac :=
  (m.hw h F.HOSE_WIN_SENT (m.hg h F.HOSE_WIN_SENT + p.cells)).hoseForward h p internal

/-- HOSE_DATA of an inner packet (R376). -/
def Ilpiac.wrap (m : Ilpiac) (h : Nat) (p : Packet) : Packet := m.hosePacket h 0x6B 0 p.wire

/-- Packets that wait at their origin enter an ACTIVE hose while its window has room (R372, R373). -/
def Ilpiac.hosePump (m : Ilpiac) (h : Nat) : Nat → Ilpiac
  | 0 => m
  | n + 1 =>
    match (m.hx h).waiting with
    | [] => m
    | p :: l =>
      if m.hg h F.HOSE_STATE_STATE = hoseActive ∧ m.hg h F.HOSE_CFG_ROLE = roleSource ∧ m.hoseRoom h (m.wrap h p) then
        ((m.setHx h { m.hx h with waiting := l }).hoseInject h (m.wrap h p)).hosePump h n
      else m

/-- All packets that wait at a hose, once. -/
def Ilpiac.pumpHose (m : Ilpiac) (h : Nat) : Ilpiac := m.hosePump h (m.hx h).waiting.length

/-- Packets that waited for a hose travel as datagrams (R372, R375, R379), each from its retained cells while they hold it (R328). -/
def Ilpiac.hoseSpill (m : Ilpiac) (h : Nat) : Ilpiac :=
  let ps := (m.hx h).waiting
  (m.setHx h { m.hx h with waiting := [] }).over ps (fun m p =>
    match m.coll.trunk.find? (fun t => t.pkt == p) with
    | some t => m.datagram t.id
    | none => m.sendDatagram p .shared)

/-- Whether a source hose claims packets: neither FAILED nor closing (R372, R375, R379). -/
def Ilpiac.hoseClaims (m : Ilpiac) (h : Nat) (p : Packet) : Bool :=
  m.hg h F.HOSE_CFG_ROLE == roleSource && [hoseSetup, hoseActive, hoseRerouting].contains (m.hg h F.HOSE_STATE_STATE) &&
  !(m.hx h).closing && m.hg h F.HOSE_CFG_DST_BED == p.dstBed && m.hg h F.HOSE_CFG_TC == p.tc

/-- The hose that claims a packet of an internal source, if one does (R372). -/
def Ilpiac.claimant (m : Ilpiac) (p : Packet) : Option Nat :=
  if 0x60 ≤ p.ty ∧ p.ty ≤ 0x67 then
    let l := m.hosesUsed.filter (fun h => m.hoseClaims h p)
    match l.find? (fun h => carriesComm p.ty && m.hg h F.HOSE_CFG_COMM_ID == p.comm && p.comm != 0xFFFF) with
    | some h => some h
    | none => l.find? (fun h => m.hg h F.HOSE_CFG_COMM_ID == 0xFFFF)
  else none

/-- A packet of the Ilpiac for another bed: on the hose that claims it, or as a datagram from its cells `buf`, or from new cells of an
area (R372). -/
def Ilpiac.sendTrunk (m : Ilpiac) (p : Packet) (buf : Option Nat) (a : Area) : Ilpiac :=
  match m.claimant p with
  | some h => (m.setHx h { m.hx h with waiting := (m.hx h).waiting ++ [p] }).pumpHose h
  | none =>
    match buf with
    | some id => m.datagram id
    | none => m.sendDatagram p a

/-- Whether a packet of this Ilpiac leaves off its usual path (INFO bit REROUTED, R93). -/
def Ilpiac.offPath (m : Ilpiac) (p : Packet) : Bool :=
  match m.claimant p with
  | some h => (m.hx h).rerouted
  | none => m.detoured p.dstBed p.srcBed

/-! ### Setup, reply, tear (R369 to R376) -/

/-- Beds that a path visits after its source. -/
def Ilpiac.pathBeds (m : Ilpiac) (bed path : Nat) : Nat → Nat → List Nat
  | 0, _ => []
  | n + 1, i =>
    let b := m.neighbour bed (pathHop path i)
    b :: m.pathBeds b path n (i + 1)

/-- Links of a path, by bed and port. -/
def Ilpiac.pathLinks (m : Ilpiac) (bed path : Nat) : Nat → Nat → List (Nat × Nat)
  | 0, _ => []
  | n + 1, i =>
    let k := pathHop path i
    (bed, k) :: m.pathLinks (m.neighbour bed k) path n (i + 1)

/-- Whether a path is a walk that R370 takes: ports of dimensions with extent 2 or more, no bed twice, ending at the sink. -/
def Ilpiac.pathOk (m : Ilpiac) (path hops dst : Nat) : Bool :=
  let ks := (List.range hops).map (pathHop path)
  let bs := m.bed :: m.pathBeds m.bed path hops 0
  ks.all (fun k => decide (k < 6) && decide (2 ≤ m.extent (k / 2))) && decide bs.Nodup && bs.getLast? == some dst &&
    bits path (3 * hops) (24 - 3 * hops) == 0

/-- Whether a path crosses a lost link. -/
def Ilpiac.pathLost (m : Ilpiac) (path hops : Nat) : Bool := (m.pathLinks m.bed path hops 0).any (fun l => m.linkLost l.1 l.2)

/-- A setup identifier: the source's entry in bits [11:0] and a count above (assumption 7). -/
def Ilpiac.newSetup (m : Ilpiac) (h : Nat) : Nat × Ilpiac :=
  ((h + m.sw.nextSetup * 4096) % 2 ^ 32, { m with sw := { m.sw with nextSetup := m.sw.nextSetup + 1 } })

/-- HOSE_SETUP toward hop `hop` of a path (R376): PREV_LABEL is the sender's entry. -/
def Ilpiac.setupPacket (m : Ilpiac) (h srcBed hop setupId : Nat) : Packet :=
  let k := m.hg h F.HOSE_CFG_OUT_PORT
  Packet.make 0x68 0 (m.neighbour m.bed k) true srcBed true
    [h + hop * 2 ^ 12 + m.hg h F.HOSE_CFG_TC * 2 ^ 16 + m.hg h F.HOSE_CFG_QOFF * 2 ^ 22 + m.hg h F.HOSE_STATE_WINDOW_CELLS * 2 ^ 32 +
      m.hg h F.HOSE_STATE_HOPS * 2 ^ 48,
     m.hg h F.HOSE_STATE_PATH + m.hg h F.HOSE_CFG_DST_BED * 2 ^ 24 + setupId * 2 ^ 32] []

/-- HOSE_REPLY (R376). -/
def Ilpiac.replyPacket (m : Ilpiac) (dstBed label toLabel result setupId : Nat) : Packet :=
  m.packet 0x69 0 dstBed [label + toLabel * 2 ^ 12 + result * 2 ^ 24 + setupId * 2 ^ 32]

/-- The source sends HOSE_SETUP on the port of hop 0 (R371). -/
def Ilpiac.startSetup (m : Ilpiac) (h : Nat) : Ilpiac :=
  let s := m.newSetup h
  let m := s.2.setHx h { s.2.hx h with setupId := s.1 }
  m.sendOn (m.hg h F.HOSE_CFG_OUT_PORT) (m.setupPacket h m.bed 1 s.1)

/-- HOSE_OPEN (R369, R370). -/
def Ilpiac.hoseOpen (m : Ilpiac) (d : AccDesc) : Ilpiac :=
  let h := d.f 1 0 12
  let comm := d.f 1 16 16
  let dst := d.f 1 32 6
  let tc := d.f 1 38 3
  let win := d.f 1 48 16
  let hops := d.f 2 0 4
  let path := d.f 2 4 24
  let qoff := d.f 3 0 10
  let same := m.hosesUsed.any (fun x => m.hg x F.HOSE_CFG_ROLE == roleSource && m.hg x F.HOSE_CFG_COMM_ID == comm &&
    m.hg x F.HOSE_CFG_DST_BED == dst && m.hg x F.HOSE_CFG_TC == tc)
  let ok := d.w0ok && d.zero [(1, 12, 4), (1, 41, 7), (2, 28, 36), (3, 10, 54), (4, 0, 64), (5, 0, 64), (6, 0, 64), (7, 0, 64)] &&
    decide (2 ≤ tc) && decide (18 ≤ win) && decide (win ≤ 16384) && decide (1 ≤ hops) && decide (hops ≤ 8)
  if !m.placed then m.done d stUnplaced
  else if !m.has F.CAP_PRESENT_TRUNK then m.done d stAbsentUnit
  else if !ok || m.hg h F.HOSE_CFG_ROLE != roleFree || same || !m.pathOk path hops dst then m.done d stBadDescriptor
  else if m.portLost m.bed (pathHop path 0) then m.done d stTrunkLost
  else
    (m.takeHose h roleSource tc dst (pathHop path 0) comm qoff hops path win { HoseX.init with desc := some (d.ring, d.num), srcBed := m.bed }).startSetup h

/-- The descriptor of an opening hose completes. -/
def Ilpiac.hoseDone (m : Ilpiac) (desc : Option (Nat × Nat)) (status : Nat) : Ilpiac :=
  match desc with
  | none => m
  | some (r, n) =>
    match m.ctl.descs.find? (fun d => d.ring == r && d.num == n) with
    | some d => m.done d status
    | none => m

/-- A hose that could not be set up: an opening completes with a status and frees its entry; a reroute leaves the hose FAILED. Its
packets travel as datagrams (R370, R372, R379). -/
def Ilpiac.setupFailed (m : Ilpiac) (h status : Nat) : Ilpiac :=
  if m.hg h F.HOSE_STATE_STATE = hoseRerouting then (m.hw h F.HOSE_STATE_STATE hoseFailed).hoseSpill h
  else
    let desc := (m.hx h).desc
    ((m.hoseSpill h).freeHoseEntry h).hoseDone desc status

/-- A hop takes an entry and cells and forwards the setup, or the sink answers (R371). -/
def Ilpiac.hoseSetupRx (m : Ilpiac) (port : Nat) (p : Packet) : Ilpiac :=
  let k := port - 256
  let prev := p.f 1 0 12
  let hop := p.f 1 12 4
  let hops := p.f 1 48 4
  let path := p.f 2 0 24
  let dst := p.f 2 24 6
  let sid := p.f 2 32 32
  let win := p.f 1 32 16
  let refuse := fun (m : Ilpiac) (r : Nat) => m.sendOn k (m.replyPacket (m.neighbour m.bed k) 0 prev r sid)
  let sink := hop == hops
  let out := if sink then 0 else pathHop path hop
  if hops < hop ∨ (sink = true ∧ dst ≠ m.bed) ∨ (sink = false ∧ (6 ≤ out ∨ m.extent (out / 2) < 2)) then refuse m 3
  else
    match m.freeHose with
    | none => refuse m 1
    | some h =>
      if !m.mayAside win then refuse m 2
      else if sink = false ∧ m.portLost m.bed out then refuse m 4
      else
        let m := m.takeHose h (if sink then roleSink else roleTransit) (p.f 1 16 3) dst out 0 (p.f 1 22 10) hops path win
          { HoseX.init with setupId := sid, prevLabel := prev, prevPort := k, srcBed := p.srcBed, hop := hop, aside := win }
        if sink then
          (m.hw h F.HOSE_STATE_STATE hoseActive).sendOn k (m.replyPacket (m.neighbour m.bed k) h prev 0 sid)
        else m.sendOn out (m.setupPacket h p.srcBed (hop + 1) sid)

/-- The status of a failed setup at the source (R370). -/
def replyStatus (r : Nat) : Nat := if r = 1 ∨ r = 2 then stNoResources else if r = 3 then stBadDescriptor else stTrunkLost

/-- A HOSE_REPLY: TORN completes HOSE_CLOSE (R375); otherwise a hop records NEXT_LABEL and passes the reply back, or releases its
resources, and the source completes or fails (R371). -/
def Ilpiac.hoseReplyRx (m : Ilpiac) (p : Packet) : Ilpiac :=
  let label := p.f 1 0 12
  let h := p.f 1 12 12
  let r := p.f 1 24 4
  let sid := p.f 1 32 32
  if r = 5 then
    match m.sw.closes.find? (fun c => c.2.1 == sid) with
    | none => m
    | some c => Ilpiac.hoseDone { m with sw := { m.sw with closes := m.sw.closes.filter (fun x => x != c) } } (some c.2.2) stOk
  else
    let x := m.hx h
    let st := m.hg h F.HOSE_STATE_STATE
    let role := m.hg h F.HOSE_CFG_ROLE
    if role = roleFree ∨ x.setupId ≠ sid ∨ ¬(st = hoseSetup ∨ st = hoseRerouting) then m
    else if r = 0 then
      let m := (m.hw h F.HOSE_CFG_NEXT_LABEL label).hw h F.HOSE_STATE_STATE hoseActive
      if role = roleSource then
        ((m.setHx h { m.hx h with desc := none }).hoseDone x.desc stOk).pumpHose h
      else m.sendOn x.prevPort (m.replyPacket (m.neighbour m.bed x.prevPort) h x.prevLabel 0 sid)
    else if role = roleSource then m.setupFailed h (replyStatus r)
    else (m.freeHoseEntry h).sendOn x.prevPort (m.replyPacket (m.neighbour m.bed x.prevPort) h x.prevLabel r sid)

/-- SETUP_TIMEOUT_US without a reply (R371, R379). -/
def Ilpiac.hoseSetupTimeout (m : Ilpiac) (h : Nat) : Ilpiac :=
  let st := m.hg h F.HOSE_STATE_STATE
  let role := m.hg h F.HOSE_CFG_ROLE
  if st ≠ hoseSetup ∧ st ≠ hoseRerouting then m
  else if role = roleSource then m.setupFailed h stTrunkLost
  else if role = roleTransit then m.freeHoseEntry h
  else m

/-- HOSE_CLOSE (R375): from its acceptance the hose claims no new packet, and waiting packets travel as datagrams. -/
def Ilpiac.hoseClose (m : Ilpiac) (d : AccDesc) : Ilpiac :=
  let h := d.f 1 0 12
  let st := m.hg h F.HOSE_STATE_STATE
  if !d.w0ok || !d.zero [(1, 12, 52), (2, 0, 64), (3, 0, 64), (4, 0, 64), (5, 0, 64), (6, 0, 64), (7, 0, 64)] then m.done d stBadDescriptor
  else if m.hg h F.HOSE_CFG_ROLE ≠ roleSource ∨ st = hoseSetup ∨ (m.hx h).closing then m.done d stBadDescriptor
  else
    let m := m.hw h F.HOSE_STATE_STATE hoseTearing
    let m := m.setHx h { m.hx h with closing := true, desc := some (d.ring, d.num) }
    m.hoseSpill h

/-- The tear of a closing hose (R375): HOSE_TEAR on the hose, and the source frees its entry. -/
def Ilpiac.hoseTearSend (m : Ilpiac) (h : Nat) : Ilpiac :=
  let x := m.hx h
  if m.hg h F.HOSE_CFG_ROLE = roleSource ∧ x.closing then
    match x.desc with
    | none => m
    | some d =>
      let m := m.hoseForward h (m.hosePacket h 0x6A 0) internal
      let m := m.freeHoseEntry h
      { m with sw := { m.sw with closes := m.sw.closes ++ [(h, (x.setupId, d))] } }
  else m

/-- SETUP_TIMEOUT_US without TORN (R375). -/
def Ilpiac.hoseCloseTimeout (m : Ilpiac) (h : Nat) : Ilpiac :=
  match m.sw.closes.find? (fun c => c.1 == h) with
  | none => m
  | some c => Ilpiac.hoseDone { m with sw := { m.sw with closes := m.sw.closes.filter (fun x => x != c) } } (some c.2.2) stTrunkLost

/-- HOSE_TEAR at a hop (R375): a transit hop forwards it and releases its entry; the sink releases its entry and answers TORN. -/
def Ilpiac.hoseTearRx (m : Ilpiac) (p : Packet) (port : Nat) : Ilpiac :=
  let h := p.f 1 0 12
  let role := m.hg h F.HOSE_CFG_ROLE
  let x := m.hx h
  if role = roleTransit then
    let q := Packet.make 0x6A p.tc p.dst p.dstIlp p.src p.srcIlp [m.hg h F.HOSE_CFG_NEXT_LABEL] []
    (m.hoseForward h q port).freeHoseEntry h
  else if role = roleSink then
    (m.freeHoseEntry h).sendDatagram (m.replyPacket p.srcBed 0 (x.setupId % 4096) 5 x.setupId) .shared
  else m

/-- An orphan (R375): a transit or sink entry without hose packets for ORPHAN_MS. -/
def Ilpiac.hoseOrphan (m : Ilpiac) (h : Nat) : Ilpiac :=
  let role := m.hg h F.HOSE_CFG_ROLE
  if role = roleTransit ∨ role = roleSink then m.freeHoseEntry h else m

/-- The CONSUMED count of a sink grows (R374). -/
def Ilpiac.sinkConsume (m : Ilpiac) (h n : Nat) : Ilpiac := m.hw h F.HOSE_WIN_CONSUMED (m.hg h F.HOSE_WIN_CONSUMED + n)

/-- HOSE_MARK at a hop: forwarded, or at the sink SENT − RECEIVED is added to RECEIVED and CONSUMED (R374). -/
def Ilpiac.hoseMarkRx (m : Ilpiac) (p : Packet) (port : Nat) : Ilpiac :=
  let h := p.f 1 0 12
  let role := m.hg h F.HOSE_CFG_ROLE
  let sent := p.f 1 32 32
  if role = roleTransit then
    m.hoseForward h (Packet.make 0x6C p.tc p.dst p.dstIlp p.src p.srcIlp [m.hg h F.HOSE_CFG_NEXT_LABEL + sent * 2 ^ 32] []) port
  else if role = roleSink then
    let m := (m.hw h F.HOSE_WIN_SENT (m.hg h F.HOSE_WIN_SENT + p.cells)).sinkConsume h p.cells
    let n := (sent + 2 ^ 32 - m.hg h F.HOSE_WIN_SENT) % 2 ^ 32
    ((m.hw h F.HOSE_WIN_SENT (m.hg h F.HOSE_WIN_SENT + n)).sinkConsume h n).wrapCnt .hose h F.HOSE_COUNTS_PACKETS 1
  else m

/-- HOSE_WINDOW at the source (R374). -/
def Ilpiac.hoseWindowRx (m : Ilpiac) (p : Packet) : Ilpiac :=
  let h := p.f 1 0 12
  if m.hg h F.HOSE_CFG_ROLE = roleSource ∧ m.hg h F.HOSE_CFG_DST_BED = p.srcBed then (m.hw h F.HOSE_WIN_CONSUMED (p.f 1 32 32)).pumpHose h
  else m

/-- HOSE_MARK from the source, when the window takes it (R373, R374); SENT in it counts the mark itself (assumption 8). -/
def Ilpiac.hoseMarkSend (m : Ilpiac) (h : Nat) : Ilpiac :=
  if m.hg h F.HOSE_CFG_ROLE = roleSource ∧ m.hg h F.HOSE_STATE_STATE = hoseActive ∧ m.hoseRoom h (m.hosePacket h 0x6C 0) then
    m.hoseInject h (m.hosePacket h 0x6C ((m.hg h F.HOSE_WIN_SENT + (m.hosePacket h 0x6C 0).cells) % 2 ^ 32 * 2 ^ 32))
  else m

/-- HOSE_WINDOW from the sink (R374). -/
def Ilpiac.hoseWindowSend (m : Ilpiac) (h : Nat) : Ilpiac :=
  if m.hg h F.HOSE_CFG_ROLE = roleSink then
    let c := m.hg h F.HOSE_WIN_CONSUMED
    let x := m.hx h
    (m.setHx h { x with reported := c }).sendDatagram (m.packet 0x6D 0 x.srcBed [x.setupId % 4096 + c * 2 ^ 32]) .shared
  else m

/-! ### Rerouting (R379) -/

/-- The hops of a path over an order of dimensions, or none where a step finds no walk. -/
def Ilpiac.orderPath (m : Ilpiac) (dest : Nat) : Nat → List Nat → Option (List Nat)
  | _, [] => some []
  | bed, d :: l =>
    if coord bed d = coord dest d then m.orderPath dest bed l
    else
      match m.ringPort bed d (coord dest d) m.bed with
      | none => none
      | some (k, hops) => (m.orderPath dest (withCoord bed d (coord dest d)) l).map (fun r => List.replicate hops k ++ r)

/-- The path that rerouting chooses: the first order that qualifies with at most 8 hops (R379). -/
def Ilpiac.newPath (m : Ilpiac) (dest : Nat) : Option (List Nat) :=
  [[0, 1, 2], [0, 2, 1], [1, 0, 2], [1, 2, 0], [2, 0, 1], [2, 1, 0]].findSome? (fun o =>
    match m.orderPath dest m.bed o with
    | some p => if p.length ≤ 8 then some p else none
    | none => none)

/-- A path field of a list of hops. -/
def pathField (l : List Nat) : Nat := sumOf (l.zipIdx.map (fun (x : Nat × Nat) => x.1 * 8 ^ x.2))

/-- One hose is rerouted around a lost link (R379). -/
def Ilpiac.reroute (m : Ilpiac) (h : Nat) : Ilpiac :=
  let m := m.hw h F.HOSE_STATE_STATE hoseRerouting
  let m := (m.gcnt F.ROUTE_COUNTS_REROUTES 1).cnt .hose h F.HOSE_COUNTS_REROUTES 1
  let m := m.setHx h { m.hx h with rerouted := true }
  let m := m.hoseForward h (m.hosePacket h 0x6A 0) internal
  match m.newPath (m.hg h F.HOSE_CFG_DST_BED) with
  | none => m.setupFailed h stTrunkLost
  | some [] => m.setupFailed h stTrunkLost
  | some (k :: l) =>
    let m := m.hw h F.HOSE_CFG_OUT_PORT k
    let m := m.hw h F.HOSE_STATE_HOPS (l.length + 1)
    let m := m.hw h F.HOSE_STATE_PATH (pathField (k :: l))
    let m := m.setReg (F.HOSE_WIN_SENT.key .hose h 0) 0
    m.startSetup h

/-- ACTIVE source hoses whose path crosses a lost link are rerouted while AUTO_REROUTE is 1 (R379). -/
def Ilpiac.checkHoses (m : Ilpiac) : Ilpiac :=
  if m.g F.ROUTE_CTRL_AUTO_REROUTE = 1 then
    m.over m.hosesUsed (fun m h =>
      if m.hg h F.HOSE_CFG_ROLE = roleSource ∧ m.hg h F.HOSE_STATE_STATE = hoseActive ∧
          m.pathLost (m.hg h F.HOSE_STATE_PATH) (m.hg h F.HOSE_STATE_HOPS) then m.reroute h else m)
  else m

/-- Own trunk ports have changed: the map follows PORT_STATUS, and hoses reroute (R363, R379). -/
def Ilpiac.ownTrunks (m : Ilpiac) : Ilpiac := (m.setMask m.bed m.ownMask).checkHoses

/-! ### TRUNK_STATE (R364) -/

/-- Whether `b` is newer than `a` modulo 2^32 (R348, R364). -/
def newer32 (a b : Nat) : Bool :=
  let d := (b + 2 ^ 32 - a) % 2 ^ 32
  decide (1 ≤ d) && decide (d ≤ 2 ^ 31 - 1)

/-- UP trunk ports. -/
def Ilpiac.upTrunks (m : Ilpiac) : List Nat := (List.range 6).filter (fun k => m.portUp (256 + k))

/-- TRUNK_STATE of this module with a new SERIAL on every UP trunk port (R364). -/
def Ilpiac.trunkStateSend (m : Ilpiac) : Ilpiac :=
  if m.placed && m.running 0 then
    let s := (m.sw.ownSerial + 1) % 2 ^ 32
    let m := { m with sw := { m.sw with ownSerial := s } }
    m.over m.upTrunks (fun m k => m.sendOn k (m.packet 0x6E 0 m.bed [m.bed + m.ownMask * 2 ^ 6 + s * 2 ^ 32]))
  else m

/-- A received TRUNK_STATE: a newer SERIAL is applied and flooded, any other is discarded (R364). -/
def Ilpiac.trunkStateRx (m : Ilpiac) (port : Nat) (p : Packet) : Ilpiac :=
  let o := p.f 1 0 6
  let s := p.f 1 32 32
  let fresh := o != m.bed && (match m.sw.serials.find? (fun x : Nat × Nat => x.1 == o) with
    | some x => newer32 x.2 s
    | none => true)
  if fresh then
    let m := { m with sw := { m.sw with serials := m.sw.serials.filter (fun (x : Nat × Nat) => x.1 != o) ++ [(o, s)] } }
    let m := m.setMask o (p.f 1 6 6)
    let m := m.over (m.upTrunks.filter (fun k => 256 + k != port)) (fun m k => m.sendOn k p)
    m.checkHoses
  else m

end Sys2Proof.Machine
end

