-- ==== Sys2Proof/Machine/Twin.lean ====
section
/-! DEFINITION. Twin mode: digests and divergences (spec 15: R502 to R504, R506). -/

namespace Sys2Proof.Machine

/-- Twin mode is on. -/
def Ilpiac.twinOn (m : Ilpiac) : Bool := m.g F.TWIN_CTRL_ENABLE == 1

/-- TWIN_STATUS.STATE (R506). -/
def twinOff : Nat := 0
def twinPairing : Nat := 1
def twinComparing : Nat := 2
def twinDiverged : Nat := 3

/-- The key words of a digest record: type with COMM_ID and SEQ, STEP, H3, and H2 [63:48] (R503, R504). -/
def twinKey (ty comm seq step h3 hi : Nat) : List Word :=
  [BitVec.ofNat 64 (ty % 2 ^ 8 + comm % 2 ^ 16 * 2 ^ 16 + seq % 2 ^ 32 * 2 ^ 32), BitVec.ofNat 64 step, BitVec.ofNat 64 h3, BitVec.ofNat 64 (hi % 2 ^ 16)]

/-- A divergence (R504): the first one is latched and asserts TWIN, later ones are not. -/
def Ilpiac.diverge (m : Ilpiac) (key : List Word) (own partner : Nat) : Ilpiac :=
  if m.g F.TWIN_STATUS_STATE = twinDiverged then m
  else
    let k := wordAt key 0
    let m := m.gw F.TWIN_DIVERGE0_STEP (wordAt key 1)
    let m := m.gw F.TWIN_DIVERGE1_SEQ (bits k 32 32)
    let m := m.gw F.TWIN_DIVERGE1_TYPE (bits k 0 8)
    let m := m.gw F.TWIN_DIVERGE1_COMM_ID (bits k 16 16)
    let m := m.gw F.TWIN_DIVERGE2_H3 (wordAt key 2)
    let m := m.gw F.TWIN_DIVERGE3_OWN own
    let m := m.gw F.TWIN_DIVERGE3_PARTNER partner
    let m := m.gw F.TWIN_DIVERGE4_INDEX_HI (wordAt key 3)
    (m.gw F.TWIN_STATUS_STATE twinDiverged).raise srcTwin 0 0

/-- The counterpart of a record in a list: one with the same key and digest, or else the first with the same key. -/
def counterpart (r : TwinRec) (l : List TwinRec) : Option TwinRec :=
  match l.find? (fun x => x == r) with
  | some x => some x
  | none => l.find? (fun x => x.key == r.key)

/-- A comparison of a key (R504, R506). -/
def Ilpiac.compareTwin (m : Ilpiac) (key : List Word) (own partner : Nat) : Ilpiac :=
  let m := m.gw F.TWIN_STATUS_COMPARED (m.g F.TWIN_STATUS_COMPARED + 1)
  if own = partner then m else m.diverge key own partner

/-- A digest of a packet that this module forms (R503): the CRC-32C over bytes 8 to LEN − 1. -/
def Ilpiac.twinOwn (m : Ilpiac) (ty : Nat) (hs : List Nat) (body : List Byte) : Ilpiac :=
  if !m.twinOn then m
  else
    let ws := hs.map (BitVec.ofNat 64)
    let h2 := wordAt ws 1
    let r : TwinRec := ⟨twinKey ty (bits h2 32 16) (bits h2 0 32) (wordAt ws 0) (wordAt ws 2) (bits h2 48 16), (crc32c (wordBytes ws ++ body)).toNat⟩
    let m := { m with twin := { m.twin with unsent := m.twin.unsent ++ [r] } }
    match counterpart r m.twin.partner with
    | some p => Ilpiac.compareTwin { m with twin := { m.twin with partner := m.twin.partner.erase p } } r.key r.digest p.digest
    | none => { m with twin := { m.twin with own := m.twin.own ++ [r] } }

/-- The 32 bytes of a digest record (R503). -/
def TwinRec.bytes (r : TwinRec) : List Byte :=
  let k := wordAt r.key 0
  leBytes 1 (bits k 0 8) ++ leBytes 1 0 ++ leBytes 2 (bits k 16 16) ++ leBytes 4 (bits k 32 32) ++ leBytes 8 (wordAt r.key 1) ++
    leBytes 8 (wordAt r.key 2) ++ leBytes 4 r.digest ++ leBytes 2 (wordAt r.key 3) ++ leBytes 2 0

/-- A digest record from its bytes. -/
def twinRecOf (l : List Byte) : TwinRec :=
  ⟨twinKey (natAt l 0 1) (natAt l 2 2) (natAt l 4 4) (natAt l 8 8) (natAt l 16 8) (natAt l 28 2), natAt l 24 4⟩

/-- The records of a TWIN_DIGEST body. -/
def twinRecs (body : List Byte) : List TwinRec := (piecesOf 32 (body.length / 32) body).map twinRecOf

/-- One digest of the twin (R504). -/
def Ilpiac.twinPartner (m : Ilpiac) (r : TwinRec) : Ilpiac :=
  match counterpart r m.twin.own with
  | some o => Ilpiac.compareTwin { m with twin := { m.twin with own := m.twin.own.erase o } } r.key o.digest r.digest
  | none => { m with twin := { m.twin with partner := m.twin.partner ++ [r] } }

/-- A key held for 10 ms without its counterpart (R504): the `n`-th held key of this module, then those of the twin. -/
def Ilpiac.twinTimeout (m : Ilpiac) (n : Nat) : Ilpiac :=
  if !m.twinOn then m
  else
    match (m.twin.own ++ m.twin.partner)[n]? with
    | none => m
    | some r =>
      if n < m.twin.own.length then
        Ilpiac.diverge { m with twin := { m.twin with own := dropAt m.twin.own n } } r.key r.digest 0
      else Ilpiac.diverge { m with twin := { m.twin with partner := dropAt m.twin.partner (n - m.twin.own.length) } } r.key 0 r.digest

end Sys2Proof.Machine
end

