-- ==== Sys2Proof/Machine/Comm.lean ====
section
/-! DEFINITION. Communicators and open collectives (spec 02): lookups, descriptor fields, the placement of nodes across beds (R171, R172,
R176), retention toward members (R73, R74), trunk transfers (R77, R551), members lost and failures recorded before the commit point. -/

namespace Sys2Proof.Machine

/-! ### Lookups -/

def Ilpiac.comm (m : Ilpiac) (id : Nat) : Option Comm := m.coll.comms.find? (fun c => c.id == id)
def Ilpiac.updComm (m : Ilpiac) (id : Nat) (f : Comm → Comm) : Ilpiac :=
  { m with coll := { m.coll with comms := mapFirst (fun c => c.id == id) f m.coll.comms } }
def Ilpiac.collOf (m : Ilpiac) (k : CollId) : Option Coll := m.coll.colls.find? (fun c => c.key == k)
def Ilpiac.updColl (m : Ilpiac) (k : CollId) (f : Coll → Coll) : Ilpiac :=
  { m with coll := { m.coll with colls := mapFirst (fun c => c.key == k) f m.coll.colls } }
def Ilpiac.ctxOf (m : Ilpiac) (x : CtxId) : Option Ctx := m.coll.ctxs.find? (fun c => c.id == x)
def Ilpiac.updCtx (m : Ilpiac) (x : CtxId) (f : Ctx → Ctx) : Ilpiac :=
  { m with coll := { m.coll with ctxs := mapFirst (fun c => c.id == x) f m.coll.ctxs } }

/-- Counters of a communicator. -/
def Ilpiac.count (m : Ilpiac) (comm : Nat) (f : CommCounts → CommCounts) : Ilpiac := m.updComm comm (fun c => { c with cnt := f c.cnt })

/-- Event bits of INFO (R93). -/
def infoSpilled : Nat := 0
def infoAdmission : Nat := 1
def infoSaturated : Nat := 2
def infoDrop : Nat := 3
def infoNonfinite : Nat := 4
def infoReplayed : Nat := 5
def infoRecomputed : Nat := 6
def infoRerouted : Nat := 7
def infoLost : Nat := 8

/-- A bit of a number set. -/
def setBit (x i : Nat) : Nat := if bitOf x i then x else x + 2 ^ i

/-- An event bit of a collective's INFO. -/
def Ilpiac.setInfo (m : Ilpiac) (k : CollId) (b : Nat) : Ilpiac := m.updColl k (fun c => { c with info := setBit c.info b })

/-! ### Communicators (R43, R44) -/

/-- The bed order (R44). -/
def Comm.beds (c : Comm) : List Nat := (c.members.map (· / 256)).eraseDups

/-- The member index of a fabric address. -/
def Comm.index (c : Comm) (a : Nat) : Option Nat := if c.members.contains a then some (c.members.findIdx (· == a)) else none

/-- Members of the communicator in this bed, in ascending order. -/
def Ilpiac.locals (m : Ilpiac) (c : Comm) : List Nat := c.members.filter (fun a => a / 256 == m.bed)

/-- The classes of SW_COLL_CFG. -/
def Ilpiac.tcCtrl (m : Ilpiac) : Nat := m.g F.SW_COLL_CFG_TC_CTRL
def Ilpiac.tcData (m : Ilpiac) : Nat := m.g F.SW_COLL_CFG_TC_DATA

/-- Whether a member of this bed is fenced (R79). -/
def Ilpiac.memberFenced (m : Ilpiac) (a : Nat) : Bool := m.portFenced (a % 256)

/-! ### Fields of a collective descriptor (R88) -/

def Coll.f (c : Coll) (w lo n : Nat) : Nat := bits (wordAt c.words w) lo n
def Coll.op (c : Coll) : Nat := wOp c.words
def Coll.inFmt (c : Coll) : Nat := c.f 1 16 4
def Coll.outFmt (c : Coll) : Nat := c.f 1 20 4
def Coll.wantSum (c : Coll) : Bool := c.f 1 24 1 == 1
def Coll.wantAmax (c : Coll) : Bool := c.f 1 25 1 == 1
def Coll.root (c : Coll) : Nat := c.f 1 32 14
def Coll.chunks (c : Coll) : Nat := c.f 3 32 24
def Coll.outScale (c : Coll) : Nat := c.f 4 0 32
def Coll.program (c : Coll) : Nat := c.f 5 0 16
def Coll.pairSeq (c : Coll) : Nat := c.f 5 32 32
def Coll.stateBase (c : Coll) : Nat := c.f 6 0 64
def Coll.sideAddr (c : Coll) : Nat := c.f 7 0 64

/-- Opcodes (R86). -/
def opAllReduce : Nat := 0x10
def opReduceScatter : Nat := 0x11
def opAllGather : Nat := 0x12
def opBroadcast : Nat := 0x13
def opRub : Nat := 0x14
def opDispatch : Nat := 0x18
def opCombine : Nat := 0x19

/-- Reductions with a trunk tree, and copies without addition (R55, R170). -/
def Coll.reduces (c : Coll) : Bool := [opAllReduce, opReduceScatter, opRub].contains c.op
def Coll.copies (c : Coll) : Bool := [opAllGather, opBroadcast, opDispatch].contains c.op

/-- Bytes of an element of a format code; FP8_ANY has one (R101, R553). -/
def fmtBytes (f : Nat) : Nat := if f = 3 then 1 else ((fmtOf f).map (·.bytes)).getD 1

/-- Columns of a chunk position (R127). -/
def Coll.columns (c : Coll) : Nat := 4 / fmtBytes c.inFmt

/-- Elements of a contribution chunk (R101). -/
def Coll.elems (c : Coll) : Nat := 4096 / fmtBytes c.inFmt

/-- Result chunks of one position (R553). -/
def Coll.results (c : Coll) : Nat := max 1 (fmtBytes c.outFmt / fmtBytes c.inFmt)

/-- Entry modes of a communicator (R117). -/
def Comm.mode (c : Comm) : EncMode := ⟨c.s19Trunc, c.e5m2Inf⟩

/-- The collective's status as recorded so far is of the failure class. -/
def Coll.failing (c : Coll) : Bool := match c.status with | some s => decide (0x40 ≤ s) | none => false

/-- The commit point has passed (R66). -/
def Coll.committed (c : Coll) : Bool := c.final.isSome

/-- The status that INFO bits 4–0 give (R94). -/
def infoStatus (info : Nat) : Nat :=
  if info % 32 = 0 then 0 else 1 + Nat.log2 (info % 32)

/-! ### Order of collectives (R49, R52) -/

/-- `a` comes before `b` in (STEP, SEQ) order. -/
def keyLt (a b : Nat × Nat) : Bool := decide (a.1 < b.1) || (a.1 == b.1 && decide (a.2 < b.2))

/-- Open collectives of the same communicator that come before one. -/
def Ilpiac.earlier (m : Ilpiac) (k : CollId) : List Coll :=
  m.coll.colls.filter (fun c => c.key.comm == k.comm && keyLt (c.key.step, c.key.seq) (k.step, k.seq))

/-! ### Nodes across beds (R171, R172, R174, R176) -/

/-- Coordinates of a bed index (R40). -/
def bx (b : Nat) : Nat := b % 4
def byy (b : Nat) : Nat := b / 4 % 4
def bz (b : Nat) : Nat := b / 16

/-- The present bed of a line along X: the owner's x, or the lowest x (R171). -/
def xColl (beds : List Nat) (owner y z : Nat) : Option Nat :=
  let l := beds.filter (fun b => byy b == y && bz b == z)
  match l.find? (fun b => bx b == bx owner) with
  | some b => some b
  | none => l.head?

/-- The Y-collector of a plane z (R171). -/
def yColl (beds : List Nat) (owner z : Nat) : Option Nat :=
  match xColl beds owner (byy owner) z with
  | some b => some b
  | none => (List.range 4).findSome? (fun y => xColl beds owner y z)

/-- The collector of the line to which a bed belongs at dimension `d` (R171). -/
def collectorOf (beds : List Nat) (owner d b : Nat) : Option Nat :=
  if d = 0 then xColl beds owner (byy b) (bz b) else if d = 1 then yColl beds owner (bz b) else some owner

/-- Distance around a ring. -/
def ringDist (n a b : Nat) : Nat :=
  let n := max 1 n
  min ((a + n - b % n) % n) ((b + n - a % n) % n)

/-- The level of a heap number: 0 for leaves 64–127, 6 for the root (R174). -/
def heapLevel (h : Nat) : Nat := 6 - Nat.log2 h

/-- The bed that holds the value of a heap node, over the present beds `beds` with an owner; `ext` gives the extents (R172). -/
def nodeBed (beds : List Nat) (ext : Nat → Nat) (owner : Nat) : Nat → Nat → Option Nat
  | 0, h => if beds.contains (h - 64) then some (h - 64) else none
  | n + 1, h =>
    match nodeBed beds ext owner n (2 * h), nodeBed beds ext owner n (2 * h + 1) with
    | none, b => b
    | a, none => a
    | some a, some b =>
      let d := n / 2
      match collectorOf beds owner d a with
      | none => some a
      | some c =>
        if c = a then some a else if c = b then some b
        else
          let da := ringDist (ext d) (coord a d) (coord c d)
          let db := ringDist (ext d) (coord b d) (coord c d)
          if db < da then some b else if da < db then some a
          else if coord b d < coord a d then some b else some a

/-- The bed of a heap node; `none` is an absent subtree. -/
def Ilpiac.heapBed (m : Ilpiac) (beds : List Nat) (owner h : Nat) : Option Nat := nodeBed beds m.extent owner (heapLevel h) h

/-- The transfers of a placement: source, destination and heap number of the value sent (R172). -/
def Ilpiac.transfers (m : Ilpiac) (beds : List Nat) (owner : Nat) : List (Nat × Nat × Nat) :=
  ((List.range 63).map (· + 1)).filterMap (fun h =>
    match m.heapBed beds owner (2 * h), m.heapBed beds owner (2 * h + 1), m.heapBed beds owner h with
    | some a, some b, some c => if a = c then some (b, c, 2 * h + 1) else some (a, c, 2 * h)
    | _, _, _ => none)

/-- The bed to which this bed sends its value, and those from which it receives one (R172, R176). -/
def Ilpiac.treeUp (m : Ilpiac) (beds : List Nat) (owner : Nat) : Option Nat :=
  ((m.transfers beds owner).find? (fun t => t.1 == m.bed)).map (·.2.1)
def Ilpiac.treeDown (m : Ilpiac) (beds : List Nat) (owner : Nat) : List Nat :=
  ((m.transfers beds owner).filter (fun t => t.2.1 == m.bed)).map (·.1)

/-- Beds whose records pass through a bed on their way to the owner, itself included (R177). -/
def subtreeOf (tr : List (Nat × Nat × Nat)) : Nat → Nat → List Nat
  | 0, b => [b]
  | n + 1, b => b :: ((tr.filter (fun t => t.2.1 == b)).flatMap (fun t => subtreeOf tr n t.1))

/-- The bed that owns chunk position `k` (R58, R170). -/
def Comm.owner (c : Comm) (k : Nat) : Nat := (c.beds[k % max 1 c.beds.length]?).getD 0

/-! ### Retention toward members (R73, R74, R76) -/

/-- The DST of a copy: the member's address, or a free value in a copy with several destinations (assumption 20). -/
def Ilpiac.dstOf (m : Ilpiac) (dests : List Nat) : Nat × Ilpiac :=
  match dests with
  | [a] => (a, m)
  | _ => let d := m.draw; (d.1 % 16384, d.2)

/-- A RESULT packet (R316 to R318). -/
def resultPacket (tc dst src : Nat) (k : CollId) (r : ResChunk) : Packet :=
  Packet.make 0x0C tc dst false src true (partHdr k r.part r.expert r.index r.fmt r.coarse) r.body

/-- Frees retained copies that every destination has acknowledged or left (R73). -/
def Ilpiac.retainSweep (m : Ilpiac) : Ilpiac :=
  let gone := m.coll.retained.filter (fun r => r.dests.all (·.acked))
  let m := { m with coll := { m.coll with retained := m.coll.retained.filter (fun r => !r.dests.all (·.acked)) } }
  m.over gone (fun m r => m.unhold r.buf)

/-- A RESULT or END copy is retained and enqueued on every destination's port (R73). -/
def Ilpiac.retainCopy (m : Ilpiac) (k : CollId) (part expert index : Nat) (p : Packet) (dests : List Nat) : Ilpiac :=
  let s := m.store p .retain internal (held := true)
  let m := s.2
  let id := m.coll.nextCopy
  let m := { m with coll := { m.coll with
    nextCopy := id + 1,
    retained := m.coll.retained ++ [({ id, coll := k, part, expert, index, pkt := p, buf := s.1, dests := dests.map (fun a => ⟨a, 1, false⟩) } : Retained)] } }
  (m.over dests (fun m a => m.enq (a % 256) s.1)).retainSweep

/-- Local members to which a collective still delivers, fenced ones left out (R69, R79). -/
def Ilpiac.receivers (m : Ilpiac) (c : Coll) (dests : List Nat) : List Nat :=
  dests.filter (fun a => c.delivery.contains a && !m.memberFenced a)

/-! ### Trunk transfers (R77, R244, R325, R551) -/

/-- Cells of RETAIN that a packet takes. -/
def Ilpiac.retainFits (m : Ilpiac) (p : Packet) : Bool := decide (p.cells ≤ m.areaFree .retain)

/-- RELAY of an inner packet toward a plane of the bed, through the relay member (R244, R324). -/
def Ilpiac.relayTo (m : Ilpiac) (relay plane : Nat) (p : Packet) : Ilpiac :=
  m.emitShared relay (Packet.make 0x19 p.tc m.bed true m.bed true [plane % 16] p.wire)

/-- The relay position of a cloche group. -/
def Ilpiac.relayOf (m : Ilpiac) (group : Option Nat) : Nat :=
  match group with
  | none => 0
  | some g => ((m.groups.find? (fun x => x.id == g)).map (·.relay)).getD 0

/-- A retained copy is sent: toward another plane of the bed inside RELAY, otherwise on its hose or as a datagram. -/
def Ilpiac.sendCopy (m : Ilpiac) (t : TrunkCopy) : Ilpiac :=
  let m := match t.coll with
    | some k => if m.offPath t.pkt then m.setInfo k infoRerouted else m
    | none => m
  if t.plane = m.plane then m.sendTrunk t.pkt (some t.id) .retain else m.relayTo (m.relayOf t.group) t.plane t.pkt

/-- A transfer that finds room is retained and sent; the answer is none where it must wait. -/
def Ilpiac.startCopy (m : Ilpiac) (t : TrunkCopy) : Option Ilpiac :=
  if m.retainFits t.pkt then
    let s := m.store t.pkt .retain internal (held := true)
    let t := { t with id := s.1, sends := 1 }
    let m := { s.2 with coll := { s.2.coll with trunk := s.2.coll.trunk ++ [t] } }
    some (m.sendCopy t)
  else none

/-- Waiting transfers start in their order while room lasts (R76). -/
def Ilpiac.drainTrunk (m : Ilpiac) : Nat → Ilpiac
  | 0 => m
  | n + 1 =>
    match m.coll.trunkWait with
    | [] => m
    | t :: l =>
      match m.startCopy t with
      | none => m
      | some m => Ilpiac.drainTrunk { m with coll := { m.coll with trunkWait := l } } n

/-- A trunk transfer begins: retained until it is acknowledged (R77), behind the transfers that wait for room. -/
def Ilpiac.transfer (m : Ilpiac) (p : Packet) (bed plane : Nat) (k : Option CollId) (group : Option Nat) (writer : Option CollId := none) : Ilpiac :=
  let m := { m with coll := { m.coll with trunkWait := m.coll.trunkWait ++ [(⟨0, k, group, p, bed, plane, 0, writer⟩ : TrunkCopy)] } }
  m.drainTrunk m.coll.trunkWait.length

/-- A transfer of a collective to another bed of this plane. -/
def Ilpiac.transferColl (m : Ilpiac) (k : CollId) (ty bed : Nat) (hs : List Nat) (body : List Byte) : Ilpiac :=
  m.transfer (m.packet ty m.tcData bed hs body) bed m.plane (some k) none

/-- A retained transfer is released. -/
def Ilpiac.releaseCopy (m : Ilpiac) (id : Nat) : Ilpiac :=
  Ilpiac.unhold { m with coll := { m.coll with trunk := m.coll.trunk.filter (fun t => t.id != id) } } id

/-- H1 to H4 of the TACK of a packet: what of it names the acknowledged packet (R325, assumption 21). -/
def tackOf (p : Packet) : List Nat :=
  let hd := fun (part hi index : Nat) =>
    [p.h 1, p.f 2 0 48 + hi % 2 ^ 16 * 2 ^ 48, index % 2 ^ 24 + part * 2 ^ 24, 1]
  match p.ty with
  | 0x60 => hd 0x8 (p.f 3 24 10) (p.f 3 0 24)
  | 0x62 => hd 0x9 (p.f 2 48 16) (p.f 3 0 24)
  | 0x63 => if p.f 3 0 8 = 3 then hd 0xA (p.f 2 48 16) (p.f 3 22 24) else hd 0xA (p.f 3 0 8 + 4 * p.f 3 16 6 + 256 * p.f 3 8 8) (p.f 3 22 24)
  | _ => [p.h 1, 0, p.ty + 0xB * 2 ^ 24, 1]

/-- TACK of a received packet, to the Ilpiac it came from (R552); a packet from another plane is answered inside RELAY. -/
def Ilpiac.tack (m : Ilpiac) (p : Packet) (plane : Nat) (group : Option Nat) : Ilpiac :=
  let t := m.packet 0x61 m.tcCtrl p.srcBed (tackOf p)
  if plane = m.plane then m.sendDatagram t .control else m.relayTo (m.relayOf group) plane t

/-! ### Members lost and failures (R66, R69, R74, R80) -/

/-- Waiting contexts of a collective leave the admission queues (R66). -/
def Ilpiac.unqueue (m : Ilpiac) (k : CollId) : Ilpiac :=
  { m with coll := { m.coll with queues := m.coll.queues.map (fun q =>
      let runs := q.runs.filter (fun r => r.coll != k)
      { q with runs, headAt := if (q.runs.head?.map (·.coll)) = some k then m.clk else q.headAt }) } }

/-- The recorded fault with the lower fabric address (R67). -/
def lowerFault (a b : Option (Nat × Nat)) : Option (Nat × Nat) :=
  match a, b with
  | none, y => y
  | x, none => x
  | some x, some y => if y.1 < x.1 then some y else some x

/-- A failure-class status is recorded before the own verdict input is sent: the larger code prevails, and the waiting contexts go (R66, R67,
R96). -/
def Ilpiac.failColl (m : Ilpiac) (k : CollId) (status : Nat) (fault : Option (Nat × Nat) := none) : Ilpiac :=
  match m.collOf k with
  | none => m
  | some c =>
    if c.committed ∨ c.started then m
    else
      let m := m.updColl k (fun c => { c with status := some (max status (c.status.getD 0)), fault := lowerFault c.fault fault })
      m.unqueue k

/-- A member leaves the destinations of every retained copy of a collective that satisfies `p`. -/
def Ilpiac.dropDest (m : Ilpiac) (addr : Nat) (p : Retained → Bool) : Ilpiac :=
  Ilpiac.retainSweep { m with coll := { m.coll with retained := mapIf p (fun r => { r with dests := r.dests.filter (fun d => d.addr != addr) }) m.coll.retained } }

/-- A member is removed from delivery after the commit point (R69). -/
def Ilpiac.undeliver (m : Ilpiac) (k : CollId) (addr status : Nat) : Ilpiac :=
  match m.collOf k with
  | none => m
  | some c =>
    if c.delivery.contains addr then
      let m := m.updColl k (fun c => { c with
        delivery := c.delivery.filter (· != addr), info := setBit c.info infoLost, lost := c.lost.or (some (addr, status)) })
      m.dropDest addr (fun r => r.coll == k)
    else m

/-- A member is lost to the replay limit, a timeout or a fence (R69, R74, R80). -/
def Ilpiac.memberLost (m : Ilpiac) (k : CollId) (addr status : Nat) : Ilpiac :=
  match m.collOf k with
  | none => m
  | some c => if c.committed ∨ c.started then m.undeliver k addr status else m.failColl k status (some (addr, status))

/-- REPLAY_LIMIT of a communicator, and the default of R74 where there is none. -/
def Ilpiac.replayLimit (m : Ilpiac) (k : Option CollId) : Nat :=
  match k with
  | some k => ((m.comm k.comm).map (·.replayLimit)).getD 4
  | none => 4

/-- A replay of a collective's copy counts and sets INFO.REPLAYED (R77, R84, R93). -/
def Ilpiac.countReplay (m : Ilpiac) (k : CollId) : Ilpiac :=
  (m.count k.comm (fun c => { c with replays := (c.replays + 1) % 2 ^ 64 })).setInfo k infoReplayed

/-- RETENTION_NS without an acknowledgement of a result or END copy by a destination (R74). -/
def Ilpiac.retentionTimeout (m : Ilpiac) (id addr : Nat) : Ilpiac :=
  match m.coll.retained.find? (fun r => r.id == id) with
  | none => m
  | some r =>
    match r.dests.find? (fun d => d.addr == addr && !d.acked) with
    | none => m
    | some d =>
      if d.sends ≤ m.replayLimit (some r.coll) then
        let again := fun (x : Retained) => { x with dests := mapIf (fun y => y.addr == addr) (fun y => { y with sends := y.sends + 1 }) x.dests }
        let m := { m with coll := { m.coll with retained := mapIf (fun x => x.id == id) again m.coll.retained } }
        (m.enq (addr % 256) r.buf).countReplay r.coll
      else (m.memberLost r.coll addr stTimeout).dropDest addr (fun x => x.id == id)

/-- ACK of a member: acknowledgement bits of COUNT consecutive copies of one PART, of one SEG for rows (R319). -/
def Ilpiac.ackRx (m : Ilpiac) (port : Nat) (p : Packet) : Ilpiac :=
  let addr := m.bed * 256 + port
  let hit := fun (r : Retained) => r.coll == p.coll && r.part == p.part &&
    (p.part == 0xF ||
     (p.part == 2 && r.expert == p.hi && r.index / 2 ^ 16 == p.index / 2 ^ 16 && decide (p.index % 2 ^ 16 ≤ r.index % 2 ^ 16) &&
       decide (r.index % 2 ^ 16 < p.index % 2 ^ 16 + p.count)) ||
     (p.part != 2 && decide (p.pos ≤ r.index) && decide (r.index < p.pos + p.count)))
  let ack := fun (r : Retained) => { r with dests := mapIf (fun d => d.addr == addr) (fun d => { d with acked := true }) r.dests }
  Ilpiac.retainSweep { m with coll := { m.coll with retained := mapIf hit ack m.coll.retained } }

end Sys2Proof.Machine
end

