-- ==== Sys2Proof/Machine/Shard.lean ====
section
/-! DEFINITION. Writes into HBM and the cloche deltas that they form (spec 07: R239 to R253; R272, R273): every write of the block goes
through `memWrite` or `memAdd`. -/

namespace Sys2Proof.Machine

/-- The stamp value INVALID (R253). -/
def stampInvalid : Nat := 2 ^ 64 - 1

def Ilpiac.group (m : Ilpiac) (id : Nat) : Option Group := m.groups.find? (fun g => g.id == id)
def Ilpiac.updGroup (m : Ilpiac) (id : Nat) (f : Group → Group) : Ilpiac := { m with groups := mapFirst (fun g => g.id == id) f m.groups }

/-- The member position of this module in a group (R239). -/
def Ilpiac.myPos (m : Ilpiac) (g : Group) : Option Nat :=
  firstBelow g.members.length (fun i => match g.members[i]? with | some x => x.bed == m.bed && x.plane == m.plane | none => false)

/-- The member entry of this module. -/
def Ilpiac.myEntry (m : Ilpiac) (g : Group) : Option GMember := g.members.find? (fun x => x.bed == m.bed && x.plane == m.plane)

/-- The keepers of a group, each module once (R239). -/
def Group.keepers (g : Group) : List (Nat × Nat) := (g.pKeep ++ g.qKeep).eraseDups

/-- Whether a keeper module has every piece that it keeps recorded MISSING. -/
def Group.keeperMissing (g : Group) (x : Nat × Nat) : Bool :=
  (List.range g.k).all (fun j =>
    (g.pKeep[j]? != some x || g.missP.contains j) && (g.qKeep[j]? != some x || g.missQ.contains j))

/-- PIECE_BYTES (R240). -/
def Group.pieceBytes (g : Group) : Nat := ceilDiv g.shardBytes (4096 * g.k) * 4096

/-- Stripe, piece and piece offset of a shard offset (R240). -/
def Group.place (g : Group) (o : Nat) : Nat × Nat × Nat := (o / 4096, o / 4096 % g.k, o / 4096 / g.k * 4096 + o % 4096)

/-- The stripe that a piece offset belongs to. -/
def Group.stripeAt (g : Group) (j off : Nat) : Nat := off / 4096 * g.k + j

/-- The joined group whose shard at this module contains a line, with the line's offset in the shard. -/
def Ilpiac.shardOf (m : Ilpiac) (line : Nat) : Option (Group × Nat) :=
  m.groups.findSome? (fun g =>
    match m.myEntry g with
    | some x => if x.base ≤ line * 64 ∧ line * 64 < x.base + g.shardBytes ∧ g.forming = none then some (g, line * 64 - x.base) else none
    | none => none)

/-- H1 of the cloche types (R325). -/
def clocheH1 (group pos piece off : Nat) : Nat := group + pos * 2 ^ 16 + piece * 2 ^ 20 + off * 2 ^ 24

/-- A cloche packet to a participant: retained until acknowledged (R251, R325). -/
def Ilpiac.clocheSend (m : Ilpiac) (g : Group) (ty : Nat) (dest : Nat × Nat) (hs : List Nat) (body : List Byte) (by_ : Option CollId := none) : Ilpiac :=
  m.transfer (m.packet ty g.tc dest.1 hs body) dest.1 dest.2 none (some g.id) by_

/-- One delta to one keeper. -/
def Ilpiac.sendDelta (m : Ilpiac) (g : Group) (pos j off : Nat) (keeper : Option (Nat × Nat)) (missing : Bool) (d : List Byte) (by_ : Option CollId) : Ilpiac :=
  match keeper with
  | none => m
  | some k =>
    if missing then m
    else
      let m := m.updGroup g.id (fun g => { g with sent := (g.sent + 1) % 2 ^ 64, unsettled := g.unsettled + 1 })
      m.clocheSend g 0x64 k [clocheH1 g.id pos j off] d by_

/-- The deltas of one access: to the P keeper of its piece and, under P+Q, to the Q keeper (R250, R251); a LOST group serves none (R264). -/
def Ilpiac.formDelta (m : Ilpiac) (gid o : Nat) (old new : List Byte) (by_ : Option CollId) : Ilpiac :=
  let d := xorBytes old new
  match m.group gid with
  | none => m
  | some g =>
    match m.myPos g with
    | none => m
    | some pos =>
      if g.lost || d.all (· == 0) then m
      else
        let p := g.place o
        let m := m.sendDelta g pos p.2.1 p.2.2 (g.pKeep[p.2.1]?) (g.missP.contains p.2.1) d by_
        if g.q then m.sendDelta g pos p.2.1 p.2.2 (g.qKeep[p.2.1]?) (g.missQ.contains p.2.1) d by_ else m

/-- A stripe counts as lost at this participant (R272, R273). -/
def Ilpiac.loseStripe (m : Ilpiac) (gid s : Nat) : Ilpiac :=
  m.updGroup gid (fun g => { g with lostStripes := g.lostStripes.filter (· != s) ++ [s] })

/-- The own stamp takes a value; a change is reported to every keeper that is not MISSING, with the MISSING bit of the own shard (R253, R325). -/
def Ilpiac.setStamp (m : Ilpiac) (gid v : Nat) : Ilpiac :=
  match m.group gid with
  | none => m
  | some g =>
    match m.myPos g with
    | none => m
    | some pos =>
      if g.stamp = v then m
      else
        let m := m.updGroup gid (fun g => { g with stamp := v, stamps := g.stamps.set pos v })
        m.over (g.keepers.filter (fun k => !g.keeperMissing k)) (fun m k => m.clocheSend g 0x67 k [clocheH1 g.id pos (b2n (g.missM.contains pos)) 0, v] [])

/-- What a write into a shard range brings about beside the write itself (R250, R253, R273). -/
def Ilpiac.afterWrite (m : Ilpiac) (sh : Option (Group × Nat)) (w : Wrote) (by_ : Option CollId := none) : Ilpiac :=
  match sh with
  | none => m
  | some (g, o) =>
    if !w.ok then m
    else
      let m := match w.old with
        | some old => m.formDelta g.id o old w.new by_
        | none => m.loseStripe g.id (o / 4096)
      m.setStamp g.id stampInvalid

/-- A write of a byte range: one outcome per line; a shard range is written through and forms deltas (R242, R250). The answer says
whether every line took the write. -/
def Ilpiac.memWrite (m : Ilpiac) (a : Nat) (d : List Byte) (hint : Nat) (by_ : Option CollId := none) : Bool × Ilpiac :=
  (lineParts a d.length).foldl (fun (acc : Bool × Ilpiac) (x : Nat × Nat × Nat) =>
    let m := acc.2
    let sh := m.shardOf x.1
    let piece := (d.drop (x.1 * 64 + x.2.1 - a)).take x.2.2
    let r := m.writeLine x.1 x.2.1 piece hint sh.isSome
    (acc.1 && r.1.ok, r.2.afterWrite sh r.1 by_)) (true, m)

/-- An adder operation on any address, with the deltas it forms (R250). -/
def Ilpiac.memAdd (m : Ilpiac) (op a : Nat) (coef : Byte) (src : List Byte) : Option (List Byte) × Ilpiac :=
  let sh := m.shardOf (a / 64)
  let r := m.adder op a coef src
  if op = 0x6 then (r.1, r.2.2) else (r.1, r.2.2.afterWrite sh r.2.1)

/-- A write that forms no delta and leaves stamps alone (R249, R258). -/
def Ilpiac.plainWrite (m : Ilpiac) (a : Nat) (d : List Byte) (hint : Nat) : Bool × Ilpiac :=
  (lineParts a d.length).foldl (fun (acc : Bool × Ilpiac) (x : Nat × Nat × Nat) =>
    let piece := (d.drop (x.1 * 64 + x.2.1 - a)).take x.2.2
    let r := acc.2.writeLine x.1 x.2.1 piece hint true
    (acc.1 && r.1.ok, r.2)) (true, m)

/-- The lines of a shard or piece range set to zero without deltas (R249): whole lines, listed only where they hold something. -/
def Ilpiac.zeroRange (m : Ilpiac) (a n : Nat) : Ilpiac :=
  m.over (List.range (n / 64)) (fun m i => (m.plainWrite (a + 64 * i) (List.replicate 64 0) hintStream).2)

/-! ### Pieces (R240, R242, R251) -/

/-- The piece that this module keeps. -/
def Group.piece (g : Group) (j : Nat) (q : Bool) : Option Piece := g.pieces.find? (fun p => p.num == j && p.q == q)

/-- The HBM address of a piece offset (R242): buffers of pool 4 in order. -/
def Ilpiac.pieceAddr (m : Ilpiac) (p : Piece) (off : Nat) : Nat :=
  let sz := 2 ^ m.poolLog2 4
  (p.bufs[off / sz]?).getD 0 + off % sz

/-- A piece takes a delta: XOR at the P keeper, XOR of the product by g^position at the Q keeper (R251, R291). -/
def Ilpiac.foldDelta (m : Ilpiac) (g : Group) (p : Piece) (pos off : Nat) (d : List Byte) : Ilpiac :=
  let r := m.memAdd (if p.q then 0x5 else 0x4) (m.pieceAddr p off) (if p.q then gfG pos else 0) d
  match r.1 with
  | some _ => r.2.updGroup g.id (fun g => { g with applied := (g.applied + 1) % 2 ^ 64 })
  | none => r.2.loseStripe g.id (g.stripeAt p.num off)

/-! ### Missing participants (R252, R264) -/

/-- Stripes of a piece. -/
def Group.stripesOf (g : Group) (j : Nat) : List Nat := (List.range (g.shardBytes / 4096)).filter (fun s => s % g.k == j)

/-- A piece is complete at the target of a PARITY restore (R262): the lost shard no longer counts as a loss of it. -/
def Group.pieceDone (g : Group) (j : Nat) : Bool :=
  match g.restore with
  | some r => r.target && !r.image && r.mask != 0 && (g.stripesOf j).all (fun s => r.written.contains s)
  | none => false

/-- Losses of a piece that this module knows. -/
def Group.losses (g : Group) (j : Nat) : Nat :=
  g.missM.length - b2n (g.pieceDone j) + b2n (g.missP.contains j) + b2n (g.q && g.missQ.contains j) + b2n (g.lostStripes.any (fun s => s % g.k == j))

/-- Whether every stripe is still recoverable (R264). -/
def Group.recoverable (g : Group) : Bool := (List.range g.k).all (fun j => decide (g.losses j ≤ if g.q then 2 else 1))

/-- A participant is recorded MISSING: its deltas are dropped, and the writes they came from count as settled (R252). -/
def Ilpiac.recordMissing (m : Ilpiac) (gid : Nat) (x : Nat × Nat) : Ilpiac :=
  match m.group gid with
  | none => m
  | some g =>
    let mem := (List.range g.members.length).filter (fun i => match g.members[i]? with | some y => (y.bed, y.plane) == x | none => false)
    let ps := (List.range g.k).filter (fun j => g.pKeep[j]? == some x)
    let qs := (List.range g.k).filter (fun j => g.q && g.qKeep[j]? == some x)
    let add := fun (l r : List Nat) => l ++ r.filter (fun i => !l.contains i)
    let mine := fun (t : TrunkCopy) => t.group == some gid && (t.bed, t.plane) == x
    let deltas := ((m.coll.trunk ++ m.coll.trunkWait).filter (fun t => mine t && t.pkt.ty == 0x64)).length
    let gone := (m.coll.trunk.filter mine).map (·.id)
    let m := { m with coll := { m.coll with trunkWait := m.coll.trunkWait.filter (fun t => !mine t) } }
    let m := m.over gone (fun m id => m.releaseCopy id)
    m.updGroup gid (fun g =>
      let g := { g with missM := add g.missM mem, missP := add g.missP ps, missQ := add g.missQ qs, unsettled := g.unsettled - deltas }
      { g with lost := g.lost || !g.recoverable })

/-- A delta was acknowledged (R252). -/
def Ilpiac.settleDelta (m : Ilpiac) (gid : Nat) : Ilpiac := m.updGroup gid (fun g => { g with unsettled := g.unsettled - 1 })

/-- Groups at this module whose member entry names a communicator. -/
def Ilpiac.shardsOf (m : Ilpiac) (comm : Nat) : List Group :=
  m.groups.filter (fun g => match m.myEntry g with | some x => x.comm == comm | none => false)

/-- Whether the update state of a communicator may not be written: the restore hold of R258, or a shard that is MISSING. -/
def Ilpiac.shardHeld (m : Ilpiac) (comm : Nat) : Bool :=
  (m.shardsOf comm).any (fun g => (match g.restore with | some r => !r.image | none => false) ||
    (match m.myPos g with | some p => g.missM.contains p | none => false))

/-- The commit point of a REDUCE_UPDATE_BCAST with a success-class status stamps the communicator's shards with STEP (R253). -/
def Ilpiac.stampShards (m : Ilpiac) (comm v : Nat) : Ilpiac := m.over (m.shardsOf comm) (fun m g => m.setStamp g.id v)

end Sys2Proof.Machine
end

