-- ==== Sys2Proof/Machine/Furrow.lean ====
section
/-! DEFINITION. Collective contexts and furrows (spec 04), the trunk tree and recompression (spec 05): the fixed tree under arbitrary
arrival, spill and in-order restart, checks and retirement, encoding and delivery of results (spec 03). -/

namespace Sys2Proof.Machine

/-! ### Shapes of contexts -/

/-- Parts (R317). -/
def partData : Nat := 0
def partRoute : Nat := 1
def partRow : Nat := 2
def partMap : Nat := 3
def partMask : Nat := 4
def partEnd : Nat := 15

/-- The routing state that a DISPATCH fills or a COMBINE reverses (R64, R65). -/
def Ilpiac.routing (m : Ilpiac) (c : Coll) : Option Routing :=
  match m.comm c.key.comm with
  | none => none
  | some cm => cm.routes.find? (fun r => r.step == c.key.step && r.seq == (if c.op = opCombine then c.pairSeq else c.key.seq))
def Ilpiac.updRouting (m : Ilpiac) (k : CollId) (seq : Nat) (f : Routing → Routing) : Ilpiac :=
  m.updComm k.comm (fun cm => { cm with routes := mapIf (fun r => r.step == k.step && r.seq == seq) f cm.routes })

/-- Elements of one row of a dispatch, and bytes of that row in a format code (R553, R64). -/
def Routing.rowElems (r : Routing) : Nat := r.rowBytes / fmtBytes r.inFmt
def Routing.rowIn (r : Routing) (fmt : Nat) : Nat := r.rowElems * fmtBytes fmt
/-- Segments of a row in a format code (R317). -/
def Routing.segs (r : Routing) (fmt : Nat) : Nat := ceilDiv (r.rowIn fmt) 4096

/-- Per-expert counts of the valid entries of a bed (R61). -/
def Routing.bedCount (r : Routing) (bed e : Nat) : Nat :=
  sumOf ((r.counts.filter (fun c => c.1 == bed && c.2.1 == e / 1024)).map (fun c => (c.2.2[e % 1024]?).getD 0))

/-- An entry names a valid expert (R61). -/
def Comm.validExpert (c : Comm) (e : Nat) : Bool := decide (e < c.experts.length)

/-- Place of an entry in the sorted list of its expert, in rows (R61): entries of earlier beds, then those of this bed by g and slot. -/
def Routing.place (r : Routing) (c : Comm) (bed : Nat) (x : RouteEnt) : Nat :=
  let before := sumOf ((c.beds.filter (· < bed)).map (fun b => r.bedCount b x.expert))
  before + (r.ents.filter (fun y => y.expert == x.expert &&
    (decide (y.src < x.src) || (y.src == x.src && (decide (y.token < x.token) || (y.token == x.token && decide (y.slot < x.slot))))))).length

/-- The row of a kept entry, none for a dropped one (R61). -/
def Routing.row (r : Routing) (c : Comm) (bed : Nat) (x : RouteEnt) : Option Nat :=
  if c.validExpert x.expert ∧ r.place c bed x < r.capacity then some (r.place c bed x) else none

/-- Rows kept of an expert (R61, R62). -/
def Routing.kept (r : Routing) (c : Comm) (e : Nat) : Nat := min r.capacity (sumOf (c.beds.map (fun b => r.bedCount b e)))

/-- Experts whose owner is a member, ascending (R60, R62). -/
def Comm.expertsOf (c : Comm) (mi : Nat) : List Nat := (List.range c.experts.length).filter (fun e => c.experts[e]? == some mi)

/-- The reducing context of a COMBINE by its index: local source position, token, segment (assumption 24). -/
def Routing.combineAt (r : Routing) (fmt idx : Nat) : Nat × Nat × Nat :=
  let s := max 1 (r.segs fmt)
  (idx / s / max 1 r.tokens, idx / s % max 1 r.tokens, idx % s)

/-- Elements of segment `s` of a row in a format code. -/
def Routing.segElems (r : Routing) (fmt s : Nat) : Nat := min (4096 / fmtBytes fmt) (r.rowElems - s * (4096 / fmtBytes fmt))

/-- Whether a context reduces through the tree; every other one copies (R55, R136). -/
def Ilpiac.treeCtx (_m : Ilpiac) (c : Coll) (x : CtxId) : Bool := c.reduces || (c.op == opCombine && x.part == partData)

/-- The source member position and the entries of a COMBINE context's token that were kept, with their rows (R64). -/
def Ilpiac.combineEnts (m : Ilpiac) (c : Coll) (x : CtxId) : List (RouteEnt × Nat) :=
  match m.comm c.key.comm, m.routing c with
  | some cm, some r =>
    let p := r.combineAt c.inFmt x.index
    let src := ((m.locals cm)[p.1]?).bind cm.index
    r.ents.filterMap (fun e => if some e.src = src ∧ e.token = p.2.1 then (r.row cm m.bed e).map (fun row => (e, row)) else none)
  | _, _ => []

/-- Leaves of a context: their number, and those that are present (R121, R123, R131). -/
def Ilpiac.leaves (m : Ilpiac) (c : Coll) (x : CtxId) : Nat × List Nat :=
  match m.comm c.key.comm with
  | none => (0, [])
  | some cm =>
    let n := (m.locals cm).length
    if c.op = opCombine then
      match m.routing c with
      | none => (0, [])
      | some r =>
        if x.part = partRow then (r.segs c.inFmt, List.range (r.segs c.inFmt))
        else (r.topk, (List.range r.topk).filter (fun s => (m.combineEnts c x).any (fun e => e.1.slot == s)))
    else if c.op = opBroadcast then
      match (cm.members[c.root]?).bind (fun a => let i := (m.locals cm).findIdx (· == a); if i < n then some i else none) with
      | some i => (n, [i])
      | none => (n, [])
    else (n, List.range n)

/-- Columns of a context (R127), and elements of column `q`. -/
def Ilpiac.ctxColumns (m : Ilpiac) (c : Coll) (x : CtxId) : Nat :=
  if c.op = opCombine then
    match m.routing c with
    | some r => max 1 (ceilDiv (r.segElems c.inFmt (r.combineAt c.inFmt x.index).2.2) 1024)
    | none => 1
  else c.columns
def Ilpiac.colElems (m : Ilpiac) (c : Coll) (x : CtxId) (q : Nat) : Nat :=
  if c.op = opCombine then
    match m.routing c with
    | some r => min 1024 (r.segElems c.inFmt (r.combineAt c.inFmt x.index).2.2 - 1024 * q)
    | none => 0
  else 1024

/-- Whether several beds hold members (B ≥ 2). -/
def Ilpiac.multiBed (m : Ilpiac) (c : Coll) : Bool :=
  match m.comm c.key.comm with
  | some cm => decide (2 ≤ cm.beds.length)
  | none => false

/-- A holding context keeps its roots for the trunk phase or the trellis (R133). -/
def Ilpiac.holding (m : Ilpiac) (c : Coll) : Bool := c.reduces && (m.multiBed c || c.op == opRub)

/-- NEED and MIN (R136). -/
def Ilpiac.slotNeed (m : Ilpiac) (c : Coll) (x : CtxId) : Nat × Nat :=
  if !m.treeCtx c x then (0, 0)
  else
    let n := (m.leaves c x).1
    let d := levelsOf n
    let s := ceilDiv n 2 + 1
    if m.holding c then (max s (c.columns + max d 1), c.columns + max d 1) else (s, d + 1)

/-- RESERVE_MODE (R167). -/
def Ilpiac.capped (m : Ilpiac) : Bool := m.has F.CAP_PRESENT_SPILL && m.g F.RM_POLICY_RESERVE_MODE == 1

/-- RESERVED (R138). -/
def Ilpiac.reserveOf (m : Ilpiac) (c : Coll) (x : CtxId) : Nat :=
  let n := m.slotNeed c x
  if m.capped then min n.1 (max n.2 (m.g F.RM_POLICY_RESERVE_CAP)) else n.1

/-! ### Reduction memory (R143, R144, R168) -/

/-- Slots reserved by the admitted contexts of the shared pool, and of a communicator's quota. -/
def Ilpiac.sharedReserved (m : Ilpiac) : Nat := sumOf ((m.coll.ctxs.filter (fun x => !x.quota)).map (·.reserved))
def Ilpiac.quotaReserved (m : Ilpiac) (comm : Nat) : Nat := sumOf ((m.coll.ctxs.filter (fun x => x.quota && x.id.coll.comm == comm)).map (·.reserved))
def Ilpiac.quotaSlots (m : Ilpiac) : Nat := sumOf (m.coll.comms.map (·.quotaSet))

/-- Slots neither reserved nor set aside (R168). -/
def Ilpiac.freeSlots (m : Ilpiac) : Nat := 32768 - m.quotaSlots - m.sharedReserved

/-- A waiting increase takes the slots that become free, and a lowered quota gives them back (R144). -/
def Ilpiac.quotaFlow (m : Ilpiac) : Ilpiac :=
  let m := m.over (m.coll.comms.map (·.id)) (fun m id =>
    match m.comm id with
    | none => m
    | some c =>
      if c.quotaWait.isSome then m
      else m.updComm id (fun c => { c with quotaSet := max c.quota (min c.quotaSet (m.quotaReserved id)) }))
  m.over (m.coll.comms.map (·.id)) (fun m id =>
    match m.comm id with
    | none => m
    | some c =>
      match c.quotaWait with
      | none => m
      | some (target, _) => let n := min m.freeSlots (target - c.quotaSet); m.updComm id (fun c => { c with quotaSet := c.quotaSet + n }))

/-- Contexts that wait at admission, in all queues (R168). -/
def Ilpiac.waitingCtxs (m : Ilpiac) : Nat := sumOf (m.coll.queues.map (fun q => sumOf (q.runs.map (fun r => r.hi - r.lo))))

/-- RM_STATUS and POOL_STATUS0 follow the pools and queues (R168, R306); a buffer of pool 0 is taken when a context has it reserved
(assumption 76). -/
def Ilpiac.rmStat (m : Ilpiac) : Ilpiac :=
  let m := m.pool0Stat
  let m := m.gw F.RM_STATUS_FREE_SLOTS m.freeSlots
  let m := m.gw F.RM_STATUS_QUOTA_SLOTS m.quotaSlots
  m.gw F.RM_STATUS_WAITING m.waitingCtxs

/-! ### Furrows (R130, R154, R155, R161) -/

def FurrowX.init : FurrowX := { queue := [], cellMap := [], fails := [], moving := false }
def Ilpiac.fx (m : Ilpiac) (f : Nat) : FurrowX := Map.get (fun _ => FurrowX.init) m.coll.furrows f
def Ilpiac.setFx (m : Ilpiac) (f : Nat) (x : FurrowX) : Ilpiac :=
  { m with coll := { m.coll with furrows := Map.put (fun _ => FurrowX.init) m.coll.furrows f x } }
def Ilpiac.furrowState (m : Ilpiac) (f : Nat) : Nat := m.rd .furrow f F.FURROW_STATUS_STATE
def furrowActive : Nat := 0
def furrowDraining : Nat := 1
def furrowGated : Nat := 2
def furrowRetired : Nat := 3

/-- Contexts whose home is a furrow. -/
def Ilpiac.homed (m : Ilpiac) (f : Nat) : List Ctx := m.coll.ctxs.filter (fun x => x.home == some f)

/-- ACTIVE_CONTEXTS (R161). -/
def Ilpiac.furrowCount (m : Ilpiac) (f : Nat) : Ilpiac := m.wr .furrow f F.FURROW_STATUS_ACTIVE_CONTEXTS (m.homed f).length

/-- The ACTIVE furrow with the fewest contexts, the lowest number on a tie (R130). -/
def Ilpiac.homeFor (m : Ilpiac) : Option Nat :=
  ((List.range 64).filter (fun f => m.furrowPresent f && m.furrowState f == furrowActive)).foldl
    (fun a f => match a with
      | none => some f
      | some g => if (m.homed f).length < (m.homed g).length then some f else some g) none

/-- A context's operation is issued on its home furrow. -/
def Ilpiac.issue (m : Ilpiac) (x : CtxId) : Ilpiac :=
  match (m.ctxOf x).bind (·.home) with
  | none => m
  | some f => let q := m.fx f; if q.queue.contains x then m else m.setFx f { q with queue := q.queue ++ [x] }

/-- A context leaves its furrow's queue. -/
def Ilpiac.unissue (m : Ilpiac) (x : CtxId) : Ilpiac :=
  match (m.ctxOf x).bind (·.home) with
  | none => m
  | some f => m.setFx f { m.fx f with queue := (m.fx f).queue.filter (· != x) }

/-- A furrow is retired: its bit, its state and the fault; its contexts are to move (R155). -/
def Ilpiac.retireFurrow (m : Ilpiac) (f : Nat) : Ilpiac :=
  if m.furrowState f = furrowRetired then m
  else
    let m := m.wr .furrow f F.FURROW_STATUS_STATE furrowRetired
    let m := m.gw F.FURROW_RETIRED_RETIRED (setBit (m.g F.FURROW_RETIRED_RETIRED) f)
    (m.setFx f { m.fx f with moving := true }).raise srcFurrow f 0

/-- Contexts of a furrow move to ACTIVE furrows; those that find none wait there (R155). -/
def Ilpiac.moveContexts (m : Ilpiac) (f : Nat) : Ilpiac :=
  let m := m.over (m.homed f) (fun m x =>
    match m.homeFor with
    | none => m
    | some g =>
      let m := m.unissue x.id
      let m := m.updCtx x.id (fun c => { c with home := some g, op := c.op.map (fun o => { o with passed := 0, failed := [] }) })
      let m := m.furrowCount g
      match x.op with
      | some o => if o.waitSpill.isSome then m else m.issue x.id
      | none => m)
  let m := m.furrowCount f
  if (m.homed f).isEmpty then m.setFx f { m.fx f with moving := false } else m

/-- Whether a physical cell is retired. -/
def Ilpiac.cellRetired (m : Ilpiac) (f c : Nat) : Bool := bitOf (m.rd .furrow f F.CELL_RETIRED_RETIRED (c / 64)) (c % 64)

/-- The physical cell of a logical position. -/
def Ilpiac.cellAt (m : Ilpiac) (f l : Nat) : Nat := Map.get (fun i => i) (m.fx f).cellMap l

/-- Physical cells at work. -/
def Ilpiac.cellsInUse (m : Ilpiac) (f : Nat) : List Nat := (List.range 512).map (m.cellAt f)

/-- A cell is retired; its logical position passes to the lowest spare, or the furrow is retired (R154, R155). -/
def Ilpiac.retireCell (m : Ilpiac) (f cell : Nat) : Ilpiac :=
  let m := m.wr .furrow f F.CELL_RETIRED_RETIRED (setBit (m.rd .furrow f F.CELL_RETIRED_RETIRED (cell / 64)) (cell % 64)) (cell / 64)
  let use := m.cellsInUse f
  match firstBelow 512 (fun l => m.cellAt f l == cell), (List.range 528).find? (fun c => !use.contains c && !m.cellRetired f c) with
  | some l, some s =>
    let m := m.setFx f { m.fx f with cellMap := Map.put (fun i => i) (m.fx f).cellMap l s }
    let use := m.cellsInUse f
    m.wr .furrow f F.FURROW_STATUS_SPARES_LEFT ((List.range 528).filter (fun c => !use.contains c && !m.cellRetired f c)).length
  | some _, none => m.retireFurrow f
  | none, _ => m

/-- One mismatch is recorded (R162, R163). -/
def Ilpiac.recordFail (m : Ilpiac) (f store : Nat) (b : Mismatch) : Ilpiac :=
  let m := m.cnt .furrow f (if b.expPath then F.CHECK_FAILS_EXP_FAILS else F.CHECK_FAILS_SIG_FAILS) 1
  let m := m.wr .furrow f F.LAST_FAIL_CELL b.cell
  let m := m.wr .furrow f F.LAST_FAIL_PATH (b2n b.expPath)
  let m := m.wr .furrow f F.LAST_FAIL_VALID 1
  m.wr .furrow f F.LAST_FAIL_CONTEXT store

/-! ### Packets of contributions (R318) -/

/-- Payload bytes of one contribution of a context. -/
def Ilpiac.contribBytes (m : Ilpiac) (c : Coll) (x : CtxId) (leaf : Nat) : Nat :=
  if c.op = opCombine then
    match m.routing c with
    | some r =>
      let s := if x.part = partRow then leaf else (r.combineAt c.inFmt x.index).2.2
      min 4096 (r.rowIn c.inFmt - 4096 * s)
    | none => 0
  else 4096

/-- Cells of one contribution of a context's format (R137): header, payload, block scales and CRC. -/
def Ilpiac.contribCells (m : Ilpiac) (c : Coll) (x : CtxId) (leaf : Nat) : Nat :=
  let n := m.contribBytes c x leaf
  let fp8 := x.part != partRoute && fmtBytes c.inFmt == 1
  ceilDiv (32 + n + (if fp8 then n / 32 else 0) + 4) 256

/-- The format that the body of a contribution follows: the selector under FP8_ANY, else IN_FMT (R105). -/
def Coll.bodyFmt (c : Coll) (part sel : Nat) : Nat := if part = partRoute then 0 else if c.inFmt = 3 then sel else c.inFmt

/-- A contribution's cells go back, and nothing holds its packet any longer (R134). -/
def Ilpiac.freeContrib (m : Ilpiac) (b : Contrib) : Ilpiac := m.unhold b.buf

/-! ### Saturation, non-finite values and side sums (R118, R119, R148, R149) -/

/-- A run of conversions enters the counters of its context and collective. -/
def Ilpiac.noteRun (m : Ilpiac) (x : CtxId) (sats : Nat) (nf : Bool) : Ilpiac :=
  let m := m.updCtx x (fun c => { c with sats := satAdd 32 c.sats sats, nonfinite := c.nonfinite || nf })
  let m := m.updColl x.coll (fun c => { c with sats := c.sats + sats, nonfinite := c.nonfinite || nf })
  let m := if sats = 0 then m else m.setInfo x.coll infoSaturated
  if nf then m.setInfo x.coll infoNonfinite else m

/-- The collective takes side sums: SUMSQ or AMAX, and phase 3 of REDUCE_UPDATE_BCAST (R149, R151). -/
def Coll.sides (c : Coll) : Bool := c.wantSum || c.wantAmax || c.op == opRub

/-- Side values of a chunk position (R149). New weights of REDUCE_UPDATE_BCAST stand at `2^40 + k`. -/
def Ilpiac.noteSide (m : Ilpiac) (k : CollId) (pos : Nat) (vals : List F32) : Ilpiac :=
  m.updColl k (fun c =>
    if c.sides then { c with side := c.side ++ [(pos, sumSqRun vals)],
                             amax := if c.op = opRub ∧ pos < 2 ^ 40 then c.amax else amaxF c.amax (amaxRun vals) } else c)

/-- Values that enter a side sum by source member (R149). -/
def Ilpiac.noteSideVals (m : Ilpiac) (k : CollId) (key : Nat) (vals : List F32) : Ilpiac :=
  m.updColl k (fun c => if c.sides then { c with sideVals := c.sideVals ++ [(key, vals)], amax := amaxF c.amax (amaxRun vals) } else c)

/-! ### Delivery of results (R76, R175, R176, R553) -/

/-- A destination bed in a list of fabric addresses. -/
def bedDest (b : Nat) : Nat := 16384 + b

/-- A result chunk goes to one group of local members: retained and multicast, or held while RETAIN is full (R73, R76). -/
def Ilpiac.giveLocal (m : Ilpiac) (k : CollId) (r : ResChunk) (dests : List Nat) : Option Ilpiac :=
  match m.collOf k with
  | none => some m
  | some c =>
    let dst := m.receivers c dests
    if dst.isEmpty then some m
    else
      let d := m.dstOf dst
      let p := resultPacket m.tcData d.1 m.bed k r
      if m.retainFits p then some (d.2.retainCopy k r.part r.expert r.index p dst) else none

/-- Results of REDUCE_UPDATE_BCAST leave in phase 6, after the commit point (R57). -/
def Coll.mayDeliver (c : Coll) : Bool := c.op != opRub || (match c.final with | some s => decide (s < 0x40) | none => false)

/-- A result chunk toward its destinations: fabric addresses of this bed, and other beds. -/
def Ilpiac.sendResult (m : Ilpiac) (k : CollId) (r : ResChunk) (dests : List Nat) : Option Ilpiac :=
  let beds := (dests.filter (16384 ≤ ·)).map (· - 16384)
  match m.giveLocal k r (dests.filter (· < 16384)) with
  | none => none
  | some m => some (m.over beds (fun m b => m.transferColl k 0x62 b (partHdr k r.part r.expert r.index r.fmt r.coarse) r.body))

/-- A result chunk is formed here: its digests for the twin (R503), and its delivery, unless its furrow must hold it (R76). -/
def Ilpiac.deliver (m : Ilpiac) (k : CollId) (r : ResChunk) (dests : List Nat) : Ilpiac :=
  let m := m.updColl k (fun c => { c with haveRes := c.haveRes ++ [(r.part, (r.expert, r.index))] })
  let hs := partHdr k r.part r.expert r.index r.fmt r.coarse
  let m := if dests.any (· < 16384) then m.twinOwn 0x0C hs r.body else m
  let m := if dests.any (16384 ≤ ·) then m.twinOwn 0x62 hs r.body else m
  match m.collOf k with
  | none => m
  | some c =>
    let hold := fun (m : Ilpiac) => { m with coll := { m.coll with heldRes := m.coll.heldRes ++ [⟨k, r, dests⟩] } }
    if !c.mayDeliver || m.coll.heldRes.any (fun h => h.coll == k) then hold m
    else
      match m.sendResult k r dests with
      | some m => m
      | none => hold m

/-- Held results move into the retention buffer, oldest first, while it has room (R76). -/
def Ilpiac.drainHeld (m : Ilpiac) : Ilpiac :=
  m.over m.coll.heldRes (fun m h =>
    match m.collOf h.coll with
    | none => { m with coll := { m.coll with heldRes := m.coll.heldRes.filter (· != h) } }
    | some c =>
      if !c.mayDeliver then m
      else
        match m.sendResult h.coll h.res h.dests with
        | some m => { m with coll := { m.coll with heldRes := m.coll.heldRes.filter (· != h) } }
        | none => m)

/-- The source bed of a result chunk of a collective: the owner, or the bed of the source member (R175). -/
def Ilpiac.resultSource (_m : Ilpiac) (cm : Comm) (c : Coll) (index : Nat) : Nat :=
  if c.op = opAllGather then ((cm.members[index / c.results / max 1 c.chunks]?).getD 0) / 256
  else if c.op = opBroadcast then ((cm.members[c.root]?).getD 0) / 256
  else cm.owner (index / c.results)

/-- Where a result chunk goes from this bed: local members, and further beds by the reverse route (R54, R175, R176). -/
def Ilpiac.resultDests (m : Ilpiac) (cm : Comm) (c : Coll) (index : Nat) : List Nat :=
  if c.op = opReduceScatter then
    match cm.members[index / c.results % max 1 cm.members.length]? with
    | some a => if a / 256 = m.bed then [a] else [bedDest (a / 256)]
    | none => []
  else m.locals cm ++ (m.treeDown cm.beds (m.resultSource cm c index)).map bedDest

/-- Local members that are to receive a result chunk (R54). -/
def Ilpiac.localDests (m : Ilpiac) (cm : Comm) (c : Coll) (index : Nat) : List Nat := (m.resultDests cm c index).filter (· < 16384)

/-! ### Encoding a position (R55, R113 to R115, R553) -/

/-- Result chunk `j` of position `k` from its values. -/
def encodeChunk (cm : Comm) (c : Coll) (index : Nat) (vals : List F32) : ResChunk × Encoded :=
  match fmtOf c.outFmt with
  | none => (⟨0, index, 0, 0, 0, []⟩, ⟨[], [], 0, false⟩)
  | some f =>
    let e := encodeRun cm.mode f c.outScale vals
    (⟨partData, index, 0, c.outFmt, effScale c.outScale, e.scales ++ e.payload⟩, e)

/-- The values of elements `lo` to `lo + n − 1` of a position from its finished columns; none while one of them is missing. -/
def columnVals (cols : List (Nat × List F32)) (lo n : Nat) : Option (List F32) :=
  ((List.range ((lo + n + 1023) / 1024 - lo / 1024)).foldl (fun (a : Option (List F32)) i =>
    match a, cols.find? (fun x => x.1 == lo / 1024 + i) with
    | some l, some x => some (l ++ x.2)
    | _, _ => none) (some [])).map (fun l => (l.drop (lo % 1024)).take n)

/-- Emits the result chunks of a position whose columns exist (R125, R553). -/
def Ilpiac.emitChunks (m : Ilpiac) (x : CtxId) : Ilpiac :=
  match m.collOf x.coll, m.comm x.coll.comm with
  | some c, some cm =>
    let n := c.elems / c.results
    m.over (List.range c.results) (fun m j =>
      match m.ctxOf x with
      | none => m
      | some cx =>
        if cx.emitted.contains j then m
        else
          match columnVals cx.result (j * n) n with
          | none => m
          | some vals =>
            let index := x.index * c.results + j
            let e := encodeChunk cm c index vals
            let m := m.updCtx x (fun cx => { cx with emitted := cx.emitted ++ [j] })
            (m.noteRun x e.2.sats e.2.nonfinite).deliver x.coll e.1 (m.resultDests cm c index))
  | _, _ => m

/-! ### COMBINE outputs (R64) -/

/-- Emits the token output chunks of a local source that are complete. -/
def Ilpiac.emitTokens (m : Ilpiac) (x : CtxId) : Ilpiac :=
  match m.collOf x.coll, m.comm x.coll.comm with
  | some c, some cm =>
    match m.routing c with
    | none => m
    | some r =>
      let p := r.combineAt c.inFmt x.index
      let S := max 1 (r.segs c.inFmt)
      let per := 4096 / fmtBytes c.outFmt
      let total := r.tokens * r.rowElems
      let segE := 4096 / fmtBytes c.inFmt
      let lo := p.2.1 * r.rowElems + p.2.2 * segE
      let hi := lo + r.segElems c.inFmt p.2.2
      let base := p.1 * r.tokens * S
      -- values of elements of the token stream, segment by segment
      let ctxAt := fun (t s : Nat) => m.ctxOf ⟨x.coll, partData, base + t * S + s⟩
      m.over ((List.range (ceilDiv hi per - lo / per)).map (· + lo / per)) (fun m j =>
        let a := j * per
        let n := min per (total - a)
        let segsOf := (List.range r.tokens).flatMap (fun t => (List.range S).filterMap (fun s =>
          let l := t * r.rowElems + s * segE
          let h := l + r.segElems c.inFmt s
          if l < a + n ∧ a < h then some (l, h, ctxAt t s) else none))
        let ready := segsOf.all (fun y => match y.2.2 with
          | some cx => decide (cx.result.length = m.ctxColumns c cx.id)
          | none => false)
        let have_ := match m.collOf x.coll with
          | some c => c.made.contains (p.1 + 16, j)
          | none => true
        if !ready || have_ then m
        else
          let vals := segsOf.flatMap (fun y => match y.2.2 with
            | some cx =>
              let v := (cx.result.insertionSort (fun u w => u.1 ≤ w.1)).flatMap (·.2)
              (v.drop (a - y.1)).take (min y.2.1 (a + n) - max y.1 a)
            | none => [])
          let e := encodeChunk cm c j vals
          let m := m.updColl x.coll (fun c => { c with made := c.made ++ [(p.1 + 16, j)] })
          (m.noteRun x e.2.sats e.2.nonfinite).deliver x.coll { e.1 with expert := 0 } ((m.locals cm)[p.1]?).toList)
  | _, _ => m

/-! ### Recompression and columns (R178 to R189, R326) -/

/-- A column compressed: block scales and E5M2 elements, and the decoded values (R179 to R182). -/
def compressColumn (seedLo seedHi : Word) (step seq k h plane q : Nat) (w : List F32) : List Byte × List Byte × List F32 :=
  (List.range 32).foldl (fun (a : List Byte × List Byte × List F32) b =>
    let blk := (w.drop (32 * b)).take 32
    let e := compressExp blk
    let cs := blk.zipIdx.map (fun x => compressElem x.1 e (drawOf seedLo seedHi step seq k h plane (1024 * q + 32 * b + x.2)))
    let ds := cs.map (fun c => BitVec.ofNat 32 (decodeElem e5m2 c (e + 127).toNat 0x3F800000).code)
    (a.1 ++ [BitVec.ofNat 8 (e + 127).toNat], a.2.1 ++ cs.map (BitVec.ofNat 8), a.2.2 ++ ds)) ([], [], [])

/-- The residual of a sent column (R187). -/
def Comm.residual (c : Comm) (tensor k node col : Nat) : Option Residual :=
  c.residuals.find? (fun r => r.tensor == tensor && r.k == k && r.node == node && r.col == col)

/-- Bytes of binary32 values. -/
def f32Bytes (l : List F32) : List Byte := l.flatMap (fun v => leBytes 4 v.toNat)
/-- Binary32 values of bytes. -/
def bytesF32 (n : Nat) (l : List Byte) : List F32 := (List.range n).map (fun i => BitVec.ofNat 32 (natAt l (4 * i) 4))

/-- The residual's buffer, taken and cleared to +0 at its first use (R187, R189). -/
def Ilpiac.residualFor (m : Ilpiac) (comm tensor k node col : Nat) : Option (Residual × Ilpiac) :=
  match (m.comm comm).bind (fun c => c.residual tensor k node col) with
  | some r => some (r, m)
  | none =>
    match m.poolTake 2 with
    | (none, _) => none
    | (some a, m) =>
      let w := m.memWrite a (List.replicate 4096 0) hintNormal
      if w.1 then
        let r : Residual := { tensor, k, node, col, buf := a, half := 0, stamp := 0, fresh := [], other := none }
        some (r, w.2.updComm comm (fun c => { c with residuals := c.residuals ++ [r] }))
      else none

/-- The sums w = v + res that SUM_F32 of the adders returns (R187, R291). -/
def Ilpiac.addResidual (m : Ilpiac) (a : Nat) (v : List F32) : Option (List F32) × Ilpiac :=
  (List.range (v.length / 16)).foldl (fun (acc : Option (List F32) × Ilpiac) i =>
    let r := acc.2.memAdd 0x6 (a + 64 * i) 0 (f32Bytes ((v.drop (16 * i)).take 16))
    match acc.1, r.1 with
    | some l, some d => (some (l ++ bytesF32 16 d), r.2)
    | _, _ => (none, r.2)) (some [], m)

/-- The body of a COLUMN, with its non-finite outcome; none where a residual cannot be had (R178, R187, R189, R326). -/
def Ilpiac.columnBody (m : Ilpiac) (x : CtxId) (h q : Nat) (v : List F32) : Option (Bool × List Byte) × Ilpiac :=
  match m.comm x.coll.comm with
  | none => (none, m)
  | some cm =>
    if !cm.compress then (some (false, f32Bytes v), m)
    else
      let tensor := x.coll.seq / 256
      let enc := fun (w : List F32) => compressColumn cm.seedLo cm.seedHi x.coll.step x.coll.seq x.index h m.plane q w
      if !cm.feedback then let e := enc v; (some (true, e.1 ++ e.2.1), m)
      else
        match m.residualFor cm.id tensor x.index h q with
        | none => (none, m)
        | some (r, m) =>
          match m.addResidual (r.buf + 4096 * r.half) v with
          | (none, m) => (none, m)
          | (some w, m) =>
            let e := enc w
            let new := List.zipWith (fun a b => if f32Nonfinite a then 0 else addB32 a (negB32 b)) w e.2.2
            let wr := m.memWrite (r.buf + 4096 * (1 - r.half)) (f32Bytes new) hintNormal
            let mark := mapIf (fun (y : Residual) => y.buf == r.buf) (fun y =>
              { y with fresh := y.fresh.filter (fun e => e.1 != x.coll) ++ [(x.coll, new)], other := some x.coll })
            let m := wr.2.updComm cm.id (fun c => { c with residuals := mark c.residuals })
            if wr.1 then (some (true, e.1 ++ e.2.1), m) else (none, m)

/-- H1 to H3 of COLUMN (R326). -/
def columnHdr (k : CollId) (index q h : Nat) (compressed : Bool) : List Nat :=
  [k.step, k.seq + k.comm * 2 ^ 32, index % 2 ^ 24 + q * 2 ^ 24 + b2n compressed * 2 ^ 26 + h % 128 * 2 ^ 27]

/-- The values of a received COLUMN and whether any is not finite (R182). -/
def columnVal (p : Packet) : List F32 × Bool :=
  if p.f 3 26 1 = 1 then
    let r := decodeRun e5m2 (p.body.take 32) (p.body.drop 32) 0x3F800000 0 1024
    (r.vals, r.nonfinite)
  else
    let v := bytesF32 1024 p.body
    (v, v.any f32Nonfinite)

/-! ### The tree (R131 to R135) -/

/-- The subtree (L, j) is absent (R131). -/
def subtreeAbsent (present : List Nat) (L j : Nat) : Bool := !present.any (fun i => decide (j * 2 ^ L ≤ i) && decide (i < (j + 1) * 2 ^ L))

/-- A value that did not come through a check of the input stage: decoded leaf of a column (R107, R112). -/
def Ilpiac.decodeLeaf (m : Ilpiac) (c : Coll) (x : CtxId) (b : Contrib) (q : Nat) : Run :=
  let n := m.colElems c x q
  match fmtOf (c.bodyFmt x.part b.fmt) with
  | none => nanRun n
  | some f =>
    if c.inFmt = 3 ∧ f.bytes ≠ 1 then nanRun n
    else
      let r := decodeRun f b.scales b.payload b.coarse (1024 * q) n
      if c.op = opCombine then
        match (m.combineEnts c x).find? (fun e => e.1.slot == b.leaf), m.comm c.key.comm with
        | some e, some cm =>
          let t := r.vals.map (fun v => combineTerm cm.mode v (e.1.gate / 2 ^ 13))
          ⟨t.map (·.1), r.sats + sumOf (t.map (·.2)), r.nonfinite || t.any (fun y => f32Nonfinite y.1)⟩
        | _, _ => r
      else r

/-- Slots that the in-bed reduction of a context has in use beside the working slot (R131; assumption 25). -/
def Ctx.slotsUsed (c : Ctx) : Nat := (c.held.filter (fun h => h.spill.isNone)).length + c.roots.length

/-- Spilled subtrees of a context are dropped and their slots returned (R146, R147). -/
def Ilpiac.dropSpills (m : Ilpiac) (x : CtxId) : Ilpiac :=
  match m.ctxOf x with
  | none => m
  | some c =>
    let as := c.held.filterMap (·.spill) ++ (match c.op with | some o => o.waitSpill.toList | none => [])
    m.over as (fun m a => m.poolGive a)

/-- The in-order restart of column 0 (R147). -/
def Ilpiac.restart (m : Ilpiac) (x : CtxId) : Ilpiac :=
  let m := (m.dropSpills x).unissue x
  let m := m.updCtx x (fun c => { c with held := [], op := none, todo := [], inOrder := true, next := 0 })
  m.gcnt F.RM_COUNTS_RESTARTS 1

/-- A value is held until its sibling is complete: in a slot, in a spill slot, or not at all (R131, R146, R147). -/
def Ilpiac.hold (m : Ilpiac) (x : CtxId) (L j : Nat) (v : List F32) : Ilpiac :=
  match m.ctxOf x with
  | none => m
  | some c =>
    let keep := fun (m : Ilpiac) (v : List F32) (s : Option Nat) => m.updCtx x (fun c => { c with held := c.held ++ [⟨L, j, v, s⟩] })
    if c.slotsUsed + 1 < c.reserved ∨ c.col ≠ 0 ∨ c.inOrder then keep m v none
    else
      match m.spillTake with
      | (none, m) => m.restart x
      | (some a, m) =>
        let w := m.memWrite a (toLen 4096 (f32Bytes v)) hintKeep
        if w.1 then ((keep w.2 [] (some a)).gcnt F.RM_COUNTS_SPILLS 1).setInfo x.coll infoSpilled
        else (w.2.poolGive a).restart x

/-- A finished result column of a position (R125, R170). -/
def Ilpiac.resultColumn (m : Ilpiac) (x : CtxId) (q : Nat) (v : List F32) : Ilpiac :=
  match m.collOf x.coll with
  | none => m
  | some c =>
    let m := m.updCtx x (fun cx => { cx with result := cx.result ++ [(q, v)] })
    match m.ctxOf x with
    | none => m
    | some cx =>
      let whole := decide (cx.result.length = m.ctxColumns c x)
      let vals := (cx.result.insertionSort (fun a b => a.1 ≤ b.1)).flatMap (·.2)
      let m := if !whole then m
        else if c.op = opCombine then
          (match m.routing c with
           | some r => let p := r.combineAt c.inFmt x.index; m.noteSideVals x.coll (p.1 * 2 ^ 40 + x.index) vals
           | none => m)
        else m.noteSide x.coll x.index vals
      let m := if whole then m.updColl x.coll (fun c => { c with made := c.made ++ [(x.part, x.index)] }) else m
      if c.op = opRub then m else if c.op = opCombine then m.emitTokens x else m.emitChunks x

/-- A value of a trunk tree node climbs past absent siblings, to the next bed, or waits for its sibling (R172, R173). -/
def Ilpiac.trunkClimb (m : Ilpiac) (x : CtxId) (q : Nat) (v : List F32) : Nat → Nat → Ilpiac
  | 0, _ => m.resultColumn x q v
  | n + 1, h =>
    match m.comm x.coll.comm with
    | none => m
    | some cm =>
      if h ≤ 1 then m.resultColumn x q v
      else
        let owner := cm.owner x.index
        if (m.heapBed cm.beds owner (Nat.xor h 1)).isNone then m.trunkClimb x q v n (h / 2)
        else
          match m.heapBed cm.beds owner (h / 2) with
          | none => m
          | some b =>
            if b ≠ m.bed then
              match m.columnBody x h q v with
              | (none, m) => m.failColl x.coll stMemoryFault
              | (some (z, body), m) =>
                let m := m.updCtx x (fun c => { c with sentCols := c.sentCols + 1 })
                (m.twinOwn 0x60 (columnHdr x.coll x.index q h z) body).transferColl x.coll 0x60 b (columnHdr x.coll x.index q h z) body
            else
              let m := m.updCtx x (fun c => { c with trunk := c.trunk ++ [((h, q), v)] })
              match (m.ctxOf x).bind (fun c => c.trunk.find? (fun t => t.1 == (Nat.xor h 1, q))), (m.ctxOf x).bind (·.op) with
              | some s, none =>
                let m := m.updCtx x (fun c => { c with
                  op := some { col := q, trunk := true, level := 0, index := h / 2, a := s.2, b := v, passed := 0, failed := [], waitSpill := none } })
                m.issue x
              | _, _ => m

/-- A root of the in-bed tree (R131, R133). -/
def Ilpiac.rootDone (m : Ilpiac) (x : CtxId) (q : Nat) (v : List F32) : Ilpiac :=
  match m.collOf x.coll with
  | none => m
  | some c =>
    let last := decide (q + 1 = m.ctxColumns c x)
    let bufs := if last then ((m.ctxOf x).map (·.contribs)).getD [] else []
    let m := m.updCtx x (fun cx => { cx with col := q + 1, next := 0, inOrder := true, contribs := if last then [] else cx.contribs })
    let m := m.over bufs (fun m b => m.freeContrib b)
    if m.holding c then
      (if m.multiBed c then m.trunkClimb x q v 7 (64 + m.bed) else m.resultColumn x q v)
    else m.resultColumn x q v

/-- A value of a subtree climbs until its sibling is missing (R131). -/
def Ilpiac.climb (m : Ilpiac) (x : CtxId) (present : List Nat) (d q : Nat) (v : List F32) : Nat → Nat → Nat → Ilpiac
  | 0, _, _ => m.rootDone x q v
  | n + 1, L, j =>
    if d ≤ L then m.rootDone x q v
    else
      let s := Nat.xor j 1
      if subtreeAbsent present L s then m.climb x present d q v n (L + 1) (j / 2)
      else
        match (m.ctxOf x).bind (fun c => c.held.find? (fun h => h.level == L && h.index == s)) with
        | none => m.hold x L j v
        | some h =>
          let m := m.updCtx x (fun c => { c with
            held := c.held.filter (fun y => !(y.level == L && y.index == s)),
            op := some { col := q, trunk := false, level := L + 1, index := j / 2, a := h.vals, b := v, passed := 0, failed := [], waitSpill := h.spill } })
          if h.spill.isSome then m else m.issue x

/-- One leaf enters the tree. -/
def Ilpiac.enterLeaf (m : Ilpiac) (x : CtxId) (c : Coll) (b : Contrib) (q : Nat) : Ilpiac :=
  let lv := m.leaves c x
  let r := m.decodeLeaf c x b q
  let m := m.noteRun x r.sats r.nonfinite
  m.climb x lv.2 (levelsOf lv.1) q r.vals (levelsOf lv.1 + 1) 0 b.leaf

/-- Two trunk values of a context whose node can be formed here (R135). -/
def Ctx.trunkPair (cx : Ctx) : Option (((Nat × Nat) × List F32) × ((Nat × Nat) × List F32)) :=
  (cx.trunk.find? (fun t => t.1.1 % 2 == 0 && cx.trunk.any (fun s => s.1 == (t.1.1 + 1, t.1.2)))).bind (fun t =>
    (cx.trunk.find? (fun s => s.1 == (t.1.1 + 1, t.1.2))).map (fun s => (t, s)))

/-- Work that a context can do now without another event: a trunk node is formed, or leaves enter the tree until a node needs the furrow
(R131, R132, R135). -/
def Ilpiac.pump (m : Ilpiac) (x : CtxId) : Nat → Ilpiac
  | 0 => m
  | n + 1 =>
    match m.ctxOf x, m.collOf x.coll with
    | some cx, some c =>
      if cx.op.isSome ∨ c.failing ∨ !m.treeCtx c x then m
      else
        match cx.trunkPair with
        | some (t, s) =>
          (m.updCtx x (fun c => { c with
            op := some { col := t.1.2, trunk := true, level := 0, index := t.1.1 / 2, a := t.2, b := s.2, passed := 0, failed := [], waitSpill := none } })).issue x
        | none =>
          let lv := m.leaves c x
          let cols := m.ctxColumns c x
          -- a streaming context waits until its earlier result chunks have left (R133)
          let blocked := c.op != opCombine && !m.holding c && m.coll.heldRes.any (fun h => h.coll == x.coll && h.res.index / c.results == x.index)
          if cols ≤ cx.col ∨ blocked then m
          else if lv.2.isEmpty then (m.rootDone x cx.col (List.replicate (m.colElems c x cx.col) 0)).pump x n
          else if cx.inOrder then
            match lv.2.find? (fun i => decide (cx.next ≤ i)) with
            | none => m
            | some i =>
              match cx.contribs.find? (fun b => b.leaf == i) with
              | none => m
              | some b => ((m.updCtx x (fun y => { y with next := i + 1 })).enterLeaf x c b cx.col).pump x n
          else
            match cx.todo with
            | [] => m
            | i :: l =>
              match cx.contribs.find? (fun b => b.leaf == i) with
              | none => m
              | some b => ((m.updCtx x (fun y => { y with todo := l })).enterLeaf x c b 0).pump x n
    | _, _ => m

/-- Enough turns for all that a context can do at once. -/
def Ilpiac.pumpAll (m : Ilpiac) (x : CtxId) : Ilpiac :=
  match m.ctxOf x with
  | some c => m.pump x (4 * (c.contribs.length + 1) + 8)
  | none => m

/-- The operation of a context has passed both checks: its value is written and goes on (R153). -/
def Ilpiac.opDone (m : Ilpiac) (x : CtxId) : Ilpiac :=
  match m.ctxOf x, m.collOf x.coll with
  | some cx, some c =>
    match cx.op with
    | none => m
    | some o =>
      let v := nodeCol o.a o.b
      let m := (m.unissue x).updCtx x (fun y => { y with op := none })
      let m := m.noteRun x 0 (v.any f32Nonfinite)
      let m := if o.trunk then
          (m.updCtx x (fun y => { y with trunk := y.trunk.filter (fun t => !(t.1.1 / 2 == o.index && t.1.2 == o.col)) })).trunkClimb x o.col v 7 o.index
        else
          let lv := m.leaves c x
          m.climb x lv.2 (levelsOf lv.1) o.col v (levelsOf lv.1 + 1) o.level o.index
      m.pumpAll x
  | _, _ => m

/-- FURROW_INJECT forces a mismatch in an operation of its cell (R157, R164). -/
def Ilpiac.injected (m : Ilpiac) (f : Nat) : List Mismatch × Ilpiac :=
  let cell := m.rd .furrow f F.FURROW_INJECT_CELL
  let arm := m.rd .furrow f F.FURROW_INJECT_ARM == 1
  if (arm || m.rd .furrow f F.FURROW_INJECT_STICKY == 1) && (m.cellsInUse f).contains cell then
    ([⟨cell, m.rd .furrow f F.FURROW_INJECT_PATH == 1⟩], m.wr .furrow f F.FURROW_INJECT_ARM 0)
  else ([], m)

/-- Furrow cycles within which mismatches of a cell add up (R154). -/
def failWindow : Nat := 2 ^ 30

/-- The end of one group of 512 (R153 to R155): it passes, or it fails in the cells of `bad` and is reissued. -/
def Ilpiac.groupComplete (m : Ilpiac) (f : Nat) (bad : List Mismatch) : Ilpiac :=
  match (m.fx f).queue with
  | [] => m
  | x :: _ =>
    match m.ctxOf x with
    | none => m.setFx f { m.fx f with queue := (m.fx f).queue.filter (· != x) }
    | some cx =>
      match cx.op with
      | none => m.setFx f { m.fx f with queue := (m.fx f).queue.filter (· != x) }
      | some o =>
        let m := m.wrapCnt .furrow f F.BUSY_CYCLES_CYCLES 1
        let inj := m.injected f
        let use := m.cellsInUse f
        let bad := bad.filter (fun b => use.contains b.cell || b.cell == 0x3FF) ++ inj.1
        let m := inj.2
        if bad.isEmpty then
          if o.passed = 0 then m.updCtx x (fun c => { c with op := some { o with passed := 1, failed := [] } })
          else m.opDone x
        else
          let m := (m.over bad (fun m b => m.recordFail f cx.store b)).setInfo x.coll infoRecomputed
          let cells := ((bad.map (·.cell)).filter (· != 0x3FF)).eraseDups
          let fails := (m.fx f).fails.filter (fun e => decide (m.clk < e.2 + failWindow)) ++ cells.map (fun c => (c, m.clk))
          let m := m.setFx f { m.fx f with fails }
          let lim := max 1 (m.rd .furrow f F.FURROW_CTRL_CELL_FAIL_LIMIT)
          let gone := cells.filter (fun c => o.failed.contains c || decide (lim ≤ (fails.filter (fun e => e.1 == c)).length))
          let m := m.updCtx x (fun c => { c with op := some { o with failed := cells.filter (fun c => !gone.contains c) } })
          m.over gone (fun m c => m.retireCell f c)

/-- A spilled subtree has been read back (R146); poison restarts in order (R147). -/
def Ilpiac.spillBack (m : Ilpiac) (x : CtxId) : Ilpiac :=
  match m.ctxOf x with
  | none => m
  | some cx =>
    match cx.op with
    | none => m
    | some o =>
      match o.waitSpill with
      | none => m
      | some a =>
        match m.memRead a 4096 hintDiscard true with
        | (none, m) => (m.restart x).pumpAll x
        | (some d, m) =>
          let m := m.updCtx x (fun c => { c with op := some { o with a := bytesF32 o.b.length d, waitSpill := none } })
          (m.poolGive a).issue x

/-! ### The end of contexts (R51, R134) -/

/-- A context and everything it holds is released at once (R134). -/
def Ilpiac.freeCtx (m : Ilpiac) (x : CtxId) : Ilpiac :=
  match m.ctxOf x with
  | none => m
  | some c =>
    let m := (m.dropSpills x).unissue x
    let m := m.over c.contribs (fun m b => m.freeContrib b)
    let m := m.areaGive .contrib 0 c.cells
    let m := { m with coll := { m.coll with ctxs := m.coll.ctxs.filter (fun y => y.id != x) } }
    let m := match c.home with | some f => m.furrowCount f | none => m
    m.quotaFlow.rmStat

/-- All local destinations have acknowledged the result chunks of a reducing context's position (R51). -/
def Ilpiac.positionAcked (m : Ilpiac) (cm : Comm) (c : Coll) (x : CtxId) : Bool :=
  (List.range c.results).all (fun j =>
    let i := x.index * c.results + j
    (m.localDests cm c i).all (fun a => !c.delivery.contains a || m.memberFenced a) ||
    (c.haveRes.contains (partData, (0, i)) && !m.coll.heldRes.any (fun h => h.coll == x.coll && h.res.part == 0 && h.res.index == i) &&
      !m.coll.retained.any (fun r => r.coll == x.coll && r.part == 0 && r.index == i)))

/-- The part of a reducing context's work that lies in this bed is over: every column has been sent on, or every result formed. -/
def Ilpiac.ctxWorkDone (m : Ilpiac) (c : Coll) (x : Ctx) : Bool :=
  if c.op = opCombine then decide (x.result.length = m.ctxColumns c x.id)
  else decide (x.sentCols + x.result.length = c.columns) && x.op.isNone && x.trunk.isEmpty

/-- Whether a context may end now (R51). -/
def Ilpiac.ctxOver (m : Ilpiac) (x : Ctx) : Bool :=
  match m.collOf x.id.coll, m.comm x.id.coll.comm with
  | some c, some cm =>
    if c.reduces then m.ctxWorkDone c x && m.positionAcked cm c x.id
    else if c.op = opCombine ∧ x.id.part = partData then
      match m.routing c with
      | none => true
      | some r =>
        let p := r.combineAt c.inFmt x.id.index
        let lo := p.2.1 * r.rowElems + p.2.2 * (4096 / fmtBytes c.inFmt)
        let hi := lo + r.segElems c.inFmt p.2.2
        let per := 4096 / fmtBytes c.outFmt
        let js := (List.range (ceilDiv hi per - lo / per)).map (· + lo / per)
        let a := (m.locals cm)[p.1]?
        m.ctxWorkDone c x && js.all (fun j => c.made.contains (p.1 + 16, j) &&
          !m.coll.heldRes.any (fun h => h.coll == x.id.coll && h.res.index == j && h.dests == a.toList) &&
          !m.coll.retained.any (fun q => q.coll == x.id.coll && q.part == 0 && q.index == j && q.dests.any (fun d => some d.addr == a && !d.acked)))
    else x.done
  | _, _ => true

/-- Contexts that may end do (R51). -/
def Ilpiac.sweepCtxs (m : Ilpiac) (k : CollId) : Ilpiac :=
  m.over (m.coll.ctxs.filter (fun x => x.id.coll == k)) (fun m x =>
    match m.ctxOf x.id with
    | some x => if m.ctxOver x then m.freeCtx x.id else m
    | none => m)

end Sys2Proof.Machine
end

