-- ==== Sys2Proof/Machine/Admit.lean ====
section
/-! DEFINITION. Acceptance of collective descriptors (spec 02: R49, R52, R58, R60, R65, R70, R80, R81, R88 to R91), the admission of contexts
(spec 04: R137 to R145) and credits (R140, R319, R378). -/

namespace Sys2Proof.Machine

/-! ### Descriptors (R88, R89, R106, R197) -/

/-- An IN_FMT and an OUT_FMT that R89 allows; FP8_ANY is input only. -/
def inFmtOk (f : Nat) : Bool := decide (1 ≤ f) && decide (f ≤ 6)
def outFmtOk (f : Nat) : Bool := inFmtOk f && f != 3

/-- The collective of an accepted descriptor. -/
def Coll.fresh (key : CollId) (words : List Word) (ring num now : Nat) : Coll :=
  { key, words, ring, num, acceptedAt := now, refused := false, headless := false, info := 0, status := none, fault := none, admitted := 0,
    accepted := 0, made := [], haveRes := [], started := false, records := [], recordsSent := [], phase3 := [], phase3Sent := [],
    countsSent := [], agreed := none, final := none, finalInfo := 0, finalFault := none, unknownComm := false, delivery := [], ended := [],
    lost := none, firstAt := none, lastAt := 0, lastMember := 0, sats := 0, dropped := 0, side := [], sideVals := [], amax := 0,
    nonfinite := false }

/-- The key that a descriptor names (R88). -/
def AccDesc.key (d : AccDesc) : CollId := ⟨d.f 1 0 16, d.f 2 0 64, d.f 3 0 32⟩

/-- The sizes of a DISPATCH descriptor (R60, R88). -/
def Coll.capacity (c : Coll) : Nat := c.f 6 0 16
def Coll.topk (c : Coll) : Nat := c.f 6 16 3 + 1
def Coll.rowBytes (c : Coll) : Nat := 2 ^ c.f 6 20 4
def Coll.tokens (c : Coll) : Nat := c.f 6 24 16 + 1

/-- The fields of W0 to W7 that R88, R89, R106 and R197 check without the communicator (R91). -/
def Ilpiac.collFields (m : Ilpiac) (c : Coll) : Bool :=
  let d : AccDesc := ⟨c.ring, c.num, c.words, true, false⟩
  let sides := c.wantSum || c.wantAmax
  d.w0ok && d.zero [(1, 26, 6), (1, 46, 18), (3, 56, 8), (4, 32, 32), (5, 16, 16)] &&
  inFmtOk c.inFmt && outFmtOk c.outFmt && (c.outScale == 0 || coarseOk c.outScale) &&
  (c.op == opBroadcast || c.root == 0) &&
  (c.op == opRub || c.program == 0) && (c.op == opCombine || c.pairSeq == 0) &&
  (if c.op = opDispatch ∨ c.op = opCombine then c.chunks == 0 else decide (1 ≤ c.chunks)) &&
  (if c.op = opRub then c.stateBase % 64 == 0 && 4 / fmtBytes c.inFmt == 4 / fmtBytes c.outFmt
   else if c.op = opDispatch then
     decide (1 ≤ c.capacity) && c.f 6 19 1 == 0 && decide (8 ≤ c.f 6 20 4) && decide (c.f 6 20 4 ≤ 14) && c.f 6 40 24 == 0
   else c.f 6 0 64 == 0) &&
  (if sides then c.sideAddr % 16 == 0 && m.addrOk c.sideAddr 16 true else c.sideAddr == 0)

/-- ROOT of a BROADCAST names a member (R88). -/
def Coll.rootOk (c : Coll) (cm : Comm) : Bool := c.op != opBroadcast || decide (c.root < cm.members.length)

/-- Engines that hold a program (R197, R222). -/
def Ilpiac.holders (m : Ilpiac) (program : Nat) : List Nat :=
  (m.trellis.engines.filter (fun e => (e.2.prog.map (·.handle)) == some program)).map (·.1)

/-- The lowest local member that is fenced. -/
def Ilpiac.lowestFenced (m : Ilpiac) (cm : Comm) : Option Nat := (m.locals cm).find? m.memberFenced

/-- The failure codes that the checks of a collective descriptor find (R49, R59, R60, R65, R70, R81, R91, R197). -/
def Ilpiac.collCodes (m : Ilpiac) (cm : Comm) (c : Coll) : List Nat :=
  let ordered := match cm.lastKey with
    | none => true
    | some k => keyLt k (c.key.step, c.key.seq)
  let held := match m.routing c with
    | some r => r.held && !m.coll.colls.any (fun o => o.key.comm == c.key.comm && o.op == opCombine && o.key.step == c.key.step && o.pairSeq == c.pairSeq)
    | none => false
  let prog := !(m.holders c.program).isEmpty && !m.trellis.unloads.any (fun u => u.handle == c.program)
  (if m.collFields c && c.rootOk cm && ordered then [] else [stBadDescriptor]) ++
  (if c.op = opDispatch ∧ cm.experts.isEmpty then [stBadDescriptor] else []) ++
  (if c.op = opCombine ∧ !held then [stBadDescriptor] else []) ++
  (if c.op = opRub ∧ !m.has F.CAP_PRESENT_TRELLIS then [stAbsentUnit] else []) ++
  (if c.op = opRub ∧ m.has F.CAP_PRESENT_TRELLIS ∧ !prog then [stBadDescriptor] else []) ++
  (if c.op = opDispatch ∧ 8 ≤ cm.routes.length then [stNoResources] else []) ++
  (if cm.mismatch then [stCommMismatch] else []) ++
  (if c.op = opRub ∧ (cm.stale ∨ m.shardHeld cm.id) then [stStateStale] else []) ++
  (if (m.lowestFenced cm).isSome then [stFenced] else [])

/-! ### The contexts of a collective (R51, R139) -/

/-- ROUTE and DATA chunks of a dispatch contribution (R317). -/
def Coll.routeChunks (c : Coll) : Nat := ceilDiv (c.tokens * c.topk) 512
def Coll.dataChunks (c : Coll) : Nat := ceilDiv (c.tokens * c.rowBytes) 4096

/-- Whether the bed of this module holds ROOT. -/
def Ilpiac.rootHere (m : Ilpiac) (cm : Comm) (c : Coll) : Bool := (cm.members[c.root]?).any (fun a => a / 256 == m.bed)

/-- Local members with their member indices. -/
def Ilpiac.localIdx (m : Ilpiac) (cm : Comm) : List Nat := (m.locals cm).filterMap cm.index

/-- The runs of contexts of a collective in their order of entry (R139; COMBINE: assumption 24). -/
def Ilpiac.runsOf (m : Ilpiac) (cm : Comm) (c : Coll) : List AdmRun :=
  let run := fun (part lo n : Nat) => if n = 0 then [] else [(⟨c.key, part, lo, lo + n⟩ : AdmRun)]
  if c.op = opDispatch then run partRoute 0 c.routeChunks ++ run partData 0 c.dataChunks
  else if c.op = opBroadcast then (if m.rootHere cm c then run partData 0 c.chunks else [])
  else if c.op = opCombine then
    match m.routing c with
    | none => []
    | some r =>
      ((m.localIdx cm).flatMap (fun mi => cm.expertsOf mi)).flatMap (fun e => run partRow (e * 65536) (r.kept cm e)) ++
        run partData 0 ((m.locals cm).length * r.tokens * max 1 (r.segs c.inFmt))
  else run partData 0 c.chunks

/-- Contexts of a collective. -/
def Ilpiac.ctxTotal (m : Ilpiac) (cm : Comm) (c : Coll) : Nat := sumOf ((m.runsOf cm c).map (fun r => r.hi - r.lo))

/-- The pool of a communicator's contexts: its own when it holds a quota (R139). -/
def Comm.pool (c : Comm) : Option Nat := if c.quota = 0 then none else some c.id

/-- Contexts enter the queue of a pool (R139). -/
def Ilpiac.enqueueRuns (m : Ilpiac) (pool : Option Nat) (runs : List AdmRun) : Ilpiac :=
  if runs.isEmpty then m
  else
    let add := fun (q : AdmQueue) => { q with runs := q.runs ++ runs, headAt := if q.runs.isEmpty then m.clk else q.headAt }
    let qs := if m.coll.queues.any (fun q => q.pool == pool) then mapFirst (fun (q : AdmQueue) => q.pool == pool) add m.coll.queues
      else m.coll.queues ++ [(⟨pool, runs, m.clk⟩ : AdmQueue)]
    Ilpiac.rmStat { m with coll := { m.coll with queues := qs } }

/-- Whether a context waits at admission. -/
def Ilpiac.waits (m : Ilpiac) (x : CtxId) : Bool :=
  m.coll.queues.any (fun q => q.runs.any (fun r => r.coll == x.coll && r.part == x.part && decide (r.lo ≤ x.index) && decide (x.index < r.hi)))

/-- Whether any context of a collective waits at admission. -/
def Ilpiac.anyWaits (m : Ilpiac) (k : CollId) : Bool := m.coll.queues.any (fun q => q.runs.any (fun r => r.coll == k))

/-! ### Acceptance (R52, R54, R70) -/

/-- The routing state that an open DISPATCH reserves (R65). -/
def Coll.newRouting (c : Coll) : Routing :=
  { step := c.key.step, seq := c.key.seq, tokens := c.tokens, topk := c.topk, capacity := c.capacity, rowBytes := c.rowBytes, inFmt := c.inFmt,
    held := false, ents := [], counts := [], rowMap := [] }

/-- A collective descriptor begins (R70): it completes at once without a placement (R32), with an unknown COMM_ID, or when its key names a
collective that this module has opened already (assumption 26); every other one becomes an open collective, refused or not. Without the
communicator the fields are checked first, as R91 orders it for the other descriptors (assumption 77). -/
def Ilpiac.collAccept (m : Ilpiac) (d : AccDesc) : Ilpiac :=
  let k := d.key
  let i : CplInfo := { comm := k.comm, step := k.step, seq := k.seq }
  if !m.placed then m.done d stUnplaced i
  else
    match m.comm k.comm with
    | none => m.done d (if m.collFields (Coll.fresh k d.words d.ring d.num m.time.ns) then stUnknownComm else stBadDescriptor) i
    | some cm =>
      if (m.collOf k).isSome ∨ m.coll.past.contains k then m.done d stBadDescriptor i
      else
        let c := Coll.fresh k d.words d.ring d.num m.time.ns
        let codes := m.collCodes cm c
        let fault := if codes.contains stFenced then (m.lowestFenced cm).map (fun a => (a, stFenced)) else none
        let c := { c with
          refused := !codes.isEmpty, status := if codes.isEmpty then none else some (maxOf codes), fault,
          delivery := (m.locals cm).filter (fun a => !m.memberFenced a) }
        let later := match cm.lastKey with
          | none => true
          | some l => keyLt l (k.step, k.seq)
        let m := if c.wantSum || c.wantAmax then m.noteRefusals [(c.sideAddr, 16, true)] else m
        let m := { m with coll := { m.coll with colls := m.coll.colls ++ [c] } }
        let m := if later then m.updComm k.comm (fun cm => { cm with lastKey := some (k.step, k.seq) }) else m
        if c.refused then m
        else
          let m := if c.op = opDispatch then m.updComm k.comm (fun cm => { cm with routes := cm.routes ++ [c.newRouting] }) else m
          m.enqueueRuns cm.pool (m.runsOf cm c)

/-! ### Credits (R140, R319, R378) -/

/-- Members whose contributions a context takes: every local member, ROOT alone for BROADCAST, the owner of the expert for a returned row
(assumption 33). -/
def Ilpiac.contributors (m : Ilpiac) (cm : Comm) (c : Coll) (x : CtxId) : List Nat :=
  if c.op = opCombine then
    (if x.part = partRow then ((cm.experts[x.index / 65536]?).bind (fun mi => cm.members[mi]?)).toList else [])
  else if c.op = opBroadcast then (cm.members[c.root]?).toList.filter (fun a => a / 256 == m.bed)
  else m.locals cm

/-- The leaf of a member's contribution; a returned row has one leaf for each segment. -/
def Ilpiac.leafOf (m : Ilpiac) (cm : Comm) (x : CtxId) (addr seg : Nat) : Nat :=
  if x.part = partRow then seg else (m.locals cm).findIdx (· == addr)

/-- Expert and index of a context in a header. -/
def ctxHdr (x : CtxId) : Nat × Nat := if x.part = partRow then (x.index / 65536, x.index % 65536) else (0, x.index)

/-- One CREDIT (R319). -/
def Ilpiac.sendCredit (m : Ilpiac) (x : CtxId) (addr : Nat) : Ilpiac :=
  let h := partHdr x.coll x.part (ctxHdr x).1 (ctxHdr x).2 0 0
  m.emit (addr % 256) (Packet.make 0x0A m.tcCtrl addr false m.bed true (h ++ [1]) []) .control

/-- CREDIT to every unfenced contributor of an admitted context from which nothing has arrived (R140, R378). -/
def Ilpiac.sendCredits (m : Ilpiac) (x : CtxId) : Ilpiac :=
  match m.collOf x.coll, m.comm x.coll.comm, m.ctxOf x with
  | some c, some cm, some cx =>
    let l := (m.contributors cm c x).filter (fun a => !m.memberFenced a &&
      (if x.part = partRow then decide (cx.seen.length < (m.leaves c x).2.length) else !cx.seen.contains (m.leafOf cm x a 0)))
    (m.over l (fun m a => m.sendCredit x a)).updCtx x (fun cx => { cx with credited := true })
  | _, _, _ => m

/-- CREDIT again, RETENTION_NS after the previous one, until the contribution arrives or the collective ends (R378). -/
def Ilpiac.creditResend (m : Ilpiac) (x : CtxId) : Ilpiac :=
  match m.collOf x.coll with
  | some c => if c.failing ∨ c.committed then m else m.sendCredits x
  | none => m

/-! ### Admission (R137 to R141) -/

/-- Free collective contexts (R46, R137). -/
def Ilpiac.freeContexts (m : Ilpiac) : Nat :=
  2 ^ m.g F.CAP_SIZES_LOG2_CONTEXTS - m.coll.comms.length - m.coll.dying.length - m.coll.ctxs.length

/-- The lowest number that no context uses: its place in the context store. -/
def Ilpiac.freeStore (m : Ilpiac) : Nat := (firstBelow (m.coll.ctxs.length + 1) (fun i => !m.coll.ctxs.any (fun x => x.store == i))).getD 0

/-- Slots of a pool that the next context may take; the shared pool admits nothing while an increase of a quota waits (R144). -/
def Ilpiac.poolSlots (m : Ilpiac) (pool : Option Nat) : Nat :=
  match pool with
  | none => if m.coll.comms.any (fun c => c.quotaWait.isSome) then 0 else m.freeSlots
  | some id => ((m.comm id).map (·.quotaSet)).getD 0 - m.quotaReserved id

/-- Whether the shared pool is held by a waiting increase. -/
def Ilpiac.poolHeld (m : Ilpiac) (pool : Option Nat) : Bool := pool.isNone && m.coll.comms.any (fun c => c.quotaWait.isSome)

/-- Cells that a context reserves: for m contributions of its format (R137). -/
def Ilpiac.cellNeed (m : Ilpiac) (c : Coll) (x : CtxId) : Nat :=
  if x.part = partRow then sumOf ((m.leaves c x).2.map (fun s => m.contribCells c x s))
  else (m.leaves c x).1 * m.contribCells c x 0

/-- Whether the head context of a pool can be admitted (R137, R155, R461, R492). -/
def Ilpiac.admissible (m : Ilpiac) (pool : Option Nat) (c : Coll) (x : CtxId) : Bool :=
  m.running 1 && !m.fenced (.function 1) && decide (0 < m.freeContexts) && !m.poolHeld pool &&
  decide (m.reserveOf c x ≤ m.poolSlots pool) && decide (m.cellNeed c x ≤ m.areaFree .contrib) &&
  (!m.treeCtx c x || m.homeFor.isSome)

/-- Nanoseconds of a number of furrow cycles. -/
def cyclesNs (n : Nat) : Nat := n * 5 / 6

/-- The head of a queue is taken off it. -/
def Ilpiac.popHead (m : Ilpiac) (pool : Option Nat) : Ilpiac :=
  let pop := fun (q : AdmQueue) => match q.runs with
    | [] => q
    | r :: l => { q with runs := if r.lo + 1 < r.hi then { r with lo := r.lo + 1 } :: l else l, headAt := m.clk }
  { m with coll := { m.coll with queues := mapFirst (fun (q : AdmQueue) => q.pool == pool) pop m.coll.queues } }

/-- A context of a collective. -/
def Ilpiac.newCtx (m : Ilpiac) (pool : Option Nat) (c : Coll) (x : CtxId) : Ctx :=
  { id := x, store := m.freeStore, home := m.homeFor, quota := pool.isSome, reserved := m.reserveOf c x, cells := m.cellNeed c x,
    m := (m.leaves c x).1, contribs := [], seen := [], col := 0, inOrder := false, next := 0, todo := [], held := [], op := none, roots := [],
    trunk := [], gotCols := [], sentCols := 0, result := [], emitted := [], sats := 0, nonfinite := false, credited := false, done := false }

/-- The wait of a head context (R141). -/
def Ilpiac.noteWait (m : Ilpiac) (k : CollId) (cycles : Nat) : Ilpiac :=
  let ns := cyclesNs cycles
  let m := m.count k.comm (fun c => { c with admissionWait := (c.admissionWait + ns) % 2 ^ 64 })
  if 1000 < ns then m.setInfo k infoAdmission else m

/-- A context whose contributions are all accepted. -/
def Ilpiac.noteAccepted (m : Ilpiac) (x : CtxId) : Ilpiac :=
  match m.collOf x.coll, m.ctxOf x with
  | some c, some cx =>
    if cx.seen.length = (m.leaves c x).2.length then m.updColl x.coll (fun c => { c with accepted := c.accepted + 1 }) else m
  | _, _ => m

/-- CONTEXT_ADMIT: the context at the head of a queue gets its resources, a home furrow and its credits, or keeps waiting (R137 to R141). -/
def Ilpiac.admitCtx (m : Ilpiac) (pool : Option Nat) : Ilpiac :=
  match m.coll.queues.find? (fun q => q.pool == pool) with
  | none => m
  | some q =>
    match q.runs with
    | [] => m
    | r :: _ =>
      let x : CtxId := ⟨r.coll, r.part, r.lo⟩
      match m.collOf r.coll with
      | none => m.popHead pool
      | some c =>
        if !m.admissible pool c x then m
        else
          let cx := m.newCtx pool c x
          let m := (m.popHead pool).noteWait r.coll (m.clk - q.headAt)
          let m := m.areaTake .contrib 0 cx.cells
          let m := { m with coll := { m.coll with ctxs := m.coll.ctxs ++ [cx] } }
          let m := m.updColl r.coll (fun c => { c with admitted := c.admitted + 1 })
          let m := match cx.home with
            | some f => m.furrowCount f
            | none => m
          let m := (m.rmStat).noteAccepted x
          (m.sendCredits x).pumpAll x

/-! ### Quotas (R143, R144) -/

/-- Waiting contexts of a communicator move to the queue of its new pool (assumption 32). -/
def Ilpiac.movePool (m : Ilpiac) (id : Nat) (pool : Option Nat) : Ilpiac :=
  let mine := m.coll.queues.flatMap (fun q => q.runs.filter (fun r => r.coll.comm == id))
  let strip := fun (q : AdmQueue) =>
    let runs := q.runs.filter (fun r => r.coll.comm != id)
    { q with runs, headAt := if (q.runs.head?.map (·.coll.comm)) = some id then m.clk else q.headAt }
  Ilpiac.enqueueRuns { m with coll := { m.coll with queues := m.coll.queues.map strip } } pool mine

/-- A new quota is in force. -/
def Ilpiac.applyQuota (m : Ilpiac) (id slots : Nat) : Ilpiac :=
  let m := m.updComm id (fun c => { c with quota := slots, quotaWait := none })
  (m.quotaFlow.movePool id (if slots = 0 then none else some id)).rmStat

/-- RM_QUOTA (R143, R144). -/
def Ilpiac.rmQuota (m : Ilpiac) (d : AccDesc) : Ilpiac :=
  let id := d.f 1 0 16
  let slots := d.f 1 16 16
  let i : CplInfo := { comm := id }
  if !m.placed then m.done d stUnplaced i
  else if !d.w0ok || !d.zero [(1, 32, 32), (2, 0, 64), (3, 0, 64), (4, 0, 64), (5, 0, 64), (6, 0, 64), (7, 0, 64)] || decide (32768 < slots) then
    m.done d stBadDescriptor i
  else
    match m.comm id with
    | none => m.done d stUnknownComm i
    | some cm =>
      let others := sumOf ((m.coll.comms.filter (fun c => c.id != id)).map (fun c => match c.quotaWait with | some w => w.1 | none => c.quota))
      if slots ≠ 0 ∧ (slots < 4 + max (levelsOf (m.locals cm).length) 1 ∨ 32768 - m.g F.RM_POLICY_SHARED_MIN - others < slots) then
        m.done d stBadDescriptor i
      else if slots ≤ cm.quotaSet then (m.applyQuota id slots).done d stOk i
      else
        let m := m.updComm id (fun c => { c with quotaWait := some (slots, (d.ring, d.num)) })
        m.quotaFlow.rmStat

/-- QUOTA_SET_ASIDE: the whole of an increase has been set aside (R144). -/
def Ilpiac.quotaSetAside (m : Ilpiac) (id : Nat) : Ilpiac :=
  match m.comm id with
  | none => m
  | some cm =>
    match cm.quotaWait with
    | none => m
    | some (target, r, n) =>
      if cm.quotaSet < target then m
      else
        let m := m.applyQuota id target
        match m.ctl.descs.find? (fun d => d.ring == r && d.num == n) with
        | some d => m.done d stOk { comm := id }
        | none => m

end Sys2Proof.Machine
end

