-- ==== Sys2Proof/Machine/Contrib.lean ====
section
/-! DEFINITION. Contributions of members (R53, R72, R317, R318), copies (R55, R115), and the flows of DISPATCH and COMBINE (R60 to R65). -/

namespace Sys2Proof.Machine

/-! ### Gather-broadcast (R177) -/

/-- Where records go from this bed, given the beds whose records are here: up, once those of the own subtree are complete, and down the
reverse route, once all are (R177). -/
def Ilpiac.gather (m : Ilpiac) (cm : Comm) (have_ : List Nat) : List (Nat × List Nat) :=
  let o := cm.beds.headD 0
  let sub := subtreeOf (m.transfers cm.beds o) 64 m.bed
  let mine := cm.beds.filter (fun b => sub.contains b)
  (match m.treeUp cm.beds o with
   | some u => if mine.all (have_.contains ·) then [(u, mine)] else []
   | none => []) ++
  (if cm.beds.all (have_.contains ·) then (m.treeDown cm.beds o).map (fun d => (d, cm.beds)) else [])

/-- H1 to H3 of RECORDS (R325). -/
def recordsHdr (k : CollId) (expert kind count bed segment : Nat) : List Nat :=
  [k.step, k.seq % 2 ^ 32 + k.comm % 2 ^ 16 * 2 ^ 32 + expert % 2 ^ 16 * 2 ^ 48,
   kind + count % 2 ^ 8 * 2 ^ 8 + bed % 2 ^ 6 * 2 ^ 16 + segment % 2 ^ 24 * 2 ^ 22]

/-! ### Counts, drop masks and row maps (R61 to R63) -/

/-- Segments of per-expert counts. -/
def Comm.countSegs (cm : Comm) : Nat := ceilDiv cm.experts.length 1024

/-- Beds whose counts are all here. -/
def Routing.countBeds (r : Routing) (cm : Comm) : List Nat :=
  cm.beds.filter (fun b => (List.range cm.countSegs).all (fun s => r.counts.any (fun c => c.1 == b && c.2.1 == s)))

/-- The valid entries of the own members for experts of segment `s`. -/
def Routing.ownCounts (r : Routing) (cm : Comm) (s : Nat) : List Nat :=
  (List.range 1024).map (fun i => (r.ents.filter (fun x => cm.validExpert x.expert && x.expert == s * 1024 + i)).length)

/-- Counts travel (R61, R177). -/
def Ilpiac.sendCounts (m : Ilpiac) (k : CollId) : Ilpiac :=
  match m.collOf k, m.comm k.comm with
  | some c, some cm =>
    match m.routing c with
    | none => m
    | some r =>
      m.over (m.gather cm (r.countBeds cm)) (fun m g =>
        m.over (r.counts.filter (fun x => g.2.contains x.1)) (fun m x =>
          let tag := (g.1, x.1 * 64 + x.2.1)
          if ((m.collOf k).map (·.countsSent)).any (·.contains tag) then m
          else
            let m := m.updColl k (fun c => { c with countsSent := c.countsSent ++ [tag] })
            m.transferColl k 0x63 g.1 (recordsHdr k 0 2 0 x.1 x.2.1) (x.2.2.flatMap (fun n => leBytes 4 n))))
  | _, _ => m

/-- The own counts exist once every ROUTE chunk has been accepted (R61). -/
def Ilpiac.routeDone (m : Ilpiac) (c : Coll) : Bool :=
  !m.coll.queues.any (fun q => q.runs.any (fun r => r.coll == c.key && r.part == partRoute)) &&
  (m.coll.ctxs.filter (fun x => x.id.coll == c.key && x.id.part == partRoute)).all (fun x => decide (x.seen.length = (m.leaves c x.id).2.length))

/-- Bytes of a row-map entry (R62). -/
def mapEntry (g slot : Nat) (pad : Bool) : Nat := g % 2 ^ 32 + slot % 8 * 2 ^ 32 + b2n pad * 2 ^ 63

/-- The kept entries of this bed for an expert, by row: first row and the entries in order. -/
def Ilpiac.keptHere (m : Ilpiac) (cm : Comm) (r : Routing) (e : Nat) : List (Nat × RouteEnt) :=
  ((r.ents.filter (fun x => x.expert == e)).filterMap (fun x => (r.row cm m.bed x).map (fun row => (row, x)))).insertionSort (fun a b => a.1 ≤ b.1)

/-- The owner of an expert. -/
def Comm.expertOwner (cm : Comm) (e : Nat) : Nat := ((cm.experts[e]?).bind (fun mi => cm.members[mi]?)).getD 0

/-- Pieces of at most `n` elements. -/
def chunksOf {α : Type} (n : Nat) : Nat → List α → List (List α)
  | 0, _ => []
  | f + 1, l => if l.isEmpty then [] else l.take n :: chunksOf n f (l.drop n)

/-- Row-map entries of the kept entries of this bed go to their owners' beds in RECORDS KIND 3, or into the own row map (R62). -/
def Ilpiac.sendMaps (m : Ilpiac) (k : CollId) (cm : Comm) (r : Routing) : Ilpiac :=
  m.over (List.range cm.experts.length) (fun m e =>
    let l := (m.keptHere cm r e).map (fun x => (x.1, mapEntry (x.2.src * r.tokens + x.2.token) x.2.slot false))
    let b := cm.expertOwner e / 256
    if l.isEmpty then m
    else if b = m.bed then m.updRouting k k.seq (fun r => { r with rowMap := r.rowMap ++ l.map (fun x => ((e, x.1), x.2)) })
    else m.over (chunksOf 255 l.length l) (fun m p =>
      m.transferColl k 0x63 b (recordsHdr k e 3 p.length m.bed ((p.head?.map (·.1)).getD 0)) (p.flatMap (fun x => leBytes 8 x.2))))

/-- A drop mask as bytes: bit t × TOPK + slot (R63). -/
def Ilpiac.dropBits (m : Ilpiac) (cm : Comm) (r : Routing) (src : Nat) : List Nat :=
  (r.ents.filter (fun x => x.src == src && (r.row cm m.bed x).isNone)).map (fun x => x.token * r.topk + x.slot)

/-- Bytes of 32,768 bits from bit `lo` on; bits that no list entry names are 0. -/
def bitChunk (l : List Nat) (lo : Nat) : List Byte :=
  let l := l.filter (fun i => decide (lo ≤ i) && decide (i < lo + 32768))
  (List.range 4096).map (fun j => BitVec.ofNat 8 (ofBitIdx ((l.filter (fun i => (i - lo) / 8 == j)).map (fun i => (i - lo) % 8))))

/-- Drop masks of the local members (R63). -/
def Ilpiac.sendMasks (m : Ilpiac) (k : CollId) (cm : Comm) (r : Routing) : Ilpiac :=
  m.over (m.locals cm) (fun m a =>
    let bs := m.dropBits cm r ((cm.index a).getD 0)
    m.over (List.range (ceilDiv (r.tokens * r.topk) 32768)) (fun m j => m.deliver k ⟨partMask, j, 0, 0, 0, bitChunk bs (32768 * j)⟩ [a]))

/-- The counts of every bed are here: dropped entries are fixed, row-map entries and drop masks leave (R61 to R63). -/
def Ilpiac.dispatchGo (m : Ilpiac) (k : CollId) : Ilpiac :=
  match m.collOf k, m.comm k.comm with
  | some c, some cm =>
    match m.routing c with
    | none => m
    | some r =>
      if c.made.contains (partEnd, 0) ∨ !cm.beds.all ((r.countBeds cm).contains ·) ∨ !m.routeDone c then m
      else
        let n := (r.ents.filter (fun x => cm.validExpert x.expert && (r.row cm m.bed x).isNone)).length
        let m := m.updColl k (fun c => { c with made := c.made ++ [(partEnd, 0)], dropped := c.dropped + n })
        let m := if n = 0 then m else (m.setInfo k infoDrop).count k.comm (fun x => { x with dropped := (x.dropped + n) % 2 ^ 64 })
        (m.sendMaps k cm r).sendMasks k cm r
  | _, _ => m

/-- Row-map chunks of a local owner whose entries are here (R62); the tail of the last chunk is zero (assumption 40). -/
def Ilpiac.sendRowMaps (m : Ilpiac) (k : CollId) : Ilpiac :=
  match m.collOf k, m.comm k.comm with
  | some c, some cm =>
    match m.routing c with
    | none => m
    | some r =>
      if !c.made.contains (partEnd, 0) then m
      else
        m.over (m.localIdx cm).zipIdx (fun m o =>
          let es := cm.expertsOf o.1
          let total := es.length * r.capacity
          m.over (List.range (ceilDiv total 512)) (fun m j =>
            if ((m.collOf k).map (·.made)).any (·.contains (partMap, o.2 * 2 ^ 32 + j)) then m
            else
              let ents := ((List.range 512).map (· + 512 * j)).map (fun i =>
                if total ≤ i then some 0
                else
                  let e := (es[i / r.capacity]?).getD 0
                  let row := i % r.capacity
                  if r.kept cm e ≤ row then some (mapEntry 0 0 true)
                  else (r.rowMap.find? (fun x => x.1 == (e, row))).map (·.2))
              if ents.any (·.isNone) then m
              else
                let m := m.updColl k (fun c => { c with made := c.made ++ [(partMap, o.2 * 2 ^ 32 + j)] })
                m.deliver k ⟨partMap, j, 0, 0, 0, ents.flatMap (fun x => leBytes 8 (x.getD 0))⟩ ((cm.members[o.1]?).toList)))
  | _, _ => m

/-! ### Copies (R55, R115, R119) -/

/-- Whether a copied run of elements carries an infinity, a NaN or block-scale code 0xFF (R119). -/
def copyNonfinite (f : Fmt) (scales payload : List Byte) : Bool :=
  (List.range (payload.length / f.bytes)).any (fun j => match f.value (elemCode f payload j) with
    | .fin _ _ _ _ => false
    | _ => true) || (f.bytes == 1 && scales.any (· == 0xFF))

/-- A run of copied elements in OUT_FMT: format, coarse scale, body pieces of result chunks, and the values that enter side sums (R55,
R115). `n` elements go into each result chunk. -/
structure Copied where
  fmt : Nat
  coarse : Nat
  bodies : List (List Byte)
  vals : List F32
  sats : Nat
  nonfinite : Bool
deriving DecidableEq, Repr

/-- One run copied, or converted, for a communicator (R55, R107, R113 to R115). -/
def copyRun (cm : Comm) (c : Coll) (sel : Nat) (coarse : Nat) (scales payload : List Byte) (n : Nat) : Copied :=
  let code := c.bodyFmt partData sel
  match fmtOf code with
  | none =>
    -- an invalid FP8_ANY selector: every element decodes to the default NaN (R105)
    let vals := (nanRun payload.length).vals
    match fmtOf c.outFmt with
    | none => ⟨0, 0, [], [], 0, false⟩
    | some g =>
      let es := (chunksOf n (vals.length + 1) vals).map (encodeRun cm.mode g c.outScale)
      ⟨c.outFmt, effScale c.outScale, es.map (fun e => e.scales ++ e.payload), vals, 0, true⟩
  | some f =>
    let r := decodeRun f scales payload coarse 0 (payload.length / f.bytes)
    let r := if c.inFmt = 3 ∧ f.bytes ≠ 1 then nanRun payload.length else r
    if c.inFmt = c.outFmt then
      ⟨c.inFmt, coarse, [scales ++ payload], r.vals, if c.sides then r.sats else 0,
       copyNonfinite f scales payload || (c.sides && r.nonfinite)⟩
    else
      match fmtOf c.outFmt with
      | none => ⟨0, 0, [], [], 0, false⟩
      | some g =>
        let es := (chunksOf n (r.vals.length + 1) r.vals).map (encodeRun cm.mode g c.outScale)
        ⟨c.outFmt, effScale c.outScale, es.map (fun e => e.scales ++ e.payload), r.vals, r.sats + sumOf (es.map (·.sats)),
         r.nonfinite || es.any (·.nonfinite)⟩

/-- A chunk of ALL_GATHER or BROADCAST is copied and delivered (R54, R55, R175, R553). -/
def Ilpiac.copyChunk (m : Ilpiac) (cm : Comm) (c : Coll) (x : CtxId) (mi : Nat) (b : Contrib) : Ilpiac :=
  let base := if c.op = opAllGather then mi * c.chunks + x.index else x.index
  let y := copyRun cm c b.fmt b.coarse b.scales b.payload (c.elems / c.results)
  let m := (m.noteRun x y.sats y.nonfinite).noteSide x.coll base y.vals
  let m := m.updColl x.coll (fun c => { c with made := c.made ++ [(partData, base)] })
  m.over y.bodies.zipIdx (fun m p =>
    let i := base * c.results + p.2
    m.deliver x.coll ⟨partData, i, 0, y.fmt, y.coarse, p.1⟩ (m.resultDests cm c i))

/-! ### Rows of a dispatch (R60 to R62, R317) -/

/-- Bytes `lo` to `lo + n − 1` of a member's token rows from the accepted DATA chunks, with block scales; none while a chunk is missing. -/
def Ilpiac.rowBytesOf (m : Ilpiac) (k : CollId) (leaf lo n : Nat) : Option (List Contrib) :=
  ((List.range ((lo + n - 1) / 4096 - lo / 4096 + 1)).foldl (fun (a : Option (List Contrib)) i =>
    match a, (m.ctxOf ⟨k, partData, lo / 4096 + i⟩).bind (fun x => x.contribs.find? (fun b => b.leaf == leaf)) with
    | some l, some b => some (l ++ [b])
    | _, _ => none) (some []))

/-- The segments of a row in the packet's format: body, format and coarse scale of each (R62, R115, R317, R553). -/
def rowSegs (cm : Comm) (c : Coll) (bs : List Contrib) (lo n : Nat) : List Copied :=
  -- a row of 4,096 bytes or more fills whole chunks, a shorter one lies inside one chunk
  bs.map (fun b =>
    let o := lo % 4096
    let len := min 4096 n
    let p := (b.payload.drop o).take len
    let s := (b.scales.drop (o / 32)).take (len / 32)
    copyRun cm c b.fmt b.coarse s p (4096 / fmtBytes c.outFmt))

/-- The packets of a whole row: format, coarse scale and body of each segment. -/
def rowPackets (c : Coll) (l : List Copied) : List (Nat × Nat × List Byte) :=
  if fmtBytes c.outFmt < fmtBytes c.inFmt then
    -- a narrowing row: several source segments share one packet
    let per := fmtBytes c.inFmt / fmtBytes c.outFmt
    (chunksOf per (l.length + 1) l).map (fun g =>
      let split := g.map (fun y => splitScales y.fmt (y.bodies.flatMap id))
      ((g.head?.map (·.fmt)).getD 0, (g.head?.map (·.coarse)).getD 0, split.flatMap (·.1) ++ split.flatMap (·.2)))
  else l.flatMap (fun y => y.bodies.map (fun b => (y.fmt, y.coarse, b)))

/-- Rows of one token of a local member leave once the counts and the token's bytes are here (R61, R62). -/
def Ilpiac.sendToken (m : Ilpiac) (k : CollId) (cm : Comm) (c : Coll) (r : Routing) (leaf mi t : Nat) : Ilpiac :=
  match m.rowBytesOf k leaf (t * r.rowBytes) r.rowBytes with
  | none => m
  | some bs =>
    let ys := rowSegs cm c bs (t * r.rowBytes) r.rowBytes
    let ents := (r.ents.filter (fun x => x.src == mi && x.token == t)).insertionSort (fun a b => a.slot ≤ b.slot)
    let m := m.updColl k (fun c => { c with made := c.made ++ [(partRow, leaf * r.tokens + t)] })
    m.over ents (fun m x =>
      match r.row cm m.bed x with
      | none => m
      | some row =>
        let a := cm.expertOwner x.expert
        let xid : CtxId := ⟨k, partData, t * r.rowBytes / 4096⟩
        let m := m.over ys (fun m y => m.noteRun xid y.sats y.nonfinite)
        let m := m.noteSideVals k (leaf * 2 ^ 40 + t * 8 + x.slot) (ys.flatMap (·.vals))
        m.over (rowPackets c ys).zipIdx (fun m p =>
          m.deliver k ⟨partRow, row + p.2 * 2 ^ 16, x.expert, p.1.1, p.1.2.1, p.1.2.2⟩ [if a / 256 = m.bed then a else bedDest (a / 256)]))

/-- Rows of every token that can leave now. -/
def Ilpiac.sendRows (m : Ilpiac) (k : CollId) : Ilpiac :=
  match m.collOf k, m.comm k.comm with
  | some c, some cm =>
    match m.routing c with
    | none => m
    | some r =>
      if !c.made.contains (partEnd, 0) then m
      else
        m.over (m.localIdx cm).zipIdx (fun m l =>
          m.over (List.range r.tokens) (fun m t =>
            if ((m.collOf k).map (·.made)).any (·.contains (partRow, l.2 * r.tokens + t)) then m else m.sendToken k cm c r l.2 l.1 t))
  | _, _ => m

/-- The routing records of a ROUTE chunk; unused slots and records beyond T × TOPK are ignored (R60, R317). -/
def routeEnts (c : Coll) (src chunk : Nat) (payload : List Byte) : List RouteEnt :=
  (List.range 512).filterMap (fun i =>
    let n := chunk * 512 + i
    let e := natAt payload (8 * i) 2
    if n < c.tokens * c.topk ∧ e ≠ 0xFFFF then some ⟨src, n / c.topk, n % c.topk, e, natAt payload (8 * i + 4) 4⟩ else none)

/-- A ROUTE chunk enters the routing state; entries that name an invalid expert are dropped and counted (R60). -/
def Ilpiac.routeChunk (m : Ilpiac) (k : CollId) (cm : Comm) (c : Coll) (mi chunk : Nat) (payload : List Byte) : Ilpiac :=
  let l := routeEnts c mi chunk payload
  let bad := (l.filter (fun x => !cm.validExpert x.expert)).length
  let m := m.updRouting k k.seq (fun r => { r with ents := r.ents ++ l })
  if bad = 0 then m
  else
    let m := m.updColl k (fun c => { c with dropped := c.dropped + bad })
    (m.setInfo k infoDrop).count k.comm (fun x => { x with badExpert := (x.badExpert + bad) % 2 ^ 64 })

/-- Everything that a DISPATCH can do now. -/
def Ilpiac.dispatchFlow (m : Ilpiac) (k : CollId) : Ilpiac :=
  match m.collOf k, m.comm k.comm with
  | some c, some cm =>
    match m.routing c with
    | none => m
    | some r =>
      let own := r.counts.any (fun x => x.1 == m.bed)
      let m := if !own && m.routeDone c then
          m.updRouting k k.seq (fun r => { r with counts := r.counts ++ (List.range cm.countSegs).map (fun s => (m.bed, (s, r.ownCounts cm s))) })
        else m
      (((m.sendCounts k).dispatchGo k).sendRowMaps k).sendRows k
  | _, _ => m

/-! ### Rows of a COMBINE (R64, R175) -/

/-- A returned row segment enters the reducing context of its token, once that is admitted (assumption 24); the answer is none before. -/
def Ilpiac.combineLeaf (m : Ilpiac) (c : Coll) (cm : Comm) (r : Routing) (src token slot seg : Nat) (b : Contrib) : Option Ilpiac :=
  let li := (m.localIdx cm).findIdx (· == src)
  let x : CtxId := ⟨c.key, partData, (li * r.tokens + token) * max 1 (r.segs c.inFmt) + seg⟩
  match m.ctxOf x with
  | none => if m.waits x then none else some (m.unhold b.buf)
  | some cx =>
    if cx.seen.contains slot then some (m.unhold b.buf)
    else
      let m := m.areaGive .contrib 0 (min cx.cells (((m.bufPkt b.buf).map (·.cells)).getD 0))
      let cells := cx.cells - ((m.bufPkt b.buf).map (·.cells)).getD 0
      let m := m.updCtx x (fun cx => { cx with
        cells, seen := cx.seen ++ [slot], todo := cx.todo ++ [slot], contribs := cx.contribs ++ [{ b with leaf := slot }] })
      some ((m.noteAccepted x).pumpAll x)

/-- Accepted segments of a returned row go on: to the reducing context of this bed, or as TRESULT to the bed of the source (R64, R175). -/
def Ilpiac.forwardRow (m : Ilpiac) (c : Coll) (cm : Comm) (r : Routing) (x : CtxId) : Ilpiac :=
  match m.ctxOf x, (r.rowMap.find? (fun y => y.1 == (x.index / 65536, x.index % 65536))).map (·.2) with
  | some cx, some e =>
    let g := bits e 0 32
    let src := g / max 1 r.tokens
    let token := g % max 1 r.tokens
    let slot := bits e 32 3
    let bed := ((cm.members[src]?).getD 0) / 256
    m.over cx.contribs (fun m b =>
      let drop := fun (m : Ilpiac) => m.updCtx x (fun cx => { cx with contribs := cx.contribs.filter (· != b) })
      if bed = m.bed then
        match m.combineLeaf c cm r src token slot b.leaf b with
        | some m => drop m
        | none => m
      else
        let idx := x.index % 65536 + b.leaf * 65536
        (drop (m.transferColl x.coll 0x62 bed (partHdr x.coll partRow (x.index / 65536) idx b.fmt b.coarse) (b.scales ++ b.payload))).unhold b.buf)
  | _, _ => m

/-- Everything that a COMBINE can do now with its returned rows. -/
def Ilpiac.combineFlow (m : Ilpiac) (k : CollId) : Ilpiac :=
  match m.collOf k, m.comm k.comm with
  | some c, some cm =>
    match m.routing c with
    | none => m
    | some r => m.over ((m.coll.ctxs.filter (fun x => x.id.coll == k && x.id.part == partRow)).map (·.id)) (fun m x => m.forwardRow c cm r x)
  | _, _ => m

/-! ### Contributions (R53, R72, R66) -/

/-- The context and segment that a CONTRIB names (R317). -/
def contribCtx (p : Packet) : CtxId × Nat :=
  if p.part = partRow then (⟨p.coll, partRow, p.hi * 65536 + p.index % 65536⟩, p.index / 65536 % 16) else (⟨p.coll, p.part, p.pos⟩, 0)

/-- CACK of a contribution (R72, R319). -/
def Ilpiac.sendCack (m : Ilpiac) (p : Packet) (addr : Nat) : Ilpiac :=
  m.emit (addr % 256) (Packet.make 0x0B m.tcCtrl addr false m.bed true ((partHdr p.coll p.part p.hi (if p.part = 0 then p.pos else p.index) 0 0) ++ [1]) []) .control

/-- A duplicate is acknowledged again and counted (R53). -/
def Ilpiac.dupContrib (m : Ilpiac) (p : Packet) (addr : Nat) : Ilpiac :=
  (m.sendCack p addr).count p.comm (fun c => { c with duplicates := (c.duplicates + 1) % 2 ^ 64 })

/-- A stray contribution is discarded and counted (R53). -/
def Ilpiac.strayContrib (m : Ilpiac) (p : Packet) : Ilpiac := m.count p.comm (fun c => { c with stray := (c.stray + 1) % 2 ^ 64 })

/-- Body bytes of a contribution (R105, R318). -/
def Ilpiac.contribLen (m : Ilpiac) (c : Coll) (x : CtxId) (leaf sel : Nat) : Nat :=
  let n := m.contribBytes c x leaf
  let f := c.bodyFmt x.part sel
  if x.part ≠ partRoute ∧ (f = 1 ∨ f = 2) then n + n / 32 else n

/-- An accepted contribution: acknowledged, timed for R82, and given to its context. -/
def Ilpiac.acceptContrib (m : Ilpiac) (cm : Comm) (c : Coll) (x : CtxId) (leaf addr port : Nat) (p : Packet) : Ilpiac :=
  let now := m.time.ns
  let m := (m.sendCack p addr).updColl x.coll (fun c => { c with firstAt := c.firstAt.or (some now), lastAt := now, lastMember := addr })
  let m := m.updCtx x (fun cx => { cx with seen := cx.seen ++ [leaf], cells := cx.cells - p.cells })
  let m := m.areaGive .contrib 0 p.cells
  let f := c.bodyFmt x.part p.fmt
  let s := if x.part = partRoute then ([], p.body) else splitScales f p.body
  let mi := (cm.index addr).getD 0
  let b : Contrib := ⟨leaf, addr, 0, p.fmt, p.coarse, s.1, s.2⟩
  let keep := fun (m : Ilpiac) =>
    let st := m.store p .contrib port (held := true)
    st.2.updCtx x (fun cx => { cx with contribs := cx.contribs ++ [{ b with buf := st.1 }] })
  if m.treeCtx c x then (((keep m).updCtx x (fun cx => { cx with todo := cx.todo ++ [leaf] })).noteAccepted x).pumpAll x
  else if x.part = partRoute then (m.routeChunk x.coll cm c mi x.index p.body).noteAccepted x
  else if c.op = opAllGather ∨ c.op = opBroadcast then (m.copyChunk cm c x mi b).noteAccepted x
  else (keep m).noteAccepted x

/-- CONTRIB of a member: accepted once, acknowledged again, or discarded (R53, R66). -/
def Ilpiac.contribRx (m : Ilpiac) (port : Nat) (p : Packet) : Ilpiac :=
  let addr := m.bed * 256 + port
  let y := contribCtx p
  let x := y.1
  match m.comm p.comm with
  | none => m
  | some cm =>
    if m.coll.past.contains p.coll then m.dupContrib p addr
    else
      match m.collOf p.coll with
      | none => m.strayContrib p
      | some c =>
        let known := (m.runsOf cm c).any (fun r => r.part == x.part && decide (r.lo ≤ x.index) && decide (x.index < r.hi)) &&
          (m.contributors cm c x).contains addr
        let leaf := m.leafOf cm x addr y.2
        match m.ctxOf x with
        | none =>
          if c.refused ∨ c.headless ∨ !known ∨ m.waits x then m.strayContrib p
          else if c.failing then m
          else m.dupContrib p addr
        | some cx =>
          if !known ∨ !(m.leaves c x).2.contains leaf then m.strayContrib p
          else if cx.seen.contains leaf then m.dupContrib p addr
          else if c.failing ∨ c.committed then m
          else if p.body.length ≠ m.contribLen c x leaf p.fmt then m.misaddressed port p
          else m.acceptContrib cm c x leaf addr port p

/-! ### Contexts that hold no tree (R51) -/

/-- The work of a context that copies is over: every contribution accepted, and what came of it has entered the retention buffer (R51). -/
def Ilpiac.copyOver (m : Ilpiac) (cm : Comm) (c : Coll) (x : Ctx) : Bool :=
  let all := decide (x.seen.length = (m.leaves c x.id).2.length)
  let held := fun (f : HeldRes → Bool) => m.coll.heldRes.any (fun h => h.coll == x.id.coll && f h)
  if !all then false
  else if c.op = opAllGather then !held (fun h => h.res.index / c.results % max 1 c.chunks == x.id.index)
  else if c.op = opBroadcast then !held (fun h => h.res.index / c.results == x.id.index)
  else if c.op = opCombine then x.contribs.isEmpty
  else if x.id.part = partRoute then true
  else
    match m.routing c with
    | none => true
    | some r =>
      let lo := x.id.index * 4096 / r.rowBytes
      let hi := min r.tokens (ceilDiv ((x.id.index + 1) * 4096) r.rowBytes)
      (m.localIdx cm).zipIdx.all (fun l => ((List.range (hi - lo)).map (· + lo)).all (fun t =>
        c.made.contains (partRow, l.2 * r.tokens + t) &&
        !(r.ents.filter (fun e => e.src == l.1 && e.token == t)).any (fun e =>
          held (fun h => h.res.part == partRow && h.res.expert == e.expert && some (h.res.index % 65536) == r.row cm m.bed e))))

/-- Contexts without a tree are marked done when their work is over. -/
def Ilpiac.markDone (m : Ilpiac) (k : CollId) : Ilpiac :=
  match m.collOf k, m.comm k.comm with
  | some c, some cm =>
    m.over (m.coll.ctxs.filter (fun x => x.id.coll == k && !m.treeCtx c x.id && !x.done)) (fun m x =>
      if m.copyOver cm c x then m.updCtx x.id (fun x => { x with done := true }) else m)
  | _, _ => m

/-- Everything that the contexts of a collective can do now. -/
def Ilpiac.flow (m : Ilpiac) (k : CollId) : Ilpiac :=
  match m.collOf k with
  | none => m
  | some c =>
    if c.failing ∨ c.committed then (m.markDone k).sweepCtxs k
    else
      let m := if c.op = opDispatch then m.dispatchFlow k else if c.op = opCombine then m.combineFlow k else m
      (m.markDone k).sweepCtxs k

end Sys2Proof.Machine
end

