-- ==== Sys2Proof/Machine/Sync.lean ====
section
/-! DEFINITION. The sync unit (spec 13): counters, waits, the descriptors 0x48 to 0x4B, and the SYNC_OP packets of members. -/

namespace Sys2Proof.Machine

/-! ### Counters (R419, R420) -/

/-- The value of a counter. -/
def Ilpiac.cval (m : Ilpiac) (n : Nat) : Nat := Map.get (fun _ => 0) m.sync.vals n
def Ilpiac.setCval (m : Ilpiac) (n v : Nat) : Ilpiac := { m with sync := { m.sync with vals := Map.put (fun _ => 0) m.sync.vals n v } }

/-- The sticky flags of a counter. -/
def Ilpiac.cflag (m : Ilpiac) (f : Fld) (n : Nat) : Bool := bitOf (m.g f (n / 64)) (n % 64)

/-- A saturation sets its flag and counts (R420). -/
def Ilpiac.saturate (m : Ilpiac) (f : Fld) (n : Nat) : Ilpiac :=
  (m.gw f (ofBitIdx (n % 64 :: bitIdx (m.g f (n / 64)) 64)) (n / 64)).gcnt F.SYNC_STATUS_SATURATIONS 1

/-- ADD, SUB or SET on a counter, and whether it saturated (R420). -/
def Ilpiac.counterOp (m : Ilpiac) (n op x : Nat) : Ilpiac × Bool :=
  let v := m.cval n
  if op = 0 then
    (if v + x ≤ 0xFFFFFFFF then (m.setCval n (v + x), false) else ((m.setCval n 0xFFFFFFFF).saturate F.SYNC_OVF_FLAGS n, true))
  else if op = 1 then
    (if x ≤ v then (m.setCval n (v - x), false) else ((m.setCval n 0).saturate F.SYNC_UNF_FLAGS n, true))
  else (m.setCval n x, false)

/-- The waits take a value; WAITS_HELD follows (R450). -/
def Ilpiac.setWaits (m : Ilpiac) (l : List SyncWaitE) : Ilpiac :=
  Ilpiac.gw { m with sync := { m.sync with waits := l } } F.SYNC_STATUS_WAITS_HELD l.length

/-! ### Responses to members (R431, R432) -/

/-- Results of SYNC_RSP. -/
def syncDone : Nat := 0
def syncTimeout : Nat := 1
def syncRefused : Nat := 2
def syncStale : Nat := 3

/-- SYNC_RSP. -/
def Ilpiac.syncRsp (m : Ilpiac) (port tc tag result n value : Nat) : Packet :=
  Packet.make 0x41 tc (m.bed * 256 + port) false m.bed true
    [tag % 2 ^ 32 + result * 2 ^ 32 + b2n (m.cflag F.SYNC_OVF_FLAGS n) * 2 ^ 36 + b2n (m.cflag F.SYNC_UNF_FLAGS n) * 2 ^ 37, value % 2 ^ 32] []

/-- How far a tag lies below the latest one, modulo 2^32; zero where it is the latest or newer. -/
def tagBelow (latest tag : Nat) : Nat :=
  let d := (latest + 2 ^ 32 - tag % 2 ^ 32) % 2 ^ 32
  if d < 2 ^ 31 then d else 0

/-- The responses of the 16 latest tags (R322, R432). -/
def keepRsp (l : List Kept) (latest tag : Nat) (p : Packet) : List Kept :=
  (l.filter (fun (k : Kept) => k.tag != tag) ++ [(⟨tag, p⟩ : Kept)]).filter (fun (k : Kept) => decide (tagBelow latest k.tag < 16))

/-- The latest tag after a tag has been received. -/
def newerTag (latest : Option Nat) (tag : Nat) : Nat :=
  match latest with
  | none => tag
  | some t => if t = tag ∨ 0 < tagBelow t tag then t else tag

/-- A response leaves for a member and is kept. -/
def Ilpiac.syncAnswer (m : Ilpiac) (port tc tag result n value : Nat) : Ilpiac :=
  let p := m.syncRsp port tc tag result n value
  let x := m.port port
  (m.setPort port { x with syncKept := keepRsp x.syncKept (x.syncLatest.getD tag) tag p }).emit port p .control

/-! ### Releases (R422) -/

/-- A wait that is released, and the counter value at its release. -/
structure Released where
  wait : SyncWaitE
  value : Nat
deriving DecidableEq, Repr

/-- The ticket queue of a counter served first in, first out: the value left, the tickets released and those that stay. -/
def serveTickets (v : Nat) : List SyncWaitE → Nat × List Released × List SyncWaitE
  | [] => (v, [], [])
  | w :: l =>
    if v < w.amount then (v, [], w :: l)
    else
      let r := serveTickets (v - w.amount) l
      (r.1, ⟨w, v - w.amount⟩ :: r.2.1, r.2.2)

/-- A wait ends: a ring's completion record, or the member's response (R430, R431); `final` is the value after the whole operation. -/
def Ilpiac.endWait (m : Ilpiac) (w : SyncWaitE) (final value status result : Nat) : Ilpiac :=
  match w.who with
  | .ring r =>
    match m.ctl.descs.find? (fun d => d.ring == r && d.num == w.num) with
    | some d => m.complete r w.num d.words status { comm := w.counter, count := final }
    | none => m
  | .member port tag => m.syncAnswer port w.tc tag result w.counter value

/-- What an operation on a counter releases (R422): level waits against the value before any ticket, then tickets in order. -/
def Ilpiac.releaseWaits (m : Ilpiac) (n : Nat) : Ilpiac :=
  let v := m.cval n
  let lv := m.sync.waits.filter (fun w => w.counter == n && w.level && decide (w.amount ≤ v))
  let ts := serveTickets v (m.sync.waits.filter (fun w => w.counter == n && !w.level))
  let gone := lv.map (fun w => (⟨w, v⟩ : Released)) ++ ts.2.1
  let m := (m.setCval n ts.1).setWaits (m.sync.waits.filter (fun w => !gone.any (fun r => r.wait == w)))
  m.over gone (fun m r => m.endWait r.wait ts.1 r.value stOk syncDone)

/-- A wait arrives. -/
def Ilpiac.holdWait (m : Ilpiac) (w : SyncWaitE) : Ilpiac := (m.setWaits (m.sync.waits ++ [w])).releaseWaits w.counter

/-- A wait is removed; the next head of a ticket queue is tested at once (R423). -/
def Ilpiac.removeWait (m : Ilpiac) (w : SyncWaitE) : Ilpiac := (m.setWaits (m.sync.waits.filter (fun x => x != w))).releaseWaits w.counter

/-- The waits of a member go without response when its port is fenced or starts again (R423). -/
def Ilpiac.dropMemberWaits (m : Ilpiac) (port : Nat) : Ilpiac :=
  let own := fun (w : SyncWaitE) => match w.who with | .member p _ => p == port | .ring _ => false
  let gone := m.sync.waits.filter own
  if gone.isEmpty then m
  else (m.setWaits (m.sync.waits.filter (fun w => !own w))).over (gone.map (·.counter)).eraseDups (fun m n => m.releaseWaits n)

/-- The wait of a requester. -/
def Ilpiac.waitOf (m : Ilpiac) (who : Waiter) : Option SyncWaitE := m.sync.waits.find? (fun w => w.who == who)

/-- SYNC_WAIT_TIMEOUT: TIMEOUT_US after a wait with a nonzero timeout arrived (R423, R430). -/
def Ilpiac.syncWaitTimeout (m : Ilpiac) (who : Waiter) : Ilpiac :=
  match m.waitOf who with
  | none => m
  | some w =>
    if w.timeout = 0 then m
    else
      let m := m.removeWait w
      m.endWait w (m.cval w.counter) (m.cval w.counter) stTimeout syncTimeout

/-! ### Descriptors (R428 to R430) -/

/-- SYNC_SIGNAL. -/
def Ilpiac.syncSignal (m : Ilpiac) (d : AccDesc) : Ilpiac :=
  let n := d.f 1 0 14
  if !d.w0ok || !d.zero [(1, 14, 2), (1, 18, 46), (2, 32, 32), (3, 0, 64), (4, 0, 64), (5, 0, 64), (6, 0, 64), (7, 0, 64)] || d.f 1 16 2 == 3 then
    m.done d stBadDescriptor
  else
    let r := m.counterOp n (d.f 1 16 2) (d.f 2 0 32)
    let m := r.1.releaseWaits n
    m.done d stOk { comm := n, info := if r.2 then 4 else 0, count := m.cval n }

/-- SYNC_WAIT. -/
def Ilpiac.syncWait (m : Ilpiac) (d : AccDesc) : Ilpiac :=
  if !d.w0ok || !d.zero [(1, 14, 2), (1, 17, 7), (1, 32, 32), (3, 0, 64), (4, 0, 64), (5, 0, 64), (6, 0, 64), (7, 0, 64)] ||
      (d.f 1 16 1 == 1 && d.f 2 0 32 == 0) then m.done d stBadDescriptor
  else
    m.holdWait { counter := d.f 1 0 14, level := d.f 1 16 1 == 0, amount := d.f 2 0 32, who := .ring d.ring, group := d.f 1 24 8,
                 timeout := d.f 2 32 32, num := d.num, tc := 0 }

/-- SYNC_FENCE: it is accepted once no earlier descriptor of its ring is open (R425, R468). -/
def Ilpiac.syncFence (m : Ilpiac) (d : AccDesc) : Ilpiac :=
  if !d.w0ok || !d.zero [(1, 0, 64), (2, 0, 64), (3, 0, 64), (4, 0, 64), (5, 0, 64), (6, 0, 64), (7, 0, 64)] then m.done d stBadDescriptor
  else m.done d stOk

/-- SYNC_CANCEL: the cancelled wait's record becomes due first. -/
def Ilpiac.syncCancel (m : Ilpiac) (d : AccDesc) : Ilpiac :=
  if !d.w0ok || !d.zero [(1, 16, 48), (2, 0, 64), (3, 0, 64), (4, 0, 64), (5, 0, 64), (6, 0, 64), (7, 0, 64)] then m.done d stBadDescriptor
  else
    match m.waitOf (.ring (d.f 1 0 16)) with
    | none => m.done d stBadDescriptor
    | some w =>
      let m := m.removeWait w
      (m.endWait w (m.cval w.counter) (m.cval w.counter) stAborted syncDone).done d stOk

/-! ### SYNC_OP (R431, R432) -/

/-- Whether a SYNC_OP is one that the unit refuses. -/
def Ilpiac.syncBad (m : Ilpiac) (p : Packet) : Bool :=
  let n := p.f 1 0 14
  let op := p.f 1 14 4
  let lo := m.g F.SYNC_CTRL_MEMBER_BASE
  !m.running 3 || !p.dstIlp || p.dst != m.bed || decide (5 < op) || (op == 4 && p.f 2 0 32 == 0) || decide (n < lo) ||
    decide (lo + m.g F.SYNC_CTRL_MEMBER_COUNT ≤ n) || (op != 3 && op != 4 && p.f 2 32 32 != 0)

/-- SYNC_OP from the member at a downlink port. -/
def Ilpiac.syncOp (m : Ilpiac) (port : Nat) (p : Packet) : Ilpiac :=
  let n := p.f 1 0 14
  let op := p.f 1 14 4
  let tag := p.f 1 32 32
  let x := m.port port
  match x.syncKept.find? (fun k => k.tag == tag) with
  | some k => m.emit port k.rsp .control
  | none =>
    if (m.waitOf (.member port tag)).isSome then m
    else if 16 < tagBelow (x.syncLatest.getD tag) tag then m.emit port (m.syncRsp port p.tc tag syncStale n (m.cval n)) .control
    else
      let m := m.setPort port { x with syncLatest := some (newerTag x.syncLatest tag) }
      if m.syncBad p then m.syncAnswer port p.tc tag syncRefused n (m.cval n)
      else if op = 3 ∨ op = 4 then
        m.holdWait { counter := n, level := op == 3, amount := p.f 2 0 32, who := .member port tag, group := 0, timeout := p.f 2 32 32, num := 0,
                     tc := p.tc }
      else if op = 5 then m.syncAnswer port p.tc tag syncDone n (m.cval n)
      else
        let m := ((m.counterOp n op (p.f 2 0 32)).1).releaseWaits n
        m.syncAnswer port p.tc tag syncDone n (m.cval n)

/-! ### SYNC_VAL and the deadlock detector (R433, R450) -/

/-- A write of SYNC_VAL.VALUE: a SET of the selected counter. -/
def Ilpiac.syncValWrite (m : Ilpiac) (v : Nat) : Ilpiac :=
  let n := m.g F.SYNC_SEL_COUNTER
  ((m.counterOp n 2 v).1).releaseWaits n

/-- SYNC_DEADLOCK_DETECT: the rings of a group have been stalled for DEADLOCK_US. -/
def Ilpiac.syncDeadlock (m : Ilpiac) (g : Nat) : Ilpiac :=
  let rings := m.sync.waits.filter (fun w => w.group == g && (match w.who with | .ring _ => true | .member _ _ => false))
  if g = 0 ∨ m.g F.SYNC_CTRL_DEADLOCK_US = 0 ∨ m.g F.SYNC_GROUP_SIZE_SIZE g = 0 ∨ rings.length ≠ m.g F.SYNC_GROUP_SIZE_SIZE g then m
  else (m.gw F.SYNC_DEADLOCK_STALLED (ofBitIdx (g % 64 :: bitIdx (m.g F.SYNC_DEADLOCK_STALLED (g / 64)) 64)) (g / 64)).event .syncDeadlock

end Sys2Proof.Machine
end

