-- ==== Sys2Proof/Machine/Verdict.lean ====
section
/-! DEFINITION. The end of collectives (spec 02): phase 3 (R151), the verdict pass and the commit point (R66 to R70), END and completion
(R71, R78), members lost, fences (R79 to R81), destroy and query (R48, R84), and packets of other Ilpiac modules (R77, R551, R552). -/

namespace Sys2Proof.Machine

/-! ### Reads of companion memory (R458, R459) -/

/-- A read that an operation makes at a board address: from the own HBM inside the aperture, otherwise what the coherent read returned; a
refusal by the windows counts (R459). -/
def Ilpiac.boardRead (m : Ilpiac) (addr len : Nat) (rb : Readback) : Option (List Byte) × Ilpiac :=
  if m.inAperture addr len then m.memRead (addr - m.hbmBase) len (m.hintAt (addr - m.hbmBase) false)
  else if m.inRegWindow addr len then (none, m.regAccess (addr - m.regBase))
  else if m.windowOk addr len false then (rb.map (toLen len), m)
  else (none, m.windowRefusal)

/-- A write that an operation makes at a board address; the answer says whether the windows took it (R459). -/
def Ilpiac.boardStore (m : Ilpiac) (addr : Nat) (d : List Byte) : Bool × Ilpiac :=
  if m.addrOk addr d.length true then (true, m.boardWrite addr d) else (false, m.windowRefusal)

/-- Whether the module is headless (R499, R506). -/
def Ilpiac.headless (m : Ilpiac) : Bool := m.g F.HEADLESS_ACTIVE == 1

/-! ### Records (R327) -/

/-- The 32 bytes of a record. -/
def VRec.bytes (r : VRec) : List Byte :=
  leBytes 1 r.bed ++ leBytes 1 r.status ++ leBytes 2 (r.info % 32) ++ leBytes 2 ((r.fault.map (·.1)).getD 0) ++
    leBytes 1 ((r.fault.map (·.2)).getD 0) ++ leBytes 1 (b2n r.fault.isSome + 2 * b2n r.nonfinite + 4 * b2n r.sumSq.isSome) ++
    leBytes 4 r.digest ++ leBytes 4 ((r.sumSq.getD 0).toNat) ++ leBytes 4 r.amax.toNat ++ List.replicate 12 0

/-- A record from its 32 bytes. -/
def vrecOf (l : List Byte) : VRec :=
  let fl := natAt l 7 1
  { bed := natAt l 0 1, status := natAt l 1 1, info := natAt l 2 2, fault := if bitOf fl 0 then some (natAt l 4 2, natAt l 6 1) else none,
    digest := natAt l 8 4, sumSq := if bitOf fl 2 then some (BitVec.ofNat 32 (natAt l 12 4)) else none, nonfinite := bitOf fl 1,
    amax := BitVec.ofNat 32 (natAt l 16 4) }

/-- The records of a RECORDS body of KIND 0 or 1. -/
def vrecs (n : Nat) (body : List Byte) : List VRec := (piecesOf 32 n body).map vrecOf

/-- A list of records travels to a neighbour (R177, assumption 41). -/
def Ilpiac.sendList (m : Ilpiac) (k : CollId) (kind nb : Nat) (l : List VRec) : Ilpiac :=
  if l.isEmpty then m
  else m.transferColl k 0x63 nb (recordsHdr k 0 kind l.length ((l.head?.map (·.bed)).getD 0) 0) (l.flatMap VRec.bytes)

/-- Verdict records travel by the gather-broadcast; a failure record also goes ahead of its list (R142, R177, assumption 31). -/
def Ilpiac.sendRecords (m : Ilpiac) (k : CollId) : Ilpiac :=
  match m.collOf k, m.comm k.comm with
  | some c, some cm =>
    let o := cm.beds.headD 0
    let lists := m.gather cm (c.records.map (·.bed))
    let put := fun (m : Ilpiac) (nb : Nat) (l : List VRec) =>
      (m.updColl k (fun c => { c with recordsSent := c.recordsSent ++ l.map (fun r => (nb, r.bed)) })).sendList k 0 nb l
    let fresh := fun (m : Ilpiac) (nb : Nat) (l : List VRec) =>
      l.filter (fun r => !((m.collOf k).map (·.recordsSent)).any (·.contains (nb, r.bed)))
    let m := m.over lists (fun m g =>
      let l := c.records.filter (fun r => g.2.contains r.bed)
      if (fresh m g.1 l).isEmpty then m else put m g.1 l)
    let bad := c.records.filter (fun r => decide (0x40 ≤ r.status))
    let mine := subtreeOf (m.transfers cm.beds o) 64 m.bed
    let m := match m.treeUp cm.beds o with
      | some u => let l := fresh m u (bad.filter (fun r => mine.contains r.bed)); put m u l
      | none => m
    m.over (m.treeDown cm.beds o) (fun m d =>
      let below := subtreeOf (m.transfers cm.beds o) 64 d
      put m d (fresh m d (bad.filter (fun r => !below.contains r.bed))))
  | _, _ => m

/-! ### Phase 3 of REDUCE_UPDATE_BCAST (R57, R151) -/

/-- Side values of a bed: the reduction of its u values in order, absent of none (R149). -/
def Coll.bedSum (c : Coll) (f : Nat → Bool) : Option F32 :=
  let l := ((c.side.filter (fun s => f s.1)).insertionSort (fun a b => a.1 ≤ b.1)).map (·.2)
  if l.isEmpty then none else some (reduceTree (l.map some))

/-- Side values by source member (R149): u(i) over the values in order, and t_b over the members. -/
def Coll.memberSum (c : Coll) (members : Nat) : Option F32 :=
  let u := fun i => sumSqRun (((c.sideVals.filter (fun s => s.1 / 2 ^ 40 == i)).insertionSort (fun a b => a.1 ≤ b.1)).flatMap (·.2))
  if members = 0 then none else some (reduceTree ((List.range members).map (fun i => some (u i))))

/-- Phase 3 records travel by the gather-broadcast. -/
def Ilpiac.sendPhase3 (m : Ilpiac) (k : CollId) : Ilpiac :=
  match m.collOf k, m.comm k.comm with
  | some c, some cm =>
    m.over (m.gather cm (c.phase3.map (·.bed))) (fun m g =>
      if ((m.collOf k).map (·.phase3Sent)).any (fun l => g.2.all (fun b => l.contains (g.1, b))) then m
      else
        let m := m.updColl k (fun c => { c with phase3Sent := c.phase3Sent ++ g.2.map (fun b => (g.1, b)) })
        m.sendList k 1 g.1 (c.phase3.filter (fun r => g.2.contains r.bed)))
  | _, _ => m

/-- Chunk positions of a collective that this bed owns (R58, R170). -/
def Ilpiac.owned (m : Ilpiac) (cm : Comm) (c : Coll) : List Nat := (List.range c.chunks).filter (fun k => cm.owner k == m.bed)

/-- Phases 1 and 2 have ended here (R57). -/
def Ilpiac.phase2Done (m : Ilpiac) (cm : Comm) (c : Coll) : Bool :=
  decide (c.admitted = c.chunks) && (m.coll.ctxs.filter (fun x => x.id.coll == c.key)).all (fun x => m.ctxWorkDone c x) &&
  (m.owned cm c).all (fun k => c.made.contains (partData, k))

/-- Phase 3: the own record once phase 2 has ended, and G and F once every record is here (R151). -/
def Ilpiac.phase3 (m : Ilpiac) (k : CollId) : Ilpiac :=
  match m.collOf k, m.comm k.comm with
  | some c, some cm =>
    if c.op ≠ opRub ∨ c.failing ∨ c.committed then m
    else
      let own := c.phase3.any (fun r => r.bed == m.bed)
      let m := if own || !m.phase2Done cm c then m
        else
          let r : VRec := { bed := m.bed, status := 0, info := 0, fault := none, digest := cm.digest, sumSq := c.bedSum (· < 2 ^ 40),
                            nonfinite := c.nonfinite, amax := 0 }
          m.updColl k (fun c => { c with phase3 := c.phase3 ++ [r] })
      let m := m.sendPhase3 k
      match m.collOf k with
      | none => m
      | some c =>
        if c.agreed.isSome ∨ !cm.beds.all (fun b => c.phase3.any (fun r => r.bed == b)) then m
        else
          let rec_ := fun b => c.phase3.find? (fun r => r.bed == b)
          let g := reduceTree (cm.beds.map (fun b => (rec_ b).bind (·.sumSq)))
          let f := c.phase3.any (·.nonfinite)
          let m := m.updColl k (fun c => { c with agreed := some (g, f) })
          { m with trellis := { m.trellis with phase4 := m.trellis.phase4 ++ [({ coll := k, todo := m.owned cm c, fail := 0 } : Phase4)] } }
  | _, _ => m

/-! ### The verdict pass (R66, R67) -/

/-- The own result values of a collective all exist (R66, assumption 30). -/
def Ilpiac.valuesMade (m : Ilpiac) (cm : Comm) (c : Coll) : Bool :=
  if c.op = opRub then c.agreed.isSome && !m.trellis.phase4.any (fun p => p.coll == c.key)
  else if c.reduces then (m.owned cm c).all (fun k => c.made.contains (partData, k))
  else if c.op = opDispatch then
    c.made.contains (partEnd, 0) && (List.range ((m.locals cm).length * c.tokens)).all (fun i => c.made.contains (partRow, i))
  else if c.op = opCombine then
    match m.routing c with
    | none => true
    | some r => (List.range (m.locals cm).length).all (fun li =>
        (List.range (ceilDiv (r.tokens * r.rowElems) (4096 / fmtBytes c.outFmt))).all (fun j => c.made.contains (li + 16, j)))
  else true

/-- Whether the verdict pass may start here (R66, R142). -/
def Ilpiac.passReady (m : Ilpiac) (cm : Comm) (c : Coll) : Bool :=
  !c.started && !c.committed &&
  (c.failing || c.records.any (fun r => decide (0x40 ≤ r.status)) || (decide (c.accepted = m.ctxTotal cm c) && m.valuesMade cm c))

/-- The own record of the verdict pass (R67, R150). -/
def Ilpiac.ownRecord (m : Ilpiac) (cm : Comm) (c : Coll) : VRec :=
  { bed := m.bed, status := c.status.getD (infoStatus c.info), info := c.info % 32, fault := c.fault, digest := cm.digest,
    sumSq := if !c.wantSum then none
      else if c.op = opDispatch ∨ c.op = opCombine then c.memberSum (m.locals cm).length
      else if c.op = opRub then c.bedSum (2 ^ 40 ≤ ·) else c.bedSum (fun _ => true),
    nonfinite := false, amax := if c.wantAmax then c.amax else 0 }

/-- Lateness bins (R83). -/
def latenessBin (ns : Nat) : Nat := if ns < 64 then 0 else min 15 (Nat.log2 ns - 5)

/-- Lateness of a collective at its commit point (R82, R83). -/
def Ilpiac.noteLateness (m : Ilpiac) (c : Coll) : Ilpiac :=
  match c.firstAt with
  | none => m
  | some f =>
    let ns := c.lastAt - f
    m.count c.key.comm (fun x => { x with
      lastMember := c.lastMember, lastLateness := min ns (2 ^ 32 - 1), lastStep := c.key.step, lastSeq := c.key.seq,
      hist := x.hist.set (latenessBin ns) (satAdd 32 ((x.hist[latenessBin ns]?).getD 0) 1) })

/-- The contexts of a collective are released at once (R66, R134). -/
def Ilpiac.freeCtxs (m : Ilpiac) (k : CollId) : Ilpiac :=
  m.over ((m.coll.ctxs.filter (fun x => x.id.coll == k)).map (·.id)) (fun m x => m.freeCtx x)

/-- The new residuals of a collective become current, stamped with its STEP (R188); where another collective of the same tensor has written its
own beside them since, they are written again (assumption 78). -/
def Ilpiac.flipResidual (m : Ilpiac) (k : CollId) (r : Residual) : Ilpiac :=
  match r.fresh.find? (fun e => e.1 == k) with
  | none => m
  | some e =>
    let m := if r.other = some k then m else (m.memWrite (r.buf + 4096 * (1 - r.half)) (f32Bytes e.2) hintNormal).2
    let f := fun (y : Residual) => { y with half := 1 - y.half, stamp := k.step, fresh := y.fresh.filter (fun e => e.1 != k), other := none }
    m.updComm k.comm (fun cm => { cm with residuals := mapIf (fun y => y.buf == r.buf) f cm.residuals })

/-- Residuals written for a collective become current at a success, and are dropped at a failure (R188). -/
def Ilpiac.flipResiduals (m : Ilpiac) (k : CollId) (ok : Bool) : Ilpiac :=
  let rs := ((m.comm k.comm).map (·.residuals)).getD []
  let f := fun (r : Residual) => { r with fresh := r.fresh.filter (fun e => e.1 != k) }
  if ok then m.over rs (fun m r => m.flipResidual k r)
  else m.updComm k.comm (fun cm => { cm with residuals := mapIf (fun r => r.fresh.any (fun e => e.1 == k)) f cm.residuals })

/-- A collective ends with its final status at this Ilpiac (R59, R65, R66, R68, R69, R188, R253). -/
def Ilpiac.endColl (m : Ilpiac) (k : CollId) (st info : Nat) (fault : Option (Nat × Nat)) : Ilpiac :=
  match m.collOf k with
  | none => m
  | some c =>
    let ok := decide (st < 0x40)
    let m := m.updColl k (fun c => { c with final := some st, finalInfo := info, finalFault := fault })
    let m := (m.unqueue k).count k.comm (fun x => { x with
      done := (x.done + b2n ok) % 2 ^ 64, failed := (x.failed + b2n (!ok)) % 2 ^ 64, saturations := (x.saturations + c.sats) % 2 ^ 64 })
    let m := m.flipResiduals k ok
    let m := if ok then
        let m := if c.op = opRub then m.stampShards k.comm k.step else m
        if c.op = opDispatch then m.updRouting k k.seq (fun r => { r with held := true }) else m
      else
        let m := if c.op = opRub ∧ c.agreed.isSome then m.updComm k.comm (fun cm => { cm with stale := true }) else m
        let m := if c.op = opDispatch then m.updComm k.comm (fun cm => { cm with routes := cm.routes.filter (fun r => r.held || !(r.step == k.step && r.seq == k.seq)) }) else m
        (Ilpiac.freeCtxs { m with coll := { m.coll with heldRes := m.coll.heldRes.filter (fun h => h.coll != k) } } k)
    (m.rmStat).drainHeld

/-- The commit point (R66, R67): the records of every bed combined. -/
def Ilpiac.commit (m : Ilpiac) (k : CollId) : Ilpiac :=
  match m.collOf k, m.comm k.comm with
  | some c, some cm =>
    if c.unknownComm then (m.noteLateness c).endColl k stUnknownComm 0 none
    else
      let differ := c.records.any (fun r => r.digest != cm.digest)
      let info := c.records.foldl (fun i r => Nat.lor i r.info) 0 % 32
      let st := max (maxOf (c.records.map (·.status))) (if differ then stCommMismatch else 0)
      let st := if st < 0x40 then infoStatus info else st
      let m := if differ then m.updComm k.comm (fun cm => { cm with mismatch := true }) else m
      (m.noteLateness c).endColl k st info (c.records.foldl (fun f r => lowerFault f r.fault) none)
  | _, _ => m

/-- Whether the records of every bed are here. -/
def Ilpiac.verdictHere (m : Ilpiac) (k : CollId) : Bool :=
  match m.collOf k, m.comm k.comm with
  | some c, some cm => c.unknownComm || cm.beds.all (fun b => c.records.any (fun r => r.bed == b))
  | _, _ => false

/-- Verdicts take effect in (STEP, SEQ) order (R52). -/
def Ilpiac.commits (m : Ilpiac) (comm : Nat) : Ilpiac :=
  let ks := ((m.coll.colls.filter (fun c => c.key.comm == comm && !c.committed)).map (·.key)).insertionSort
    (fun a b => keyLt (b.step, b.seq) (a.step, a.seq) = false)
  (ks.foldl (fun (a : Bool × Ilpiac) k => if a.1 && a.2.verdictHere k then (true, a.2.commit k) else (false, a.2)) (true, m)).2

/-- The own input enters the verdict pass (R66, R67). -/
def Ilpiac.passStart (m : Ilpiac) (k : CollId) : Ilpiac :=
  match m.collOf k, m.comm k.comm with
  | some c, some cm =>
    if !m.passReady cm c then m
    else
      let r := m.ownRecord cm c
      let m := m.updColl k (fun c => { c with started := true, records := c.records.filter (fun x => x.bed != r.bed) ++ [r] })
      (m.sendRecords k).commits k.comm
  | _, _ => m

/-- What a collective can do now, after any event. -/
def Ilpiac.collStep (m : Ilpiac) (k : CollId) : Ilpiac := ((m.flow k).phase3 k).flow k

/-- The same for every open collective. -/
def Ilpiac.collAll (m : Ilpiac) : Ilpiac := m.over (m.coll.colls.map (·.key)) (fun m k => m.collStep k)

/-! ### END and completion (R71, R78) -/

/-- Whether every result chunk that a local member is to receive exists here (R54, R62 to R64, R71). -/
def Ilpiac.resultsHere (m : Ilpiac) (cm : Comm) (c : Coll) (addr : Nat) : Bool :=
  let has := fun (part e i : Nat) => c.haveRes.contains (part, (e, i))
  let mi := (cm.index addr).getD 0
  let li := (m.localIdx cm).findIdx (· == mi)
  if c.op = opReduceScatter then
    (List.range c.chunks).all (fun k => k % max 1 cm.members.length != mi || (List.range c.results).all (fun j => has partData 0 (k * c.results + j)))
  else if c.op = opAllGather then (List.range (cm.members.length * c.chunks * c.results)).all (fun i => has partData 0 i)
  else if c.op = opDispatch then
    match m.routing c with
    | none => true
    | some r =>
      c.made.contains (partEnd, 0) &&
      (List.range (ceilDiv ((cm.expertsOf mi).length * r.capacity) 512)).all (fun j => c.made.contains (partMap, li * 2 ^ 32 + j)) &&
      (cm.expertsOf mi).all (fun e => (List.range (r.kept cm e)).all (fun row =>
        (List.range (ceilDiv (r.rowIn c.outFmt) 4096)).all (fun s => has partRow e (row + s * 65536))))
  else if c.op = opCombine then
    match m.routing c with
    | none => true
    | some r => (List.range (ceilDiv (r.tokens * r.rowElems) (4096 / fmtBytes c.outFmt))).all (fun j => c.made.contains (li + 16, j))
  else (List.range (c.chunks * c.results)).all (fun i => has partData 0 i)

/-- END to every local member in delivery that may receive it (R71). -/
def Ilpiac.sendEnds (m : Ilpiac) (k : CollId) : Ilpiac :=
  match m.collOf k, m.comm k.comm with
  | some c, some cm =>
    match c.final with
    | none => m
    | some st =>
      let l := (m.receivers c c.delivery).filter (fun a => !c.ended.contains a && (decide (0x40 ≤ st) || m.resultsHere cm c a))
      if l.isEmpty then m
      else
        let d := m.dstOf l
        let p := Packet.make 0x0D m.tcCtrl d.1 false m.bed true (collHdr k 0 0 0 0 0 ++ [st % 256 + c.finalInfo % 32 * 256]) []
        if m.retainFits p then
          (d.2.updColl k (fun c => { c with ended := c.ended ++ l })).retainCopy k partEnd 0 0 p l
        else m
  | _, _ => m

/-- SUMSQ and AMAX of the whole collective (R56, R149, R150). -/
def Ilpiac.sideRecord (_m : Ilpiac) (cm : Comm) (c : Coll) : List Byte :=
  let rec_ := fun b => c.records.find? (fun r => r.bed == b)
  let s := if c.wantSum then (reduceTree (cm.beds.map (fun b => (rec_ b).bind (·.sumSq)))).toNat else 0
  let a := if c.wantAmax then (c.records.foldl (fun x r => amaxF x r.amax) 0).toNat else 0
  leBytes 4 s ++ leBytes 4 a ++ List.replicate 8 0

/-- What the completion record reports (R69, R92, R93; COUNT: assumptions 35, 36). -/
def Coll.report (c : Coll) : CplInfo :=
  { comm := c.key.comm, fault := c.lost.or c.finalFault, info := c.finalInfo % 32 + c.info / 32 * 32, step := c.key.step, seq := c.key.seq,
    count := if c.reduces || c.op == opCombine then c.sats else if c.op == opDispatch then c.dropped else 0 }

/-- A collective leaves the open ones (R52, R65). -/
def Ilpiac.closeColl (m : Ilpiac) (k : CollId) : Ilpiac :=
  match m.collOf k with
  | none => m
  | some c =>
    let m := m.freeCtxs k
    let m := { m with coll := { m.coll with
      colls := m.coll.colls.filter (fun x => x.key != k), past := m.coll.past ++ [k],
      heldRes := m.coll.heldRes.filter (fun h => h.coll != k) } }
    if c.op = opCombine ∧ !c.refused then m.updComm k.comm (fun cm => { cm with routes := cm.routes.filter (fun r => !(r.step == k.step && r.seq == c.pairSeq)) }) else m

/-- The completion record of a collective becomes due; one without a descriptor of its own (R500) closes at once. -/
def Ilpiac.recordColl (m : Ilpiac) (c : Coll) : Ilpiac :=
  if c.headless then m.closeColl c.key
  else m.complete c.ring c.num c.words ((c.final).getD stAborted) c.report (some c.key)

/-- Everything that R78 makes the record wait for has happened. -/
def Ilpiac.mayComplete (m : Ilpiac) (c : Coll) : Bool :=
  c.committed && c.delivery.all (fun a => c.ended.contains a || m.memberFenced a) &&
  !m.coll.retained.any (fun r => r.coll == c.key) && !m.coll.heldRes.any (fun h => h.coll == c.key) &&
  (m.earlier c.key).all (fun o => m.ctl.cpl.any (fun r => r.coll == some o.key)) && !m.ctl.cpl.any (fun r => r.coll == some c.key)

/-- COLLECTIVE_COMPLETE: the side record, and then the completion record (R56, R78; assumptions 37, 43). -/
def Ilpiac.collComplete (m : Ilpiac) (k : CollId) : Ilpiac :=
  match m.collOf k, m.comm k.comm with
  | some c, some cm =>
    if !m.mayComplete c then m
    else
      let ok := match c.final with
        | some s => decide (s < 0x40)
        | none => false
      let m := if ok && (c.wantSum || c.wantAmax) && !c.headless then (m.boardStore c.sideAddr (m.sideRecord cm c)).2 else m
      m.recordColl c
  | _, _ => m

/-! ### Timeouts (R75, R142, R155, R551) -/

/-- Whether a local member still owes a contribution (R75). -/
def Ilpiac.owes (m : Ilpiac) (cm : Comm) (c : Coll) (addr : Nat) : Bool :=
  (m.coll.ctxs.any (fun x => x.id.coll == c.key && (m.contributors cm c x.id).contains addr &&
    (if x.id.part = partRow then decide (x.seen.length < (m.leaves c x.id).2.length) else !x.seen.contains (m.leafOf cm x.id addr 0)))) ||
  m.coll.queues.any (fun q => q.runs.any (fun r => r.coll == c.key && (m.contributors cm c ⟨c.key, r.part, r.lo⟩).contains addr))

/-- The contribution deadline (R75): COLL_TIMEOUT_US after the collective's first context was admitted. -/
def Ilpiac.contribDeadline (m : Ilpiac) (k : CollId) (addr : Nat) : Ilpiac :=
  match m.collOf k, m.comm k.comm with
  | some c, some cm =>
    if c.committed ∨ c.started ∨ c.admitted = 0 ∨ !(m.locals cm).contains addr ∨ !m.owes cm c addr then m
    else m.failColl k stTimeout (some (addr, stTimeout))
  | _, _ => m

/-- A head context that has waited more than 1 µs when its collective leaves the queue (R142). -/
def Ilpiac.headWaited (m : Ilpiac) (k : CollId) : Bool :=
  m.coll.queues.any (fun q => (q.runs.head?.map (·.coll)) == some k && decide (1000 < cyclesNs (m.clk - q.headAt)))

/-- COLL_TIMEOUT_US after acceptance with contexts at admission (R142). -/
def Ilpiac.admissionTimeout (m : Ilpiac) (k : CollId) : Ilpiac :=
  if m.anyWaits k then ((m.setInfo k infoAdmission).failColl k stTimeout).unqueue k else m

/-- COLL_TIMEOUT_US after acceptance with contexts that wait for an ACTIVE furrow (R155). -/
def Ilpiac.furrowTimeout (m : Ilpiac) (k : CollId) : Ilpiac :=
  if m.coll.ctxs.any (fun x => x.id.coll == k && x.home.any (fun f => m.furrowState f == furrowRetired)) then m.failColl k stTimeout else m

/-- COLL_TIMEOUT_US after the own commit point without a result chunk for a local member (R551). -/
def Ilpiac.resultMissing (m : Ilpiac) (k : CollId) (addr : Nat) : Ilpiac :=
  match m.collOf k, m.comm k.comm with
  | some c, some cm =>
    match c.final with
    | some st => if st < 0x40 ∧ c.delivery.contains addr ∧ !m.resultsHere cm c addr then m.undeliver k addr stTimeout else m
    | none => m
  | _, _ => m

/-! ### Fences (R79 to R81) -/

/-- Open collectives that include a member. -/
def Ilpiac.collsWith (m : Ilpiac) (addr : Nat) : List CollId :=
  (m.coll.colls.filter (fun c => (m.comm c.key.comm).any (fun cm => cm.members.contains addr))).map (·.key)

/-- A fence on the member at a downlink port takes effect (R79, R80, R423). -/
def Ilpiac.fenceMember (m : Ilpiac) (port : Nat) : Ilpiac :=
  if m.portFenced port then m
  else
    let addr := m.bed * 256 + port
    let m := (m.fenceQueues port).dropMemberWaits port
    let m := m.over (m.collsWith addr) (fun m k => m.memberLost k addr stFenced)
    m.dropDest addr (fun _ => true)

/-- MEMBER_FENCE and MEMBER_UNFENCE name a member of this bed (R90). -/
def Ilpiac.fenceCheck (m : Ilpiac) (d : AccDesc) (f : Nat → Ilpiac → Ilpiac) : Ilpiac :=
  let addr := d.f 1 0 14
  if !m.placed then m.done d stUnplaced
  else if !d.w0ok || !d.zero [(1, 14, 50), (2, 0, 64), (3, 0, 64), (4, 0, 64), (5, 0, 64), (6, 0, 64), (7, 0, 64)] then m.done d stBadDescriptor
  else if addr / 256 ≠ m.bed ∨ !m.portPresent (addr % 256) then m.done d stBadDescriptor
  else f addr m

def Ilpiac.memberFence (m : Ilpiac) (d : AccDesc) : Ilpiac := m.fenceCheck d (fun a m => (m.fenceMember (a % 256)).done d stOk)

/-- MEMBER_UNFENCE (R81). -/
def Ilpiac.memberUnfence (m : Ilpiac) (d : AccDesc) : Ilpiac :=
  m.fenceCheck d (fun a m =>
    if m.portUp (a % 256) ∧ (m.collsWith a).isEmpty then (m.pw (a % 256) F.PORT_STATUS_FENCED 0).done d stOk
    else m.done d stBadDescriptor)

/-! ### COMM_CREATE (R43 to R47, R87) -/

/-- The communicator of a creation descriptor. -/
def newComm (d : AccDesc) (members experts : List Nat) (digest : Nat) : Comm :=
  let dflt := fun (x y : Nat) => if x = 0 then y else x
  { id := d.f 1 0 16, members, s19Trunc := d.f 1 32 1 == 1, e5m2Inf := d.f 1 33 1 == 1, compress := d.f 1 34 1 == 1, feedback := d.f 1 35 1 == 1,
    seedLo := BitVec.ofNat 64 (wordAt d.words 3), seedHi := BitVec.ofNat 64 (wordAt d.words 4), retentionNs := dflt (d.f 5 0 32) 6000,
    replayLimit := dflt (d.f 5 32 8) 4, timeoutUs := dflt (d.f 5 40 24) 10000, experts, digest, mismatch := false, stale := false,
    lastKey := none, quota := 0, quotaWait := none, quotaSet := 0, routes := [],
    cnt := { done := 0, failed := 0, replays := 0, duplicates := 0, saturations := 0, dropped := 0, badExpert := 0, stray := 0, lastMember := 0,
             lastLateness := 0, lastStep := 0, lastSeq := 0, admissionWait := 0, hist := List.replicate 16 0 },
    residuals := [] }

/-- The list of `n` 16-bit entries of a byte string. -/
def halfwords (n : Nat) (l : List Byte) : List Nat := (List.range n).map (fun i => natAt l (2 * i) 2)

/-- Strictly ascending. -/
def ascending : List Nat → Bool
  | a :: b :: l => decide (a < b) && ascending (b :: l)
  | _ => true

/-- COMM_CREATE: the checks of R45 in their order (R189), the digest of R47 and the record of R46. -/
def Ilpiac.commCreate (m : Ilpiac) (d : AccDesc) (listRb expRb : Readback) : Ilpiac :=
  let i : CplInfo := { comm := d.f 1 0 16 }
  let n := d.f 1 16 15
  let e := d.f 7 0 16
  let la := d.f 2 0 64
  let ea := d.f 6 0 64
  let rns := d.f 5 0 32
  let fields := d.w0ok && d.zero [(1, 31, 1), (1, 36, 28), (7, 16, 48)] && decide (1 ≤ n) && decide (n ≤ 16384) && decide (e ≤ 32768) &&
    (rns == 0 || (decide (1000 ≤ rns) && decide (rns ≤ 1000000))) && la % 64 == 0 && (e == 0 || ea % 64 == 0) &&
    (d.f 1 35 1 == 0 || d.f 1 34 1 == 1) && m.addrOk la (2 * n) false && (e == 0 || m.addrOk ea (2 * e) false)
  if !m.placed then m.done d stUnplaced i
  else if !fields then (m.noteRefusals ([(la, 2 * n, false)] ++ (if e = 0 then [] else [(ea, 2 * e, false)]))).done d stBadDescriptor i
  else
    let lr := m.boardRead la (2 * n) listRb
    let er := if e = 0 then (some [], lr.2) else lr.2.boardRead ea (2 * e) expRb
    let m := er.2
    match lr.1, er.1 with
    | some lb, some eb =>
      let members := halfwords n lb
      let experts := halfwords e eb
      let single := members.all (fun a => a / 256 == m.bed)
      let exists_ := fun a => m.bedInside (a / 256) && decide (a / 256 < 64) && decide (a % 256 < m.downlinks) &&
        !(m.twinOn && a == m.bed * 256 + m.g F.TWIN_CTRL_PORT)
      if !(experts.all (· < n)) || !ascending members then m.done d stBadDescriptor i
      else if !m.has F.CAP_PRESENT_TRUNK && !single then m.done d stAbsentUnit i
      else if d.f 1 35 1 = 1 ∧ !single ∧ !m.has F.CAP_PRESENT_HBM then m.done d stAbsentUnit i
      else if !members.all exists_ then m.done d stBadDescriptor i
      else if !members.any (fun a => a / 256 == m.bed) then m.done d stBadDescriptor i
      else if (m.comm (d.f 1 0 16)).isSome ∨ m.coll.dying.contains (d.f 1 0 16) then m.done d stDuplicateComm i
      else if m.freeContexts = 0 then m.done d stNoResources i
      else
        let bytes := (wordBytes (d.words.drop 1)).take 8 ++ (wordBytes (d.words.drop 3)).take 16 ++ (wordBytes (d.words.drop 7)).take 8 ++ lb ++ eb
        let c := newComm d members experts (crc32c bytes).toNat
        Ilpiac.done { m with coll := { m.coll with comms := m.coll.comms ++ [c] } } d stOk i
    | _, _ => m.done d stMemoryFault i

/-! ### COMM_DESTROY and COMM_QUERY (R48, R84) -/

/-- The checks of R91 that come before the communicator. -/
def Ilpiac.commCheck (m : Ilpiac) (d : AccDesc) (ok : Bool) (f : Comm → Ilpiac → Ilpiac) : Ilpiac :=
  let i : CplInfo := { comm := d.f 1 0 16 }
  if !m.placed then m.done d stUnplaced i
  else if !d.w0ok || !ok then m.done d stBadDescriptor i
  else
    match m.comm (d.f 1 0 16) with
    | none => m.done d stUnknownComm i
    | some c => f c m

/-- An open collective ends with its communicator or the switch function (R48, R492): ST_ABORTED before the commit point, members removed
from delivery after it; its record becomes due unless it is due already. -/
def Ilpiac.abortColl (m : Ilpiac) (k : CollId) : Ilpiac :=
  match m.collOf k with
  | none => m
  | some c =>
    let m := if c.committed then m.over c.delivery (fun m a => m.undeliver k a stAborted) else m.endColl k stAborted (c.info % 32) none
    let m := { m with coll := { m.coll with trunkWait := m.coll.trunkWait.filter (fun t => t.coll != some k) } }
    let gone := (m.coll.trunk.filter (fun t => t.coll == some k)).map (·.id)
    let m := m.over gone (fun m id => m.releaseCopy id)
    let ret := m.coll.retained.filter (fun r => r.coll == k)
    let m := { m with coll := { m.coll with retained := m.coll.retained.filter (fun r => r.coll != k), heldRes := m.coll.heldRes.filter (fun h => h.coll != k) } }
    let m := m.over ret (fun m r => m.unhold r.buf)
    let m := m.freeCtxs k
    let m := { m with trellis := { m.trellis with phase4 := m.trellis.phase4.filter (fun p => p.coll != k) } }
    if m.ctl.cpl.any (fun r => r.coll == some k) then m
    else
      match m.collOf k with
      | some c => m.recordColl c
      | none => m

/-- Open collectives of a communicator in (STEP, SEQ) order. -/
def Ilpiac.openOf (m : Ilpiac) (comm : Nat) : List CollId :=
  ((m.coll.colls.filter (fun c => c.key.comm == comm)).map (·.key)).insertionSort (fun a b => keyLt (b.step, b.seq) (a.step, a.seq) = false)

/-- A communicator goes: its collectives end, a waiting RM_QUOTA is aborted, its quota and residual buffers return (R48, R144, R189). -/
def Ilpiac.dropComm (m : Ilpiac) (cm : Comm) : Ilpiac :=
  let m := m.over (m.openOf cm.id) (fun m k => m.abortColl k)
  let m := match cm.quotaWait with
    | some (_, r, n) => (match m.ctl.descs.find? (fun (d : AccDesc) => d.ring == r && d.num == n) with
      | some d => m.done d stAborted { comm := cm.id }
      | none => m)
    | none => m
  let m := (m.over cm.residuals (fun m r => m.poolGive r.buf)).stampShards cm.id stampInvalid
  let m := { m with coll := { m.coll with
    comms := m.coll.comms.filter (fun c => c.id != cm.id), queues := m.coll.queues.filter (fun q => q.pool != some cm.id) } }
  m.quotaFlow.rmStat

/-- COMM_DESTROY (R48): its own record frees COMM_ID. -/
def Ilpiac.commDestroy (m : Ilpiac) (d : AccDesc) : Ilpiac :=
  m.commCheck d (d.zero [(1, 16, 48), (2, 0, 64), (3, 0, 64), (4, 0, 64), (5, 0, 64), (6, 0, 64), (7, 0, 64)]) (fun cm m =>
    let m := m.dropComm cm
    let m := { m with coll := { m.coll with dying := m.coll.dying ++ [cm.id] } }
    m.due ⟨wRing d.words, cplWords d.words stOk { comm := cm.id }, wIrq d.words, d.ring, d.num, none, some cm.id⟩)

/-- The 256 bytes of a query record (R84). -/
def CommCounts.record (x : CommCounts) : List Byte :=
  leBytes 8 x.done ++ leBytes 8 x.failed ++ leBytes 8 x.replays ++ leBytes 8 x.duplicates ++ leBytes 8 x.saturations ++ leBytes 8 x.dropped ++
  leBytes 8 x.badExpert ++ leBytes 8 x.stray ++ leBytes 2 x.lastMember ++ leBytes 2 0 ++ leBytes 4 x.lastLateness ++ leBytes 8 x.lastStep ++
  leBytes 4 x.lastSeq ++ leBytes 4 0 ++ leBytes 8 x.admissionWait ++ x.hist.flatMap (leBytes 4 ·) ++ List.replicate 96 0

/-- COMM_QUERY (R84, R90). -/
def Ilpiac.commQuery (m : Ilpiac) (d : AccDesc) : Ilpiac :=
  let a := d.f 2 0 64
  (if m.placed then m.noteRefusals [(a, 256, true)] else m).commCheck d (d.zero [(1, 17, 47), (3, 0, 64), (4, 0, 64), (5, 0, 64), (6, 0, 64), (7, 0, 64)] && a % 64 == 0 && m.addrOk a 256 true) (fun cm m =>
    let m := m.boardWrite a cm.cnt.record
    let m := if d.f 1 16 1 = 1 then m.count cm.id (fun x => { x with
        done := 0, failed := 0, replays := 0, duplicates := 0, saturations := 0, dropped := 0, badExpert := 0, stray := 0, admissionWait := 0,
        hist := List.replicate 16 0 }) else m
    m.done d stOk { comm := cm.id })

/-! ### Trunk transfers: acknowledgement and loss (R77, R173, R551) -/

/-- A TACK names a retained transfer to the Ilpiac it comes from. -/
def tackNames (p : Packet) (t : TrunkCopy) : Bool := p.srcBed == t.bed && tackOf t.pkt == [p.h 1, p.h 2, p.f 3 0 28, p.h 4]

/-- TACK (R77, R252): the transfer is released. -/
def Ilpiac.tackRx (m : Ilpiac) (p : Packet) (plane : Nat) : Ilpiac :=
  match m.coll.trunk.find? (fun t => tackNames p t && t.plane == plane) with
  | none => m
  | some t =>
    let m := m.releaseCopy t.id
    match t.group with
    | some g =>
      if t.pkt.ty = 0x64 then m.settleDelta g else m
    | none => m

/-- RETENTION_NS without TACK: a replay, or the transfer is given up (R77, R252, R551; assumption 42). -/
def Ilpiac.trunkTimeout (m : Ilpiac) (id : Nat) : Ilpiac :=
  match m.coll.trunk.find? (fun t => t.id == id) with
  | none => m
  | some t =>
    if t.sends ≤ m.replayLimit t.coll then
      let m := { m with coll := { m.coll with trunk := mapIf (fun t => t.id == id) (fun t => { t with sends := t.sends + 1 }) m.coll.trunk } }
      let m := m.sendCopy { t with sends := t.sends + 1 }
      match t.coll with
      | some k => m.countReplay k
      | none => m
    else
      let m := m.releaseCopy id
      match t.coll, t.group with
      | some k, _ =>
        (match m.collOf k with
         | none => m
         | some c =>
           if c.committed then m
           else if c.started then
             (if t.pkt.ty = 0x63 ∧ t.pkt.f 3 0 8 = 0 then m.endColl k (max stTrunkLost (c.status.getD 0)) (c.info % 32) c.fault else m)
           else m.failColl k stTrunkLost)
      | none, some g => m.recordMissing g (t.bed, t.plane)
      | none, none => m

/-! ### Packets of other Ilpiac modules (R70, R175, R182, R552) -/

/-- A packet for a COMM_ID that is not held is answered (R70). -/
def Ilpiac.answerUnknown (m : Ilpiac) (p : Packet) : Ilpiac :=
  m.sendList p.coll 0 p.srcBed [{ bed := m.bed, status := stUnknownComm, info := 0, fault := none, digest := 0, sumSq := none, nonfinite := false, amax := 0 }]

/-- COLUMN: a bed partial for a context (R135, R173, R182); none until the context has been admitted (R552; assumption 25). -/
def Ilpiac.columnTry (m : Ilpiac) (p : Packet) : Option Ilpiac :=
  let k := p.coll
  let x : CtxId := ⟨k, partData, p.f 3 0 24⟩
  let q := p.f 3 24 2
  let h := p.f 3 27 7
  if m.coll.past.contains k then some m
  else
    match m.collOf k with
    | none => none
    | some c =>
      if c.failing ∨ c.committed then some m
      else
        match m.ctxOf x with
        | none => if m.waits x then none else some m
        | some cx =>
          if cx.gotCols.contains (h, q) then some m
          else
            let v := columnVal p
            let m := (m.noteRun x 0 v.2).updCtx x (fun cx => { cx with gotCols := cx.gotCols ++ [(h, q)] })
            some ((m.trunkClimb x q v.1 7 h).pumpAll x)

/-- TRESULT: a result chunk of another bed moves into the retention buffer, goes to local members and on to further beds unchanged, or is
a returned row of a COMBINE (R64, R175, R328); none while it must wait. -/
def Ilpiac.tresultTry (m : Ilpiac) (p : Packet) (id : Nat) : Option Ilpiac :=
  let k := p.coll
  if m.coll.past.contains k then some m
  else
    match m.collOf k, m.comm k.comm with
    | some c, some cm =>
      let bad := match c.final with
        | some s => decide (0x40 ≤ s)
        | none => c.failing
      if bad then some m
      else if c.op = opCombine then
        match m.routing c with
        | none => some m
        | some r =>
          let e := r.ents.find? (fun e => e.expert == p.hi && r.row cm m.bed e == some (p.index % 65536))
          match e with
          | none => some m
          | some e =>
            let f := c.bodyFmt partRow p.fmt
            let s := splitScales f p.body
            let b : Contrib := ⟨e.slot, 0, id, p.fmt, p.coarse, s.1, s.2⟩
            let li := (m.localIdx cm).findIdx (· == e.src)
            let x : CtxId := ⟨k, partData, (li * r.tokens + e.token) * max 1 (r.segs c.inFmt) + p.index / 65536⟩
            match m.ctxOf x with
            | none => if m.waits x then none else some m
            | some _ =>
              let m := ((m.moveArea id .contrib).setBuf id (fun b => { b with held := true }))
              m.combineLeaf c cm r e.src e.token e.slot (p.index / 65536) b
      else
        let res : ResChunk := ⟨p.part, if p.part = 0 then p.pos else p.index, if p.part = 0 then 0 else p.hi, p.fmt, p.coarse, p.body⟩
        if c.haveRes.contains (res.part, (res.expert, res.index)) then some m
        else if !c.mayDeliver then none
        else
          let dests := if c.op = opDispatch then [cm.expertOwner p.hi] else m.resultDests cm c res.index
          (m.sendResult k res dests).map (fun m => m.updColl k (fun c => { c with haveRes := c.haveRes ++ [(res.part, (res.expert, res.index))] }))
    | _, _ => none

/-- A received record of KIND 0: a verdict input, or the word that a bed does not hold the communicator (R67, R70, R142). -/
def Ilpiac.verdictRx (m : Ilpiac) (k : CollId) (src : Nat) (l : List VRec) : Ilpiac :=
  match m.collOf k, m.comm k.comm with
  | some c, some cm =>
    if c.committed then m
    else
      match l.find? (fun r => r.status == stUnknownComm) with
      | some r =>
        let m := m.updColl k (fun c => { c with unknownComm := true })
        let gone := (m.coll.trunk.filter (fun t => t.coll == some k)).map (·.id)
        let m := { m with coll := { m.coll with trunkWait := m.coll.trunkWait.filter (fun t => t.coll != some k) } }
        let m := m.over gone (fun m id => m.releaseCopy id)
        let m := if r.bed = src then
            m.over (cm.beds.filter (fun b => b != m.bed && b != r.bed)) (fun m b => m.sendList k 0 b [r])
          else m
        m.commits k.comm
      | none =>
        let m := m.updColl k (fun c => { c with records := c.records ++ l.filter (fun r => !c.records.any (fun x => x.bed == r.bed)) })
        let m := if l.any (fun r => decide (0x40 ≤ r.status)) then
            (if m.headWaited k then m.setInfo k infoAdmission else m).unqueue k
          else m
        (m.sendRecords k).commits k.comm
  | _, _ => m

/-- While headless, a verdict packet for a collective that has not been accepted makes the module take part with ST_HEADLESS (R500). -/
def Ilpiac.joinHeadless (m : Ilpiac) (k : CollId) : Ilpiac :=
  match m.comm k.comm with
  | none => m
  | some cm =>
    let c := { Coll.fresh k [] 0 0 m.time.ns with
      headless := true, status := some stHeadless, delivery := (m.locals cm).filter (fun a => !m.memberFenced a) }
    Ilpiac.updComm { m with coll := { m.coll with colls := m.coll.colls ++ [c] } } k.comm (fun cm => { cm with
      lastKey := match cm.lastKey with
        | some l => if keyLt l (k.step, k.seq) then some (k.step, k.seq) else some l
        | none => some (k.step, k.seq) })

/-- RECORDS of any kind (R61, R62, R67, R151); none while the collective's descriptor has not been accepted (R552). -/
def Ilpiac.recordsTry (m : Ilpiac) (p : Packet) : Option Ilpiac :=
  let k := p.coll
  let kind := p.f 3 0 8
  let n := p.f 3 8 8
  if m.coll.past.contains k then some m
  else
    match m.collOf k with
    | none => if kind = 0 ∧ m.headless then some ((m.joinHeadless k).verdictRx k p.srcBed (vrecs n p.body)) else none
    | some c =>
      if kind = 0 then some (m.verdictRx k p.srcBed (vrecs n p.body))
      else if c.failing ∨ c.committed then some m
      else if kind = 1 then
        let l := vrecs n p.body
        some ((m.updColl k (fun c => { c with phase3 := c.phase3 ++ l.filter (fun r => !c.phase3.any (fun x => x.bed == r.bed)) })).collStep k)
      else if kind = 2 then
        let b := p.f 3 16 6
        let s := p.f 3 22 24
        let v := (List.range 1024).map (fun i => natAt p.body (4 * i) 4)
        some ((m.updRouting k k.seq (fun r =>
          if r.counts.any (fun x => x.1 == b && x.2.1 == s) then r else { r with counts := r.counts ++ [(b, (s, v))] })).collStep k)
      else if kind = 3 then
        let row := p.f 3 22 24
        let es := (List.range n).map (fun i => ((p.hi, row + i), natAt p.body (8 * i) 8))
        some ((m.updRouting k k.seq (fun r =>
          { r with rowMap := r.rowMap ++ es.filter (fun x => !r.rowMap.any (fun y => y.1 == x.1)) })).collStep k)
      else some m

end Sys2Proof.Machine
end

