-- ==== Sys2Proof/Machine/Cloche.lean ====
section
/-! DEFINITION. Cloche groups (spec 07): creation and joining (R243 to R249), deltas, stamps and ledger copies received (R251 to R255),
restores (R256 to R263), destroy and query (R265, R266). -/

namespace Sys2Proof.Machine

/-! ### Participants (R239, R243) -/

/-- The modules of a group, each once: members, then keepers. -/
def Group.participants (g : Group) : List (Nat × Nat) := (g.members.map (fun x => (x.bed, x.plane)) ++ g.pKeep ++ (if g.q then g.qKeep else [])).eraseDups

/-- The participants beside this module. -/
def Ilpiac.others (m : Ilpiac) (g : Group) : List (Nat × Nat) := g.participants.filter (· != (m.bed, m.plane))

/-- The protection set of piece `j` (R243). -/
def Group.protection (g : Group) (j : Nat) : List (Nat × Nat) :=
  g.members.map (fun x => (x.bed, x.plane)) ++ (g.pKeep[j]?).toList ++ (if g.q then (g.qKeep[j]?).toList else [])

/-- No value occurs twice. -/
def distinct (l : List Nat) : Bool := l.eraseDups.length == l.length

/-- Whether CLOCHE_CROSS_BED is 1 (R243). -/
def Ilpiac.crossBed (m : Ilpiac) : Bool := m.has F.CAP_PRESENT_CLOCHE_CROSS_BED

/-- R243 for modules, beds and planes. -/
def Ilpiac.placesOk (m : Ilpiac) (g : Group) : Bool :=
  (List.range g.k).all (fun j =>
    let s := g.protection j
    if m.crossBed then s.all (fun x => x.2 == m.plane) && distinct (s.map (·.1))
    else s.all (fun x => x.1 == m.bed) && distinct (s.map (·.2)))

/-- R243 for feeds, over the sites that are known. -/
def Group.feedsOk (g : Group) : Bool :=
  (List.range g.k).all (fun j => distinct ((g.protection j).filterMap (fun x => (g.sites.find? (fun s => (s.bed, s.plane) == x)).map (·.feed))))

/-- Pieces that this module keeps: number and whether it is the Q piece. -/
def Ilpiac.kept (m : Ilpiac) (g : Group) : List (Nat × Bool) :=
  (List.range g.k).flatMap (fun j =>
    (if g.pKeep[j]? = some (m.bed, m.plane) then [(j, false)] else []) ++ (if g.q ∧ g.qKeep[j]? = some (m.bed, m.plane) then [(j, true)] else []))

/-- Whether a participant is MISSING in every role that it has. -/
def Group.missing (g : Group) (x : Nat × Nat) : Bool :=
  (List.range g.members.length).all (fun i => match g.members[i]? with | some y => (y.bed, y.plane) != x || g.missM.contains i | none => true) &&
  g.keeperMissing x

/-- Participants that are reached: not this module and not MISSING. -/
def Ilpiac.reached (m : Ilpiac) (g : Group) : List (Nat × Nat) := (m.others g).filter (fun x => !g.missing x)

/-! ### CLOCHE_GROUP_CREATE (R246 to R248) -/

/-- The location of a list entry (R247). -/
def entryPlace (l : List Byte) : Nat × Nat := (bits (natAt l 0 2) 0 6, bits (natAt l 0 2) 6 4)

/-- The group that a descriptor and its list define. -/
def groupOf (d : AccDesc) (list : List Byte) (digest : Nat) : Group :=
  let n := d.f 1 24 5
  let k := d.f 1 32 5
  let q := d.f 1 16 1 == 1
  let es := piecesOf 16 (n + k + (if q then k else 0)) list
  { id := d.f 1 0 16, q, k, shardBytes := d.f 2 0 64, relay := d.f 4 0 8, tc := d.f 4 8 3,
    members := (es.take n).map (fun e => ({ bed := (entryPlace e).1, plane := (entryPlace e).2, comm := natAt e 2 2, base := natAt e 8 8 } : GMember)),
    pKeep := ((es.drop n).take k).map entryPlace, qKeep := (es.drop (n + k)).map entryPlace,
    sites := [], digest, forming := some (d.ring, d.num), lost := false, missM := [], missP := [], missQ := [],
    stamps := List.replicate 16 stampInvalid, stamp := stampInvalid, sent := 0, applied := 0, unsettled := 0, ledger := [], pieces := [],
    ledgerBuf := none, restore := none, ledgerWaits := [], seen := [], lostStripes := [] }

/-- The reserved parts of the list are zero and every SHARD_BASE is aligned (R247). -/
def listOk (n total : Nat) (list : List Byte) : Bool :=
  ((piecesOf 16 total list).zipIdx).all (fun x =>
    bits (natAt x.1 0 2) 10 6 == 0 && natAt x.1 4 4 == 0 &&
    (if x.2 < n then natAt x.1 8 8 % 4096 == 0 else natAt x.1 2 2 == 0 && natAt x.1 8 8 == 0))

/-- The fields of the descriptor are valid (R246). -/
def AccDesc.groupFields (d : AccDesc) (cross : Bool) : Bool :=
  let sb := d.f 2 0 64
  d.w0ok && d.zero [(1, 17, 7), (1, 29, 3), (1, 37, 27), (4, 11, 53), (5, 0, 64), (6, 0, 64), (7, 0, 64)] && d.f 1 0 16 != 0 &&
  decide (2 ≤ d.f 1 24 5) && decide (d.f 1 24 5 ≤ 16) && decide (1 ≤ d.f 1 32 5) && decide (d.f 1 32 5 ≤ 16) &&
  sb % 4096 == 0 && decide (4096 ≤ sb) && decide (sb ≤ 2 ^ 40) && d.f 3 0 64 % 64 == 0 && (!cross || d.f 4 0 8 == 0)

/-- The shard lies within the HBM and overlaps no shard of another group here (R248). -/
def Ilpiac.shardFits (m : Ilpiac) (g : Group) (x : GMember) : Bool :=
  decide (x.base + g.shardBytes ≤ m.slots * 2 ^ 30) &&
  m.groups.all (fun h => match m.myEntry h with
    | some y => decide (x.base + g.shardBytes ≤ y.base) || decide (y.base + h.shardBytes ≤ x.base)
    | none => true)

/-- The buffers of a group return to their pools (R248, R265). -/
def Ilpiac.giveGroup (m : Ilpiac) (g : Group) : Ilpiac :=
  let m := m.over (g.pieces.flatMap (·.bufs)) (fun m a => m.poolGive a)
  match g.ledgerBuf with
  | some a => m.poolGive a
  | none => m

/-- Buffers for the pieces kept here, one piece after another (R242, R248). -/
def Ilpiac.takePieces (m : Ilpiac) (n : Nat) : List (Nat × Bool) → Option (List Piece) × Ilpiac
  | [] => (some [], m)
  | p :: l =>
    match m.poolTakeN 4 n with
    | (none, m) => (none, m)
    | (some bufs, m) =>
      match m.takePieces n l with
      | (some ps, m) => (some (⟨p.1, p.2, bufs⟩ :: ps), m)
      | (none, m) => (none, m.over bufs (fun m a => m.poolGive a))

/-- CLOCHE_GROUP_CREATE: the checks that this module makes alone; the group then forms (R248). -/
def Ilpiac.groupCreate (m : Ilpiac) (d : AccDesc) (listRb : Readback) : Ilpiac :=
  let i : CplInfo := { comm := d.f 1 0 16 }
  let n := d.f 1 24 5
  let k := d.f 1 32 5
  let total := n + k + (if d.f 1 16 1 = 1 then k else 0)
  let la := d.f 3 0 64
  if !m.placed then m.done d stUnplaced i
  else
    let fields := d.groupFields m.crossBed && m.addrOk la (16 * total) false
    let m := m.noteRefusals [(la, 16 * total, false)]
    if !fields ∨ (m.group (d.f 1 0 16)).isSome then m.done d stBadDescriptor i
    else
      match m.boardRead la (16 * total) listRb with
      | (none, m) => m.done d stMemoryFault i
      | (some l, m) =>
        let digest := (crc32c (wordBytes ((d.words.drop 1).take 2) ++ (wordBytes ((d.words.drop 4).take 1)) ++ l)).toNat
        let g := groupOf d l digest
        let here := g.participants.contains (m.bed, m.plane)
        if !listOk n total l ∨ !here then m.done d stBadDescriptor i
        else if !m.has F.CAP_PRESENT_CLOCHE ∨ (!m.crossBed ∧ g.participants.any (fun x => x.1 != m.bed)) then m.done d stAbsentUnit i
        else if !(g.participants.all (fun x => m.bedInside x.1)) ∨ !m.placesOk g then m.done d stBadDescriptor i
        else
          let mine := m.myEntry g
          if mine.any (fun x => (m.comm x.comm).isNone) then m.done d stUnknownComm i
          else if mine.any (fun x => !m.shardFits g x) then m.done d stBadDescriptor i
          else
            let t := m.takePieces (ceilDiv g.pieceBytes (2 ^ m.poolLog2 4)) (m.kept g)
            match t.1 with
            | none => t.2.done d stMemoryFault i
            | some ps =>
              match t.2.poolTake 5 with
              | (none, m) => (m.over (ps.flatMap (·.bufs)) (fun m a => m.poolGive a)).done d stMemoryFault i
              | (some lb, m) => { m with groups := m.groups ++ [{ g with pieces := ps, ledgerBuf := some lb }] }

/-! ### Joining (R245, R248, R249) -/

/-- The descriptor of a ring with a number. -/
def Ilpiac.descOf (m : Ilpiac) (x : Nat × Nat) : Option AccDesc := m.ctl.descs.find? (fun d => d.ring == x.1 && d.num == x.2)

/-- A descriptor completes, when it is still there. -/
def Ilpiac.doneAt (m : Ilpiac) (x : Nat × Nat) (st : Nat) (i : CplInfo) : Ilpiac :=
  match m.descOf x with
  | some d => m.done d st i
  | none => m

/-- Own shard and pieces become zero without deltas (R249). -/
def Ilpiac.zeroOwn (m : Ilpiac) (g : Group) : Ilpiac :=
  let m := match m.myEntry g with | some x => m.zeroRange x.base g.shardBytes | none => m
  m.over (g.pieces.flatMap (·.bufs)) (fun m a => m.zeroRange a (min (2 ^ m.poolLog2 4) g.pieceBytes))

/-- A participant's roles enter the MISSING sets. -/
def Group.markMissing (g : Group) (x : Nat × Nat) : Group :=
  let mem := (List.range g.members.length).filter (fun i => match g.members[i]? with | some y => (y.bed, y.plane) == x | none => false)
  let add := fun (l r : List Nat) => l ++ r.filter (fun i => !l.contains i)
  { g with missM := add g.missM mem, missP := add g.missP ((List.range g.k).filter (fun j => g.pKeep[j]? == some x)),
           missQ := add g.missQ ((List.range g.k).filter (fun j => g.q && g.qKeep[j]? == some x)) }

/-- The outcome of a creation: the status of this module's checks across the group, combined with the others' (R96, R248, R249). -/
def Ilpiac.joinStatus (m : Ilpiac) (g : Group) (ans : List JoinAnswer) : Nat :=
  let others := m.others g
  let live := ans.filter (fun a => a.answered && others.contains (a.bed, a.plane))
  let holder := live.any (·.holder)
  let all := others.all (fun x => live.any (fun a => (a.bed, a.plane) == x))
  let variant := m.g F.IDENTITY_VARIANT
  let own := if live.any (fun a => a.digest.toNat != g.digest) || ans.any (fun a => a.variant != variant) then stCommMismatch
    else if !g.feedsOk then stFeedShared
    else if !all && !holder then stTimeout else 0
  (live.map (·.status)).foldl max own

/-- GROUP_JOIN_RESOLVE (R245, R248, R249). -/
def Ilpiac.groupJoin (m : Ilpiac) (gid : Nat) (ans : List JoinAnswer) : Ilpiac :=
  match m.group gid with
  | none => m
  | some g =>
    match g.forming with
    | none => m
    | some at_ =>
      let ans := ans.filter (fun a => (m.others g).contains (a.bed, a.plane))
      let self : Site := { bed := m.bed, plane := m.plane, feed := m.g F.PLACEMENT_FEED_ID, variant := m.g F.IDENTITY_VARIANT, known := true }
      let g := { g with sites := self :: ans.map (fun a => ({ bed := a.bed, plane := a.plane, feed := a.feed, variant := a.variant, known := a.answered } : Site)) }
      let st := m.joinStatus g ans
      if 0x40 ≤ st then
        let m := (m.giveGroup g)
        Ilpiac.doneAt { m with groups := m.groups.filter (fun x => x.id != gid) } at_ st { comm := gid }
      else
        let holder := ans.any (fun a => a.answered && a.holder)
        let silent := (m.others g).filter (fun x => !ans.any (fun a => (a.bed, a.plane) == x && a.answered))
        let lost := silent ++ (if holder then (ans.filter (·.missing)).map (fun a => (a.bed, a.plane)) ++ [(m.bed, m.plane)] else [])
        let g := lost.foldl Group.markMissing g
        let stampAt := fun (i : Nat) => match g.members[i]? with
          | some y => if (y.bed, y.plane) = (m.bed, m.plane) then stampInvalid
            else ((ans.find? (fun a => (a.bed, a.plane) == (y.bed, y.plane))).map (·.stamp)).getD stampInvalid
          | none => stampInvalid
        let g := { g with forming := none, stamps := if holder then (List.range 16).map stampAt else g.stamps, lost := !g.recoverable }
        let m := m.zeroOwn g
        (m.updGroup gid (fun _ => g)).doneAt at_ stOk { comm := gid }

/-! ### Deltas and stamps received (R251, R253) -/

/-- The plane of the sender of a cloche packet, by its POSITION or as the keeper of its piece (R325). -/
def Group.senderPlane (g : Group) (m : Ilpiac) (p : Packet) : Nat :=
  if m.crossBed then m.plane
  else
    let byPos := ((g.members[p.f 1 16 4]?).map (·.plane)).getD m.plane
    if p.ty = 0x65 ∧ g.missM.contains (p.f 1 16 4) then
      (match g.pKeep[p.f 1 20 4]? with
       | some x => if g.missP.contains (p.f 1 20 4) ∨ x = (m.bed, m.plane) then ((g.qKeep[p.f 1 20 4]?).map (·.2)).getD byPos else x.2
       | none => byPos)
    else byPos

/-- TACK of a cloche packet. -/
def Ilpiac.clocheTack (m : Ilpiac) (g : Group) (p : Packet) : Ilpiac := m.tack p (g.senderPlane m p) (some g.id)

/-- DELTA at a keeper (R251, R252): applied once and acknowledged; a LOST group takes none. Whether a delta equal to one applied before is a
replay cannot be told from it: a free value decides (assumption 23). -/
def Ilpiac.deltaRx (m : Ilpiac) (p : Packet) : Ilpiac :=
  match m.group (p.f 1 0 16) with
  | none => m
  | some g =>
    let j := p.f 1 20 4
    let off := p.f 1 24 40
    let x := (BitVec.ofNat 64 (p.h 1), p.body)
    let mine := g.pieces.filter (fun y => y.num == j)
    if g.lost ∨ g.forming.isSome ∨ mine.isEmpty ∨ p.body.length ≠ 64 ∨ off % 64 ≠ 0 ∨ g.pieceBytes < off + 64 then m
    else
      let d := m.draw
      let dup := g.seen.contains x && d.1 % 2 == 1
      let m := if g.seen.contains x then d.2 else m
      let m := if dup then m
        else
          let m := m.over mine (fun m y => m.foldDelta g y (p.f 1 16 4) off p.body)
          m.updGroup g.id (fun g => if g.seen.contains x then g else { g with seen := g.seen ++ [x] })
      m.clocheTack g p

/-- STAMP (R253, R325): the stamp of a member as last reported, and whether its shard is MISSING. -/
def Ilpiac.stampRx (m : Ilpiac) (p : Packet) : Ilpiac :=
  match m.group (p.f 1 0 16) with
  | none => m
  | some g =>
    let pos := p.f 1 16 4
    match g.members[pos]? with
    | none => m
    | some y =>
      let m := m.updGroup g.id (fun g => { g with stamps := g.stamps.set pos (p.h 2) })
      let m :=
        if p.f 1 20 1 = 1 then (if g.missM.contains pos then m else m.updGroup g.id (fun g => let g := { g with missM := g.missM ++ [pos] }; { g with lost := g.lost || !g.recoverable }))
        else m.updGroup g.id (fun g => { g with
          missM := g.missM.filter (· != pos),
          restore := match g.restore with
            | some r => if !r.target && (bitIdx r.mask 16).all (fun i => i == pos || !g.missM.contains i) then none else some r
            | none => none })
      let _ := y
      m.clocheTack g p

/-! ### The scale ledger (R254, R255) -/

/-- An entry enters the ledger of a member: it replaces one with the same STEP and PART, and the latest 64 stay. -/
def Group.keepEntry (g : Group) (pos : Nat) (e : List Byte) : Group :=
  let same := fun (x : LedgerEnt) => x.pos == pos && natAt x.bytes 0 8 == natAt e 0 8 && natAt x.bytes 0x28 1 == natAt e 0x28 1
  let l := g.ledger.filter (fun x => !same x) ++ [⟨pos, e⟩]
  let own := l.filter (fun x => x.pos == pos)
  { g with ledger := l.filter (fun x => x.pos != pos) ++ own.drop (own.length - 64) }

/-- The CRC of an entry is right (R254). -/
def entryCrcOk (e : List Byte) : Bool := natAt e 0x24 4 == (crc32c (patch e 0x24 [0, 0, 0, 0])).toNat

/-- The STEP of the latest entry of a member. -/
def Group.lastEntry (g : Group) (pos : Nat) : Option Nat := ((g.ledger.filter (fun x => x.pos == pos)).getLast?).map (fun x => natAt x.bytes 0 8)

/-- An accepted entry is stored and copied to every participant that is not MISSING. -/
def Ilpiac.ledgerCopy (m : Ilpiac) (gid pos : Nat) (e : List Byte) : Ilpiac :=
  match m.group gid with
  | none => m
  | some g =>
    let m := m.updGroup gid (fun g => g.keepEntry pos e)
    m.over (m.reached g) (fun m x => m.clocheSend g 0x66 x [clocheH1 gid pos 0 0] e)

/-- Whether a restore of the group runs here. -/
def Group.restoring (g : Group) : Bool := g.restore.isSome

/-- LEDGER_WRITEs whose copies are all acknowledged complete, and those that waited for a restore go on (R255). -/
def Ilpiac.ledgerFlow (m : Ilpiac) (gid : Nat) : Ilpiac :=
  match m.group gid with
  | none => m
  | some g =>
    let pos := (m.myPos g).getD 0
    let m := if g.restoring then m
      else m.over (g.ledgerWaits.filter (·.waiting)) (fun m w =>
        (m.ledgerCopy gid pos w.entry).updGroup gid (fun g => { g with ledgerWaits := mapIf (fun x => x == w) (fun x => { x with waiting := false }) g.ledgerWaits }))
    let open_ := fun (m : Ilpiac) (w : LedgerWait) =>
      (m.coll.trunk ++ m.coll.trunkWait).any (fun t => t.group == some gid && t.pkt.ty == 0x66 && t.pkt.body == w.entry)
    match m.group gid with
    | none => m
    | some g =>
      m.over (g.ledgerWaits.filter (fun w => !w.waiting && !open_ m w)) (fun m w =>
        (m.updGroup gid (fun g => { g with ledgerWaits := g.ledgerWaits.filter (fun x => x != w) })).doneAt (w.ring, w.num) stOk
          { comm := gid, step := natAt w.entry 0 8 })

/-- LEDGER_WRITE (R254, R255). -/
def Ilpiac.ledgerWrite (m : Ilpiac) (d : AccDesc) (entry : Readback) : Ilpiac :=
  let gid := d.f 1 0 16
  let a := d.f 2 0 64
  let i : CplInfo := { comm := gid }
  let fields := d.w0ok && d.zero [(1, 16, 48), (3, 0, 64), (4, 0, 64), (5, 0, 64), (6, 0, 64), (7, 0, 64)] && a % 64 == 0 && m.addrOk a 512 false
  if !m.placed then m.done d stUnplaced i
  else if !m.has F.CAP_PRESENT_CLOCHE then m.done d stAbsentUnit i
  else
    let m := m.noteRefusals [(a, 512, false)]
    match m.group gid with
    | none => m.done d stBadDescriptor i
    | some g =>
      match m.myPos g, m.myEntry g with
      | some pos, some me =>
        if !fields ∨ g.forming.isSome then m.done d stBadDescriptor i
        else
          match m.boardRead a 512 entry with
          | (none, m) => m.done d stMemoryFault i
          | (some e, m) =>
            let i := { i with step := natAt e 0 8 }
            let seeds : Bool := match m.comm me.comm with
              | some cm => natAt e 8 8 == cm.seedLo.toNat && natAt e 0x10 8 == cm.seedHi.toNat
              | none => false
            let late : Bool := match g.lastEntry pos with | some s => decide (natAt e 0 8 < s) | none => false
            if !entryCrcOk e ∨ natAt e 0x20 2 ≠ me.comm ∨ !seeds ∨ late then m.done d stBadDescriptor i
            else
              let w : LedgerWait := { ring := d.ring, num := d.num, entry := e, waiting := g.restoring }
              let m := m.updGroup gid (fun g => { g with ledgerWaits := g.ledgerWaits ++ [w] })
              (if g.restoring then m else m.ledgerCopy gid pos e).ledgerFlow gid
      | _, _ => m.done d stBadDescriptor i

/-- LEDGER (R255). -/
def Ilpiac.ledgerRx (m : Ilpiac) (p : Packet) : Ilpiac :=
  match m.group (p.f 1 0 16) with
  | none => m
  | some g => if p.body.length ≠ 512 then m else (m.updGroup g.id (fun g => g.keepEntry (p.f 1 16 4) p.body)).clocheTack g p

/-! ### CLOCHE_RESTORE (R191, R192, R256, R257) -/

/-- What a restore completes with. -/
def Ilpiac.endRestore (m : Ilpiac) (gid st : Nat) : Ilpiac :=
  match m.group gid with
  | none => m
  | some g =>
    match g.restore with
    | none => m
    | some r =>
      let m := m.updGroup gid (fun g => { g with restore := none })
      if r.target then (m.doneAt (r.ring, r.num) st { comm := gid, step := r.step, count := r.written.length }).ledgerFlow gid else m

/-- Whether every stripe that a PARITY restore writes can be had from the participants that are not MISSING (R257). -/
def Group.canRebuild (g : Group) (mask : Nat) : Bool :=
  let lost := (bitIdx mask 16) ++ g.missM.filter (fun i => !bitOf mask i)
  (List.range g.k).all (fun j =>
    decide (lost.length + b2n (g.missP.contains j) + b2n (g.q && g.missQ.contains j) + b2n (g.lostStripes.any (fun s => s % g.k == j)) ≤ if g.q then 2 else 1))

/-- The stamp check of R257: surviving shards, and every keeper's record of the lost members; what this module records and what the others
answer. -/
def Ilpiac.stampsAgree (m : Ilpiac) (g : Group) (mask : Nat) (image : Bool) (ans : List RestoreAnswer) (step : Nat) : Bool :=
  let own := m.myPos g
  (List.range g.members.length).all (fun i =>
    if image ∧ own = some i then true
    else if mask ≠ 0 ∧ g.missM.contains i ∧ !bitOf mask i then true
    else
      let heard := (ans.flatMap (·.stamps)).filter (fun x => x.1 == i)
      (if heard.isEmpty ∨ (own ≠ some i ∧ !(m.kept g).isEmpty) ∨ (own = some i ∧ !bitOf mask i) then (g.stamps[i]?).getD 0 == step else true) &&
      heard.all (fun x => x.2 == step))

/-- R192: the step record against the communicator's seeds and the ledger entry for STEP. -/
def Ilpiac.recordAgrees (m : Ilpiac) (g : Group) (rec_ : List Byte) (ans : List RestoreAnswer) : Bool :=
  let step := natAt rec_ 0 8
  let comm := match m.myEntry g with | some x => x.comm | none => natAt rec_ 0x28 2
  let seeds : Bool := match m.comm comm with
    | some cm => natAt rec_ 8 8 == cm.seedLo.toNat && natAt rec_ 0x10 8 == cm.seedHi.toNat
    | none => false
  let own := (g.ledger.filter (fun x => natAt x.bytes 0 8 == step && natAt x.bytes 0x20 2 == comm && entryCrcOk x.bytes)).map (·.bytes)
  let heard := (ans.filterMap (·.entry)).filter (fun e => natAt e 0 8 == step && natAt e 0x20 2 == comm && entryCrcOk e)
  let agrees := match (own ++ heard).head? with
    | some e => natAt e 8 8 == natAt rec_ 8 8 && natAt e 0x10 8 == natAt rec_ 0x10 8 && natAt e 0x18 8 == natAt rec_ 0x18 8
    | none => false
  natAt rec_ 0x20 8 == step && natAt rec_ 0x28 2 == comm && (bytesAt rec_ 0x2A 22).all (· == 0) && seeds && agrees

/-- CLOCHE_RESTORE: the checks of R257; it waits until every write into every shard has settled. -/
def Ilpiac.restoreBegin (m : Ilpiac) (d : AccDesc) (recRb imgRb : Readback) (ans : List RestoreAnswer) : Ilpiac :=
  let gid := d.f 1 0 16
  let image := d.f 1 16 1 == 1
  let mask := d.f 1 32 16
  let ra := d.f 2 0 64
  let ia := d.f 3 0 64
  let i : CplInfo := { comm := gid }
  if !m.placed then m.done d stUnplaced i
  else if !m.has F.CAP_PRESENT_CLOCHE then m.done d stAbsentUnit i
  else
    match m.group gid with
    | none => m.done d stBadDescriptor i
    | some g =>
      let own := m.myPos g
      let role := if image then own.isSome else if mask = 0 then !(m.kept g).isEmpty else own.any (bitOf mask ·)
      let fields := d.w0ok && d.zero [(1, 17, 15), (1, 48, 16), (4, 0, 64), (5, 0, 64), (6, 0, 64), (7, 0, 64)] && ra % 64 == 0 && m.addrOk ra 64 false &&
        (if image then mask == 0 && ia % 64 == 0 && m.addrOk ia (64 + g.shardBytes) false else ia == 0) && role && g.forming.isNone &&
        (bitIdx mask 16).all (· < g.members.length)
      let m := m.noteRefusals ([(ra, 64, false)] ++ (if image then [(ia, 64 + g.shardBytes, false)] else []))
      let running := (match g.restore with | some r => [(r.mask, r.image)] | none => []) ++ ans.filterMap (·.running)
      if !fields then m.done d stBadDescriptor i
      else if g.lost ∨ (!image ∧ ((if g.q then 2 else 1) < popCount mask 16 ∨ !g.canRebuild mask ∨ (mask = 0 ∧ !g.missM.isEmpty))) then m.done d stMemoryFault i
      else if running.any (fun r => r != (mask, image)) ∨ (g.restore.any (·.target)) then m.done d stBadDescriptor i
      else
        match m.boardRead ra 64 recRb with
        | (none, m) => m.done d stMemoryFault i
        | (some rec_, m) =>
          let step := natAt rec_ 0 8
          let i := { i with step }
          let start := fun (m : Ilpiac) (shard : List Byte) =>
            let r : Restore := { target := true, ring := d.ring, num := d.num, image, mask, step, written := [], rebuilds := [], shard }
            m.updGroup gid (fun g => { g with restore := some r })
          let ok := m.recordAgrees g rec_ ans && m.stampsAgree g mask image ans step
          if !image then (if ok then start m [] else m.done d stStepSkew i)
          else
            match m.boardRead ia (64 + g.shardBytes) imgRb with
            | (none, m) => m.done d stMemoryFault i
            | (some img, m) =>
              let shard := img.drop 64
              if natAt img 0 4 ≠ 0x434C4F31 ∨ natAt img 0x10 8 ≠ g.shardBytes ∨ !(bytesAt img 0x18 40).all (· == 0) ∨ natAt img 4 4 ≠ (crc32c shard).toNat then
                m.done d stBadDescriptor i
              else if ok && natAt img 8 8 == step then start m shard
              else m.done d stStepSkew i

/-- Whether every write into every shard of the group has settled (R257). -/
def Ilpiac.settled (m : Ilpiac) (gid : Nat) (ans : List RestoreAnswer) : Bool :=
  (match m.group gid with | some g => g.unsettled == 0 | none => true) && ans.all (·.settled)

/-! ### Stripes (R258 to R260) -/

/-- The stripes that a PARITY restore writes at this target: of its shard, or of its pieces as (piece, stripe). -/
def Ilpiac.wanted (m : Ilpiac) (g : Group) (r : Restore) : Nat :=
  if r.mask ≠ 0 then g.shardBytes / 4096 else sumOf ((m.kept g).map (fun x => (g.stripesOf x.1).length))

/-- The fold of a survivor's stripe into what a keeper rebuilds (R241, R259). -/
def Rebuild.fold (x : Rebuild) (pos : Nat) (d : List Byte) : Rebuild :=
  if x.srcs.contains pos then x
  else { x with srcs := x.srcs ++ [pos], xorSum := xorBytes x.xorSum d, gfSum := xorBytes x.gfSum (gfScale (gfG pos) d) }

/-- The content of a stripe of a piece kept here. -/
def Ilpiac.pieceStripe (m : Ilpiac) (p : Piece) (off : Nat) : Option (List Byte) × Ilpiac :=
  m.memRead (m.pieceAddr p off) 4096 (m.hintAt (m.pieceAddr p off) false)

/-- A rebuilt stripe travels to the member that lost it. -/
def Ilpiac.sendStripe (m : Ilpiac) (g : Group) (pos j off : Nat) (d : List Byte) : Ilpiac :=
  match g.members[pos]? with
  | some y => m.clocheSend g 0x65 (y.bed, y.plane) [clocheH1 g.id pos j off] d
  | none => m

/-- What a keeper makes of a stripe once it has the stripe of every member that is not MISSING (R258, R259). With two lost members the Q
keeper hands its sum to the P keeper of the piece, which solves for both (assumption 45). -/
def Ilpiac.solve (m : Ilpiac) (gid : Nat) (x : Rebuild) : Ilpiac :=
  match m.group gid with
  | none => m
  | some g =>
    let lost := (List.range g.members.length).filter (fun i => !x.srcs.contains i)
    let ready := lost.all (fun i => g.missM.contains i)
    let off := x.stripe / g.k * 4096
    if !ready then m
    else
      match g.piece x.piece false, g.piece x.piece true, lost with
      | some p, _, [a] =>
        (match m.pieceStripe p off with
         | (some d, m) => m.sendStripe g a x.piece off (xorBytes d x.xorSum)
         | (none, m) => m.loseStripe gid x.stripe)
      | none, some q, [a] =>
        if !g.missP.contains x.piece then m
        else
          (match m.pieceStripe q off with
           | (some d, m) => m.sendStripe g a x.piece off (gfScale (gfInv (gfG a)) (xorBytes d x.gfSum))
           | (none, m) => m.loseStripe gid x.stripe)
      | none, some q, [a, _] =>
        (match g.pKeep[x.piece]?, m.pieceStripe q off with
         | some pk, (some d, m) => if g.missP.contains x.piece then m else m.clocheSend g 0x65 pk [clocheH1 gid a x.piece off] (xorBytes d x.gfSum)
         | _, (_, m) => m)
      | _, _, _ => m

/-- A stripe of a lost position that the Q keeper hands to the P keeper: Qxy of R259. -/
def Ilpiac.solveTwo (m : Ilpiac) (g : Group) (x : Rebuild) (qxy : List Byte) : Ilpiac :=
  let lost := (List.range g.members.length).filter (fun i => !x.srcs.contains i)
  let off := x.stripe / g.k * 4096
  match lost, g.piece x.piece false with
  | [a, b], some p =>
    (match m.pieceStripe p off with
     | (some d, m) =>
       let pxy := xorBytes d x.xorSum
       let dx := gfScale (gfInv (gfG a ^^^ gfG b)) (xorBytes qxy (gfScale (gfG b) pxy))
       (m.sendStripe g a x.piece off dx).sendStripe g b x.piece off (xorBytes pxy dx)
     | (none, m) => m.loseStripe g.id x.stripe)
  | _, _ => m

/-- The rebuilding of a stripe at a keeper, begun when its first survivor's stripe arrives. -/
def Group.rebuildOf (g : Group) (j s : Nat) : Rebuild :=
  ((g.restore.map (·.rebuilds)).getD []).find? (fun x => x.piece == j && x.stripe == s) |>.getD
    { piece := j, stripe := s, srcs := [], xorSum := List.replicate 4096 0, gfSum := List.replicate 4096 0 }

/-- A rebuild takes its new value. -/
def Group.setRebuild (g : Group) (x : Rebuild) : Group :=
  let r : Restore := g.restore.getD { target := false, ring := 0, num := 0, image := false, mask := ofBitIdx g.missM, step := 0, written := [], rebuilds := [], shard := [] }
  { g with restore := some { r with rebuilds := r.rebuilds.filter (fun y => !(y.piece == x.piece && y.stripe == x.stripe)) ++ [x] } }

/-- A stripe written at the target counts once. -/
def Group.countStripe (g : Group) (s : Nat) : Group :=
  { g with restore := g.restore.map (fun r => { r with written := r.written.filter (· != s) ++ [s] }), lostStripes := g.lostStripes.filter (· != s) }

/-- STRIPE (R258 to R260): at the target its rebuilt stripe; at a keeper a survivor's stripe, or the sum of the other keeper. -/
def Ilpiac.stripeRx (m : Ilpiac) (p : Packet) : Ilpiac :=
  match m.group (p.f 1 0 16) with
  | none => m
  | some g =>
    let pos := p.f 1 16 4
    let j := p.f 1 20 4
    let off := p.f 1 24 40
    let s := g.stripeAt j off
    if p.body.length ≠ 4096 ∨ g.lost ∨ g.forming.isSome ∨ off % 4096 ≠ 0 ∨ g.shardBytes / 4096 ≤ s then m
    else
      let m := m.clocheTack g p
      let target : Bool := match g.restore with | some r => r.target && !r.image | none => false
      if target ∧ m.myPos g = some pos then
        match m.myEntry g with
        | some me =>
          let w := m.plainWrite (me.base + s * 4096) p.body (m.hintAt (me.base + s * 4096) true)
          if w.1 then w.2.updGroup g.id (fun g => g.countStripe s) else w.2
        | none => m
      else if (g.pieces.filter (fun y => y.num == j)).isEmpty then m
      else if g.missM.contains pos then m.solveTwo g (g.rebuildOf j s) p.body
      else
        let x := (g.rebuildOf j s).fold pos p.body
        let m := m.updGroup g.id (fun g => g.setRebuild x)
        if target ∧ (g.restore.map (·.mask)) = some 0 then
          if x.srcs.length < g.members.length then m
          else
            -- R260: the pieces kept here are rebuilt from all members
            m.over (g.pieces.filter (fun y => y.num == j)) (fun m y =>
              let w := m.plainWrite (m.pieceAddr y off) (if y.q then x.gfSum else x.xorSum) (m.hintAt (m.pieceAddr y off) true)
              if w.1 then w.2.updGroup g.id (fun g => g.countStripe (s + if y.q then g.shardBytes else 0)) else w.2)
        else m.solve g.id x

/-! ### RESTORE_COMPLETE (R258, R260, R261) -/

/-- The residuals of the restored communicator become +0, stamped STEP (R188, R258, R261). -/
def Ilpiac.zeroResiduals (m : Ilpiac) (comm step : Nat) : Ilpiac :=
  match m.comm comm with
  | none => m
  | some cm =>
    let m := m.over cm.residuals (fun m r => (m.memWrite (r.buf + 4096 * r.half) (List.replicate 4096 0) hintNormal).2)
    m.updComm comm (fun cm => { cm with residuals := cm.residuals.map (fun r => { r with stamp := step, fresh := [], other := none }) })

/-- The shard counts as restored: stamp and MISSING are reported to every participant that is reached, and the stale mark is lifted. -/
def Ilpiac.shardRestored (m : Ilpiac) (g : Group) (comm step : Nat) : Ilpiac :=
  let pos := (m.myPos g).getD 0
  let m := m.zeroResiduals comm step
  let m := m.updGroup g.id (fun g => { g with missM := g.missM.filter (· != pos), stamp := step, stamps := g.stamps.set pos step })
  let m := m.over (m.reached g) (fun m x => m.clocheSend g 0x67 x [clocheH1 g.id pos 0 0, step] [])
  (m.updComm comm (fun cm => { cm with stale := false })).endRestore g.id stOk

/-- RESTORE_COMPLETE: a PARITY restore ends when every stripe is written; an IMAGE restore writes its shard through the normal path, and ends
when those writes have settled. -/
def Ilpiac.restoreComplete (m : Ilpiac) (gid : Nat) : Ilpiac :=
  match m.group gid with
  | none => m
  | some g =>
    match g.restore with
    | none => m
    | some r =>
      if !r.target then m
      else if r.image then
        match m.myEntry g with
        | none => m
        | some me =>
          let n := g.shardBytes / 4096
          if r.written.length < n then
            let ok := (m.memWrite me.base r.shard (m.hintAt me.base true))
            let m := ok.2
            if !ok.1 then m.endRestore gid stMemoryFault
            else
              let m := m.updGroup gid (fun g => { g with restore := some { r with written := List.range n, shard := [] } })
              match m.group gid with
              | some g => if g.unsettled = 0 then m.shardRestored g me.comm r.step else m
              | none => m
          else if g.unsettled = 0 then m.shardRestored g me.comm r.step
          else m
      else if r.written.length < m.wanted g r then m
      else if r.mask = 0 then
        let ks := m.kept g
        let m := m.updGroup gid (fun g => { g with
          missP := g.missP.filter (fun j => !ks.contains (j, false)), missQ := g.missQ.filter (fun j => !ks.contains (j, true)) })
        m.endRestore gid stOk
      else
        match m.myEntry g with
        | some me => m.shardRestored g me.comm r.step
        | none => m

/-- What losses do to a restore at its target: the loss of its own companion ends it with ST_HEADLESS and leaves the shard MISSING (R263), and
a LOST group ends it (R262). -/
def Ilpiac.restoreLoss (m : Ilpiac) (gid : Nat) : Ilpiac :=
  match m.group gid with
  | some g =>
    if m.headless && (match g.restore with | some r => r.target | none => false) then m.endRestore gid stHeadless
    else if g.lost && (match g.restore with | some r => !r.image | none => false) then m.endRestore gid stMemoryFault else m
  | none => m

/-- What follows in the cloche from any event: losses and acknowledgements. -/
def Ilpiac.clocheFlow (m : Ilpiac) : Ilpiac := m.over (m.groups.map (·.id)) (fun m gid => (m.restoreLoss gid).ledgerFlow gid)

/-! ### Destroy and query (R265, R266) -/

/-- CLOCHE_GROUP_DESTROY. -/
def Ilpiac.groupDestroy (m : Ilpiac) (d : AccDesc) : Ilpiac :=
  let gid := d.f 1 0 16
  let i : CplInfo := { comm := gid }
  let fields := d.w0ok && d.zero [(1, 16, 48), (2, 0, 64), (3, 0, 64), (4, 0, 64), (5, 0, 64), (6, 0, 64), (7, 0, 64)]
  if !m.placed then m.done d stUnplaced i
  else if !m.has F.CAP_PRESENT_CLOCHE then m.done d stAbsentUnit i
  else
    match m.group gid with
    | none => m.done d stBadDescriptor i
    | some g =>
      if !fields then m.done d stBadDescriptor i
      else
        let m := m.endRestore gid stAborted
        let m := match m.group gid with
          | some g => m.over g.ledgerWaits (fun m w => m.doneAt (w.ring, w.num) stAborted { comm := gid, step := natAt w.entry 0 8 })
          | none => m
        let m := match g.forming with | some x => m.doneAt x stAborted i | none => m
        let m := m.giveGroup g
        Ilpiac.done { m with groups := m.groups.filter (fun x => x.id != gid) } d stOk i

/-- STATE of a query record. -/
def Group.state (g : Group) : Nat :=
  if g.lost then 3 else if g.forming.isSome then 4 else if g.restore.isSome then 2
  else if !(g.missM.isEmpty && g.missP.isEmpty && g.missQ.isEmpty) then 1 else 0

/-- The 256-byte record of R266. -/
def Ilpiac.groupRecord (m : Ilpiac) (g : Group) : List Byte :=
  let pos := m.myPos g
  leBytes 1 g.state ++ leBytes 1 (b2n g.q) ++ leBytes 1 g.members.length ++ leBytes 1 g.k ++ leBytes 1 (pos.getD 0xFF) ++ leBytes 3 0 ++
  leBytes 2 (ofBitIdx g.missM) ++ leBytes 2 (ofBitIdx g.missP) ++ leBytes 2 (ofBitIdx g.missQ) ++ leBytes 2 0 ++
  leBytes 8 (if pos.isSome then g.stamp else stampInvalid) ++ leBytes 8 g.sent ++ leBytes 8 g.applied ++ leBytes 8 g.unsettled ++
  leBytes 8 ((pos.bind g.lastEntry).getD stampInvalid) ++ leBytes 8 0 ++ (g.stamps.flatMap (leBytes 8)) ++ List.replicate 64 0

/-- CLOCHE_QUERY. -/
def Ilpiac.clocheQuery (m : Ilpiac) (d : AccDesc) : Ilpiac :=
  let gid := d.f 1 0 16
  let a := d.f 2 0 64
  let i : CplInfo := { comm := gid }
  let fields := d.w0ok && d.zero [(1, 16, 48), (3, 0, 64), (4, 0, 64), (5, 0, 64), (6, 0, 64), (7, 0, 64)] && a % 64 == 0 && m.addrOk a 256 true
  if !m.placed then m.done d stUnplaced i
  else if !m.has F.CAP_PRESENT_CLOCHE then m.done d stAbsentUnit i
  else
    let m := m.noteRefusals [(a, 256, true)]
    match m.group gid with
    | none => m.done d stBadDescriptor i
    | some g => if !fields then m.done d stBadDescriptor i else (m.boardWrite a (m.groupRecord g)).done d stOk i

/-- A write through the aperture into a shard under the restore hold is discarded, with a cloche fault (R258). -/
def Ilpiac.heldShard (m : Ilpiac) (a n : Nat) : Bool :=
  m.groups.any (fun g => (match g.restore with | some r => !r.image | none => false) &&
    (match m.myEntry g with | some x => decide (a < x.base + g.shardBytes) && decide (x.base < a + n) | none => false))

end Sys2Proof.Machine
end

