-- ==== Sys2Proof/Machine/Holm.lean ====
section
/-! DEFINITION. The Holm link (spec 14, R453 to R457) and the loss of the companion (spec 15, R499 to R501). -/

namespace Sys2Proof.Machine

/-! ### Rings in use -/

/-- Instances of a ring kind whose control register (at 0x10 of the doorbell page) has ENABLE = 1 (R484, R485). -/
def Ilpiac.ringsOn (m : Ilpiac) (b : Blk) : List Nat :=
  (m.regs.filter (fun x => decide (b.base ≤ x.1) && decide (x.1 < b.at b.count) && (x.1 - b.base) % b.stride == 0x10 &&
    x.2.toNat % 2 == 1)).map (fun x => (x.1 - b.base) / b.stride)

/-- States of a descriptor ring (R484). -/
def drStopped : Nat := 0
def drRunning : Nat := 1
def drHeld : Nat := 2
def drError : Nat := 3

/-- A descriptor ring stops as a write of ENABLE = 0 stops it (R470). -/
def Ilpiac.stopRing (m : Ilpiac) (r : Nat) : Ilpiac :=
  let m := ((m.wr .dring r F.DR_CTRL_ENABLE 0).wr .dring r F.DR_STATUS_STATE drStopped).wr .dring r F.DR_STATUS_HOLD 0
  { m with ctl := { m.ctl with drings := Map.put (fun _ => ⟨[]⟩) m.ctl.drings r ⟨[]⟩ } }

/-! ### Headless (R499 to R501) -/

/-- Causes of HEADLESS (R506). -/
def headHeartbeat : Nat := 1
def headHolmDown : Nat := 2

/-- The companion is lost: every descriptor ring stops, completion records wait, and COMPANION asserts (R499, R500). -/
def Ilpiac.enterHeadless (m : Ilpiac) (cause : Nat) : Ilpiac :=
  if m.g F.HEADLESS_ACTIVE = 1 then m
  else
    let m := (m.gw F.HEADLESS_ACTIVE 1).gw F.HEADLESS_CAUSE cause
    let m := m.over (m.ringsOn .dring) (fun m r => m.stopRing r)
    let on := m.ringsOn .cring
    let m := { m with ctl := { m.ctl with crWait := on } }
    let m := m.over on (fun m c => m.stall c)
    (m.sbEvent 2).raise srcCompanion 0 0

/-- HEADLESS.RESUME (R501). -/
def Ilpiac.resume (m : Ilpiac) : Ilpiac :=
  if m.g F.HEADLESS_ACTIVE = 0 then m
  else
    let w := m.ctl.crWait
    let m := m.gw F.HEADLESS_ACTIVE 0
    let m := { m with ctl := { m.ctl with crWait := [] } }
    (m.over w (fun m c => m.stall c)).release srcCompanion (fun _ => true)

/-- HB_CTRL.TIMEOUT_MS without a change of HEARTBEAT.COUNT (R499). -/
def Ilpiac.heartbeatTimeout (m : Ilpiac) : Ilpiac :=
  if m.ctl.holm.wasUp ∧ m.g F.HB_CTRL_ENABLE = 1 then m.enterHeadless headHeartbeat else m

/-! ### The link (R453, R454, R457) -/

/-- States of the Holm port (R482). -/
def holmOff : Nat := 0
def holmUnassigned : Nat := 1
def holmUp : Nat := 2

/-- The Holm port leaves UP: messages in flight are lost, the bases are cleared, an image load fails, and the companion counts as lost (R454,
R539). -/
def Ilpiac.holmDown (m : Ilpiac) : Ilpiac :=
  if m.g F.HOLM_STATUS_STATE = holmOff then m
  else
    let m := ((m.gw F.HOLM_STATUS_STATE holmOff).gw F.HOLM_BASE_REG_BASE 0).gw F.HOLM_BASE_HBM_BASE 0
    let load : Option ImageLoading := m.boot.load.map (fun l => { l with lost := true })
    let m := { m with ctl := { m.ctl with holm := { m.ctl.holm with replay := [], waiting := [] } }, boot := { m.boot with load := load } }
    if m.ctl.holm.wasUp then m.enterHeadless headHolmDown else m

/-- The Holm port has formed: a new link starts, without bases (R457). -/
def Ilpiac.holmStart (m : Ilpiac) : Ilpiac :=
  let m := m.gw F.HOLM_STATUS_STATE holmUnassigned
  { m with ctl := { m.ctl with holm := { m.ctl.holm with replay := [], waiting := [], nextSeq := 0, ackSent := 0 } } }

/-- ASSIGN: REG_BASE is a multiple of 64 MiB, HBM_BASE of 2^40, both below 2^52 (R457). -/
def Ilpiac.assignBases (m : Ilpiac) (reg hbm : Nat) : Ilpiac :=
  if m.g F.HOLM_STATUS_STATE = holmOff ∨ reg % 2 ^ 26 ≠ 0 ∨ hbm % 2 ^ 40 ≠ 0 ∨ 2 ^ 52 ≤ reg ∨ 2 ^ 52 ≤ hbm then m
  else
    let m := ((m.gw F.HOLM_BASE_REG_BASE (reg / 2 ^ 26)).gw F.HOLM_BASE_HBM_BASE (hbm / 2 ^ 40)).gw F.HOLM_STATUS_STATE holmUp
    Ilpiac.send { m with ctl := { m.ctl with holm := { m.ctl.holm with wasUp := true } } } .assignAck

/-- HOLM_ACK_RECEIVED: flits up to `seq` are acknowledged; a report of the lost flit `seq` acknowledges those before it and sends it and every
later one again (R453). -/
def Ilpiac.holmAck (m : Ilpiac) (seq : Nat) (lost : Bool) : Ilpiac :=
  let h := m.ctl.holm
  match h.replay.findIdx? (fun f => f.seq == seq) with
  | none => m
  | some i =>
    let rest := h.replay.drop (if lost then i else i + 1)
    let again := if lost then rest.map (fun f => { f with sends := f.sends + 1 }) else rest
    let h := Holm.fill h.waiting.length { h with replay := again }
    let m := { m with ctl := { m.ctl with holm := h } }
    if lost then m.gcnt F.HOLM_STATUS_REPLAYS rest.length else m

/-- HOLM_ACK_TIMEOUT: no acknowledgement for 10 µs with flits outstanding, or a flit sent 8 times (R454); the port leaves UP and its sets are
formed anew by the caller. -/
def Ilpiac.holmLost (m : Ilpiac) : Bool := !m.ctl.holm.replay.isEmpty

end Sys2Proof.Machine
end

