-- ==== Sys2Proof/Machine/Time.lean ====
section
/-! DEFINITION. Fabric time and the reference clock (spec 13, R434 to R448; spec 12, R393 to R395). -/

namespace Sys2Proof.Machine

/-! ### The count (R434, R435) -/

/-- Fabric time in units of 1/65,536 ns. -/
def TimeX.at (t : TimeX) : Nat := t.ns * 65536 + t.frac

/-- Fabric time set to a number of units, modulo 2^64 ns. -/
def TimeX.set (t : TimeX) (u : Nat) : TimeX := { t with ns := u / 65536 % 2 ^ 64, frac := u % 65536 }

/-- The depth of the down-spread that INC follows: the master's own, or what TIME_SYNC carries; values above 2,500 act as 2,500 (R394, R418,
R435). -/
def Ilpiac.spread (m : Ilpiac) : Nat :=
  min 2500 (if m.g F.TIME_STATUS_STATE = 5 then m.g F.REF_CTRL_SPREAD_PPM else m.time.spread)

/-- One cycle of the lane reference: fabric time advances by INC = 6.4 ns / (1 − SPREAD_PPM × 0.5 × 10⁻⁶), changed by at most 1,000 ppm while an
offset remains (R435, R441). -/
def TimeX.cycle (t : TimeX) (spread : Nat) : TimeX :=
  let d := 2000000 - spread
  let n := 838860800000 + t.rem
  let inc := n / d
  let a : Int := max (-((inc / 1000 : Nat) : Int)) (min t.slew ((inc / 1000 : Nat) : Int))
  { t.set (t.at + ((inc : Int) - a).toNat) with rem := n % d, slew := t.slew - a }

/-- One furrow cycle of 1/1.2 GHz is 25/192 of a reference cycle of 6.4 ns. -/
def Ilpiac.timeTick (m : Ilpiac) : Ilpiac :=
  let ph := m.time.phase + 25
  if ph < 192 then { m with time := { m.time with phase := ph } }
  else { m with time := { m.time.cycle m.spread with phase := ph - 192 } }

/-! ### State of the timekeeper (R443) -/

def timeUnset : Nat := 0
def timeAcquiring : Nat := 1
def timeLocked : Nat := 2
def timeHoldover : Nat := 3
def timeConflict : Nat := 4
def timeMaster : Nat := 5

def Ilpiac.timeState (m : Ilpiac) : Nat := m.g F.TIME_STATUS_STATE

/-- A change of TIME_STATUS.STATE sets the TIME event (R476); HOLDOVER and CONFLICT assert TIME, and the assertion ends when the state is
left, or once time is locked (R443). -/
def Ilpiac.setTimeState (m : Ilpiac) (st : Nat) : Ilpiac :=
  let old := m.timeState
  if old = st then m
  else
    let m := (m.gw F.TIME_STATUS_STATE st).event .time
    let m := if st = timeLocked ∨ st = timeMaster ∨ old = timeHoldover ∨ old = timeConflict then m.release srcTime (fun _ => true) else m
    if st = timeHoldover ∨ st = timeConflict then m.raise srcTime 0 0 else m

/-- Time packets are sent and applied only while TIME runs; a FENCE of the collector stops their application (R461, R492). -/
def Ilpiac.timeApplies (m : Ilpiac) : Bool := m.running 4 && !m.fenced (.function 4)

/-- Whether this module is the time master with SOURCE LOCAL (R443). -/
def Ilpiac.isMaster (m : Ilpiac) : Bool := m.placed && m.g F.PLACEMENT_TIME_MASTER == 1 && m.g F.REF_CTRL_SOURCE == 0

/-- The state that SOURCE, placement and a start of TIME bring about (R437, R443): MASTER or UNSET with LOCAL; with another source a module
that has taken no time is UNSET, and one that has taken time is ACQUIRING (assumption 61). CONFLICT is left only where `commit`. -/
def Ilpiac.timeSource (m : Ilpiac) (commit : Bool) : Ilpiac :=
  if !m.running 4 then m
  else if m.timeState = timeConflict ∧ !commit then m
  else
    let m := if commit then { m with time := { m.time with masters := [] } } else m
    let m := { m with time := { m.time with within := 0 } }
    if m.isMaster then ({ m with time := { m.time with slew := 0 } }.setTimeState timeMaster).gw F.TIME_STATUS_MASTER_BED m.bed
    else if m.g F.REF_CTRL_SOURCE = 0 then m.setTimeState timeUnset
    else if m.timeState = timeUnset ∨ m.timeState = timeMaster then m.setTimeState timeUnset
    else m.setTimeState timeAcquiring

/-! ### Corrections (R441) -/

/-- An offset in 1/65,536 ns as LAST_OFFSET_PS: signed, saturating (R451). -/
def offsetPs (o : Int) : Nat := ofInt (max (-(2 ^ 31 : Int)) (min (2 ^ 31 - 1 : Int) (Int.tdiv (o * 1000) 65536))) 32

/-- The source appears (R443). -/
def Ilpiac.sourceSeen (m : Ilpiac) : Ilpiac :=
  if m.timeState = timeUnset ∨ m.timeState = timeHoldover then { m with time := { m.time with within := 0 } }.setTimeState timeAcquiring else m

/-- One correction: a step above STEP_NS, otherwise a slew; 16 corrections within 2 ns in a row lock (R441, R443). -/
def Ilpiac.correct (m : Ilpiac) (o : Int) : Ilpiac :=
  let m := m.sourceSeen.gw F.TIME_STATUS_LAST_OFFSET_PS (offsetPs o)
  let m :=
    if m.g F.TIME_CTRL_STEP_NS * 65536 < o.natAbs then
      Ilpiac.gcnt { m with time := { m.time.set ((m.time.at : Int) - o).toNat with slew := 0 } } F.TIME_STATUS_STEPS 1
    else { m with time := { m.time with slew := o } }
  let n := if o.natAbs ≤ 131072 then m.time.within + 1 else 0
  let m := { m with time := { m.time with within := min n 16 } }
  if m.timeState = timeAcquiring ∧ 16 ≤ n then m.setTimeState timeLocked else m

/-! ### Time packets (R438, R444, R445) -/

/-- The port that SOURCE names, for TRUNK Tk. -/
def Ilpiac.sourcePort (m : Ilpiac) : Option Nat :=
  let s := m.g F.REF_CTRL_SOURCE
  if 2 ≤ s ∧ s ≤ 7 then some (254 + s) else none

/-- UP ports that carry time packets: not fenced ones and not the twin port (R331, R502). -/
def Ilpiac.timePorts (m : Ilpiac) : List Nat := (List.range 262).filter (fun p => m.portUp p && !m.portFenced p && !m.isTwin p)

/-- The measured delay of a port in 1/65,536 ns, if one has been measured. -/
def Ilpiac.delayOf (m : Ilpiac) (port : Nat) : Option Nat := (m.time.delays.find? (fun x => x.1 == port)).map (·.2)

/-- 1/65,536 ns as ps. -/
def unitsPs (u : Nat) : Nat := u * 1000 / 65536

/-- TIME_SYNC to a port; the departure time enters as it leaves. -/
def Ilpiac.timeSync (m : Ilpiac) (port : Nat) : Packet :=
  let delay := if isTrunk port then 0 else min (2 ^ 32 - 1) (unitsPs ((m.delayOf port).getD 0))
  Packet.make 0x48 0 (if isTrunk port then m.neighbour m.bed (port - 256) else m.bed * 256 + port) (isTrunk port) m.bed true
    [m.time.ns, m.time.frac + m.spread * 2 ^ 16 + delay * 2 ^ 32,
     m.g F.PLACEMENT_PLOT_ID + m.g F.TIME_STATUS_MASTER_BED * 2 ^ 16 + m.timeState * 2 ^ 22 + m.time.serial % 2 ^ 32 * 2 ^ 32] []

/-- TIME_SYNC_TIMER: a module in MASTER or LOCKED sends, and one in CONFLICT says so (R438, R444). -/
def Ilpiac.timeSyncTimer (m : Ilpiac) : Ilpiac :=
  if !m.running 4 ∨ !(m.timeState == timeMaster || m.timeState == timeLocked || m.timeState == timeConflict) then m
  else
    let m := { m with time := { m.time with serial := (m.time.serial + 1) % 2 ^ 32 } }
    m.over m.timePorts (fun m p => m.emit p (m.timeSync p) .control)

/-- DELAY_REQ and DELAY_RSP. -/
def Ilpiac.delayPacket (m : Ilpiac) (port ty h1 : Nat) : Packet :=
  Packet.make ty 0 (if isTrunk port then m.neighbour m.bed (port - 256) else m.bed * 256 + port) (isTrunk port) m.bed true [h1] []

/-- DELAY_MEASURE_TIMER (R438): the request before counts no longer. -/
def Ilpiac.delayMeasure (m : Ilpiac) : Ilpiac :=
  if !m.running 4 then m
  else
    let m := { m with time := { m.time with serial := (m.time.serial + 1) % 2 ^ 32, reqs := [] } }
    m.over m.timePorts (fun m p => m.emit p (m.delayPacket p 0x49 m.time.serial) .control)

/-- DELAY_REQ: answered with the time from its arrival to the departure of the answer. -/
def Ilpiac.delayReqRx (m : Ilpiac) (port : Nat) (p : Packet) (turnaround : Nat) : Ilpiac :=
  if !m.running 4 then m else m.emit port (m.delayPacket port 0x4A (p.f 1 0 32 + turnaround % 2 ^ 32 * 2 ^ 32)) .control

/-- DELAY_RSP of the latest request: the link delay ((t4 − t1) − turnaround) / 2 (R438, R445). -/
def Ilpiac.delayRspRx (m : Ilpiac) (port : Nat) (p : Packet) : Ilpiac :=
  match m.time.reqs.find? (fun x => x.1 == port) with
  | none => m
  | some r =>
    if !m.timeApplies ∨ r.2.1 ≠ p.f 1 0 32 then m
    else
      let d := (m.time.at - (r.2.2.1 * 65536 + r.2.2.2) - p.f 1 32 32 * 65536 / 1000) / 2
      let m := { m with time := { m.time with
        delays := Map.ins (Map.erase m.time.delays port) port d, reqs := Map.erase m.time.reqs port } }
      if m.sourcePort = some port then m.gw F.TIME_PATH_DELAY_PS (min (2 ^ 32 - 1) (unitsPs d)) else m

/-- TIME_SYNC on a trunk port (R437, R438, R441, R444, R445). -/
def Ilpiac.timeSyncRx (m : Ilpiac) (port : Nat) (p : Packet) : Ilpiac :=
  let bed := p.f 3 16 6
  if !m.timeApplies ∨ p.f 3 0 16 ≠ m.g F.PLACEMENT_PLOT_ID ∨ !m.placed then m
  else
    let master := m.timeState == timeMaster
    let ms := if m.time.masters.contains bed then m.time.masters else m.time.masters ++ [bed]
    let m := { m with time := { m.time with masters := ms } }
    let own := m.sourcePort = some port
    if 1 < ms.length ∨ (master && bed != m.bed) ∨ (own ∧ p.f 3 22 3 = timeConflict) then m.setTimeState timeConflict
    else if master ∨ m.timeState = timeConflict then m
    else
      let m := Ilpiac.gw { m with time := { m.time with spread := p.f 2 16 12 } } F.TIME_STATUS_MASTER_BED bed
      if own then
        let m := m.sourceSeen
        match m.delayOf port with
        | some d => m.correct ((m.time.at : Int) - ((p.h 1 * 65536 + p.f 2 0 16 + d : Nat) : Int))
        | none => m
      else m

/-- TIME_APPLY_SET: only the time master takes TIME_SET_NS, at the next reference cycle (R436). -/
def Ilpiac.applySet (m : Ilpiac) : Ilpiac :=
  if m.timeState = timeMaster then { m with time := { m.time with ns := m.g F.TIME_SET_NS_NS, frac := 0, phase := 0 } } else m

/-! ### Pins (R440, R447, R448) -/

/-- A TOD_IN message with a valid CRC gives SECONDS of the next edge; CONFLICT of the source spreads (R444, R448). -/
def Ilpiac.todIn (m : Ilpiac) (msg : List Byte) : Ilpiac :=
  if msg.length ≠ 16 ∨ natAt msg 0 1 ≠ 0xA5 ∨ natAt msg 12 4 ≠ (crc32c (msg.take 12)).toNat ∨ m.g F.REF_CTRL_SOURCE ≠ 1 then m
  else
    let m := { m with time := { m.time with todSeconds := some (natAt msg 4 8) } }
    if m.timeApplies ∧ natAt msg 1 1 = timeConflict then m.setTimeState timeConflict else m

/-- A rising edge of PPS_IN at a module whose SOURCE is BOARD (R440); without a message since the last edge SECONDS is the one before plus 1
(R448). -/
def Ilpiac.ppsIn (m : Ilpiac) : Ilpiac :=
  if m.g F.REF_CTRL_SOURCE ≠ 1 ∨ !m.timeApplies then m
  else
    match (match m.time.todSeconds with | some s => some s | none => m.time.lastSeconds.map (· + 1)) with
    | none => m
    | some s =>
      let m := { m with time := { m.time with todSeconds := none, lastSeconds := some s } }
      if m.timeState = timeConflict then m
      else
        let u := s * 1000000000 * 65536 + m.g F.TIME_PATH_PPS_IN_DELAY_PS * 65536 / 1000
        m.correct ((m.time.at : Int) - (u : Int))

/-- PPS_OUT at a whole second, only in LOCKED and MASTER. -/
def Ilpiac.ppsOut (m : Ilpiac) : Ilpiac :=
  if m.g F.TIME_PINS_PPS_OUT_EN = 1 ∧ (m.timeState = timeLocked ∨ m.timeState = timeMaster) then
    { m with time := { m.time with ppsHigh := true } }
  else m

/-- PPS_WIDTH_MS later. -/
def Ilpiac.ppsOutEnd (m : Ilpiac) : Ilpiac := { m with time := { m.time with ppsHigh := false } }

/-- TOD_OUT, 500 ms after each edge: SECONDS of the next edge. -/
def Ilpiac.todOut (m : Ilpiac) : Ilpiac :=
  if m.g F.TIME_PINS_TOD_OUT_EN = 0 then m
  else
    let b := leBytes 1 0xA5 ++ leBytes 1 m.timeState ++ leBytes 2 (m.g F.PLACEMENT_PLOT_ID) ++ leBytes 8 (m.time.ns / 1000000000 + 1)
    { m with time := { m.time with todOut := b ++ leBytes 4 (crc32c b).toNat } }

/-! ### Timeouts (R443) -/

/-- TIME_SOURCE_TIMEOUT while LOCKED. -/
def Ilpiac.timeSourceLost (m : Ilpiac) : Ilpiac :=
  if m.running 4 ∧ m.timeState = timeLocked then m.setTimeState timeHoldover else m

/-- NO_MASTER_TIMEOUT: still UNSET or ACQUIRING 1 s after PLACEMENT.VALID became 1. -/
def Ilpiac.noMaster (m : Ilpiac) : Ilpiac :=
  if m.placed ∧ (m.timeState = timeUnset ∨ m.timeState = timeAcquiring) then m.raise srcTime 0 0 else m

/-- The TIME function is reset (R492). -/
def Ilpiac.resetTime (m : Ilpiac) : Ilpiac :=
  if m.timeState = timeMaster then m else { m with time := { m.time with within := 0 } }.setTimeState timeAcquiring

/-! ### The lane reference (R393 to R395, R418) -/

def refLocal : Nat := 0
def refAcquiring : Nat := 1
def refLocked : Nat := 2
def refHoldover : Nat := 3

/-- SOURCE has been written: LOCAL is taken at once, another source is acquired, and time is taken from it (R393, R437). -/
def Ilpiac.refSource (m : Ilpiac) : Ilpiac :=
  let loc := m.g F.REF_CTRL_SOURCE == 0
  let m := m.gw F.REF_STATUS_STATE (if loc then refLocal else refAcquiring)
  let m := if loc then (m.gw F.REF_STATUS_SPREAD_SEEN 0).gw F.REF_STATUS_OFFSET_PPB 0 else m
  (m.release srcReference (fun _ => true)).timeSource false

/-- The selected source is lost: HOLDOVER, with a reference fault. -/
def Ilpiac.refLost (m : Ilpiac) : Ilpiac :=
  if m.g F.REF_CTRL_SOURCE = 0 ∨ m.g F.REF_STATUS_STATE = refHoldover then m
  else ((m.gw F.REF_STATUS_STATE refHoldover).gw F.REF_STATUS_SPREAD_SEEN 0).raise srcReference 0 0

/-- The source is there and within 3,000 ppm of LOCAL: the reference locks to it. -/
def Ilpiac.refReturn (m : Ilpiac) (offsetPpb : Int) (spread : Bool) : Ilpiac :=
  if m.g F.REF_CTRL_SOURCE = 0 ∨ 3000000 < offsetPpb.natAbs then m
  else
    let m := (m.gw F.REF_STATUS_STATE refLocked).gw F.REF_STATUS_SPREAD_SEEN (b2n spread)
    (m.gw F.REF_STATUS_OFFSET_PPB (ofInt offsetPpb 24)).release srcReference (fun _ => true)

end Sys2Proof.Machine
end

