-- ==== Sys2Proof/Machine/Hello.lean ====
section
/-! DEFINITION. HELLO and the start of links (R37 to R39, R311 to R314, R502). -/

namespace Sys2Proof.Machine

/-! ### Sending (R311, R312) -/

/-- HELLO as the Ilpiac sends it on a port (R311). -/
def Ilpiac.hello (m : Ilpiac) (port : Nat) : Packet :=
  let t := isTrunk port
  let h1 := (if m.placed then m.g F.PLACEMENT_PLOT_ID else 0) + m.g F.PLACEMENT_EXTENT_NX * 2 ^ 16 + m.g F.PLACEMENT_EXTENT_NY * 2 ^ 19 +
    m.g F.PLACEMENT_EXTENT_NZ * 2 ^ 22 + m.g F.PLACEMENT_X * 2 ^ 25 + m.g F.PLACEMENT_Y * 2 ^ 27 + m.g F.PLACEMENT_Z * 2 ^ 29 +
    m.g F.PLACEMENT_TIME_MASTER * 2 ^ 31 + m.g F.PLACEMENT_PLANE * 2 ^ 32 + (if t then 2 else 1) * 2 ^ 36 + (if t then port - 256 else 0) * 2 ^ 38 +
    m.g F.IDENTITY_VARIANT * 2 ^ 48
  let h2 := (if t then 0 else m.bed * 256 + port) + 2 ^ 24 + m.g F.CONTRACT_VERSION_MAJOR * 2 ^ 32
  let h3 := sumOf ((List.range 8).map (fun c => m.g F.SW_CLASS_CFG_LAND c % 256 * 2 ^ (8 * c)))
  Packet.make 0x01 0 (if t then m.neighbour m.bed (port - 256) else m.bed * 256 + port) t m.bed true [h1, h2, h3] []

/-- A port that has formed. -/
def Ilpiac.portFormed (m : Ilpiac) (port : Nat) : Bool := m.portState port != 0

/-- HELLO on a formed port. -/
def Ilpiac.sendHello (m : Ilpiac) (port : Nat) : Ilpiac := if m.portFormed port then m.emit port (m.hello port) .control else m

/-- HELLO on every formed port: its content has changed (R312). -/
def Ilpiac.helloAll (m : Ilpiac) : Ilpiac := m.over (List.range 262) (fun m p => m.sendHello p)

/-- FREED counts of a port, and SENT counts of a trunk port (R314). -/
def Ilpiac.sendLink (m : Ilpiac) (port : Nat) : Ilpiac :=
  if !m.portUp port then m
  else
    let dst := if isTrunk port then m.neighbour m.bed (port - 256) else m.bed * 256 + port
    let m := m.emit port (linkPacket ((List.range 8).map (fun c => (m.cls port c).freed)) dst (isTrunk port) m.bed) .control
    if isTrunk port then m.emit port (linkPacket ((List.range 8).map (fun c => (m.cls port c).sent)) dst false m.bed) .control else m

/-- HELLO_PERIOD_EXPIRY (R312, R314). -/
def Ilpiac.helloPeriod (m : Ilpiac) : Ilpiac := m.over (List.range 262) (fun m p => (m.sendHello p).sendLink p)

/-! ### Checks (R37, R38, R312, R502) -/

/-- The trunk check of R37 on port Tk. -/
def Ilpiac.trunkHelloOk (m : Ilpiac) (k : Nat) (p : Packet) : Bool :=
  let n := m.neighbour m.bed k
  m.placed && p.f 1 0 16 == m.g F.PLACEMENT_PLOT_ID && p.f 1 16 3 == m.extent 0 && p.f 1 19 3 == m.extent 1 && p.f 1 22 3 == m.extent 2 &&
  p.f 1 25 6 == n && p.f 1 32 4 == m.plane && p.f 1 36 2 == 2 && p.f 1 38 3 == Nat.xor k 1 && p.f 1 48 16 == m.g F.IDENTITY_VARIANT

/-- The member check of R38 and R312. -/
def Ilpiac.memberHelloOk (m : Ilpiac) (p : Packet) : Bool := p.f 2 14 4 == m.plane && p.f 2 24 8 == 1

/-- The check of the twin's hello (R502). -/
def Ilpiac.twinHelloOk (m : Ilpiac) (p : Packet) : Bool :=
  p.f 1 36 2 == 1 && p.f 1 0 16 != m.g F.PLACEMENT_PLOT_ID && p.f 1 16 3 == m.extent 0 && p.f 1 19 3 == m.extent 1 &&
  p.f 1 22 3 == m.extent 2 && p.f 1 25 6 == m.bed && p.f 1 32 4 == m.plane && p.f 1 48 16 == m.g F.IDENTITY_VARIANT

/-- The landing counts of a port start at zero; packets that still occupy landing cells from before do not count in FREED (R314). -/
def Ilpiac.linkCounts (m : Ilpiac) (port : Nat) : Ilpiac :=
  let own := fun (b : BufPkt) => match b.land with | some x => x.1 == port | none => false
  let buf := mapIf own (fun b => { b with land := none }) m.sw.buf
  let m := { m with sw := { m.sw with buf := buf } }
  m.over (List.range 8) (fun m c => m.setCls port c { m.cls port c with landUsed := 0, freed := 0, received := 0, sent := 0, pFreed := 0 })

/-- LAND_c of the partner (R311). -/
def Ilpiac.partnerLand (m : Ilpiac) (port : Nat) (p : Packet) : Ilpiac :=
  m.waking port (fun m => m.over (List.range 8) (fun m c => m.setCls port c { m.cls port c with pLand := p.f 3 (8 * c) 8 }))

/-- Released faults of a port that carries traffic again (R489). -/
def Ilpiac.portFaultsEnd (m : Ilpiac) (port : Nat) : Ilpiac :=
  (m.release srcLink (· == port)).release srcPlacement (· == port)

/-- A port's check has passed: it is UP (R37, R38). -/
def Ilpiac.portPasses (m : Ilpiac) (port : Nat) (p : Packet) : Ilpiac :=
  if m.portUp port then m.partnerLand port p
  else
    let m := ((m.linkCounts port).setPortState port 2).portFaultsEnd port
    let m := m.partnerLand port p
    if isTrunk port then m.ownTrunks
    else if m.isTwin port ∧ m.g F.TWIN_STATUS_STATE = twinPairing then m.gw F.TWIN_STATUS_STATE twinComparing
    else m

/-- A port is held down (R37, R38): what is queued for it is discarded. -/
def Ilpiac.holdPort (m : Ilpiac) (port : Nat) : Ilpiac :=
  let m := (m.setPortState port 3).flushPort port
  if isTrunk port then m.ownTrunks
  else if m.isTwin port ∧ m.g F.TWIN_STATUS_STATE = twinComparing then m.gw F.TWIN_STATUS_STATE twinPairing
  else m

/-- HELLO on trunk port Tk (R37): a port held down stays so until a commit or a link reset. -/
def Ilpiac.trunkHello (m : Ilpiac) (k : Nat) (p : Packet) : Ilpiac :=
  let port := 256 + k
  if m.portState port = 3 ∨ !m.placed then m
  else if m.trunkHelloOk k p then m.portPasses port p
  else
    let m := m.gw F.PLACEMENT_STATUS_TRUNK_MISMATCH (ofBitIdx (k :: bitIdx (m.g F.PLACEMENT_STATUS_TRUNK_MISMATCH) 6))
    (m.holdPort port).raise srcPlacement port 0

/-- HELLO on a downlink port: each one is checked anew; without a placement nothing is checked yet (R32, R38, R502). -/
def Ilpiac.memberHello (m : Ilpiac) (port : Nat) (p : Packet) : Ilpiac :=
  if !m.placed then m
  else if (if m.isTwin port then m.twinHelloOk p else m.memberHelloOk p) then m.portPasses port p
  else
    let m := m.gcnt F.PLACEMENT_STATUS_MEMBER_MISMATCH 1
    ((if m.isTwin port then m else m.fenceMember port).holdPort port).raise srcPlacement port 0

/-- HELLO_RECEIVED (R312). -/
def Ilpiac.helloRx (m : Ilpiac) (port : Nat) (p : Packet) : Ilpiac :=
  if !m.portFormed port then m
  else
    let m := (m.pw port F.PORT_HELLO1_H1 (p.h 1)).pw port F.PORT_HELLO2_H2 (p.h 2)
    if isTrunk port then m.trunkHello (port - 256) p else m.memberHello port p

end Sys2Proof.Machine
end

