-- ==== Sys2Proof/Machine/Lanes.lean ====
section
/-! DEFINITION. Serial lanes (spec 12): bring-up, port formation, flits, set changes, lane loss, idle states and tests. A port of this file is 0–255
(D), 256–261 (T) or 262 (Holm). -/

namespace Sys2Proof.Machine

/-! ### Lanes and ports (R384, R413) -/

def lanePort (l : Nat) : Nat := if l < 512 then l / 2 else if l < 560 then 256 + (l - 512) / 8 else 262
def laneFirst (lp : Nat) : Nat := if lp < 256 then 2 * lp else if lp < 262 then 512 + 8 * (lp - 256) else 560
def laneCount (lp : Nat) : Nat := if lp < 256 then 2 else if lp < 262 then 8 else 16
def laneIdx (l : Nat) : Nat := l - laneFirst (lanePort l)
def holmPort : Nat := 262

def LaneX.init : LaneX := { recent := [], removals := [], offDue := false, held := false }
def LinkX.init : LinkX :=
  { rxGood := 0, pRxGood := 0, pTxSet := 0, txSwitch := none, rxSwitch := none, seqBase := 0, seqClk := 0, formed := false, expect := 0,
    reorder := [], asm := [], skip := none }

def Ilpiac.lane (m : Ilpiac) (l : Nat) : LaneX := Map.get (fun _ => LaneX.init) m.lanes l
def Ilpiac.setLane (m : Ilpiac) (l : Nat) (x : LaneX) : Ilpiac := { m with lanes := Map.put (fun _ => LaneX.init) m.lanes l x }
def Ilpiac.link (m : Ilpiac) (lp : Nat) : LinkX := Map.get (fun _ => LinkX.init) m.links lp
def Ilpiac.setLink (m : Ilpiac) (lp : Nat) (x : LinkX) : Ilpiac := { m with links := Map.put (fun _ => LinkX.init) m.links lp x }

/-- Fields of a lane block, and of the block of a port's lowest lane. -/
def Ilpiac.lg (m : Ilpiac) (l : Nat) (f : Fld) : Nat := m.rd .lane l f
def Ilpiac.lw (m : Ilpiac) (l : Nat) (f : Fld) (v : Nat) : Ilpiac := m.wr .lane l f v
def Ilpiac.plg (m : Ilpiac) (lp : Nat) (f : Fld) : Nat := m.rd .lane (laneFirst lp) f
def Ilpiac.plw (m : Ilpiac) (lp : Nat) (f : Fld) (v : Nat) : Ilpiac := m.wr .lane (laneFirst lp) f v

/-- LANE_STATUS.STATE (R414). -/
def laneOff : Nat := 0
def laneAcquire : Nat := 1
def laneAdapt : Nat := 2
def laneLocked : Nat := 3
def laneActive : Nat := 4
def laneHeld : Nat := 5
def laneTest : Nat := 6
def laneIdle : Nat := 7
def Ilpiac.laneState (m : Ilpiac) (l : Nat) : Nat := m.lg l F.LANE_STATUS_STATE

/-- Causes of removal (R414). -/
def causeSignal : Nat := 1
def causeUncorr : Nat := 2
def causeMargin : Nat := 3
def causeSoftware : Nat := 4
def causePartner : Nat := 5

/-- Lanes of a port. -/
def lanesOf (lp : Nat) : List Nat := (List.range (laneCount lp)).map (laneFirst lp + ·)

/-- Whether a lane may be powered (R5, R397, R491, R497, R515, R516): present, the module running, fabric lanes not while the module has stopped, and
trunk lanes only with a placement whose dimension has extent 2 or more. -/
def Ilpiac.laneMay (m : Ilpiac) (l : Nat) : Bool :=
  let lp := lanePort l
  m.power.phase == .running && !m.power.dormant && (lp == holmPort ||
    (!m.stopped && m.portPresent lp && (!isTrunk lp || (m.placed && decide (2 ≤ m.extent ((lp - 256) / 2))))))

/-- Whether a lane takes part in its port: enabled, in SERVICE, running, not held, not on its way out (R398, R405, R410). -/
def Ilpiac.laneServes (m : Ilpiac) (l : Nat) : Bool :=
  m.lg l F.LANE_CTRL_ENABLE == 1 && m.lg l F.LANE_CTRL_MODE == 0 && m.laneState l != laneOff && m.laneState l != laneHeld &&
  m.laneState l != laneTest && !(m.lane l).offDue

/-- The lanes that this end's transmit set should hold: those that serve and that the partner's RX_GOOD names (R398, R402). -/
def Ilpiac.wantSet (m : Ilpiac) (lp : Nat) : Nat :=
  ofBitIdx ((List.range (laneCount lp)).filter (fun i => m.laneServes (laneFirst lp + i) && bitOf (m.link lp).pRxGood i))

def Ilpiac.txSet (m : Ilpiac) (lp : Nat) : Nat := m.plg lp F.LANE_PORT_STATUS_TX_SET
def Ilpiac.rxSet (m : Ilpiac) (lp : Nat) : Nat := m.plg lp F.LANE_PORT_STATUS_RX_SET
def Ilpiac.txIdle (m : Ilpiac) (lp : Nat) : Nat := m.plg lp F.LANE_PORT_STATUS_TX_IDLE
def Ilpiac.rxIdle (m : Ilpiac) (lp : Nat) : Nat := m.plg lp F.LANE_PORT_STATUS_RX_IDLE

/-- MIN_LANES in force (R417). -/
def Ilpiac.minLanes (m : Ilpiac) (lp : Nat) : Nat := min (laneCount lp) (max 1 (m.plg lp F.LANE_PORT_MIN_LANES))

/-- Whether a lane is in a set of its port. -/
def Ilpiac.inSet (m : Ilpiac) (l : Nat) : Bool :=
  (m.link (lanePort l)).formed && (bitOf (m.txSet (lanePort l)) (laneIdx l) || bitOf (m.rxSet (lanePort l)) (laneIdx l))

/-- LOCKED and ACTIVE follow the sets. -/
def Ilpiac.laneStates (m : Ilpiac) (lp : Nat) : Ilpiac :=
  m.over (lanesOf lp) (fun m l =>
    let st := m.laneState l
    if st = laneLocked ∧ m.inSet l then m.lw l F.LANE_STATUS_STATE laneActive
    else if (st = laneActive ∨ st = laneIdle) ∧ !m.inSet l ∧ !(m.lane l).offDue then m.lw l F.LANE_STATUS_STATE laneLocked
    else m)

/-! ### Bring-up (R397) -/

/-- A lane's receiver shows nothing of its partner. -/
def Ilpiac.laneBlind (m : Ilpiac) (l st : Nat) : Ilpiac :=
  let m := (((m.lw l F.LANE_STATUS_STATE st).lw l F.LANE_STATUS_SIGNAL 0).lw l F.LANE_STATUS_CDR_LOCK 0).lw l F.LANE_STATUS_CW_LOCK 0
  let k := m.link (lanePort l)
  let m := m.setLink (lanePort l) { k with rxGood := ofBitIdx ((bitIdx k.rxGood 16).filter (· != laneIdx l)) }
  m.setLane l { m.lane l with recent := [], offDue := false }

/-- The checker of a test lane: it synchronizes by itself to its own generator in the loopback modes, where the pattern is a PRBS or SSPRQ (R410,
R411); on the line it depends on what arrives. -/
def Ilpiac.testLane (m : Ilpiac) (l : Nat) : Ilpiac :=
  let mode := m.lg l F.LANE_CTRL_MODE
  let pat := m.lg l F.LANE_TEST_PATTERN
  m.lw l F.LANE_TEST_CHECK_LOCK (b2n ((mode == 2 || mode == 3) && pat != 4 && pat != 5))

/-- A lane starts, or turns off where it may not run: OFF, HELD, TEST or ACQUIRE (R397, R405, R410). -/
def Ilpiac.startLane (m : Ilpiac) (l : Nat) : Ilpiac :=
  if m.lg l F.LANE_CTRL_ENABLE = 0 ∨ !m.laneMay l then (m.laneBlind l laneOff).lw l F.LANE_TEST_CHECK_LOCK 0
  else if m.lg l F.LANE_CTRL_MODE ≠ 0 then (m.laneBlind l laneTest).testLane l
  else if (m.lane l).held then m.laneBlind l laneHeld
  else m.laneBlind l laneAcquire

/-- LANE_SIGNAL_DETECT. On the line in PATTERN mode the checker locks or not, as the signal is. -/
def Ilpiac.signalDetect (m : Ilpiac) (l : Nat) : Ilpiac :=
  if m.laneState l = laneAcquire then m.lw l F.LANE_STATUS_SIGNAL 1
  else if m.laneState l = laneTest then
    let m := m.lw l F.LANE_STATUS_SIGNAL 1
    if m.lg l F.LANE_CTRL_MODE = 1 then
      let r := m.draw
      r.2.lw l F.LANE_TEST_CHECK_LOCK r.1
    else m
  else m

/-- LANE_CDR_LOCK. -/
def Ilpiac.cdrLock (m : Ilpiac) (l : Nat) : Ilpiac :=
  if m.laneState l = laneAcquire ∧ m.lg l F.LANE_STATUS_SIGNAL = 1 then (m.lw l F.LANE_STATUS_CDR_LOCK 1).lw l F.LANE_STATUS_STATE laneAdapt else m

/-- The receiver adapts: CTLE, taps and eye in use are free values while ADAPT = 1 and FREEZE = 0; the eye is what it is in any case (R400, R415). -/
def Ilpiac.adapt (m : Ilpiac) (l : Nat) : Ilpiac :=
  let e := m.draw
  let m := e.2.lw l F.LANE_RXEQ_EYE e.1
  if m.lg l F.LANE_RXEQ_ADAPT = 1 ∧ m.lg l F.LANE_RXEQ_FREEZE = 0 then
    let c := m.draw
    let t := c.2.draw
    let u := t.2.draw
    ((u.2.lw l F.LANE_RXEQ_CTLE c.1).lw l ⟨0x20, 8, 0, 64⟩ t.1).lw l ⟨0x28, 8, 0, 32⟩ u.1
  else m

/-- LANE_CW_LOCK: LOCKED; before the port has formed the lane enters RX_GOOD (R392, R397, R398), afterwards it waits for the re-add rule (R404). -/
def Ilpiac.cwLock (m : Ilpiac) (l : Nat) : Ilpiac :=
  if m.laneState l = laneAdapt ∧ m.lg l F.LANE_STATUS_CDR_LOCK = 1 then
    let m := ((m.lw l F.LANE_STATUS_CW_LOCK 1).lw l F.LANE_STATUS_STATE laneLocked).adapt l
    let k := m.link (lanePort l)
    if k.formed then m else m.setLink (lanePort l) { k with rxGood := setBit k.rxGood (laneIdx l) }
  else m

/-- LANE_TRAIN_TIMEOUT: acquisition starts again 2,000 µs after signal detect. -/
def Ilpiac.trainTimeout (m : Ilpiac) (l : Nat) : Ilpiac :=
  if (m.laneState l = laneAcquire ∨ m.laneState l = laneAdapt) ∧ m.lg l F.LANE_STATUS_SIGNAL = 1 then
    ((m.cnt .lane l F.LANE_STATUS_TRAIN_RETRIES 1).lw l F.LANE_STATUS_STATE laneAcquire).lw l F.LANE_STATUS_CDR_LOCK 0
  else m

/-! ### The port comes and goes (R398, R401) -/

/-- The transmitter's flit number now: one flit per lane of the set and codeword time, 102/7 furrow cycles on fabric lanes and 51 on Holm lanes
(R390, R392); none while the direction is idle (R406, R407). -/
def Ilpiac.seqNow (m : Ilpiac) (lp : Nat) : Nat :=
  let k := m.link lp
  let t := m.clk - k.seqClk
  if m.txIdle lp ≠ 0 then k.seqBase
  else k.seqBase + popCount (m.txSet lp) 16 * (if lp = holmPort then t / 51 else t * 7 / 102)

/-- The count of flits sent is taken down. -/
def Ilpiac.seqMark (m : Ilpiac) (lp : Nat) : Ilpiac := m.setLink lp { m.link lp with seqBase := m.seqNow lp, seqClk := m.clk }

/-- A port that loses its link: DOWN, everything in flight lost. A port that leaves UP by lanes asserts LINK with the lane that took it out; the
member of a downlink is fenced and a trunk link is lost (R79, R363, R401); the Holm port follows R454. -/
def Ilpiac.portDown (m : Ilpiac) (lp : Nat) (lane : Option Nat) : Ilpiac :=
  let k := m.link lp
  let m := m.setLink lp { LinkX.init with rxGood := k.rxGood, pRxGood := k.pRxGood, pTxSet := k.pTxSet }
  let m := m.plw lp ⟨0x108, 8, 0, 36⟩ 0
  let m := m.laneStates lp
  if lp = holmPort then m.holmDown
  else
    let up := m.portUp lp
    let m := (m.setPortState lp 0).flushPort lp
    let m := match lane with | some l => if up then m.raise srcLink lp l else m | none => m
    if isTrunk lp then m.ownTrunks
    else if m.isTwin lp then (if m.g F.TWIN_STATUS_STATE = twinComparing then m.gw F.TWIN_STATUS_STATE twinPairing else m)
    else if up then m.fenceMember lp else m

/-- A port whose sets hold too few lanes leaves UP (R401). -/
def Ilpiac.checkMin (m : Ilpiac) (lp lane : Nat) : Ilpiac :=
  let k := m.link lp
  if k.formed ∧ (popCount (Nat.land (m.rxSet lp) k.rxGood) 16 < m.minLanes lp ∨
      popCount (Nat.land (m.txSet lp) (m.wantSet lp)) 16 < m.minLanes lp) then m.portDown lp (some lane) else m

/-- A set change is announced when one is due and none is pending: SWITCH_SEQ is the current SEQ + 16 (R402, R403). -/
def Ilpiac.announce (m : Ilpiac) (lp : Nat) : Ilpiac :=
  let k := m.link lp
  if k.formed ∧ k.txSwitch.isNone ∧ m.wantSet lp ≠ m.txSet lp then
    m.setLink lp { k with txSwitch := some ⟨m.wantSet lp, m.seqNow lp + 16⟩ }
  else m

/-- The transmitter stripes over the new set (R402). -/
def Ilpiac.applyTx (m : Ilpiac) (lp : Nat) : Ilpiac :=
  match (m.link lp).txSwitch with
  | none => m
  | some s =>
    let m := m.seqMark lp
    let m := m.setLink lp { m.link lp with txSwitch := none, seqBase := max s.seq (m.link lp).seqBase }
    ((m.plw lp F.LANE_PORT_STATUS_TX_SET s.set).laneStates lp).announce lp

/-- An announced set change takes effect once SWITCH_SEQ has been reached. -/
def Ilpiac.txDue (m : Ilpiac) (lp : Nat) : Ilpiac :=
  match (m.link lp).txSwitch with
  | some s => if s.seq ≤ m.seqNow lp then m.applyTx lp else m
  | none => m

/-- Furrow cycles in 3,600 s (R405). -/
def flapWindow : Nat := 3600 * 1200000000

/-- Whether a lane is in a port set and can fail for a cause: the receiving end fails lanes that it receives, the transmitting end those that the
partner drops, and software either (R401). -/
def Ilpiac.laneUsed (m : Ilpiac) (l cause : Nat) : Bool :=
  let lp := lanePort l
  let i := laneIdx l
  (m.link lp).formed &&
    (if cause = causePartner then bitOf (m.txSet lp) i
     else if cause = causeSoftware then m.inSet l && !(m.lane l).offDue
     else bitOf (m.rxSet lp) i && bitOf (m.link lp).rxGood i)

/-- The removals of a lane within 3,600 s, with one now (R405). -/
def Ilpiac.removalTimes (m : Ilpiac) (l : Nat) : List Nat := m.clk :: (m.lane l).removals.filter (fun t => decide (m.clk < t + flapWindow))

/-- Whether one more removal holds the lane (R405). -/
def Ilpiac.flaps (m : Ilpiac) (l : Nat) : Bool := decide (max 1 (m.plg (lanePort l) F.LANE_PORT_FLAP_LIMIT) ≤ (m.removalTimes l).length)

/-- A lane leaves RX_GOOD. -/
def Ilpiac.dropGood (m : Ilpiac) (l : Nat) : Ilpiac :=
  m.setLink (lanePort l) { m.link (lanePort l) with rxGood := ofBitIdx ((bitIdx (m.link (lanePort l)).rxGood 16).filter (· != laneIdx l)) }

/-- The removal of a lane (R401, R404, R405): the receiving end drops it from RX_GOOD but for a failure that the partner has seen; MARGIN and SOFTWARE lanes
decode until the set change, others start bring-up again, and a lane removed too often is held. -/
def Ilpiac.laneGone (m : Ilpiac) (l cause : Nat) : Ilpiac :=
  let x := m.lane l
  let times := m.removalTimes l
  let hold := m.flaps l
  let m := (m.cnt .lane l F.LANE_STATUS_REMOVALS 1).lw l F.LANE_STATUS_LAST_CAUSE cause
  let m := m.setLane l { x with removals := times, held := x.held || hold }
  if hold then ((m.dropGood l).laneBlind l laneHeld).raise srcLane (lanePort l) l
  else if cause = causePartner then m
  else if cause = causeMargin ∨ cause = causeSoftware then (m.dropGood l).setLane l { m.lane l with offDue := true }
  else m.startLane l

/-- A lane in a port set fails (R401): it is removed, and the sets follow. -/
def Ilpiac.laneFail (m : Ilpiac) (l cause : Nat) : Ilpiac :=
  if !m.laneUsed l cause then m else ((m.laneGone l cause).checkMin (lanePort l) l).announce (lanePort l)

/-- PORT_FORM: the sets of R398; with enough lanes in both the port enters CHECKING and sends HELLO, otherwise it stays DOWN. A trunk port that a mismatch or a fence
holds down is HELD. Waits and kept responses of the member before are dropped (R322, R423, R432). -/
def Ilpiac.portForm (m : Ilpiac) (lp : Nat) : Ilpiac :=
  let k := m.link lp
  if k.formed ∨ !(lanesOf lp).any (fun l => m.laneState l == laneLocked) then m
  else
    let tx := m.wantSet lp
    let rx := ofBitIdx (bitIdx k.pTxSet (laneCount lp))
    let m := (m.plw lp F.LANE_PORT_STATUS_TX_SET tx).plw lp F.LANE_PORT_STATUS_RX_SET rx
    if popCount tx 16 < m.minLanes lp ∨ popCount rx 16 < m.minLanes lp then m
    else
      let m := m.setLink lp { LinkX.init with rxGood := k.rxGood, pRxGood := k.pRxGood, pTxSet := k.pTxSet, formed := true, seqClk := m.clk }
      let m := m.laneStates lp
      if lp = holmPort then m.holmStart
      else
        let held := isTrunk lp && (bitOf (m.g F.PLACEMENT_STATUS_TRUNK_MISMATCH) (lp - 256) || (m.port lp).fenceHeld)
        let m := m.setPort lp { m.port lp with amoKept := [], amoLatest := none, syncKept := [], syncLatest := none }
        ((m.dropMemberWaits lp).setPortState lp (if held then 3 else 1)).sendHello lp

/-! ### Flits (R387 to R391) -/

/-- The packet stream of a port: packets whole, and the bytes so far of packets that are discarded. -/
structure PktStream where
  asm : List Byte
  skip : Option Bool
  out : List (List Byte)
  lost : List (List Byte)
deriving DecidableEq, Repr

/-- Bytes on the wire of the packet that begins with these bytes: through the pad (R307). -/
def wireLen (l : List Byte) : Nat := roundUp (bits (natAt l 0 8) 12 13 + 4) 16

/-- Units of 16 bytes from a boundary, or from the middle of the packet in progress (R389). -/
def PktStream.units : Nat → List Byte → PktStream → PktStream
  | 0, _, a => a
  | n + 1, l, a =>
    if a.skip.isSome then a
    else
      let u := l.take 16
      if a.asm.isEmpty && u.all (· == 0) then PktStream.units n (l.drop 16) a
      else
        let cur := a.asm ++ u
        let len := bits (natAt cur 0 8) 12 13
        if len < 8 ∨ 4352 < len then { a with asm := [], skip := some true, lost := a.lost ++ [cur] }
        else if wireLen cur ≤ cur.length then PktStream.units n (l.drop 16) { a with asm := [], out := a.out ++ [cur] }
        else PktStream.units n (l.drop 16) { a with asm := cur }

/-- The boundary is lost: the packet in progress is discarded (R391). -/
def PktStream.lose (a : PktStream) : PktStream :=
  if a.skip.isSome then a
  else if a.asm.isEmpty then { a with skip := some false }
  else { a with asm := [], skip := some true, lost := a.lost ++ [a.asm] }

/-- A DATA flit (R388, R389): START must be where the packet in progress ends; otherwise that packet is discarded, and the stream resumes at START. -/
def PktStream.data (a : PktStream) (f : Flit) : PktStream :=
  let at_ := if a.asm.isEmpty then 0 else (wireLen a.asm - a.asm.length) / 16
  let a := if a.skip.isSome ∨ f.start = (if at_ < 40 then at_ else 0x3F) then a else a.lose
  match a.skip with
  | none => a.units 40 f.payload
  | some counted =>
    let a := if counted ∨ f.start = 0 then a else { a with skip := some true, lost := a.lost ++ [[]] }
    if 40 ≤ f.start then a
    else PktStream.units (40 - f.start) (f.payload.drop (16 * f.start)) { a with skip := none }

/-- The set that flit `n` of the receive direction goes by. -/
def Ilpiac.rxSetFor (m : Ilpiac) (lp n : Nat) : Nat :=
  match (m.link lp).rxSwitch with
  | some s => if s.seq ≤ n then s.set else m.rxSet lp
  | none => m.rxSet lp

/-- The lane index of flit `n` (R390). -/
def Ilpiac.laneOfFlit (m : Ilpiac) (lp n : Nat) : Option Nat :=
  let l := bitIdx (m.rxSetFor lp n) 16
  l[n % max 1 l.length]?

/-- The next flit of a lane that has neither arrived nor been lost. -/
def Ilpiac.nextOnLane (m : Ilpiac) (lp i : Nat) : Option Nat :=
  let k := m.link lp
  (firstBelow 512 (fun d => m.laneOfFlit lp (k.expect + d) == some i && !k.reorder.any (fun r => r.1 == k.expect + d))).map (k.expect + ·)

/-- Codeword times that cover the skew of 150 ns (R390): 13 on fabric lanes and 4 on Holm lanes. -/
def skewFlits (lp : Nat) : Nat := if lp = holmPort then 4 else 13

/-- Flits in SEQ order leave the reorder buffer; a lost flit of the Holm port is awaited again (R391, R453). -/
def LinkX.drain (holm : Bool) : Nat → LinkX → PktStream → LinkX × PktStream
  | 0, k, a => (k, a)
  | n + 1, k, a =>
    match k.reorder.find? (fun r => r.1 == k.expect) with
    | none => (k, a)
    | some (_, some f) =>
      LinkX.drain holm n { k with expect := k.expect + 1, reorder := k.reorder.filter (fun r => r.1 != k.expect) }
        (if f.kind = 0 ∧ !holm then a.data f else a)
    | some (_, none) =>
      if holm then ({ k with reorder := [] }, a)
      else LinkX.drain holm n { k with expect := k.expect + 1, reorder := k.reorder.filter (fun r => r.1 != k.expect) } a.lose

/-- A flit number has been settled, by its flit or as lost; flits that lie further back than the skew allows are lost too (R390). The answer is the packets
completed. -/
def Ilpiac.settleFlit (m : Ilpiac) (lp n : Nat) (f : Option Flit) : List (List Byte) × Ilpiac :=
  let k := m.link lp
  let w := max 1 (popCount (m.rxSet lp) 16)
  let old := ((List.range (n + 1 - skewFlits lp * w - k.expect)).map (k.expect + ·)).filter (fun d => !k.reorder.any (fun r => r.1 == d) && d != n)
  let k := { k with reorder := k.reorder ++ [(n, f)] ++ old.map (fun d => (d, (none : Option Flit))) }
  let r := LinkX.drain (lp == holmPort) k.reorder.length k { asm := k.asm, skip := k.skip, out := [], lost := [] }
  let m := m.setLink lp { r.1 with asm := r.2.asm, skip := r.2.skip }
  let m :=
    match r.1.rxSwitch with
    | some s => if s.seq ≤ r.1.expect then
        Ilpiac.laneStates (Ilpiac.plw (m.setLink lp { m.link lp with rxSwitch := none }) lp F.LANE_PORT_STATUS_RX_SET s.set) lp else m
    | none => m
  let m := m.over r.2.lost (fun m b =>
    if b.length < 8 then m.pcnt lp F.PORT_ERRORS_CRC_DISCARDS 1
    else m.crcDiscard lp { h0 := BitVec.ofNat 64 (natAt b 0 8), hs := [], body := b.drop 8 })
  (r.2.out, m)

/-- A codeword of a lane counts in LANE_FEC; eight uncorrectable ones among 16 fail the lane (R401, R416). -/
def Ilpiac.fecCount (m : Ilpiac) (l : Nat) (bad : Bool) (n : Nat) : Ilpiac :=
  let m := if bad then m.cnt .lane l F.LANE_FEC_UNCORR 1 else m.cnt .lane l F.LANE_FEC_CORR_SYMBOLS n
  let x := m.lane l
  let r := (bad :: x.recent).take 16
  let m := m.setLane l { x with recent := r }
  if 8 ≤ (r.filter (fun b => b)).length then m.laneFail l causeUncorr else m

/-- The receive direction becomes idle or active (R406, R407); its lanes show IDLE. -/
def Ilpiac.setRxIdle (m : Ilpiac) (lp v : Nat) : Ilpiac :=
  if m.rxIdle lp = v then m
  else
    let m := m.plw lp F.LANE_PORT_STATUS_RX_IDLE v
    m.over (lanesOf lp) (fun m l =>
      if v ≠ 0 ∧ m.laneState l = laneActive then m.lw l F.LANE_STATUS_STATE laneIdle
      else if v = 0 ∧ m.laneState l = laneIdle then m.lw l F.LANE_STATUS_STATE laneActive else m)

/-- Lanes that receive flits. -/
def Ilpiac.laneReceives (m : Ilpiac) (l : Nat) : Bool := [laneLocked, laneActive, laneIdle].contains (m.laneState l)

/-- The fields of a CONTROL flit's payload (R392). -/
def controlOf (b : List Byte) : Control :=
  { rxGood := natAt b 0 2, txSet := natAt b 2 2, newSet := natAt b 4 2, switchSeq := natAt b 6 1, switchValid := bitOf (natAt b 7 1) 0 }

/-- What a CONTROL flit says (R392, R402 to R404): the partner's RX_GOOD and TX_SET, an announced switch, lanes that the partner has dropped, and lanes to add. -/
def Ilpiac.controlRx (m : Ilpiac) (lp : Nat) (c : Control) : Ilpiac :=
  let m := m.txDue lp
  let k := m.link lp
  let m := m.setLink lp { k with pRxGood := c.rxGood, pTxSet := c.txSet }
  if !k.formed then m
  else
    let d := (c.switchSeq + 256 - k.expect % 256) % 256
    let m :=
      if c.switchValid then
        (if d < 128 then m.setLink lp { m.link lp with rxSwitch := some ⟨c.newSet, k.expect + d⟩ }
         else Ilpiac.plw (m.setLink lp { m.link lp with rxSwitch := none }) lp F.LANE_PORT_STATUS_RX_SET c.newSet)
      else Ilpiac.plw (m.setLink lp { m.link lp with rxSwitch := none }) lp F.LANE_PORT_STATUS_RX_SET c.txSet
    let m := m.laneStates lp
    let gone := (bitIdx (m.txSet lp) (laneCount lp)).filter (fun i => !bitOf c.rxGood i && bitOf k.pRxGood i)
    let m := m.over gone (fun m i => m.laneFail (laneFirst lp + i) causePartner)
    (m.checkMin lp ((firstBelow (laneCount lp) (fun i => bitOf (m.link lp).rxGood i && !bitOf (m.rxSet lp) i)).getD 0 + laneFirst lp)).announce lp

/-- CONTROL_FLIT_RECEIVED: the flit is the next one of its lane. -/
def Ilpiac.controlFlit (m : Ilpiac) (l : Nat) (c : Control) : List (List Byte) × Ilpiac :=
  let lp := lanePort l
  if !m.laneReceives l then ([], m)
  else
    let r := match m.nextOnLane lp (laneIdx l) with
      | some n => if (m.link lp).formed then m.settleFlit lp n (some ⟨0x3F, n % 256, laneIdx l, 1, []⟩) else ([], m)
      | none => ([], m)
    (r.1, r.2.controlRx lp c)

/-- FLIT_RECEIVED: the codeword is decoded; an uncorrectable one loses the next flit of its lane, and a flit whose SEQ or LANE does not fit the receive set is discarded
(R387, R390, R391). The answer is the packets completed. -/
def Ilpiac.flitRx (m : Ilpiac) (l : Nat) (cw : Codeword) : List (List Byte) × Ilpiac :=
  let lp := lanePort l
  let f := cw.flit
  if !m.laneReceives l then ([], m)
  else
    let bad : Bool := decide (15 < cw.symErrors) || decide (4 < f.kind)
    let k := m.link lp
    let d := (f.seq + 256 - k.expect % 256) % 256
    let n := k.expect + d
    let r :=
      if !k.formed then ([], m)
      else if bad then
        (match m.nextOnLane lp (laneIdx l) with
         | some n => m.settleFlit lp n none
         | none => ([], m))
      else if d < 128 ∧ m.laneOfFlit lp n = some (laneIdx l) ∧ f.lane = laneIdx l % 8 ∧ !k.reorder.any (fun r => r.1 == n) then
        m.settleFlit lp n (some f)
      else ([], m)
    let m := ((r.2.txDue lp).adapt l).fecCount l bad cw.symErrors
    let m :=
      if bad ∨ !k.formed then m
      else if f.kind = 0 then m.setRxIdle lp 0
      else if f.kind = 2 then m.setRxIdle lp 1
      else if f.kind = 3 ∧ lp < 256 then m.setRxIdle lp 2
      else m
    (r.1, if !bad ∧ f.kind = 1 then m.controlRx lp (controlOf f.payload) else m)

/-! ### Lane loss, the end of a removal, and re-adds (R401 to R405) -/

/-- LANE_SIGNAL_LOSS: outside an announced deep idle (R401, R407). -/
def Ilpiac.signalLoss (m : Ilpiac) (l : Nat) : Ilpiac :=
  let lp := lanePort l
  let st := m.laneState l
  if m.rxIdle lp = 2 ∨ m.txIdle lp = 2 then m
  else if m.inSet l ∧ bitOf (m.link lp).rxGood (laneIdx l) then m.laneFail l causeSignal
  else if st = laneTest then (m.lw l F.LANE_STATUS_SIGNAL 0).lw l F.LANE_TEST_CHECK_LOCK 0
  else if st = laneAcquire ∨ st = laneAdapt ∨ st = laneLocked then m.startLane l
  else m

/-- LANE_MARGIN_CHECK, with the average of corrected symbols per codeword over 1 ms, rounded up. -/
def Ilpiac.marginCheck (m : Ilpiac) (l avg : Nat) : Ilpiac :=
  let t := m.plg (lanePort l) F.LANE_PORT_MARGIN_SYMBOLS
  if t ≠ 0 ∧ t < avg then m.laneFail l causeMargin else m

/-- LANE_SWITCH_OFF_TIMEOUT: both ends' SWITCH_SEQ have passed, or 2 µs (R402). -/
def Ilpiac.switchOff (m : Ilpiac) (l : Nat) : Ilpiac :=
  if (m.lane l).offDue then (m.applyTx (lanePort l)).startLane l else m

/-- LANE_READD: codeword lock for 1 ms without an uncorrectable codeword (R404). -/
def Ilpiac.readd (m : Ilpiac) (l : Nat) : Ilpiac :=
  let lp := lanePort l
  let k := m.link lp
  if m.laneState l = laneLocked ∧ m.laneServes l ∧ k.formed then
    Ilpiac.announce (m.setLink lp { k with rxGood := setBit k.rxGood (laneIdx l) }) lp
  else m

/-- CLEAR_HOLD (R405). -/
def Ilpiac.clearHold (m : Ilpiac) (l : Nat) : Ilpiac :=
  if !(m.lane l).held then m
  else
    let m := m.setLane l { m.lane l with held := false }
    let m := if m.laneState l = laneHeld then m.startLane l else m
    let lp := lanePort l
    if (lanesOf lp).any (fun x => (m.lane x).held) then m else m.release srcLane (· == lp)

/-- A write of LANE_CTRL.ENABLE (R397, R401, R410). -/
def Ilpiac.laneEnable (m : Ilpiac) (l : Nat) : Ilpiac :=
  let m := m.lw l F.LANE_CTRL_ENABLE 1
  if m.laneState l = laneOff then m.startLane l else m

/-- A disabled lane that waits for no set change turns off. -/
def Ilpiac.laneDisabled (m : Ilpiac) (l : Nat) : Ilpiac := if (m.lane l).offDue ∧ m.inSet l then m else m.startLane l

def Ilpiac.laneDisable (m : Ilpiac) (l : Nat) : Ilpiac :=
  let m := m.lw l F.LANE_CTRL_ENABLE 0
  (if m.inSet l then m.laneFail l causeSoftware else m).laneDisabled l

/-- CONTROL_FLIT_TIMER: the CONTROL flits carry the sets as they stand; a pending set change takes effect when SWITCH_SEQ has been reached (R392, R402). -/
def Ilpiac.controlTimer (m : Ilpiac) (lp : Nat) : Ilpiac := m.txDue lp

/-! ### Idle states (R406 to R408) -/

/-- LIGHT_IDLE_ENTER. -/
def Ilpiac.lightEnter (m : Ilpiac) (lp : Nat) : Ilpiac :=
  if (m.link lp).formed ∧ m.plg lp F.LANE_PORT_LIGHT_EN = 1 ∧ m.txIdle lp = 0 then (m.seqMark lp).plw lp F.LANE_PORT_STATUS_TX_IDLE 1 else m

/-- LIGHT_IDLE_BEACON: two TRAIN flits and one LIGHT flit on each lane. -/
def Ilpiac.lightBeacon (m : Ilpiac) (lp : Nat) : Ilpiac :=
  if m.txIdle lp = 1 then m.setLink lp { m.link lp with seqBase := (m.link lp).seqBase + 3 * popCount (m.txSet lp) 16 } else m

/-- LIGHT_IDLE_EXIT. -/
def Ilpiac.lightExit (m : Ilpiac) (lp : Nat) : Ilpiac :=
  if m.txIdle lp = 1 then Ilpiac.plw (m.setLink lp { m.link lp with seqClk := m.clk }) lp F.LANE_PORT_STATUS_TX_IDLE 0 else m

/-- DEEP_IDLE_ENTER. -/
def Ilpiac.deepEnter (m : Ilpiac) (p : Nat) : Ilpiac :=
  if m.portUp p ∧ m.plg p F.LANE_PORT_DEEP_AFTER_US ≠ 0 ∧ m.txIdle p ≠ 2 then (m.seqMark p).plw p F.LANE_PORT_STATUS_TX_IDLE 2 else m

/-- DEEP_IDLE_WAKE and DEEP_CHECK_TIMER: both directions wake (R407). -/
def Ilpiac.deepWake (m : Ilpiac) (p : Nat) : Ilpiac :=
  if m.txIdle p = 2 ∨ m.rxIdle p = 2 then
    (Ilpiac.plw (m.setLink p { m.link p with seqClk := m.clk }) p F.LANE_PORT_STATUS_TX_IDLE 0).setRxIdle p 0
  else m

/-! ### Error injection (R412) -/

/-- LANE_INJECT.ARM: the error leaves with what is sent; a bit flipped in a loopback mode counts at the own checker. -/
def Ilpiac.injectLane (m : Ilpiac) (l : Nat) : Ilpiac :=
  let m := m.lw l F.LANE_INJECT_ARM 0
  let mode := m.lg l F.LANE_CTRL_MODE
  if m.laneState l = laneTest ∧ (mode = 2 ∨ mode = 3) ∧ m.lg l F.LANE_INJECT_KIND = 2 ∧ m.lg l F.LANE_TEST_CHECK_LOCK = 1 then
    m.cnt .lane l F.LANE_CHECK_ERRORS 1
  else m

/-! ### Link reset (R494) and groups of lanes -/

/-- The lanes of a port restart under R397. -/
def Ilpiac.restartLanes (m : Ilpiac) (lp : Nat) : Ilpiac := m.over (lanesOf lp) (fun m l => m.startLane l)

/-- Lanes whose power condition has changed start or turn off; a port left without lanes goes DOWN. -/
def Ilpiac.lanePower (m : Ilpiac) (lp : Nat) : Ilpiac :=
  let ls := (lanesOf lp).filter (fun l => m.laneMay l == (m.laneState l == laneOff) && m.lg l F.LANE_CTRL_ENABLE == 1)
  if ls.isEmpty then m
  else
    let m := if (lanesOf lp).any m.laneMay then m else (if (m.link lp).formed then m.portDown lp none else m)
    m.over ls (fun m l => m.startLane l)

/-- The same for every port. -/
def Ilpiac.lanePowerAll (m : Ilpiac) : Ilpiac := m.over (List.range 263) (fun m lp => m.lanePower lp)

end Sys2Proof.Machine
end

