-- ==== Sys2Proof/Machine/Bundle.lean ====
section
/-! DEFINITION. Trellis bundles (spec 06): encoding (R210 to R214), arithmetic (R215 to R217), latencies (R218), hazards on registers
(R207, R208, R229), and the verifier of program images (R222, R225, R226). -/

namespace Sys2Proof.Machine

/-! ### Slots and fields (R210 to R214) -/

/-- Slot `i` of a bundle: 0 tile, 1 load/store, 2 reduction, 3 scalar/branch. -/
def slotOf (b : BitVec 128) (i : Nat) : Nat := bits b.toNat (32 * i) 32

def sOp (s : Nat) : Nat := bits s 26 6
def sD (s : Nat) : Nat := bits s 21 5
def sA (s : Nat) : Nat := bits s 16 5
def sB (s : Nat) : Nat := bits s 11 5
def sC (s : Nat) : Nat := bits s 6 5
def sBS (s : Nat) : Bool := bitOf s 5
def sImm (s : Nat) : Nat := bits s 0 16
def sBuf (s : Nat) : Nat := bits s 14 2
def sFmt (s : Nat) : Nat := bits s 11 3

/-- LEN64 in bytes (R212). -/
def sLen (s : Nat) : Nat := if bits s 0 10 = 0 then 65536 else 64 * bits s 0 10

/-- Tile operations with operand B, of which BS may be 1 (R211). -/
def tileBinary (op : Nat) : Bool := [2, 3, 4, 5, 6, 7, 0xA].contains op

/-- Branches, JMP, LOOP and END (R214). -/
def isBranch (op : Nat) : Bool := decide (0x30 ≤ op) && decide (op ≤ 0x38)
def opJmp : Nat := 0x39
def opLoop : Nat := 0x3A
def opEnd : Nat := 0x3F

/-- Whether every listed field `(lo, width)` of a slot is zero. -/
def slotZero (s : Nat) (l : List (Nat × Nat)) : Bool := l.all (fun f => bits s f.1 f.2 == 0)

/-- The encoding rule of one slot (R210 to R214, REASON 0x03). -/
def slotEncodes (i s : Nat) : Bool :=
  let op := sOp s
  if s = 0 then true
  else if i = 0 then
    decide (1 ≤ op) && decide (op ≤ 0xC) &&
    (tileBinary op || slotZero s [(11, 5), (5, 1)]) && (op == 5 || slotZero s [(6, 5)]) &&
    (if op = 0xC then !bitOf s 4 && decide (bits s 0 3 ≤ 1) && (!bitOf s 3 || bits s 0 3 == 1) else slotZero s [(0, 5)])
  else if i = 1 then
    if op = 1 then decide (sFmt s ≤ 5) && slotZero s [(9, 2)]
    else if op = 2 then
      let md := bits s 9 2
      decide (sFmt s ≤ 5) && (md == 0 || (md == 1 && (sFmt s == 2 || sFmt s == 3)) || (md == 2 && sFmt s == 5))
    else if op = 3 ∨ op = 4 then true
    else if op = 5 ∨ op = 6 then slotZero s [(10, 4)]
    else if op = 7 then slotZero s [(16, 10), (0, 14)]
    else if op = 8 then slotZero s [(0, 16)]
    else false
  else if i = 2 then decide (1 ≤ op) && decide (op ≤ 4) && slotZero s [(0, 16)]
  else if (1 ≤ op ∧ op ≤ 9) ∨ (0x18 ≤ op ∧ op ≤ 0x1E) then slotZero s [(0, 11)] && (op != 0x1C || slotZero s [(11, 5)])
  else if 0x10 ≤ op ∧ op ≤ 0x14 then true
  else if op = 0x20 then slotZero s [(16, 5)] && decide (sImm s ≤ 0xD)
  else if op = 0x21 then slotZero s [(21, 3), (0, 16)]
  else if op = 0x22 then slotZero s [(18, 3), (0, 16)]
  else if isBranch op then op != 0x38 || slotZero s [(16, 5)]
  else if op = opJmp ∨ op = opLoop then slotZero s [(16, 10)]
  else if op = opEnd then slotZero s [(0, 26)]
  else false

/-! ### Locations that a slot reads and writes (R207, R218) -/

/-- Location types: tile, scalar and loop count registers, tile-buffer granules, the tile ALU (R226, R237). -/
def locTile : Nat := 0
def locScalar : Nat := 1
def locLoop : Nat := 2
def locGranule : Nat := 3
def locAlu : Nat := 4

/-- Tile registers that a slot names in fields it uses (REASON 0x04). -/
def slotTiles (i s : Nat) : List Nat :=
  let op := sOp s
  if s = 0 then []
  else if i = 0 then
    [sD s, sA s] ++ (if tileBinary op && !sBS s then [sB s] else []) ++ (if op = 5 then [sC s] else [])
  else if i = 1 then (if op = 1 ∨ op = 2 ∨ op = 3 ∨ op = 8 then [sD s] else [])
  else if i = 2 then [sA s]
  else []

/-- Registers that a slot reads, U0 left out, tiles first and then by number; `d` is the nesting depth of the bundle. -/
def slotReads (d i s : Nat) : List (Nat × Nat) :=
  let op := sOp s
  let tile := fun (l : List Nat) => (l.insertionSort (· ≤ ·)).map (fun n => (locTile, n))
  let scal := fun (l : List Nat) => ((l.filter (· != 0)).insertionSort (· ≤ ·)).map (fun n => (locScalar, n))
  if s = 0 then []
  else if i = 0 then
    tile ([sA s] ++ (if tileBinary op && !sBS s then [sB s] else []) ++ (if op = 5 then [sC s] else [])) ++
    scal (if tileBinary op && sBS s then [sB s] else [])
  else if i = 1 then
    if op = 1 ∨ op = 3 ∨ op = 4 then scal [sA s]
    else if op = 2 ∨ op = 8 then tile [sD s] ++ scal [sA s]
    else if op = 5 ∨ op = 6 then scal [sD s, sA s]
    else []
  else if i = 2 then tile [sA s]
  else if (1 ≤ op ∧ op ≤ 9) ∨ ((0x18 ≤ op ∧ op ≤ 0x1E) ∧ op ≠ 0x1C) then scal [sA s, sB s]
  else if (0x10 ≤ op ∧ op ≤ 0x14) ∨ op = 0x1C ∨ op = 0x21 then scal [sA s]
  else if op = 0x38 then scal [sD s]
  else if isBranch op then scal [sD s, sA s]
  else if op = opLoop then [(locLoop, d)]
  else []

/-- Latency of a slot's operation (R218). -/
def slotLatency (i s : Nat) : Nat :=
  let op := sOp s
  if i = 0 then
    if op = 1 then 2 else if op = 5 then 5 else if op = 0xC then 3 else if op = 0xB then 12 else if op = 0xA then 14 else 4
  else if i = 1 then
    if op = 1 then (if sFmt s ≤ 2 then 6 else 7) else if op = 2 then (if sFmt s ≤ 3 then 6 else 9)
    else if op = 3 ∨ op = 4 then 8 else 1
  else if i = 2 then (if op ≤ 2 then 12 else if op = 3 then 8 else 6)
  else if op = 0x20 then 2
  else if op = 0x1B ∨ op = 0x1C then 10
  else if 0x18 ≤ op ∧ op ≤ 0x1E then 3
  else 1

/-- The register that a slot writes. -/
def slotWrites (i s : Nat) : List (Nat × Nat) :=
  let op := sOp s
  let u := if sD s = 0 then [] else [(locScalar, sD s)]
  if s = 0 then []
  else if i = 0 then [(locTile, sD s)]
  else if i = 1 then (if op = 1 ∨ op = 3 then [(locTile, sD s)] else if op = 4 then u else [])
  else if i = 2 then u
  else if op ≤ 0x20 ∨ op = 0x22 then u
  else if op = 0x21 then [(locLoop, bits s 24 2)]
  else []

/-- Cycles for which a slot keeps the tile ALU busy beyond its issue cycle's own (R218): 4 for FDIV and FSQRT. -/
def slotBusy (i s : Nat) : Nat := if i = 0 ∧ (sOp s = 0xA ∨ sOp s = 0xB) then 4 else 0

/-! ### Hazards on registers and the tile ALU (R208, R229) -/

/-- A hazard: kind (0 RAW, 1 WAW, 2 STREAM, 3 UNINIT, 4 BUSY), location, cycles by which it came too early, and the bundle of the pending
write; 0xFFFF is none (R237). -/
structure Hazard where
  kind : Nat
  loc : Nat × Nat
  short : Nat
  writer : Nat
deriving DecidableEq, Repr

/-- What is known of a register: cycles for which it is still pending, the bundle that writes it, and whether it has been written. -/
structure RegLook where
  rem : Nat
  writer : Nat
  written : Bool
deriving DecidableEq, Repr

/-- RAW and UNINIT of registers read, in the order of R229. -/
def readHazards (look : Nat × Nat → RegLook) (l : List (Nat × Nat)) : List Hazard :=
  (l.filter (fun r => decide (0 < (look r).rem))).map (fun r => ⟨0, r, (look r).rem, (look r).writer⟩) ++
  (l.filter (fun r => !(look r).written)).map (fun r => ⟨3, r, 127, 0xFFFF⟩)

/-- WAW of registers written. -/
def writeHazards (look : Nat × Nat → RegLook) (l : List (Nat × Nat)) : List Hazard :=
  (l.filter (fun r => decide (0 < (look r).rem))).map (fun r => ⟨1, r, (look r).rem, (look r).writer⟩)

/-- The hazards of one slot on registers and the tile ALU, in the order of R229. -/
def slotHazards (look : Nat × Nat → RegLook) (alu : Nat × Nat) (d i s : Nat) : List Hazard :=
  (if i = 0 ∧ s ≠ 0 ∧ 0 < alu.1 then [⟨4, (locAlu, 0), alu.1, alu.2⟩] else []) ++
  readHazards look (slotReads d i s) ++ writeHazards look (slotWrites i s)

/-! ### Arithmetic (R215 to R217) -/

/-- A quotient rounded once (R109, R110, R215). -/
def divB32 (a b : F32) : F32 :=
  match f32Val a, f32Val b with
  | .nan, _ => BitVec.ofNat 32 b32.nan
  | _, .nan => BitVec.ofNat 32 b32.nan
  | .inf _, .inf _ => BitVec.ofNat 32 b32.nan
  | .inf s, .fin t _ _ _ => toF32 (.inf (xor s t))
  | .fin s _ _ _, .inf t => toF32 (.fin (xor s t) 0 1 0)
  | .fin s n d e, .fin t n' d' e' =>
    if n' = 0 then (if n = 0 then BitVec.ofNat 32 b32.nan else toF32 (.inf (xor s t)))
    else toF32 (.fin (xor s t) (n * d') (d * n') (e - e'))

/-- A square root rounded once (R215): the integer root of a scaled significand, with a sticky digit. -/
def sqrtB32 (a : F32) : F32 :=
  match f32Val a with
  | .nan => BitVec.ofNat 32 b32.nan
  | .inf s => if s then BitVec.ofNat 32 b32.nan else a
  | .fin s n _ e =>
    if n = 0 then a
    else if s then BitVec.ofNat 32 b32.nan
    else
      let x := n * 2 ^ (e % 2).toNat * 2 ^ 64
      let q := Nat.sqrt x
      toF32 (.fin false (2 * q + b2n (q * q != x)) 1 (e / 2 - 33))

/-- FMA: one rounding after the exact product and sum (R215). -/
def fmaB32 (a b c : F32) : F32 := toF32 (((f32Val a).mul (f32Val b)).add (f32Val c))

/-- Whether `a` is below `b`, −0 below +0 when `z` says so; neither is NaN. -/
def valLt (z : Bool) (a b : Val) : Bool :=
  match a, b with
  | .nan, _ => false
  | _, .nan => false
  | .inf s, .inf t => s && !t
  | .inf s, .fin _ _ _ _ => s
  | .fin _ _ _ _, .inf t => !t
  | .fin s n _ _, .fin t n' _ _ =>
    if n = 0 ∧ n' = 0 then z && s && !t
    else if n = 0 then !t
    else if n' = 0 then s
    else if s then (if t then Val.magLt b a else true) else (if t then false else Val.magLt a b)

/-- FMIN and FMAX (R215). -/
def minB32 (a b : F32) : F32 :=
  match f32Val a, f32Val b with
  | .nan, _ => BitVec.ofNat 32 b32.nan
  | _, .nan => BitVec.ofNat 32 b32.nan
  | x, y => if valLt true y x then b else a
def maxB32 (a b : F32) : F32 :=
  match f32Val a, f32Val b with
  | .nan, _ => BitVec.ofNat 32 b32.nan
  | _, .nan => BitVec.ofNat 32 b32.nan
  | x, y => if valLt true x y then b else a

/-- FABS and FNEG (R215). -/
def absB32 (a : F32) : F32 := if f32Val a = .nan then BitVec.ofNat 32 b32.nan else a &&& 0x7FFFFFFF#32
def negSignB32 (a : F32) : F32 := if f32Val a = .nan then BitVec.ofNat 32 b32.nan else negB32 a

/-- CVT: bfloat16 or S19, to nearest or toward zero (R215). -/
def cvtB32 (mode : Nat) (a : F32) : Conv :=
  let f := if mode % 8 = 0 then bf16 else s19
  let c := convert f (if bitOf mode 3 then .zero else .nearest) false (f32Val a)
  { c with code := c.code * 2 ^ (32 - f.width) }

/-- The result of a tile operation on one element (R211), B already chosen by BS. -/
def tileElem (op : Nat) (a b c : F32) : F32 :=
  match op with
  | 0x01 => a
  | 0x02 => addB32 a b
  | 0x03 => addB32 a (negB32 b)
  | 0x04 => mulB32 a b
  | 0x05 => fmaB32 a b c
  | 0x06 => minB32 a b
  | 0x07 => maxB32 a b
  | 0x08 => absB32 a
  | 0x09 => negSignB32 a
  | 0x0A => divB32 a b
  | 0x0B => sqrtB32 a
  | _ => a

/-- Element `j` of a list of values. -/
def elemAt (l : List F32) (j : Nat) : F32 := (l[j]?).getD 0

/-- A tile operation: the result, and the saturations and the non-finite flag of CVT. -/
def tileRun (op mode : Nat) (a b c : List F32) : Run :=
  if op = 0xC then runOf (a.map (cvtB32 mode))
  else ⟨(List.range 1024).map (fun j => tileElem op (elemAt a j) (elemAt b j) (elemAt c j)), 0, false⟩

/-- A scalar binary32 operation (R214). -/
def scalarF (op : Nat) (a b : F32) : F32 :=
  match op with
  | 0x18 => addB32 a b
  | 0x19 => addB32 a (negB32 b)
  | 0x1A => mulB32 a b
  | 0x1B => divB32 a b
  | 0x1C => sqrtB32 a
  | 0x1D => minB32 a b
  | _ => maxB32 a b

/-- A scalar integer operation on two operands (R214). -/
def scalarI (op : Nat) (a b : Word) : Word :=
  match op with
  | 0x01 => a + b
  | 0x02 => a - b
  | 0x03 => a &&& b
  | 0x04 => a ||| b
  | 0x05 => a ^^^ b
  | 0x06 => a <<< (b.toNat % 64)
  | 0x07 => a >>> (b.toNat % 64)
  | 0x08 => if a.toNat ≤ b.toNat then a else b
  | _ => if a.toNat ≤ b.toNat then b else a

/-- A scalar integer operation on an operand and IMM (R214): the same operations, with IMM extended as each states. -/
def scalarImm (op : Nat) (a : Word) (imm : Nat) : Word :=
  match op with
  | 0x10 => a + BitVec.ofInt 64 (asInt imm 16)
  | 0x11 => a &&& BitVec.ofNat 64 imm
  | 0x12 => a <<< (imm % 64)
  | 0x13 => a >>> (imm % 64)
  | _ => if a.toNat ≤ imm then a else BitVec.ofNat 64 imm

/-- Whether a branch is taken (R219). -/
def branchTaken (op : Nat) (a b : Word) : Bool :=
  let x := f32Val (a.setWidth 32)
  let y := f32Val (b.setWidth 32)
  let nan := x == .nan || y == .nan
  match op with
  | 0x30 => a == b
  | 0x31 => a != b
  | 0x32 => decide (a.toInt < b.toInt)
  | 0x33 => decide (b.toInt ≤ a.toInt)
  | 0x34 => decide (a.toNat < b.toNat)
  | 0x35 => decide (b.toNat ≤ a.toNat)
  | 0x36 => !nan && valLt false x y
  | 0x37 => !nan && !valLt false x y
  | _ => f32Nonfinite (a.setWidth 32)

/-- The reduction unit (R217). -/
def reduceRun (op : Nat) (t : List F32) : Word :=
  match op with
  | 0x1 => (reduceTree (t.map some)).setWidth 64
  | 0x2 => (reduceTree (t.map (fun v => some (squareF v)))).setWidth 64
  | 0x3 => (amaxRun t).setWidth 64
  | _ => BitVec.ofNat 64 (t.filter f32Nonfinite).length

/-! ### Tiles in a tile buffer (R100, R212, R216) -/

/-- Bytes per tile of an FMT (R212). -/
def tileBytes (fmt : Nat) : Nat := if fmt = 1 then 2048 else if fmt = 3 then 2432 else if fmt = 4 ∨ fmt = 5 then 1056 else 4096

/-- 32 codes of 19 bits from a 76-byte group (R100). -/
def unpackGroup (l : List Byte) : List Nat :=
  let x := ofLE (l.take 76)
  (List.range 32).map (fun j => bits x (19 * j) 19)

/-- A 76-byte group of 32 codes (R100). -/
def packGroup (l : List Nat) : List Byte := leBytes 76 (l.foldr (fun c acc => c % 2 ^ 19 + 2 ^ 19 * acc) 0)

/-- LDT (R216). -/
def tileLoad (fmt : Nat) (l : List Byte) : List F32 :=
  match fmt with
  | 0 => (List.range 1024).map (fun j => BitVec.ofNat 32 (natAt l (4 * j) 4))
  | 1 => (List.range 1024).map (fun j => BitVec.ofNat 32 (natAt l (2 * j) 2 * 2 ^ 16))
  | 2 => (List.range 1024).map (fun j => BitVec.ofNat 32 (natAt l (4 * j) 4 / 2 ^ 13 * 2 ^ 13))
  | 3 => (List.range 32).flatMap (fun g => (unpackGroup (l.drop (76 * g))).map (fun c => BitVec.ofNat 32 (c * 2 ^ 13)))
  | _ => (decodeRun (if fmt = 4 then e4m3 else e5m2) (l.drop 1024) l 0x3F800000 0 1024).vals

/-- STT (R216): the bytes, the saturations and the non-finite flag. -/
def tileStore (fmt mode : Nat) (t : List F32) : List Byte × Nat × Bool :=
  let r : Round := if mode = 1 then .zero else .nearest
  let conv := fun (f : Fmt) => t.map (fun v => convert f r false (f32Val v))
  let note := fun (cs : List Conv) => ((cs.filter (·.sat)).length, cs.any (·.nonfinite))
  match fmt with
  | 0 => (t.flatMap (fun v => leBytes 4 v.toNat), 0, t.any f32Nonfinite)
  | 1 => let cs := conv bf16; (cs.flatMap (fun c => leBytes 2 c.code), note cs)
  | 2 => let cs := conv s19; (cs.flatMap (fun c => leBytes 4 (c.code * 2 ^ 13)), note cs)
  | 3 =>
    let cs := conv s19
    ((List.range 32).flatMap (fun g => packGroup (((cs.drop (32 * g)).take 32).map (·.code))), note cs)
  | _ =>
    let e := encodeBlocks ⟨false, mode == 2⟩ (if fmt = 4 then e4m3 else e5m2) 0x3F800000 32 t
    (e.payload ++ e.scales, e.sats, e.nonfinite)

/-! ### The verifier (R221, R222, R225, R226) -/

/-- The fields of an image header (R222). -/
structure ImageHeader where
  bundles : Nat
  entry : Nat
  opnd : Nat
  preload : Nat
  stride : Nat
deriving DecidableEq, Repr

def imageHeader (l : List Byte) : ImageHeader :=
  ⟨natAt l 0x8 4, natAt l 0xC 4, natAt l 0x10 4, natAt l 0x14 4, natAt l 0x18 8⟩

/-- The header rule (REASON 0x01). -/
def headerOk (l : List Byte) : Bool :=
  let h := imageHeader l
  decide (64 ≤ l.length) && natAt l 0 4 == 0x54524C31 && natAt l 4 2 == 1 && natAt l 6 2 == 0 &&
  decide (1 ≤ h.bundles) && decide (h.bundles ≤ 65536) && decide (h.entry < h.bundles) &&
  h.opnd % 64 == 0 && decide (h.opnd ≤ 524288) &&
  h.preload % 64 == 0 && decide (h.preload ≤ 65536) && decide (h.preload ≤ h.stride) &&
  h.stride % 64 == 0 && decide (64 ≤ h.stride) && decide (h.stride ≤ 2 ^ 30) &&
  (bytesAt l 0x24 28).all (· == 0) && l.length == 64 + 16 * h.bundles + h.opnd

/-- The bundles of an image. -/
def imageBundles (l : List Byte) : List (BitVec 128) :=
  (piecesOf 16 (imageHeader l).bundles (l.drop 64)).map (fun p => BitVec.ofNat 128 (ofLE p))

/-- The operand image. -/
def imageOpnd (l : List Byte) : List Byte := (l.drop (64 + 16 * (imageHeader l).bundles)).take (imageHeader l).opnd

/-- CRC over bytes 64 to the end (R222). -/
def imageCrc (l : List Byte) : Nat := (crc32c (l.drop 64)).toNat

/-- What the verifier reports (R226): reason, slot, location, bundle, writer, cycles short. -/
structure Finding where
  reason : Nat
  slot : Nat := 0xFF
  locType : Nat := 0xFF
  locIndex : Nat := 0xFF
  bundle : Nat := 0xFFFFFFFF
  writer : Nat := 0xFFFFFFFF
  short : Nat := 0
deriving DecidableEq, Repr

/-- The bundle at an index; beyond the end nothing. -/
def bundleAt (p : List (BitVec 128)) (b : Nat) : BitVec 128 := (p[b]?).getD 0

/-- The scalar slot of a bundle and its opcode. -/
def scalarAt (p : List (BitVec 128)) (b : Nat) : Nat := slotOf (bundleAt p b) 3

/-- The first bundle in order for which a rule finds something. -/
def firstFinding (p : List (BitVec 128)) (f : Nat → BitVec 128 → Option Finding) : Option Finding :=
  p.zipIdx.findSome? (fun x => f x.2 x.1)

/-- The first slot, in order, for which a rule finds something. -/
def perSlot (b : BitVec 128) (f : Nat → Nat → Option Finding) : Option Finding :=
  [0, 1, 2, 3].findSome? (fun i => f i (slotOf b i))

/-- Named registers that another slot of the bundle writes too (REASON 0x05). -/
def doubleWrite (b : BitVec 128) (i s : Nat) : Option (Nat × Nat) :=
  (slotWrites i s).find? (fun r => [0, 1, 2, 3].any (fun j => j != i && (slotWrites j (slotOf b j)).contains r))

/-- The loops of a program: LOOP bundle and LAST. -/
def loopsOf (p : List (BitVec 128)) : List (Nat × Nat) :=
  p.zipIdx.filterMap (fun x => let s := slotOf x.1 3; if sOp s = opLoop then some (x.2, sImm s) else none)

/-- The loops whose body holds a bundle, outermost first. -/
def enclosing (ls : List (Nat × Nat)) (b : Nat) : List (Nat × Nat) := ls.filter (fun l => decide (l.1 < b) && decide (b ≤ l.2))

/-- R221 at one bundle. -/
def loopRule (p : List (BitVec 128)) (ls : List (Nat × Nat)) (entry b : Nat) : Bool :=
  let s := scalarAt p b
  let op := sOp s
  let e := enclosing ls b
  (op != opLoop || (decide (e.length < 4) && e.all (fun l => decide (sImm s < l.2)))) &&
  (!ls.any (fun l => l.2 == b) || !(isBranch op || op == opJmp || op == opLoop || op == opEnd)) &&
  (!(isBranch op || op == opJmp) || (enclosing ls (sImm s)).getLast? == e.getLast?) &&
  (op != opEnd || e.isEmpty) && (b != entry || e.isEmpty)

/-- What the path rules know at the issue of a bundle: pending registers by key with remaining cycles and writer, unwritten registers as a
bit mask over the keys, and the tile ALU. -/
structure Flow where
  pend : List (Nat × (Nat × Nat))
  unw : Nat
  alu : Nat
  aluW : Nat
deriving DecidableEq, Repr

/-- The key of a register. -/
def regKey (r : Nat × Nat) : Nat := r.1 * 64 + r.2

/-- Nothing pending and no named register written. -/
def Flow.start : Flow :=
  ⟨[], ofBitIdx ((List.range 24) ++ (List.range 31).map (· + 65) ++ (List.range 4).map (· + 128)), 0, 0⟩

def Flow.look (f : Flow) (r : Nat × Nat) : RegLook :=
  let x := Map.get (fun _ => (0, 0)) f.pend (regKey r)
  ⟨x.1, x.2, !bitOf f.unw (regKey r)⟩

/-- `n` engine cycles pass. -/
def Flow.pass (f : Flow) (n : Nat) : Flow :=
  ⟨(f.pend.map (fun e => (e.1, (e.2.1 - n, e.2.2)))).filter (fun e => e.2.1 != 0), f.unw, f.alu - n, if f.alu ≤ n then 0 else f.aluW⟩

/-- The longer of two remaining times; the lower writer when they are equal. -/
def longer (a b : Nat × Nat) : Nat × Nat :=
  if a.1 < b.1 then b else if b.1 < a.1 then a else (a.1, min a.2 b.2)

/-- Paths join (R225). -/
def Flow.join (f g : Flow) : Flow :=
  let pend := g.pend.foldl (fun l e => Map.put (fun _ => (0, 0)) l e.1
    (let x := Map.get (fun _ => (0, 0)) l e.1; if x.1 = 0 then e.2 else longer x e.2)) f.pend
  let a := if f.alu = 0 then (g.alu, g.aluW) else if g.alu = 0 then (f.alu, f.aluW) else longer (f.alu, f.aluW) (g.alu, g.aluW)
  ⟨pend, Nat.lor f.unw g.unw, a.1, a.2⟩

/-- The issue of bundle `b`. -/
def Flow.issue (f : Flow) (bd : BitVec 128) (b : Nat) : Flow :=
  [0, 1, 2, 3].foldl (fun f i =>
    let s := slotOf bd i
    let f := (slotWrites i s).foldl (fun (f : Flow) r =>
      let k := regKey r
      { f with pend := Map.put (fun _ => (0, 0)) f.pend k (if slotLatency i s = 1 then (0, 0) else (slotLatency i s, b)),
               unw := if bitOf f.unw k then f.unw - 2 ^ k else f.unw }) f
    if slotBusy i s = 0 then f else { f with alu := slotBusy i s, aluW := b }) f

/-- Bundles that may issue after `b`, with the cycles until then (R218, R220). -/
def successors (p : List (BitVec 128)) (ls : List (Nat × Nat)) (b : Nat) : List (Nat × Nat) :=
  let s := scalarAt p b
  let op := sOp s
  let next := match (enclosing ls b).getLast? with
    | some l => if l.2 = b then [(l.1 + 1, 1), (b + 1, 1)] else [(b + 1, 1)]
    | none => [(b + 1, 1)]
  if op = opEnd then []
  else if op = opJmp then [(sImm s, 4)]
  else if isBranch op then next ++ [(sImm s, 4)]
  else if op = opLoop then next ++ [(sImm s + 1, 4)]
  else next

/-- The path analysis: bundles whose state has changed are followed until nothing changes. -/
def flowGo (p : List (BitVec 128)) (ls : List (Nat × Nat)) : Nat → List Nat → List (Nat × Option Flow) → List (Nat × Option Flow)
  | 0, _, st => st
  | _, [], st => st
  | n + 1, b :: w, st =>
    match Map.get (fun _ => none) st b with
    | none => flowGo p ls n w st
    | some f =>
      let out := f.issue (bundleAt p b) b
      let r := (successors p ls b).foldl (fun (a : List Nat × List (Nat × Option Flow)) t =>
        if p.length ≤ t.1 then a
        else
          let f' := out.pass t.2
          let old := Map.get (fun _ => (none : Option Flow)) a.2 t.1
          let new := match old with | none => some f' | some o => some (o.join f')
          if new = old then a else (if a.1.contains t.1 then a.1 else a.1 ++ [t.1], Map.put (fun _ => none) a.2 t.1 new)) (w, st)
      flowGo p ls n r.1 r.2

/-- The states of all bundles that a path reaches. -/
def flows (p : List (BitVec 128)) (ls : List (Nat × Nat)) (entry : Nat) : List (Nat × Option Flow) :=
  flowGo p ls (p.length * p.length * 1024 + 1) [entry] [(entry, some Flow.start)]

/-- The verifier (R225): the first rule that fails, at its lowest-numbered bundle. -/
def verify (l : List Byte) : Option Finding :=
  if !headerOk l then some { reason := 0x01 }
  else if natAt l 0x20 4 ≠ imageCrc l then some { reason := 0x02 }
  else
    let h := imageHeader l
    let p := imageBundles l
    let ls := loopsOf p
    let enc := firstFinding p (fun b x => perSlot x (fun i s => if slotEncodes i s then none else some { reason := 0x03, slot := i, bundle := b }))
    let reg := firstFinding p (fun b x => perSlot x (fun i s =>
      (((slotTiles i s).insertionSort (· ≤ ·)).find? (24 ≤ ·)).map (fun n => { reason := 0x04, slot := i, locType := locTile, locIndex := n, bundle := b })))
    let same := firstFinding p (fun b x => perSlot x (fun i s =>
      (doubleWrite x i s).map (fun r => { reason := 0x05, slot := i, locType := r.1, locIndex := r.2, bundle := b })))
    let target := firstFinding p (fun b x =>
      let s := slotOf x 3
      let op := sOp s
      if ((isBranch op ∨ op = opJmp) ∧ p.length ≤ sImm s) ∨ (op = opLoop ∧ (p.length ≤ sImm s ∨ sImm s ≤ b)) then some { reason := 0x06, slot := 3, bundle := b } else none)
    let loops := firstFinding p (fun b _ =>
      if loopRule p ls h.entry b then none
      else some { reason := 0x07, slot := if scalarAt p b = 0 then 0xFF else 3, bundle := b })
    let buffer := firstFinding p (fun b x =>
      let s := slotOf x 1
      if h.preload ≠ 0 ∧ [1, 2, 5, 6, 7].contains (sOp s) ∧ 2 ≤ sBuf s then some { reason := 0x0B, slot := 1, bundle := b } else none)
    match enc, reg, same, target, loops with
    | some f, _, _, _, _ => some f
    | _, some f, _, _, _ => some f
    | _, _, some f, _, _ => some f
    | _, _, _, some f, _ => some f
    | _, _, _, _, some f => some f
    | _, _, _, _, _ =>
      let st := flows p ls h.entry
      let path := fun (reason : Nat) (kinds : List Nat) => firstFinding p (fun b x =>
        match Map.get (fun _ => none) st b with
        | none => none
        | some f => perSlot x (fun i s =>
            ((slotHazards f.look (f.alu, f.aluW) (enclosing ls b).length i s).find? (fun hz => kinds.contains hz.kind)).map (fun hz =>
              { reason, slot := i, locType := hz.loc.1, locIndex := hz.loc.2, bundle := b,
                writer := if reason = 0x08 then hz.writer else 0xFFFFFFFF, short := if reason = 0x08 then hz.short else 0 })))
      let fall := firstFinding p (fun b _ =>
        if (Map.get (fun _ => none) st b).isSome && (successors p ls b).any (fun t => decide (p.length ≤ t.1)) then some { reason := 0x0A, bundle := b } else none)
      (((path 0x08 [4, 0, 1]).or (path 0x09 [3])).or fall).or buffer

/-- The verifier report (R226). -/
def Finding.report (f : Finding) (crc bundles loadNs : Nat) : List Byte :=
  leBytes 1 f.reason ++ leBytes 1 f.slot ++ leBytes 1 f.locType ++ leBytes 1 f.locIndex ++ leBytes 4 f.bundle ++ leBytes 4 f.writer ++
  leBytes 4 f.short ++ leBytes 4 crc ++ leBytes 4 bundles ++ leBytes 8 loadNs

end Sys2Proof.Machine
end

