-- ==== Sys2Proof/Machine/Trellis.lean ====
section
/-! DEFINITION. Trellis engines (spec 06): assignment and start of invocations (R196 to R201), issue of bundles under the hazard shadow
(R206 to R209, R220, R229 to R231), streams, program loading (R223 to R227) and the engine's control bits (R232, R234). -/

namespace Sys2Proof.Machine

/-! ### Engines -/

def Engine.init : Engine :=
  { prog := none, cur := none, next := none, lastBase := 2, buffers := [], streams := [], nextStream := 0, lines := [] }

def Ilpiac.eng (m : Ilpiac) (e : Nat) : Engine := Map.get (fun _ => Engine.init) m.trellis.engines e
def Ilpiac.setEng (m : Ilpiac) (e : Nat) (x : Engine) : Ilpiac :=
  { m with trellis := { m.trellis with engines := Map.put (fun _ => Engine.init) m.trellis.engines e x } }
def Ilpiac.updEng (m : Ilpiac) (e : Nat) (f : Engine → Engine) : Ilpiac := m.setEng e (f (m.eng e))

/-- States of an engine (R235). -/
def engEmpty : Nat := 0
def engReady : Nat := 1
def engRunning : Nat := 2
def engLoading : Nat := 3
def engFaulted : Nat := 4
def engGated : Nat := 5
def Ilpiac.engState (m : Ilpiac) (e : Nat) : Nat := m.rd .engine e F.TRELLIS_STATUS_STATE
def Ilpiac.setEngState (m : Ilpiac) (e s : Nat) : Ilpiac := m.wr .engine e F.TRELLIS_STATUS_STATE s

/-- Present engines. -/
def Ilpiac.enginesHere (m : Ilpiac) : List Nat := List.range (m.g F.CAP_PRESENT_TRELLIS_ENGINES)

/-- Whether an engine is enabled (R234). -/
def Ilpiac.engOn (m : Ilpiac) (e : Nat) : Bool := m.rd .engine e F.TRELLIS_CTRL_ENABLE == 1

/-- The state of an engine that has no invocation and is not FAULTED: EMPTY, READY or GATED (R224, R232, R234). -/
def Ilpiac.idleState (m : Ilpiac) (e : Nat) : Nat :=
  if (m.eng e).prog.isNone then engEmpty else if m.engOn e then engReady else engGated

def Ilpiac.updPhase4 (m : Ilpiac) (k : CollId) (f : Phase4 → Phase4) : Ilpiac :=
  { m with trellis := { m.trellis with phase4 := mapIf (fun p => p.coll == k) f m.trellis.phase4 } }

/-! ### Assignment (R196) -/

/-- The state window of chunk position `k` (R200). -/
def stateWindow (c : Coll) (beds k stride : Nat) : Nat := c.stateBase + k / max 1 beds * stride

/-- Whether an engine can be given an invocation of a program now: READY with none assigned, or, when PRELOAD_BYTES is not zero, RUNNING with
none assigned. -/
def Ilpiac.mayTake (m : Ilpiac) (program st : Nat) (e : Nat) : Bool :=
  let x := m.eng e
  match x.prog with
  | some p => p.handle == program && m.engOn e && m.engState e == st && x.next.isNone && (st == engReady || p.preload != 0)
  | none => false

/-- The engine that takes the next invocation of a program. -/
def Ilpiac.engineFor (m : Ilpiac) (program : Nat) : Option Nat :=
  (m.enginesHere.find? (m.mayTake program engReady)).or (m.enginesHere.find? (m.mayTake program engRunning))

/-- One invocation is assigned to an engine; invocations on a pair alternate (R201). -/
def Ilpiac.giveInv (m : Ilpiac) (e : Nat) (coll : CollId) (k : Nat) : Ilpiac :=
  m.updEng e (fun x =>
    let base := if (x.prog.map (·.preload)).getD 0 = 0 then 0 else 2 - (match x.cur with | some i => i.base | none => x.lastBase)
    { x with next := some ({ coll, k, base, filling := false, filled := false } : Assigned) })

/-- Invocations of one collective are assigned in ascending k while an engine qualifies. -/
def Ilpiac.assignOne (m : Ilpiac) (coll : CollId) : Nat → Ilpiac
  | 0 => m
  | n + 1 =>
    match m.trellis.phase4.find? (fun p => p.coll == coll), m.collOf coll with
    | some p, some c =>
      match p.todo with
      | [] => m
      | k :: l =>
        match m.engineFor c.program with
        | none => m
        | some e => ((m.updPhase4 coll (fun p => { p with todo := l })).giveInv e coll k).assignOne coll n
    | _, _ => m

/-- Streams that keep an engine's pair from being filled: streams of invocations on those physical buffers (R201). -/
def Engine.pairBusy (x : Engine) (base preload : Nat) : Bool :=
  (match x.cur with | some i => i.base == base | none => false) ||
  x.streams.any (fun s => preload == 0 || (base ≤ s.buf && s.buf ≤ base + 1))

/-- The fill of an assigned invocation begins as soon as its pair is free and a stream can start (R201, R209). -/
def Ilpiac.startFill (m : Ilpiac) (e : Nat) : Ilpiac :=
  let x := m.eng e
  match x.next, x.prog with
  | some a, some p =>
    match m.collOf a.coll, m.comm a.coll.comm with
    | some c, some cm =>
      if a.filling ∨ a.filled ∨ x.pairBusy a.base p.preload then m
      else if p.preload = 0 then m.setEng e { x with next := some { a with filled := true } }
      else if 8 ≤ x.streams.length then m
      else
        let s : Stream := { num := x.nextStream, sin := true, buf := a.base + 1, off := 0, hbm := stateWindow c cm.beds.length a.k p.stride,
                            len := p.preload, writer := 0xFFFF, coll := a.coll, k := a.k, fill := true }
        m.setEng e { x with next := some { a with filling := true }, streams := x.streams ++ [s], nextStream := x.nextStream + 1 }
    | _, _ => m
  | _, _ => m

/-- Assignment and fills, after any event of phase 4. -/
def Ilpiac.assign (m : Ilpiac) : Ilpiac :=
  let m := m.over m.trellis.phase4 (fun m p => m.assignOne p.coll 32)
  m.over m.enginesHere (fun m e => m.startFill e)

/-- An invocation that has not started is taken back from an engine and waits to be assigned again. -/
def Ilpiac.takeBack (m : Ilpiac) (e : Nat) : Ilpiac :=
  match (m.eng e).next with
  | none => m
  | some a =>
    let m := m.updEng e (fun x => { x with next := none })
    m.updPhase4 a.coll (fun p => { p with todo := (a.k :: p.todo).insertionSort (· ≤ ·) })

/-- No further invocation of a collective starts: those not assigned and those assigned are dropped (R205, R230). -/
def Ilpiac.stopPhase4 (m : Ilpiac) (k : CollId) : Ilpiac :=
  let m := m.updPhase4 k (fun p => { p with todo := [] })
  m.over m.enginesHere (fun m e => match (m.eng e).next with
    | some a => if a.coll = k then m.updEng e (fun x => { x with next := none }) else m
    | none => m)

/-! ### Start (R198, R199) -/

/-- The context values of an invocation (R199). -/
def contextValues (c : Coll) (cm : Comm) (p : Program) (k : Nat) : List Word :=
  let g := c.agreed.getD (0, false)
  let b := max 1 cm.beds.length
  [k, k / b, c.key.step, c.key.seq, g.1.toNat, b2n g.2, stateWindow c b k p.stride, p.stride, 4 / fmtBytes c.inFmt, 4 / fmtBytes c.outFmt,
   b, cm.members.length, c.inFmt, c.outFmt].map (BitVec.ofNat 64)

/-- INVOCATION_START: the assigned invocation starts once the current one has ended and its fill is complete. -/
def Ilpiac.invocationStart (m : Ilpiac) (e : Nat) : Ilpiac :=
  let m := m.assign
  let x := m.eng e
  match x.cur, x.next, x.prog with
  | none, some a, some p =>
    match m.collOf a.coll, m.comm a.coll.comm with
    | some c, some cm =>
      if !a.filled ∨ !(m.engState e = engReady ∨ m.engState e = engRunning) then m
      else
        let cols := match m.ctxOf ⟨a.coll, partData, a.k⟩ with | some cx => cx.result | none => []
        let buffers := cols.foldl (fun (b : Memory) q => b.write (a.base * 65536 + 4096 * q.1) (f32Bytes q.2)) x.buffers
        let n := 4 / fmtBytes c.inFmt
        let inv : Inv := { coll := a.coll, k := a.k, base := a.base, cycle := 0, pc := p.entry, notBefore := 0, tiles := [], scalars := [],
                           lcs := [], loops := [], pend := [], aluUntil := 0, aluWriter := 0,
                           written := (List.range (128 * n)) ++ (List.range (p.preload / 32)).map (· + 2048),
                           emitted := [], cx := contextValues c cm p a.k, missLine := none }
        let m := m.setEng e { x with cur := some inv, next := none, lastBase := a.base, buffers := buffers }
        let m := m.setEngState e engRunning
        let m := m.wr .engine e F.TRELLIS_STATUS_CHUNK a.k
        (m.wr .engine e F.TRELLIS_STATUS_COMM_ID a.coll.comm).assign
    | _, _ => m
  | _, _, _ => m

/-! ### Stops (R230, R231) -/

/-- A stop of an engine: cause, detail and hazard. -/
structure Stop where
  cause : Nat
  detail : Nat := 0
  hazard : Option (Nat × Hazard) := none
deriving DecidableEq, Repr

def causeHazard : Nat := 1
def causeBounds : Nat := 2
def causeWindow : Nat := 3
def causeEmit : Nat := 4
def causeLimit : Nat := 5
def causeMemory : Nat := 6

/-- A collective's phase 4 has failed: the larger code stays, and no further invocation of it starts (R96, R230). -/
def Ilpiac.failPhase4 (m : Ilpiac) (k : CollId) (st : Nat) : Ilpiac := (m.updPhase4 k (fun p => { p with fail := max p.fail st })).stopPhase4 k

/-- The record of an engine's fault (R236, R237). -/
def Ilpiac.recordEngineFault (m : Ilpiac) (e bundle : Nat) (s : Stop) : Ilpiac :=
  let w := fun (m : Ilpiac) (f : Fld) (v : Nat) => m.wr .engine e f v
  let m := w (w (w (w m F.TRELLIS_FAULT_CAUSE s.cause) F.TRELLIS_FAULT_VALID 1) F.TRELLIS_FAULT_BUNDLE bundle) F.TRELLIS_FAULT_DETAIL s.detail
  match s.hazard with
  | none => m
  | some h =>
    let m := w (w (w m F.HAZARD_FAULT_BUNDLE bundle) F.HAZARD_FAULT_SLOT h.1) F.HAZARD_FAULT_KIND h.2.kind
    let m := w (w m F.HAZARD_FAULT_LOC_TYPE h.2.loc.1) F.HAZARD_FAULT_LOC_INDEX h.2.loc.2
    w (w m F.HAZARD_FAULT_SHORT_BY (min h.2.short 127)) F.HAZARD_FAULT_WRITER h.2.writer

/-- An engine stops in state FAULTED and records the fault (R230); `also` is the collective of a stream that failed. An engine that is FAULTED
already keeps its record (assumption 135). -/
def Ilpiac.stopEngine (m : Ilpiac) (e bundle : Nat) (s : Stop) (also : Option CollId := none) : Ilpiac :=
  let x := m.eng e
  let again := m.engState e == engFaulted
  let m := m.takeBack e
  let m := m.updEng e (fun x => { x with cur := none })
  let m := m.setEngState e engFaulted
  let m := if again then m else m.recordEngineFault e bundle s
  let st := if s.cause = causeMemory then stMemoryFault else stHazardFault
  let m := match x.cur with | some i => m.failPhase4 i.coll st | none => m
  let m := match also with | some k => m.failPhase4 k st | none => m
  (m.raise srcTrellis e 0).assign

/-! ### What an invocation reads (R193 to R195, R207, R208) -/

/-- U0 reads as zero. -/
def Inv.u (i : Inv) (n : Nat) : Word := if n = 0 then 0 else ((i.scalars.find? (fun x => x.1 == n)).map (·.2)).getD 0
def Inv.tile (i : Inv) (n : Nat) : List F32 := ((i.tiles.find? (fun x => x.1 == n)).map (·.2)).getD []
def Inv.lc (i : Inv) (n : Nat) : Nat := ((i.lcs.find? (fun x => x.1 == n)).map (·.2)).getD 0

/-- A pending location. -/
def Inv.pending (i : Inv) (kind idx : Nat) : Option Pend := i.pend.find? (fun p => p.kind == kind && p.index == idx && decide (i.cycle < p.ready))

def Inv.look (i : Inv) (r : Nat × Nat) : RegLook :=
  let wr := if r.1 = locTile then i.tiles.any (fun x => x.1 == r.2) else if r.1 = locScalar then i.scalars.any (fun x => x.1 == r.2)
    else i.lcs.any (fun x => x.1 == r.2)
  match i.pending r.1 r.2 with
  | some p => ⟨p.ready - i.cycle, p.writer, wr⟩
  | none => ⟨0, 0xFFFF, wr⟩

/-- A location takes a new write of latency `lat`. -/
def Inv.note (i : Inv) (kind idx lat : Nat) : Inv :=
  let rest := i.pend.filter (fun p => decide (i.cycle < p.ready) && !(p.kind == kind && p.index == idx))
  { i with pend := if lat ≤ 1 then rest else rest ++ [⟨kind, idx, i.cycle + lat, i.pc⟩] }

/-- Streams in flight of this invocation on a buffer that the program names (R201, R209). -/
def Engine.onBuf (x : Engine) (i : Inv) (buf : Nat) : List Stream :=
  x.streams.filter (fun s => !s.fill && s.coll == i.coll && s.k == i.k && s.buf == i.base + buf)

/-- Granules of a byte range of a buffer, as `buffer × 2,048 + granule`. -/
def granules (buf off len : Nat) : List Nat :=
  if len = 0 then [] else (List.range ((off + len - 1) / 32 - off / 32 + 1)).map (fun g => buf * 2048 + off / 32 + g)

/-- Whether a stream covers a granule. -/
def Stream.covers (s : Stream) (i : Inv) (g : Nat) : Bool :=
  s.buf == i.base + g / 2048 && decide (s.off / 32 ≤ g % 2048) && decide (g % 2048 < (s.off + s.len) / 32)

/-- The hazards on one granule in the order of R229: STREAM, RAW, UNINIT, WAW. -/
def granuleHazard (x : Engine) (i : Inv) (write : Bool) (g : Nat) : Option Hazard :=
  match (x.streams.find? (fun s => !s.fill && s.coll == i.coll && s.k == i.k && s.covers i g && (s.sin || write))), i.pending locGranule g with
  | some s, _ => some ⟨2, (locGranule, g), 127, s.writer⟩
  | none, some p => some ⟨if write then 1 else 0, (locGranule, g), p.ready - i.cycle, p.writer⟩
  | none, none => if !write && !i.written.contains g then some ⟨3, (locGranule, g), 127, 0xFFFF⟩ else none

/-! ### The checks of R229 -/

/-- The buffer range of a load/store slot's access and whether it writes: LDT, STT, SIN, SOUT. -/
def bufAccess (i : Inv) (s : Nat) : Option (Nat × Nat × Bool) :=
  let a := (i.u (sA s)).toNat + 32 * bits s 0 9
  if sOp s = 1 then some (a, tileBytes (sFmt s), false)
  else if sOp s = 2 then some (a, tileBytes (sFmt s), true)
  else if sOp s = 5 then some ((i.u (sA s)).toNat, sLen s, true)
  else if sOp s = 6 then some ((i.u (sA s)).toNat, sLen s, false)
  else none

/-- The low 40 bits of an address, for TRELLIS_FAULT.DETAIL (R236). -/
def detail40 (a : Nat) : Nat := a % 2 ^ 40

/-- BOUNDS, WINDOW and EMIT of the load/store slot (R200, R202, R212). -/
def ldstStop (p : Program) (i : Inv) (s : Nat) : Option Stop :=
  let op := sOp s
  let win := ((i.cx[6]?).getD 0).toNat
  let out := ((i.cx[9]?).getD 0).toNat
  if op = 1 ∨ op = 2 then
    let a := (i.u (sA s)).toNat + 32 * bits s 0 9
    if a % 32 ≠ 0 ∨ 65536 < a + tileBytes (sFmt s) then some { cause := causeBounds, detail := detail40 a } else none
  else if op = 3 then
    let a := (i.u (sA s)).toNat + 64 * sImm s
    if p.opnd.length < a + 4096 then some { cause := causeBounds, detail := detail40 a } else none
  else if op = 4 then
    let a := (i.u (sA s)).toNat + 8 * sImm s
    if p.opnd.length < a + 8 then some { cause := causeBounds, detail := detail40 a } else none
  else if op = 5 ∨ op = 6 then
    let b := (i.u (sA s)).toNat
    let h := (i.u (sD s)).toNat
    if b % 64 ≠ 0 ∨ 65536 < b + sLen s then some { cause := causeBounds, detail := detail40 b }
    else if h % 64 ≠ 0 then some { cause := causeBounds, detail := detail40 h }
    else if h < win ∨ win + p.stride < h + sLen s then some { cause := causeWindow, detail := detail40 h }
    else none
  else if op = 8 then
    let q := (i.u (sA s)).toNat
    if out ≤ q ∨ i.emitted.any (fun y => y.1 == q) then some { cause := causeEmit, detail := detail40 q } else none
  else none

/-- Columns emitted once a bundle has issued. -/
def emittedAfter (i : Inv) (bd : BitVec 128) : List Nat :=
  let s := slotOf bd 1
  i.emitted.map (·.1) ++ (if sOp s = 8 then [(i.u (sA s)).toNat] else [])

/-- END with a column missing (R203). -/
def endStop (i : Inv) (bd : BitVec 128) : Option Stop :=
  let out := ((i.cx[9]?).getD 0).toNat
  if sOp (slotOf bd 3) = opEnd ∧ !(List.range out).all (fun q => (emittedAfter i bd).contains q) then
    some { cause := causeEmit, detail := 2 ^ 40 - 1 }
  else none

/-- The stop that one slot of a bundle would cause (R229). -/
def slotStop (x : Engine) (p : Program) (i : Inv) (bd : BitVec 128) (n : Nat) : Option Stop :=
  let s := slotOf bd n
  match slotHazards i.look (if i.cycle < i.aluUntil then i.aluUntil - i.cycle else 0, i.aluWriter) i.loops.length n s with
  | h :: _ => some { cause := causeHazard, hazard := some (n, h) }
  | [] =>
    if n = 3 then endStop i bd
    else if n ≠ 1 ∨ s = 0 then none
    else
      match ldstStop p i s, bufAccess i s with
      | some st, _ => some st
      | none, some a =>
        ((granules (sBuf s) a.1 a.2.1).findSome? (granuleHazard x i a.2.2)).map (fun h => { cause := causeHazard, hazard := some (n, h) })
      | none, none => none

/-- The stop of a bundle: the first of its slots (R229). -/
def bundleStop (x : Engine) (p : Program) (i : Inv) (bd : BitVec 128) : Option Stop :=
  [0, 1, 2, 3].findSome? (slotStop x p i bd)

/-! ### Effects of the slots -/

/-- A scalar register takes a value; a write to U0 is discarded (R195). -/
def Inv.setU (i : Inv) (n : Nat) (v : Word) (lat : Nat) : Inv :=
  if n = 0 then i else ({ i with scalars := i.scalars.filter (fun x => x.1 != n) ++ [(n, v)] } : Inv).note locScalar n lat
def Inv.setTile (i : Inv) (n : Nat) (v : List F32) (lat : Nat) : Inv :=
  ({ i with tiles := i.tiles.filter (fun x => x.1 != n) ++ [(n, v)] } : Inv).note locTile n lat

/-- The tile slot: `old` is the invocation before the bundle (R207). -/
def tileSlot (old i : Inv) (s : Nat) : Inv × Nat × Bool :=
  if s = 0 then (i, 0, false)
  else
    let op := sOp s
    let b := if sBS s && op != 0xC then List.replicate 1024 ((old.u (sB s)).setWidth 32) else old.tile (sB s)
    let r := tileRun op (bits s 0 5) (old.tile (sA s)) b (old.tile (sC s))
    let i := i.setTile (sD s) r.vals (slotLatency 0 s)
    (if slotBusy 0 s = 0 then i else { i with aluUntil := i.cycle + slotBusy 0 s, aluWriter := i.pc }, r.sats, r.nonfinite)

/-- The reduction slot (R213, R217). -/
def reductionSlot (old i : Inv) (s : Nat) : Inv :=
  if s = 0 then i else i.setU (sD s) (reduceRun (sOp s) (old.tile (sA s))) (slotLatency 2 s)

/-- The load/store slot but for EMIT: the invocation, the engine's buffers and streams, saturations and non-finite flag (R209, R212, R216). -/
def ldstSlot (x : Engine) (p : Program) (old i : Inv) (s : Nat) : Inv × Engine × Nat × Bool :=
  let op := sOp s
  let lat := slotLatency 1 s
  let phys := (old.base + sBuf s) * 65536
  if s = 0 then (i, x, 0, false)
  else if op = 1 then
    let a := (old.u (sA s)).toNat + 32 * bits s 0 9
    (i.setTile (sD s) (tileLoad (sFmt s) (x.buffers.read (phys + a) (tileBytes (sFmt s)))) lat, x, 0, false)
  else if op = 2 then
    let a := (old.u (sA s)).toNat + 32 * bits s 0 9
    let st := tileStore (sFmt s) (bits s 9 2) (old.tile (sD s))
    let gs := granules (sBuf s) a (tileBytes (sFmt s))
    let i := gs.foldl (fun (i : Inv) g => i.note locGranule g lat) i
    ({ i with written := i.written ++ gs.filter (fun g => !i.written.contains g) }, { x with buffers := x.buffers.write (phys + a) st.1 }, st.2.1, st.2.2)
  else if op = 3 then
    let a := (old.u (sA s)).toNat + 64 * sImm s
    (i.setTile (sD s) (tileLoad 0 (bytesAt p.opnd a 4096)) lat, x, 0, false)
  else if op = 4 then
    let a := (old.u (sA s)).toNat + 8 * sImm s
    (i.setU (sD s) (BitVec.ofNat 64 (natAt p.opnd a 8)) lat, x, 0, false)
  else if op = 5 ∨ op = 6 then
    let st : Stream := { num := x.nextStream, sin := op == 5, buf := old.base + sBuf s, off := (old.u (sA s)).toNat, hbm := (old.u (sD s)).toNat,
                         len := sLen s, writer := old.pc, coll := old.coll, k := old.k, fill := false }
    (i, { x with streams := x.streams ++ [st], nextStream := x.nextStream + 1 }, 0, false)
  else if op = 8 then ({ i with emitted := i.emitted ++ [((old.u (sA s)).toNat, old.tile (sD s))] }, x, 0, false)
  else (i, x, 0, false)

/-- The scalar/branch slot: registers, and where and when the next bundle issues (R214, R218 to R220). -/
def scalarSlot (old i : Inv) (s : Nat) : Inv × Nat × Nat :=
  let op := sOp s
  let a := old.u (sA s)
  let next := (i.pc + 1, 1)
  let lat := slotLatency 3 s
  if s = 0 then (i, next)
  else if 1 ≤ op ∧ op ≤ 9 then (i.setU (sD s) (scalarI op a (old.u (sB s))) lat, next)
  else if 0x10 ≤ op ∧ op ≤ 0x14 then (i.setU (sD s) (scalarImm op a (sImm s)) lat, next)
  else if 0x18 ≤ op ∧ op ≤ 0x1E then
    (i.setU (sD s) ((scalarF op (a.setWidth 32) ((old.u (sB s)).setWidth 32)).setWidth 64) lat, next)
  else if op = 0x20 then (i.setU (sD s) ((old.cx[sImm s]?).getD 0) lat, next)
  else if op = 0x21 then
    let n := bits s 24 2
    (({ i with lcs := i.lcs.filter (fun x => x.1 != n) ++ [(n, a.toNat % 2 ^ 32)] } : Inv).note locLoop n 1, next)
  else if op = 0x22 then
    (i.setU (sD s) (BitVec.ofNat 64 (((old.loops[bits s 16 2]?).map (·.done)).getD 0)) lat, next)
  else if isBranch op then (i, if branchTaken op (old.u (sD s)) a then (sImm s, 4) else next)
  else if op = opJmp then (i, sImm s, 4)
  else if op = opLoop then
    let n := old.lc old.loops.length
    if n = 0 then (i, sImm s + 1, 4)
    else ({ i with loops := i.loops ++ [({ first := i.pc + 1, last := sImm s, count := n, done := 0 } : LoopFrame)] }, next)
  else (i, next)

/-- The end of a run of the innermost loop at its LAST (R220). -/
def loopEnd (old i : Inv) (next : Nat × Nat) : Inv × Nat × Nat :=
  match old.loops.getLast? with
  | some f =>
    if f.last = old.pc then
      if f.done + 1 < f.count then ({ i with loops := old.loops.dropLast ++ [{ f with done := f.done + 1 }] }, f.first, 1)
      else ({ i with loops := old.loops.dropLast }, next)
    else (i, next)
  | none => (i, next)

/-! ### Columns emitted and the end of an invocation (R202, R203) -/

/-- Once every column is emitted, the home furrow's output stage encodes the chunk (R113, R114, R202), and its values enter the side sum of the
new weights (R148, R149). -/
def Ilpiac.emitUpdate (m : Ilpiac) (i : Inv) : Ilpiac :=
  match m.collOf i.coll, m.comm i.coll.comm with
  | some c, some cm =>
    let n := 4 / fmtBytes c.outFmt
    if i.emitted.length < n then m
    else
      let vals := (List.range n).flatMap (fun q => ((i.emitted.find? (fun y => y.1 == q)).map (·.2)).getD [])
      let e := encodeChunk cm c i.k vals
      let x : CtxId := ⟨i.coll, partData, i.k⟩
      let m := m.updCtx x (fun cx => { cx with emitted := [0] })
      let m := (m.noteRun x e.2.sats e.2.nonfinite).noteSide i.coll (2 ^ 40 + i.k) vals
      m.deliver i.coll e.1 (m.resultDests cm c i.k)
  | _, _ => m

/-- END (R203). -/
def Ilpiac.invocationEnd (m : Ilpiac) (e : Nat) : Ilpiac :=
  let m := m.updEng e (fun x => { x with cur := none })
  let m := m.wrapCnt .engine e F.TRELLIS_COUNTS_INVOCATIONS 1
  let m := if m.engOn e then m else m.takeBack e
  (m.setEngState e (m.idleState e)).assign

/-! ### The instruction cache (R228) -/

/-- The cache line of a bundle, none for instruction memory. -/
def lineOf (pc : Nat) : Option Nat := if pc < 16384 then none else some (pc / 16)

/-- A line becomes the most recently used; a full set of 8 ways drops its least recently used. -/
def useLine (l : List Nat) (n : Nat) : List Nat :=
  let rest := l.filter (· != n)
  let same := rest.filter (fun x => x % 16 == n % 16)
  n :: (if 8 ≤ same.length then rest.filter (fun x => some x != same.getLast?) else rest)

/-! ### One engine cycle (R206, R207) -/

/-- A frozen cycle. -/
def Ilpiac.frozen (m : Ilpiac) (e : Nat) : Ilpiac := m.wrapCnt .engine e F.FROZEN_CYCLES_CYCLES 1

/-- Whether a bundle freezes the engine: WAITB with streams on its buffer, or a ninth stream (R206, R209). -/
def freezes (x : Engine) (i : Inv) (bd : BitVec 128) : Bool :=
  let s := slotOf bd 1
  (sOp s == 7 && !(x.onBuf i (sBuf s)).isEmpty) || ((sOp s == 5 || sOp s == 6) && decide (8 ≤ x.streams.length))

/-- A bundle that passed its checks issues. -/
def Ilpiac.issueBundle (m : Ilpiac) (e : Nat) (p : Program) (old : Inv) (bd : BitVec 128) : Ilpiac :=
  let x := m.eng e
  let t := tileSlot old old (slotOf bd 0)
  let l := ldstSlot x p old t.1 (slotOf bd 1)
  let r := reductionSlot old l.1 (slotOf bd 2)
  let sc := scalarSlot old r (slotOf bd 3)
  let nx := loopEnd old sc.1 sc.2
  let i := { nx.1 with pc := nx.2.1, cycle := old.cycle + 1, notBefore := old.cycle + nx.2.2 }
  let m := m.setEng e { l.2.1 with cur := some i }
  let m := m.noteRun ⟨old.coll, partData, old.k⟩ (t.2.1 + l.2.2.1) (t.2.2 || l.2.2.2)
  let m := if sOp (slotOf bd 1) = 8 then m.emitUpdate i else m
  if sOp (slotOf bd 3) = opEnd then m.invocationEnd e else m

/-- The limit of an invocation in engine cycles (R231, R234). -/
def Ilpiac.cycleLimit (m : Ilpiac) (e : Nat) : Nat := 2 ^ max 16 (m.rd .engine e F.TRELLIS_CTRL_LOG2_CYCLE_LIMIT)

/-- BUNDLE_ISSUE: one cycle of the engine, which issues a bundle, or none between a taken branch and its target, or is frozen. -/
def Ilpiac.bundleIssue (m : Ilpiac) (e : Nat) : Ilpiac :=
  let x := m.eng e
  match x.cur, x.prog with
  | none, _ => if x.next.isSome then m.frozen e else m
  | some _, none => m
  | some i, some p =>
    if i.missLine.isSome then m.frozen e
    else if m.cycleLimit e ≤ i.cycle then m.stopEngine e i.pc { cause := causeLimit }
    else
      let m1 := m.wrapCnt .engine e F.ISSUE_CYCLES_CYCLES 1
      if i.cycle < i.notBefore then m1.setEng e { x with cur := some { i with cycle := i.cycle + 1 } }
      else
        match lineOf i.pc with
        | some n =>
          if x.lines.contains n then
            let x := { x with lines := useLine x.lines n }
            let bd := bundleAt p.bundles i.pc
            if freezes x i bd then (m.setEng e x).frozen e
            else match bundleStop x p i bd with
              | some st => m1.stopEngine e i.pc st
              | none => (m1.setEng e x).issueBundle e p i bd
          else
            let m := (m.setEng e { x with cur := some { i with missLine := some n } }).frozen e
            m.wrapCnt .engine e F.TRELLIS_COUNTS_ICACHE_MISSES 1
        | none =>
          let bd := bundleAt p.bundles i.pc
          if freezes x i bd then m.frozen e
          else match bundleStop x p i bd with
            | some st => m1.stopEngine e i.pc st
            | none => m1.issueBundle e p i bd

/-- ICACHE_FILL_DONE: the line that the engine waits for arrives from HBM (R228); an uncorrectable error stops the engine (R231). -/
def Ilpiac.icacheFill (m : Ilpiac) (e : Nat) : Ilpiac :=
  let x := m.eng e
  match x.cur, x.prog with
  | some i, some p =>
    match i.missLine, p.buffer with
    | some n, some b =>
      let a := b + (n - 1024) * 256
      let r := m.memRead a 256 (m.hintAt a false)
      match r.1 with
      | none => r.2.stopEngine e i.pc { cause := causeMemory }
      | some _ => r.2.setEng e { x with cur := some { i with missLine := none }, lines := useLine x.lines n }
    | _, _ => m
  | _, _ => m

/-- INVOCATION_LIMIT: an invocation that has reached its limit is stopped (R231). -/
def Ilpiac.invocationLimit (m : Ilpiac) (e : Nat) : Ilpiac :=
  match (m.eng e).cur with
  | some i => if m.cycleLimit e ≤ i.cycle then m.stopEngine e i.pc { cause := causeLimit } else m
  | none => m

/-! ### Streams (R201, R209) -/

/-- Streams of one invocation whose HBM bytes overlap take effect in issue order (R209). -/
def Stream.blocks (a b : Stream) : Bool :=
  decide (a.num < b.num) && a.coll == b.coll && a.k == b.k && decide (a.hbm < b.hbm + b.len) && decide (b.hbm < a.hbm + a.len)

/-- STREAM_COMPLETE: the bytes are copied and the granules released. -/
def Ilpiac.streamComplete (m : Ilpiac) (e n : Nat) : Ilpiac :=
  let x := m.eng e
  match x.streams.find? (fun s => s.num == n) with
  | none => m
  | some s =>
    if x.streams.any (fun t => t.blocks s) then m
    else
      let at_ := s.buf * 65536 + s.off
      let pc := match x.cur with | some i => i.pc | none => s.writer
      let r : Option (List Byte) × Ilpiac :=
        if s.sin then m.memRead s.hbm s.len (m.hintAt s.hbm false)
        else
          let w := m.memWrite s.hbm (x.buffers.read at_ s.len) (m.hintAt s.hbm true) (some s.coll)
          (if w.1 then some [] else none, w.2)
      let m := r.2.updEng e (fun x => { x with streams := x.streams.filter (fun t => t.num != n) })
      match r.1 with
      | none => m.stopEngine e pc { cause := causeMemory } (some s.coll)
      | some d =>
        let m := if !s.sin then m
          else m.updEng e (fun x =>
            let x := { x with buffers := x.buffers.write at_ d }
            if s.fill then
              { x with next := x.next.map (fun a => if a.coll = s.coll ∧ a.k = s.k ∧ a.base + 1 = s.buf then { a with filled := true } else a) }
            else
              { x with cur := x.cur.map (fun i =>
                  if i.coll = s.coll ∧ i.k = s.k then
                    let gs := granules (s.buf - i.base) s.off s.len
                    { i with written := i.written ++ gs.filter (fun g => !i.written.contains g) }
                  else i) })
        m.assign

/-! ### The end of phase 4 (R203, R205, R230, R252) -/

/-- Whether an engine still works for a collective: an invocation that runs or is to start, or a stream in flight. -/
def Engine.worksFor (x : Engine) (k : CollId) : Bool :=
  (match x.cur with | some i => i.coll == k | none => false) || (match x.next with | some a => a.coll == k | none => false) ||
  x.streams.any (fun s => s.coll == k)

/-- PHASE4_END: every invocation has ended, their streams are complete and their shard writes settled; a fault ends the collective. -/
def Ilpiac.phase4End (m : Ilpiac) (k : CollId) : Ilpiac :=
  match m.trellis.phase4.find? (fun p => p.coll == k) with
  | none => m
  | some p =>
    if !p.todo.isEmpty ∨ m.enginesHere.any (fun e => (m.eng e).worksFor k) ∨ (m.coll.trunk ++ m.coll.trunkWait).any (fun t => t.writer == some k) then m
    else
      let m := { m with trellis := { m.trellis with phase4 := m.trellis.phase4.filter (fun q => q.coll != k) } }
      let m := if p.fail = 0 then m else m.failColl k p.fail
      m.collStep k

/-- PHASE4_TIMEOUT (R205). -/
def Ilpiac.phase4Timeout (m : Ilpiac) (k : CollId) : Ilpiac :=
  match m.trellis.phase4.find? (fun p => p.coll == k) with
  | none => m
  | some p =>
    let m := m.stopPhase4 k
    let m := { m with trellis := { m.trellis with phase4 := m.trellis.phase4.filter (fun q => q.coll != k) } }
    (m.failColl k (max stTimeout p.fail)).collStep k

/-! ### Programs (R223 to R227) -/

/-- The report of R226; the answer says whether the windows took it. -/
def Ilpiac.progReport (m : Ilpiac) (addr : Nat) (f : Finding) (crc bundles loadNs : Nat) : Bool × Ilpiac :=
  m.boardStore addr (f.report crc bundles loadNs)

/-- Handles of programs that an engine holds or is loading. -/
def Ilpiac.handleHeld (m : Ilpiac) (h : Nat) : Bool := !(m.holders h).isEmpty || m.trellis.loads.any (fun l => l.handle == h)

/-- PROG_LOAD: the checks before verification, and the start of the load (R223, R224). -/
def Ilpiac.progLoad (m : Ilpiac) (d : AccDesc) : Ilpiac :=
  let handle := d.f 1 0 16
  let mask := d.f 1 16 16
  let image := d.f 2 0 64
  let rep := d.f 3 0 64
  let es := bitIdx mask 16
  if !m.has F.CAP_PRESENT_TRELLIS ∨ es.any (fun e => !m.enginePresent e) then m.done d stAbsentUnit
  else
    let formed := d.w0ok && d.zero [(1, 32, 32), (4, 32, 32), (5, 0, 64), (6, 0, 64), (7, 0, 64)] &&
      handle != 0 && mask != 0 && image % 64 == 0 && rep % 32 == 0 && m.addrOk image (d.f 4 0 32) false && m.addrOk rep 32 true
    let m := m.noteRefusals [(image, d.f 4 0 32, false), (rep, 32, true)]
    if !formed ∨ m.handleHeld handle ∨ es.any (fun e => (m.eng e).prog.isSome || m.engState e != engEmpty || !m.engOn e) then
      let r := if rep % 32 = 0 ∧ m.addrOk rep 32 true then (m.progReport rep { reason := 0 } 0 0 0).2 else m
      r.done d stBadDescriptor
    else
      let l : Loading := { ring := d.ring, num := d.num, handle, mask, imageAddr := image, imageBytes := d.f 4 0 32, reportAddr := rep }
      let m := m.over es (fun m e => m.setEngState e engLoading)
      { m with trellis := { m.trellis with loads := m.trellis.loads ++ [l] } }

/-- The HBM buffer of bundles from 16,384 on (R224, R294): none when the pool manager refuses, and the bundles written. -/
def Ilpiac.programBuffer (m : Ilpiac) (bundles : List (BitVec 128)) : Option Nat × Ilpiac :=
  match m.poolTake 3 with
  | (none, m) => (none, m)
  | (some a, m) =>
    let w := m.memWrite a ((bundles.drop 16384).flatMap (fun b => leBytes 16 b.toNat)) hintNormal
    if w.1 then (some a, w.2) else (none, w.2.poolGive a)

/-- PROG_LOAD_DONE: the image has been read and verified; the report, and READY or EMPTY (R224, R226). -/
def Ilpiac.progLoadDone (m : Ilpiac) (program : Nat) (image : Readback) (loadNs : Nat) : Ilpiac :=
  match m.trellis.loads.find? (fun l => l.handle == program), m.ctl.descs.find? (fun d => m.trellis.loads.any (fun l => l.handle == program && l.ring == d.ring && l.num == d.num)) with
  | some l, some d =>
    let es := bitIdx l.mask 16
    let m := { m with trellis := { m.trellis with loads := m.trellis.loads.filter (fun x => x != l) } }
    let back := fun (m : Ilpiac) => m.over es (fun m e => m.setEngState e engEmpty)
    let rd := m.boardRead l.imageAddr l.imageBytes image
    match rd.1 with
    | none =>
      let m := back rd.2
      ((m.progReport l.reportAddr { reason := 0 } 0 0 loadNs).2).done d stMemoryFault
    | some bytes =>
      let m := rd.2
      let h := imageHeader bytes
      let report := fun (m : Ilpiac) (f : Finding) => m.progReport l.reportAddr f (imageCrc bytes) h.bundles loadNs
      match verify bytes with
      | some f => ((report (back m) f).2).done d stBadDescriptor
      | none =>
        let bs := imageBundles bytes
        let big := decide (16384 < h.bundles)
        let buf := if big then m.programBuffer bs else (none, m)
        if big && buf.1.isNone then ((report (back buf.2) { reason := 0 }).2).done d stMemoryFault
        else
          let p : Program := { handle := program, bundles := bs, entry := h.entry, opnd := imageOpnd bytes, preload := h.preload, stride := h.stride, buffer := buf.1 }
          let r := report buf.2 { reason := 0 }
          if !r.1 then
            let m := match buf.1 with | some a => r.2.poolGive a | none => r.2
            (back m).done d stMemoryFault
          else
            let m := r.2.over es (fun m e =>
              let m := m.setEng e { Engine.init with prog := some p }
              let m := m.wr .engine e F.TRELLIS_STATUS_PROGRAM program
              m.setEngState e (m.idleState e))
            (m.done d stOk).assign
  | _, _ => m

/-- PROG_UNLOAD (R227). -/
def Ilpiac.progUnload (m : Ilpiac) (d : AccDesc) : Ilpiac :=
  let h := d.f 1 0 16
  if !m.has F.CAP_PRESENT_TRELLIS then m.done d stAbsentUnit
  else if !(d.w0ok && d.zero [(1, 16, 48), (2, 0, 64), (3, 0, 64), (4, 0, 64), (5, 0, 64), (6, 0, 64), (7, 0, 64)]) ∨ (m.holders h).isEmpty then
    m.done d stBadDescriptor
  else { m with trellis := { m.trellis with unloads := m.trellis.unloads ++ [(⟨d.ring, d.num, h⟩ : Unloading)] } }

/-- The engines that hold a program become EMPTY, and its buffer returns (R224, R227). -/
def Ilpiac.emptyEngines (m : Ilpiac) (h : Nat) : Ilpiac :=
  let es := m.holders h
  let buf := es.findSome? (fun e => (m.eng e).prog.bind (·.buffer))
  let m := match buf with | some a => m.poolGive a | none => m
  m.over es (fun m e =>
    let m := m.setEng e Engine.init
    (m.wr .engine e F.TRELLIS_STATUS_PROGRAM 0).setEngState e engEmpty)

/-- Whether an open collective names a program, or an invocation of it runs or has streams in flight (R227). -/
def Ilpiac.programBusy (m : Ilpiac) (h : Nat) : Bool :=
  m.coll.colls.any (fun c => c.op == opRub && c.program == h) ||
  (m.holders h).any (fun e => (m.eng e).cur.isSome || !(m.eng e).streams.isEmpty)

/-- PROG_UNLOAD_DONE (R227). -/
def Ilpiac.progUnloadDone (m : Ilpiac) (program : Nat) : Ilpiac :=
  match m.trellis.unloads.find? (fun u => u.handle == program) with
  | none => m
  | some u =>
    if m.programBusy program then m
    else
      let m := { m with trellis := { m.trellis with unloads := m.trellis.unloads.filter (fun x => x != u) } }
      match m.ctl.descs.find? (fun d => d.ring == u.ring && d.num == u.num) with
      | some d => (m.emptyEngines program).done d (if (m.holders program).isEmpty then stBadDescriptor else stOk)
      | none => m.emptyEngines program

/-! ### TRELLIS_CTRL (R232, R234) -/

/-- CLEAR_FAULT (R232). -/
def Ilpiac.clearEngineFault (m : Ilpiac) (e : Nat) : Ilpiac :=
  let w := fun (m : Ilpiac) (f : Fld) => m.wr .engine e f 0
  let m := [F.TRELLIS_FAULT_CAUSE, F.TRELLIS_FAULT_VALID, F.TRELLIS_FAULT_BUNDLE, F.TRELLIS_FAULT_DETAIL, F.HAZARD_FAULT_BUNDLE, F.HAZARD_FAULT_SLOT,
    F.HAZARD_FAULT_KIND, F.HAZARD_FAULT_LOC_TYPE, F.HAZARD_FAULT_LOC_INDEX, F.HAZARD_FAULT_SHORT_BY, F.HAZARD_FAULT_WRITER].foldl w m
  let m := m.release srcTrellis (· == e)
  if m.engState e = engFaulted then (m.setEngState e (m.idleState e)).assign else m

/-- ENABLE becomes 0: the current invocation runs to its end, and one that has not started goes elsewhere. -/
def Ilpiac.disableEngine (m : Ilpiac) (e : Nat) : Ilpiac :=
  let m := (m.wr .engine e F.TRELLIS_CTRL_ENABLE 0).takeBack e
  (if m.engState e = engReady then m.setEngState e engGated else m).assign

/-- ENABLE becomes 1: a GATED engine is READY. -/
def Ilpiac.enableEngine (m : Ilpiac) (e : Nat) : Ilpiac :=
  let m := m.wr .engine e F.TRELLIS_CTRL_ENABLE 1
  (if m.engState e = engGated then m.setEngState e engReady else m).assign

end Sys2Proof.Machine
end

