-- ==== Sys2Proof/Machine/Control.lean ====
section
/-! DEFINITION. Companion control (spec 14): run control, descriptor rings, completion rings, interrupts. -/

namespace Sys2Proof.Machine

/-- BOOT_STATUS.STATE READY (R537, R541). -/
def bootReadyState : Nat := 3
def Ilpiac.bootReady (m : Ilpiac) : Bool := m.g F.BOOT_STATUS_STATE == bootReadyState

/-! ### Run control (R461 to R463) -/

def fnSwitch : Nat := 0
def fnAdmission : Nat := 1
def fnHbm : Nat := 2
def fnSync : Nat := 3
def fnTime : Nat := 4

def runStopped : Nat := 0
def runStarting : Nat := 1
def runRunning : Nat := 2
def runStopping : Nat := 3
def runRefused : Nat := 4

/-- Whether a function exists in the variant (R461). -/
def Ilpiac.fnPresent (m : Ilpiac) (n : Nat) : Bool := n != fnHbm || m.has F.CAP_PRESENT_HBM

/-- RUN_STATUS of a function; HBM_STATUS.STATE, which has no code for STOPPING, agrees (R304, R481). -/
def Ilpiac.setRun (m : Ilpiac) (n st : Nat) : Ilpiac :=
  let m := m.gw (F.RUN_STATE n) st
  if n = fnHbm then m.gw F.HBM_STATUS_STATE (if st = runStopping then 2 else if st = runRefused then 3 else st) else m

/-- A bit of a field of RUN_REFUSE is set. -/
def Ilpiac.runRefusal (m : Ilpiac) (f : Fld) (n cause : Nat) : Ilpiac :=
  (m.gw f (setBit (m.g f) n)).gw F.RUN_REFUSE_LAST_CAUSE cause

/-- Whether a stop is refused as BUSY (R461). -/
def Ilpiac.stopBusy (m : Ilpiac) (n : Nat) : Bool :=
  if n = fnSwitch then !m.coll.comms.isEmpty || !m.groups.isEmpty || !m.hosesUsed.isEmpty
  else if n = fnHbm then !m.groups.isEmpty || !m.coll.colls.isEmpty || m.coll.comms.any (·.feedback) ||
    m.trellis.engines.any (fun e => match e.2.prog with | some p => p.buffer.isSome | none => false)
  else if n = fnSync then !m.sync.waits.isEmpty
  else false

/-- A stop begins, or is refused (R462). -/
def Ilpiac.beginStop (m : Ilpiac) (n : Nat) : Ilpiac :=
  if m.stopBusy n then (m.runRefusal F.RUN_REFUSE_STOP_REFUSED n 1).event .run else m.setRun n runStopping

/-- RUN_STOP: a write of 0 to a RUN_CTRL bit (R462, R463). -/
def Ilpiac.runStop (m : Ilpiac) (n : Nat) : Ilpiac :=
  let m := m.gw (F.RUN_BIT n) 0
  if m.runState n = runRunning then m.beginStop n else m

/-- RUN_START: a write of 1; before READY and while the module has stopped it has no effect (R462, R491, R541). -/
def Ilpiac.runStart (m : Ilpiac) (n : Nat) : Ilpiac :=
  if !m.bootReady ∨ m.stopped ∨ !m.fnPresent n then m
  else
    let m := m.gw (F.RUN_BIT n) 1
    if m.fnStopped n then m.setRun n runStarting else m

/-- Whether ADMISSION may reach STOPPED: no admitted context holds reduction-memory slots (R462). -/
def Ilpiac.mayStop (m : Ilpiac) (n : Nat) : Bool := n != fnAdmission || m.coll.ctxs.all (fun x => x.reserved == 0)

/-- RUN_STOP_DONE: STOPPED, and a start that was written meanwhile begins (R462, R463). -/
def Ilpiac.runStopDone (m : Ilpiac) (n : Nat) : Ilpiac :=
  if m.runState n ≠ runStopping ∨ !m.mayStop n then m
  else
    let m := if n = fnHbm then m.hbmStop else m
    let m := (m.setRun n runStopped).event .run
    if m.g (F.RUN_BIT n) = 1 then m.setRun n runStarting else m

/-- Whether the class ranges of a port are disjoint and lie within its queues (R343). -/
def Ilpiac.qmapOk (m : Ilpiac) (p : Nat) : Bool :=
  let top := if isTrunk p then 1024 else 256
  let r := (List.range 8).map (fun c => (m.qbase p c, m.pg p F.CLASS_QMAP_LOG2_QCOUNT c))
  r.all (fun x => decide (x.2 ≤ (if isTrunk p then 10 else 8)) && decide (x.1 + 2 ^ x.2 ≤ top)) &&
  (List.range 8).all (fun i => (List.range i).all (fun j =>
    let a := r.getD i (0, 0)
    let b := r.getD j (0, 0)
    decide (a.1 + 2 ^ a.2 ≤ b.1) || decide (b.1 + 2 ^ b.2 ≤ a.1)))

/-- The configuration of the switch core (R328, R343). -/
def Ilpiac.switchConfigOk (m : Ilpiac) : Bool :=
  decide (m.fixedCells + m.guarantees ≤ 1048576) && (List.range 262).all (fun p => !m.portPresent p || m.qmapOk p)

/-- Whether a start is refused (R328, R343, R462). -/
def Ilpiac.startOk (m : Ilpiac) (n : Nat) : Bool :=
  if n = fnSwitch then m.switchConfigOk
  else if n = fnAdmission then decide (m.g F.RM_POLICY_SHARED_MIN + m.quotaSlots ≤ 32768)
  else true

/-- The end of a start: RUNNING or REFUSED, and a stop that was written meanwhile begins (R462, R463). -/
def Ilpiac.endStart (m : Ilpiac) (n : Nat) (ok : Bool) : Ilpiac :=
  let m := if ok then m.setRun n runRunning else (m.setRun n runRefused).runRefusal F.RUN_REFUSE_START_REFUSED n 2
  let m := m.event .run
  if ok ∧ m.g (F.RUN_BIT n) = 0 then m.beginStop n else m

/-- What a start brings about beside the state: SHARED follows the areas and HELLO their landing credits; the timekeeper takes its source. -/
def Ilpiac.startEffect (m : Ilpiac) (n : Nat) (ok : Bool) : Ilpiac :=
  if n = fnSwitch then
    let m := m.gw F.SW_BUF_STATUS_BAD_CONFIG (b2n (!ok))
    if ok then m.recount.helloAll else m
  else if n = fnTime then m.timeSource false
  else if n = fnAdmission then m.rmStat
  else m

/-- HBM_START_DONE: the channels of `failed` did not train (R283, R285). -/
def Ilpiac.hbmStartDone (m : Ilpiac) (failed : List Nat) : Ilpiac :=
  if m.runState fnHbm ≠ runStarting then m
  else
    let r := m.hbmStart failed
    r.2.endStart fnHbm r.1

/-- RUN_START_DONE; the start of HBM ends with the training of its channels, all of them good here. -/
def Ilpiac.runStartDone (m : Ilpiac) (n : Nat) : Ilpiac :=
  if m.runState n ≠ runStarting then m
  else if n = fnHbm then m.hbmStartDone []
  else
    let ok := m.startOk n
    (m.endStart n ok).startEffect n ok

/-! ### Descriptor rings (R465 to R470) -/

def Ilpiac.ringX (m : Ilpiac) (r : Nat) : RingX := Map.get (fun _ => ⟨[]⟩) m.ctl.drings r
def Ilpiac.setRingX (m : Ilpiac) (r : Nat) (x : RingX) : Ilpiac :=
  { m with ctl := { m.ctl with drings := Map.put (fun _ => ⟨[]⟩) m.ctl.drings r x } }

def Ilpiac.dg (m : Ilpiac) (r : Nat) (f : Fld) : Nat := m.rd .dring r f
def Ilpiac.dw (m : Ilpiac) (r : Nat) (f : Fld) (v : Nat) : Ilpiac := m.wr .dring r f v

/-- Slots of a descriptor ring. -/
def Ilpiac.drSize (m : Ilpiac) (r : Nat) : Nat := 2 ^ m.dg r F.DR_CTRL_LOG2_SIZE

/-- Board address of a descriptor. -/
def Ilpiac.drSlot (m : Ilpiac) (r n : Nat) : Nat := m.dg r F.DR_BASE_BASE + 64 * (n % m.drSize r)

/-- Whether a ring takes doorbells and descriptors. -/
def Ilpiac.drLive (m : Ilpiac) (r : Nat) : Bool := m.dg r F.DR_STATUS_STATE == drRunning || m.dg r F.DR_STATUS_STATE == drHeld

/-- A ring enters ERROR (R469). -/
def Ilpiac.ringError (m : Ilpiac) (r cause : Nat) : Ilpiac :=
  let m := ((m.dw r F.DR_STATUS_STATE drError).dw r F.DR_STATUS_HOLD 0).dw r F.DR_STATUS_ERR_CAUSE cause
  (((m.gw F.RING_ERROR_RING r).gw F.RING_ERROR_CAUSE cause).gw F.RING_ERROR_VALID 1).event .ringError

/-- The coherent read of a descriptor's line, unless the Ilpiac holds it itself or the windows refuse it; the end of the fetch counts the
refusal (R458, R459). -/
def Ilpiac.fetchRead (m : Ilpiac) (r n : Nat) : Ilpiac :=
  let a := m.drSlot r n
  if !m.inAperture a 64 ∧ !m.inRegWindow a 64 ∧ m.windowOk a 64 false then m.send (.cohRead a) else m

/-- DR_DOORBELL (R466). -/
def Ilpiac.drDoorbell (m : Ilpiac) (r v : Nat) : Ilpiac :=
  if !m.drLive r then m
  else
    let cons := m.dg r F.DR_STATUS_CONS
    let prod := m.dg r F.DR_DOORBELL_PROD
    if (v + 2 ^ 32 - cons) % 2 ^ 32 ≤ m.drSize r then
      let m := m.dw r F.DR_DOORBELL_PROD v
      let old := (prod + 2 ^ 32 - cons) % 2 ^ 32
      let new := (v + 2 ^ 32 - cons) % 2 ^ 32
      m.over ((List.range (new - old)).map (fun i => (cons + old + i) % 2 ^ 32)) (fun m n => m.fetchRead r n)
    else m.ringError r 1

/-- Whether a ring may be enabled (R459, R465, R470, R541). -/
def Ilpiac.ringOk (m : Ilpiac) (r : Nat) : Bool :=
  let n := m.dg r F.DR_CTRL_LOG2_SIZE
  decide (6 ≤ n) && decide (n ≤ 16) && m.dg r F.DR_BASE_BASE % (64 * 2 ^ n) == 0 && m.addrOk (m.dg r F.DR_BASE_BASE) (64 * 2 ^ n) false

/-- RING_ENABLE. -/
def Ilpiac.ringEnable (m : Ilpiac) (r : Nat) : Ilpiac :=
  if !m.bootReady ∨ m.headless ∨ m.dg r F.DR_CTRL_ENABLE = 1 then m
  else if !m.ringOk r then m.regAccess (Blk.dring.at r + 0x10)
  else
    let m := (m.dw r F.DR_CTRL_ENABLE 1).dw r F.DR_DOORBELL_PROD 0
    let m := (m.dw r F.DR_STATUS_CONS 0).dw r F.DR_STATUS_STATE drRunning
    ((m.dw r F.DR_STATUS_HOLD 0).dw r F.DR_STATUS_ERR_CAUSE 0).setRingX r ⟨[]⟩

/-- RING_DISABLE. -/
def Ilpiac.ringDisable (m : Ilpiac) (r : Nat) : Ilpiac := m.stopRing r

/-- One descriptor of a fetch: what the read returned, or what the own HBM holds; none where it failed. -/
def Ilpiac.fetchOne (m : Ilpiac) (r n : Nat) (ws : Option (List Word)) : Option (List Word) × Ilpiac :=
  let a := m.drSlot r n
  if m.inAperture a 64 then
    let x := m.boardRead a 64 none
    (x.1.map (fun b => bytesWords 8 b), x.2)
  else if m.inRegWindow a 64 then (none, m.regAccess (a - m.regBase))
  else if m.windowOk a 64 false then (ws.map (fun l => bytesWords 8 (wordBytes l)), m)
  else (none, m.windowRefusal)

/-- A fetch has failed: at the head the ring enters ERROR; a descriptor behind it, unless it is held already, is fetched again when it is the head
(R469). -/
def Ilpiac.fetchFailed (m : Ilpiac) (r n : Nat) : Ilpiac :=
  if n = m.dg r F.DR_STATUS_CONS then m.ringError r 3
  else if (m.ringX r).fetched.any (fun x => x.1 == n) then m
  else m.setRingX r ⟨Map.ins (m.ringX r).fetched n []⟩

/-- DESCRIPTOR_FETCH_DONE: descriptors from number `first` on; a failed fetch is an error only at the head, where it is decided (R469). -/
def Ilpiac.fetchDone (m : Ilpiac) (r first : Nat) (data : Option (List (List Word))) : Ilpiac :=
  if !m.drLive r then m
  else
    let cons := m.dg r F.DR_STATUS_CONS
    let held := (m.dg r F.DR_DOORBELL_PROD + 2 ^ 32 - cons) % 2 ^ 32
    let l := (data.getD [[]]).length
    m.over (List.range l) (fun m i =>
      let n := (first + i) % 2 ^ 32
      if held ≤ (n + 2 ^ 32 - cons) % 2 ^ 32 ∨ !m.drLive r then m
      else
        let x := m.fetchOne r n (data.bind (fun d => d[i]?))
        match x.1 with
        | some ws => x.2.setRingX r ⟨Map.ins (Map.erase (x.2.ringX r).fetched n) n ws⟩
        | none => x.2.fetchFailed r n)

/-- Causes of HOLD (R468). -/
def hcOpenLimit : Nat := 1
def hcFence : Nat := 2
def hcWait : Nat := 3
def hcFunction : Nat := 4

/-- The functions that an opcode needs (R478). -/
def opNeeds (op : Nat) : List Nat :=
  if op = 0x01 ∨ op = 0x02 then [fnSwitch]
  else if op = 0x14 then [fnSwitch, fnAdmission, fnHbm]
  else if (0x10 ≤ op ∧ op ≤ 0x13) ∨ op = 0x18 ∨ op = 0x19 then [fnSwitch, fnAdmission]
  else if op = 0x20 ∨ op = 0x21 then [fnSwitch]
  else if op = 0x28 then [fnAdmission]
  else if 0x38 ≤ op ∧ op ≤ 0x3C then [fnSwitch, fnHbm]
  else if op = 0x40 ∨ op = 0x41 then [fnSwitch]
  else if 0x48 ≤ op ∧ op ≤ 0x4B then [fnSync]
  else []

/-- Opcodes that are defined (R86, R478, R493, R546). -/
def opKnown (op : Nat) : Bool :=
  [0x01, 0x02, 0x03, 0x10, 0x11, 0x12, 0x13, 0x14, 0x18, 0x19, 0x20, 0x21, 0x28, 0x30, 0x31, 0x38, 0x39, 0x3A, 0x3B, 0x3C, 0x40, 0x41,
   0x48, 0x49, 0x4A, 0x4B, 0x50, 0x58, 0x60, 0x61].contains op

/-- Opcodes of collectives. -/
def opCollective (op : Nat) : Bool := (decide (0x10 ≤ op) && decide (op ≤ 0x14)) || op == 0x18 || op == 0x19

/-- Why the descriptor at the head cannot be accepted yet (R464, R468, R492). -/
def Ilpiac.holdCause (m : Ilpiac) (r : Nat) (ws : List Word) : Option Nat :=
  let op := wOp ws
  if m.fenced (.dring r) then some hcFunction
  else if m.sync.waits.any (fun w => w.who == .ring r) then some hcWait
  else if op = 0x4A ∧ m.ctl.descs.any (fun d => d.ring == r) then some hcFence
  else if (opNeeds op).any (fun n => m.fnPresent n && (!m.running n || ((n == fnSwitch || n == fnSync) && m.fenced (.function n)))) then
    some hcFunction
  else if opCollective op ∧ 64 ≤ (m.coll.colls.filter (fun c => c.key.comm == bits (wordAt ws 1) 0 16)).length then some hcOpenLimit
  else none

/-- A descriptor whose fetch ahead of the head failed has become the head and is read again (R469). -/
def Ilpiac.fetchAgain (m : Ilpiac) (r n : Nat) : Ilpiac :=
  (m.setRingX r ⟨(m.ringX r).fetched.filter (fun x => x.1 != n)⟩).fetchRead r n

/-- DESCRIPTOR_ACCEPT (R464, R468, R469); an undefined opcode completes with ST_BAD_DESCRIPTOR (R86). -/
def Ilpiac.acceptDesc (m : Ilpiac) (r : Nat) : Ilpiac :=
  let cons := m.dg r F.DR_STATUS_CONS
  if !m.drLive r ∨ cons = m.dg r F.DR_DOORBELL_PROD then m
  else
    match (m.ringX r).fetched.find? (fun x => x.1 == cons) with
    | none => m
    | some (_, ws) =>
      if ws.isEmpty then m.fetchAgain r cons
      else if m.rd .cring (wRing ws) F.CR_CTRL_ENABLE = 0 then m.ringError r 2
      else
        match m.holdCause r ws with
        | some h => (m.dw r F.DR_STATUS_STATE drHeld).dw r F.DR_STATUS_HOLD h
        | none =>
          let m := m.setRingX r ⟨(m.ringX r).fetched.filter (fun x => x.1 != cons)⟩
          let m := ((m.dw r F.DR_STATUS_CONS (cons + 1)).dw r F.DR_STATUS_STATE drRunning).dw r F.DR_STATUS_HOLD 0
          let d : AccDesc := { ring := r, num := cons, words := ws, started := !opKnown (wOp ws), due := false }
          let m := { m with ctl := { m.ctl with descs := m.ctl.descs ++ [d] } }
          if opKnown (wOp ws) then m else m.done d stBadDescriptor

/-- NOP (R478). -/
def Ilpiac.nop (m : Ilpiac) (d : AccDesc) : Ilpiac :=
  m.done d (if d.w0ok && d.zero [(1, 0, 64), (2, 0, 64), (3, 0, 64), (4, 0, 64), (5, 0, 64), (6, 0, 64), (7, 0, 64)] then stOk else stBadDescriptor)

/-! ### Completion rings (R471 to R475) -/

def Ilpiac.cg (m : Ilpiac) (c : Nat) (f : Fld) : Nat := m.rd .cring c f
def Ilpiac.cw (m : Ilpiac) (c : Nat) (f : Fld) (v : Nat) : Ilpiac := m.wr .cring c f v

/-- The interrupt of a ring: its vector is due, and ARMED and PENDING become 0 (R475). -/
def Ilpiac.ringIrq (m : Ilpiac) (c : Nat) : Ilpiac :=
  let m := ((m.irqDue (m.cg c F.CR_CTRL_VECTOR)).cw c F.CR_STATUS_ARMED 0).cw c F.CR_STATUS_PENDING 0
  { m with ctl := { m.ctl with coalDue := m.ctl.coalDue.filter (· != c) } }

/-- Whether PENDING has reached COAL_COUNT, or its oldest record was written COAL_TIME ago (R475). -/
def Ilpiac.irqReady (m : Ilpiac) (c : Nat) : Bool :=
  m.cg c F.CR_STATUS_ARMED == 1 && decide (1 ≤ m.cg c F.CR_STATUS_PENDING) &&
  (decide (max 1 (m.cg c F.CR_CTRL_COAL_COUNT) ≤ m.cg c F.CR_STATUS_PENDING) || m.cg c F.CR_CTRL_COAL_TIME == 0 ||
    m.ctl.coalDue.contains c)

def Ilpiac.irqCheck (m : Ilpiac) (c : Nat) : Ilpiac := if m.irqReady c then m.ringIrq c else m

/-- IRQ_COAL_TIMEOUT: the oldest pending record was written COAL_TIME ago; a ring that is not armed interrupts when it is armed again. -/
def Ilpiac.coalTimeout (m : Ilpiac) (c : Nat) : Ilpiac :=
  if m.cg c F.CR_STATUS_PENDING = 0 then m
  else Ilpiac.irqCheck { m with ctl := { m.ctl with coalDue := m.ctl.coalDue.filter (· != c) ++ [c] } } c

/-- Whether a completion ring may be enabled (R459, R471, R474). -/
def Ilpiac.cringOk (m : Ilpiac) (c : Nat) : Bool :=
  let n := m.cg c F.CR_CTRL_LOG2_SIZE
  decide (6 ≤ n) && decide (n ≤ 16) && m.cg c F.CR_BASE_BASE % (32 * 2 ^ n) == 0 && m.addrOk (m.cg c F.CR_BASE_BASE) (32 * 2 ^ n) true

/-- The stall of a ring follows; the CPL_STALL source stops asserting for a ring that no longer stalls (R473, R489). -/
def Ilpiac.restall (m : Ilpiac) (c : Nat) : Ilpiac :=
  let m := m.stall c
  if m.cg c F.CR_STATUS_STALLED = 0 then m.release srcCplStall (· == c) else m

/-- CPL_RING_ENABLE. -/
def Ilpiac.cringEnable (m : Ilpiac) (c : Nat) : Ilpiac :=
  if m.cg c F.CR_CTRL_ENABLE = 1 then m
  else if !m.cringOk c then m.regAccess (Blk.cring.at c + 0x10)
  else
    let m := ((m.cw c F.CR_CTRL_ENABLE 1).cw c F.CR_STATUS_PROD 0).cw c F.CR_DOORBELL_CONS 0
    let m := m.cw c F.CR_STATUS_ARMED 1
    (Ilpiac.irqCheck { m with ctl := { m.ctl with crWait := m.ctl.crWait.filter (· != c) } } c).restall c

/-- CPL_RING_DISABLE. -/
def Ilpiac.cringDisable (m : Ilpiac) (c : Nat) : Ilpiac := (m.cw c F.CR_CTRL_ENABLE 0).restall c

/-- CR_DOORBELL: CONS and ARM (R473, R475). -/
def Ilpiac.crDoorbell (m : Ilpiac) (c v : Nat) : Ilpiac :=
  let cons := bits v 0 32
  let bad : Bool := decide (2 ^ m.cg c F.CR_CTRL_LOG2_SIZE < (m.cg c F.CR_STATUS_PROD + 2 ^ 32 - cons) % 2 ^ 32)
  let m := if bad then m.regAccess (Blk.cring.at c) else (m.cw c F.CR_DOORBELL_CONS cons).restall c
  if bitOf v 32 then (m.cw c F.CR_STATUS_ARMED 1).irqCheck c else m

/-- Whether a record must still wait for another: COMM_DESTROY's for the earlier ones of its communicator (R48), SYNC_CANCEL's for that of the
wait it cancelled (R430). -/
def Ilpiac.recordWaits (m : Ilpiac) (r : CplRec) : Bool :=
  match r.frees with
  | some id => m.ctl.cpl.any (fun x => match x.coll with | some k => k.comm == id | none => false)
  | none =>
    match m.ctl.descs.find? (fun (d : AccDesc) => d.ring == r.ring && d.num == r.num) with
    | some d => wOp d.words == 0x4B && m.ctl.descs.any (fun (x : AccDesc) => x.ring == d.f 1 0 16 && wOp x.words == 0x49 && x.due)
    | none => false

/-- The 32 bytes of a record with its PHASE (R92, R471). -/
def Ilpiac.recordBytes (m : Ilpiac) (r : CplRec) : List Byte :=
  let p := m.cg r.cring F.CR_STATUS_PROD
  let phase := 1 - p / 2 ^ m.cg r.cring F.CR_CTRL_LOG2_SIZE % 2
  wordBytes (match r.words with
    | w :: l => BitVec.ofNat 64 (setBits w.toNat 48 1 phase) :: l
    | [] => [])

/-- Board address of the next slot of a completion ring. -/
def Ilpiac.crSlot (m : Ilpiac) (c : Nat) : Nat :=
  m.cg c F.CR_BASE_BASE + 32 * (m.cg c F.CR_STATUS_PROD % 2 ^ m.cg c F.CR_CTRL_LOG2_SIZE)

/-- A record has been written: the descriptor is no longer open, a collective closes, a communicator identifier becomes free. -/
def Ilpiac.recordWritten (m : Ilpiac) (r : CplRec) : Ilpiac :=
  let m := { m with ctl := { m.ctl with
    cpl := m.ctl.cpl.filter (fun x => !(x.ring == r.ring && x.num == r.num && x.cring == r.cring)),
    descs := m.ctl.descs.filter (fun d => !(d.ring == r.ring && d.num == r.num)) } }
  let m := match r.coll with | some k => m.closeColl k | none => m
  match r.frees with
  | some id => { m with coll := { m.coll with dying := m.coll.dying.filter (· != id), past := m.coll.past.filter (fun k => k.comm != id) } }
  | none => m

/-- CPL_RECORD_WRITE: the record that became due first is written, once a slot is free and the windows take it (R459, R472, R473). -/
def Ilpiac.recordWrite (m : Ilpiac) (c : Nat) : Ilpiac :=
  match m.ctl.cpl.find? (fun r => r.cring == c) with
  | none => m
  | some r =>
    let a := m.crSlot c
    if !m.crTakes c ∨ m.recordWaits r then m
    else if !m.addrOk a 32 true then (m.windowRefusal).cw c F.CR_STATUS_STALLED 1
    else if m.g F.HOLM_STATUS_STATE ≠ holmUp ∧ !m.inAperture a 32 then m
    else
      let m := m.boardWrite a (m.recordBytes r)
      let m := m.cw c F.CR_STATUS_PROD (m.cg c F.CR_STATUS_PROD + 1)
      let m := if r.irq then m.cw c F.CR_STATUS_PENDING (min 65535 (m.cg c F.CR_STATUS_PENDING + 1)) else m
      ((m.recordWritten r).restall c).irqCheck c

/-- CPL_STALL_TIMEOUT: a record has waited 1 ms (R473). -/
def Ilpiac.stallTimeout (m : Ilpiac) (c : Nat) : Ilpiac :=
  if m.ctl.cpl.any (·.cring == c) ∧ m.cg c F.CR_STATUS_STALLED = 1 then (m.event .cplStall).raise srcCplStall c 0 else m

/-! ### Interrupts (R476, R477) -/

/-- IRQ_SEND: the oldest interrupt message that is due. -/
def Ilpiac.irqSend (m : Ilpiac) : Ilpiac :=
  match m.ctl.irqDue with
  | [] => m
  | v :: l => if m.g F.HOLM_STATUS_STATE = holmUp then Ilpiac.send { m with ctl := { m.ctl with irqDue := l } } (.interrupt v) else m

/-- IRQ_MASK has been written: an event whose bit is set and no longer masked interrupts now (R476). -/
def Ilpiac.maskWrite (m : Ilpiac) (v : Nat) : Ilpiac :=
  let old := m.g F.IRQ_MASK_MASK
  let m := m.gw F.IRQ_MASK_MASK v
  m.over ((List.range 10).filter (fun e => bitOf old e && !bitOf v e && bitOf (m.g F.IRQ_CAUSE_CAUSE) e))
    (fun m e => m.irqDue (m.g F.IRQ_VECTOR_VECTOR e))

/-- HOLM_ACK_TIMER: the acknowledgement covers the flits received in SEQ order (R453). -/
def Ilpiac.holmAckTimer (m : Ilpiac) : Ilpiac :=
  if m.g F.HOLM_STATUS_STATE = holmOff then m
  else { m with ctl := { m.ctl with holm := { m.ctl.holm with ackSent := ((m.link holmPort).expect + 255) % 256 } } }

/-- HOLM_ACK_TIMEOUT (R454). -/
def Ilpiac.holmAckTimeout (m : Ilpiac) : Ilpiac := if m.holmLost then m.portDown holmPort none else m

end Sys2Proof.Machine
end

