-- ==== Sys2Proof/Machine/Faults.lean ====
section
/-! DEFINITION. Furrow control (spec 04: R155 to R161), and the fault collector's actions with their targets, function and link resets and the
stop (spec 15: R486 to R494). -/

namespace Sys2Proof.Machine

/-! ### Furrow control (R155, R160, R164) -/

/-- Contexts that wait on retired furrows find an ACTIVE one (R155). -/
def Ilpiac.rehome (m : Ilpiac) : Ilpiac :=
  m.over ((List.range 64).filter (fun g => m.furrowState g == furrowRetired && !(m.homed g).isEmpty)) (fun m g => m.moveContexts g)

/-- FURROW_CTRL.ENABLE = 1: a furrow that is not RETIRED is ACTIVE. -/
def Ilpiac.enableFurrow (m : Ilpiac) (f : Nat) : Ilpiac :=
  if !m.furrowPresent f then m
  else
    let m := m.wr .furrow f F.FURROW_CTRL_ENABLE 1
    if m.furrowState f = furrowRetired then m else (m.wr .furrow f F.FURROW_STATUS_STATE furrowActive).rehome

/-- FURROW_CTRL.ENABLE = 0: an ACTIVE furrow drains. -/
def Ilpiac.disableFurrow (m : Ilpiac) (f : Nat) : Ilpiac :=
  if !m.furrowPresent f then m
  else
    let m := m.wr .furrow f F.FURROW_CTRL_ENABLE 0
    if m.furrowState f = furrowActive then m.wr .furrow f F.FURROW_STATUS_STATE furrowDraining else m

/-- FURROW_GATED: a draining furrow without contexts. -/
def Ilpiac.gateFurrow (m : Ilpiac) (f : Nat) : Ilpiac :=
  if m.furrowState f = furrowDraining ∧ (m.homed f).isEmpty then m.wr .furrow f F.FURROW_STATUS_STATE furrowGated else m

/-- FURROW_CTRL.RETIRE. -/
def Ilpiac.retireWrite (m : Ilpiac) (f : Nat) : Ilpiac :=
  if !m.furrowPresent f then m else (m.wr .furrow f F.FURROW_CTRL_RETIRE 1).retireFurrow f

/-- CONTEXT_MOVE_DONE: the move of a retired furrow's contexts ends. -/
def Ilpiac.moveDone (m : Ilpiac) (f : Nat) : Ilpiac := if (m.fx f).moving then m.moveContexts f else m

/-! ### Targets (R487, R492, R550) -/

/-- What FENCE and FUNCTION_RESET act on. -/
inductive FaultTarget where
  | none
  | fn (n : Nat)
  | port (p : Nat)
  | furrow (f : Nat)
  | engine (e : Nat)
  | channel (c : Nat)
  | dring (r : Nat)
  | cring (c : Nat)
deriving DecidableEq, Repr

/-- The target and FAULT_FIRST.UNIT of an INTERNAL fault by the register-window offset of its entry (R550). -/
def internalTarget (off : Nat) : FaultTarget × Nat :=
  if 0x00800000 ≤ off ∧ off < 0x01000000 then (.fn fnSwitch, fnSwitch)
  else if 0x00100000 ≤ off ∧ off < 0x00300000 then (.fn fnSwitch, fnSwitch)
  else if 0x00040000 ≤ off ∧ off < 0x00050000 then (.fn fnSync, fnSync)
  else if 0x01000000 ≤ off ∧ off < 0x01400000 then (.dring ((off - 0x01000000) / 64), (off - 0x01000000) / 64)
  else if 0x01400000 ≤ off ∧ off < 0x01440000 then (.cring ((off - 0x01400000) / 64), (off - 0x01400000) / 64)
  else (.none, 0)

/-- The target of a source for a unit and detail (R487). -/
def targetOf (src unit detail : Nat) : FaultTarget :=
  if src = srcPlacement ∨ src = srcLink ∨ src = srcLane then .port unit
  else if src = srcFurrow then .furrow unit
  else if src = srcTrellis then .engine unit
  else if src = srcHbmUe then .channel unit
  else if src = srcRelocate then .fn fnHbm
  else if src = srcReference ∨ src = srcTime then .fn fnTime
  else if src = srcSramUe then .fn fnSwitch
  else if src = srcInternal then (internalTarget detail).1
  else .none

/-! ### FENCE (R492) -/

def Ilpiac.addFence (m : Ilpiac) (src : Nat) (t : FenceTarget) : Ilpiac :=
  { m with flt := { m.flt with fences := if m.flt.fences.contains ⟨src, t⟩ then m.flt.fences else m.flt.fences ++ [⟨src, t⟩] } }

/-- Fences on a target end with its reset. -/
def Ilpiac.endFences (m : Ilpiac) (t : FenceTarget) : Ilpiac :=
  { m with flt := { m.flt with fences := m.flt.fences.filter (·.target != t) } }

/-- A port is fenced: the member of a downlink, or a trunk port is held down until a link reset. -/
def Ilpiac.fencePort (m : Ilpiac) (p : Nat) : Ilpiac :=
  if !m.portPresent p ∨ m.isTwin p then m
  else if isTrunk p then
    let m := m.setPort p { m.port p with fenceHeld := true }
    if m.portFormed p then m.holdPort p else m
  else m.fenceMember p

/-- A channel is mapped out with cause SOFTWARE (R278). -/
def Ilpiac.fenceChannel (m : Ilpiac) (c : Nat) : Ilpiac := m.failChannel c 4

/-- Whether a FENCE that the collector holds on a function or a ring lasts: its source asserts still, or reports single events. -/
def Ilpiac.fenceLasts (m : Ilpiac) (src : Nat) : Bool := singleEvent src || m.asserting src

/-- FENCE on a target. -/
def Ilpiac.takeFence (m : Ilpiac) (src : Nat) : FaultTarget → Ilpiac
  | .none => m
  | .fn n => if m.fenceLasts src then m.addFence src (.function n) else m
  | .port p => m.fencePort p
  | .furrow f => m.disableFurrow f
  | .engine e => m.disableEngine e
  | .channel c => m.fenceChannel c
  | .dring r =>
    let m := m.addFence src (.dring r)
    if m.drLive r then (m.dw r F.DR_STATUS_STATE drHeld).dw r F.DR_STATUS_HOLD hcFunction else m
  | .cring c => (m.addFence src (.cring c)).stall c

/-! ### Function resets (R492, R494, R495) -/

/-- A register whose status fields return to their reset values and whose configuration is kept (R495). -/
def statusReset (k : Nat) (v : Word) : Word :=
  match regDefOf k with
  | none => v
  | some (d, _) =>
    let r := (regReset k).toNat
    BitVec.ofNat 64 (d.fields.foldl (fun a x => if x.ty = .rw ∨ x.ty = .rws then a else setBits a x.lo x.w (bits r x.lo x.w)) v.toNat)

/-- The status fields of all registers whose key satisfies `p` are reset. -/
def Ilpiac.statusResetIn (m : Ilpiac) (p : Nat → Bool) : Ilpiac :=
  m.over (m.regs.filter (fun x => p x.1)) (fun m x => m.setReg x.1 (statusReset x.1 x.2))

/-- Ports that have formed, with their state and fence. -/
def Ilpiac.formedPorts (m : Ilpiac) : List (Nat × (Nat × Nat)) :=
  ((List.range 262).filter m.portFormed).map (fun p => (p, (m.portState p, m.pg p F.PORT_STATUS_FENCED)))

/-- The state of a formed port whose check begins anew: a port held down stays so (R37, R492). -/
def againState (st : Nat) : Nat := if st = 3 then 3 else 1

/-- A port without anything in progress: its fence and its kept responses stay. -/
def PortX.cleared (x : PortX) : PortX :=
  { x with cls := [], tokens := 0, tx := none, pol := [], landed := [] }

/-- The switch core with nothing in it; numbers that must not repeat stay. -/
def Switch.cleared (s : Switch) : Switch :=
  { s with buf := [], queues := [], qx := [], hoses := [], closes := [], control := 0, sample := 0, ports := [] }

/-- Hoses end with the switch function: descriptors that wait for one complete. -/
def Ilpiac.abortHoses (m : Ilpiac) : Ilpiac :=
  let open_ := m.sw.hoses.filterMap (fun x => x.2.desc)
  let closing := m.sw.closes.map (fun x => x.2.2)
  m.over (open_ ++ closing) (fun m d => m.hoseDone (some d) stAborted)

/-- Cloche groups record this module MISSING; creations, restores and ledger copies in progress end (R263, R492). -/
def Ilpiac.abortGroups (m : Ilpiac) : Ilpiac :=
  let m := m.over (m.groups.map (·.id)) (fun m gid =>
    match m.group gid with
    | none => m
    | some g =>
      let m := match g.forming with | some d => m.doneAt d stAborted { comm := gid } | none => m
      let m := m.endRestore gid stAborted
      let m := m.over g.ledgerWaits (fun m w => m.doneAt (w.ring, w.num) stAborted { comm := gid })
      m.updGroup gid (fun g => { g.markMissing (m.bed, m.plane) with ledgerWaits := [], unsettled := 0, restore := none }))
  { m with groups := m.groups.filter (fun g => g.forming.isNone) }

/-- Register keys whose status belongs to the switch function: port blocks, queue tables, switch-core, route and hose tables. -/
def switchKey (k : Nat) : Bool := (decide (0x100000 ≤ k) && decide (k < 0x300000)) || (decide (0x800000 ≤ k) && decide (k < 0x1000000))

/-- The reset of SWITCH; it ends with FUNCTION_RESET_DONE. -/
def Ilpiac.resetSwitch (m : Ilpiac) : Ilpiac :=
  let m := m.over m.coll.comms (fun m cm => m.dropComm cm)
  let m := m.over m.enginesHere (fun m e => m.updEng e (fun x => { x with next := none }))
  let m := m.abortHoses.abortGroups
  let ports := m.formedPorts
  let px := m.sw.ports
  let coll := { m.coll with ctxs := [], queues := [], retained := [], trunk := [], trunkWait := [], heldRes := [], past := [] }
  let m : Ilpiac := { m with sw := m.sw.cleared, coll := coll, ctl := { m.ctl with funcReset := [fnSwitch] } }
  let m := m.over px (fun m x => m.setPort x.1 x.2.cleared)
  let m := m.over m.coll.furrows (fun m x => m.setFx x.1 { x.2 with queue := [], moving := false })
  let m := m.over ((List.range 64).filter m.furrowPresent) (fun m f => m.furrowCount f)
  let m := m.statusResetIn switchKey
  let m := m.over ports (fun m x => (m.pw x.1 F.PORT_STATUS_STATE (againState x.2.1)).pw x.1 F.PORT_STATUS_FENCED x.2.2)
  m.ownTrunks.recount.rmStat

/-- Status registers that the reset of ADMISSION, HBM or SYNC returns to their reset values (R495): RM_COUNTS, CH_ERRORS, CACHE_COUNTS and
POOL_STATUS.REFUSED, SYNC_STATUS. What their other status fields show is kept with the state they show (assumption 133). -/
def admissionStatus (k : Nat) : Bool := k == 0x440010
def hbmStatus (k : Nat) : Bool := k == 0x740018 || ((locate k).1 == .channel && (locate k).2.2 == 0x10)
def syncStatus (k : Nat) : Bool := k == 0x40008

/-- The reset of ADMISSION: waiting contexts are removed, and their collectives end with ST_ABORTED. -/
def Ilpiac.resetAdmission (m : Ilpiac) : Ilpiac :=
  let ks := (m.coll.colls.filter (fun c => m.anyWaits c.key)).map (·.key)
  (m.over ks (fun m k => (m.unqueue k).failColl k stAborted)).statusResetIn admissionStatus |>.rmStat

/-- The reset of HBM: the function stops and starts with its configuration unchanged. -/
def Ilpiac.resetHbm (m : Ilpiac) : Ilpiac :=
  if m.fnStopped fnHbm ∨ !m.fnPresent fnHbm then m
  else
    let m := m.hbmStop.statusResetIn hbmStatus
    let m := m.over (List.range 8) (fun m i => m.gw F.POOL_STATUS_REFUSED 0 i)
    (m.setRun fnHbm runStopped |>.event .run).setRun fnHbm runStarting

/-- The reset of SYNC: ring waits complete with ST_ABORTED, member waits go (R423); counter values and flags are kept. -/
def Ilpiac.resetSync (m : Ilpiac) : Ilpiac :=
  let m := m.over m.sync.waits (fun m w =>
    match w.who with
    | .ring r => m.doneAt (r, w.num) stAborted { count := m.cval w.counter }
    | .member _ _ => m)
  (m.statusResetIn syncStatus).setWaits []

/-- A function reset (R492). Its fences end. -/
def Ilpiac.functionReset (m : Ilpiac) (n : Nat) : Ilpiac :=
  let m := (m.endFences (.function n)).gcnt F.RESET_STATUS_FUNC_RESETS 1
  if n = fnSwitch then m.resetSwitch
  else if n = fnAdmission then m.resetAdmission
  else if n = fnHbm then m.resetHbm
  else if n = fnSync then m.resetSync
  else if n = fnTime then m.resetTime
  else m

/-- FUNCTION_RESET_DONE: the reset of SWITCH ends, and every formed port repeats its hello check. -/
def Ilpiac.functionResetDone (m : Ilpiac) : Ilpiac :=
  if m.ctl.funcReset.isEmpty then m
  else Ilpiac.helloAll { m with ctl := { m.ctl with funcReset := [] } }

/-- Register keys of a port's block, or of the blocks of its lanes. -/
def portKey (p k : Nat) : Bool :=
  let b := (portBlk p).at (portIdx p)
  (decide (b ≤ k) && decide (k < b + (portBlk p).stride)) ||
  (lanesOf p).any (fun l => decide (Blk.lane.at l ≤ k) && decide (k < Blk.lane.at (l + 1)))

/-- What a link reset does to a port (R494): it goes DOWN, its member is fenced or its trunk link is lost, and its lanes restart. -/
def Ilpiac.linkRestart (m : Ilpiac) (p : Nat) : Ilpiac :=
  let m := if isTrunk p then m else if m.isTwin p then m else m.fenceMember p
  let m := m.portDown p none
  let fenced := m.pg p F.PORT_STATUS_FENCED
  let m := (m.setPort p { m.port p with fenceHeld := false }).statusResetIn (portKey p)
  let m := m.pw p F.PORT_STATUS_FENCED fenced
  let m := if isTrunk p then
      (m.gw F.PLACEMENT_STATUS_TRUNK_MISMATCH (ofBitIdx ((bitIdx (m.g F.PLACEMENT_STATUS_TRUNK_MISMATCH) 6).filter (· != p - 256)))).ownTrunks
    else m
  m.restartLanes p

/-- A link reset (R494) of a port that is present; it is counted. -/
def Ilpiac.linkReset (m : Ilpiac) (p : Nat) : Ilpiac :=
  if !m.portPresent p then m else (m.gcnt F.RESET_STATUS_LINK_RESETS 1).linkRestart p

/-- The reset of a furrow: its contexts move, and unless it is RETIRED it is ACTIVE again with its retired cells kept. -/
def Ilpiac.resetFurrow (m : Ilpiac) (f : Nat) : Ilpiac :=
  if !m.furrowPresent f then m
  else if m.furrowState f = furrowRetired then m.moveContexts f
  else
    let m := (m.wr .furrow f F.FURROW_STATUS_STATE furrowDraining).moveContexts f
    m.enableFurrow f

/-- FUNCTION_RESET on a target. -/
def Ilpiac.takeReset (m : Ilpiac) : FaultTarget → Ilpiac
  | .none => m
  | .fn n => m.functionReset n
  | .port p => m.linkReset p
  | .furrow f => m.resetFurrow f
  | .engine e => m.clearEngineFault e
  | .channel c => m.fenceChannel c
  | .dring r => (m.stopRing r).endFences (.dring r)
  | .cring c => (m.cringDisable c).endFences (.cring c) |>.restall c

/-! ### STOP (R491) -/

/-- Every function of RUN_CTRL becomes STOPPED; what it held stays. -/
def Ilpiac.stopFunctions (m : Ilpiac) : Ilpiac :=
  let m := if m.hbmOn then m.hbmStop else m
  m.over ((List.range 5).filter m.fnPresent) (fun m n => if m.runState n = runStopped then m else (m.setRun n runStopped).event .run)

/-- Every present HBM stack enters self-refresh. -/
def Ilpiac.refreshAll (m : Ilpiac) : Ilpiac :=
  m.over ((List.range 12).filter m.stackPresent) (fun m s => m.wr .stack s F.STACK_STATUS_STATE 1)

/-- The Ilpiac stops. -/
def Ilpiac.stop (m : Ilpiac) : Ilpiac :=
  let m := m.stopFunctions.refreshAll
  let m := (m.gw F.SB_STATE_POWER 3).gw F.FAULT_FIRST_STOPPED 1
  Ilpiac.lanePowerAll { m with power := { m.power with faultN := false } }

/-! ### The latch (R489, R490, R493) -/

/-- FAULT_ACTION codes; `logged` is the code of R493 for a latch that software cleared. -/
def actNone : Nat := 0
def actFence : Nat := 1
def actReset : Nat := 2
def actStop : Nat := 3
def actCleared : Nat := 4

/-- The latch is written to the fault log. -/
def Ilpiac.logLatch (m : Ilpiac) (action : Nat) : Ilpiac :=
  m.journal (.entry { time := m.g F.FAULT_TIME_NS, src := m.g F.FAULT_FIRST_SOURCE, wire := m.g F.FAULT_FIRST_WIRE == 1, action,
                      unit := m.g F.FAULT_FIRST_UNIT, detail := m.g F.FAULT_FIRST_DETAIL, serial := 0 })

/-- The latch is freed: a latched single event ends, and the next source is latched. -/
def Ilpiac.freeLatch (m : Ilpiac) : Ilpiac :=
  let src := m.g F.FAULT_FIRST_SOURCE
  let l := if singleEvent src then m.flt.asserts.filter (fun a => !(a.src == src && a.latched && !a.wire)) else m.flt.asserts
  let m := { m with flt := { m.flt with asserts := l, due := m.flt.due.filter (· != src) } }
  (m.gw F.FAULT_FIRST_VALID 0).latchNext

/-- One second of furrow cycles. -/
def secondCycles : Nat := 1200000000

/-- The action of the latched source: what FAULT_ACTION says, raised when the source was latched again within 1 s after its last action. -/
def Ilpiac.latchedAction (m : Ilpiac) : Nat :=
  let src := m.g F.FAULT_FIRST_SOURCE
  let a := if stopSource src then actStop else m.g (F.FAULT_ACTION_OF src)
  match m.flt.lastAct.find? (fun x => x.1 == src) with
  | some (_, act, clk) =>
    if m.flt.latchedAt - clk ≤ secondCycles then (if act = actFence then max a actReset else if act = actReset then actStop else a) else a
  | none => a

/-- FAULT_GRACE_EXPIRY: the action is taken, logged and counted. After a STOP the latch stays for the driver (R491). -/
def Ilpiac.graceExpiry (m : Ilpiac) : Ilpiac :=
  if m.g F.FAULT_FIRST_VALID = 0 ∨ m.g F.FAULT_FIRST_STOPPED = 1 then m
  else
    let src := m.g F.FAULT_FIRST_SOURCE
    let act := m.latchedAction
    let m : Ilpiac := { m with flt := { m.flt with lastAct := (m.flt.lastAct.filter (fun x => x.1 != src)) ++ [(src, act, m.clk)], due := m.flt.due.filter (· != src) } }
    let m := if act = actNone then m else m.gcnt F.FAULT_COUNTS_ESCALATED 1
    let t := targetOf src (m.g F.FAULT_FIRST_UNIT) (m.g F.FAULT_FIRST_DETAIL)
    if act = actStop then m.stop
    else
      let m := (m.logLatch act).freeLatch
      if act = actFence then m.takeFence src t else if act = actReset then m.takeReset t else m

/-- Actions that are due at once (R490). -/
def Ilpiac.dueActions : Nat → Ilpiac → Ilpiac
  | 0, m => m
  | n + 1, m =>
    match m.flt.due with
    | [] => m
    | src :: l =>
      let m : Ilpiac := { m with flt := { m.flt with due := l } }
      Ilpiac.dueActions n (if m.g F.FAULT_FIRST_VALID = 1 ∧ m.g F.FAULT_FIRST_SOURCE = src then m.graceExpiry else m)

/-- FAULT_CLEAR: a write of 1 to FAULT_FIRST.VALID. -/
def Ilpiac.faultClear (m : Ilpiac) : Ilpiac :=
  if m.g F.FAULT_FIRST_VALID = 0 then m
  else
    let m := m.logLatch (if m.g F.FAULT_FIRST_STOPPED = 1 then actStop else actCleared)
    let m : Ilpiac := { m with power := { m.power with faultN := true } }
    m.freeLatch

/-! ### Detection (R486, R488, R550) -/

/-- FAULT_PAIR_BROKEN: the source counts as asserting until the next power-on or cold reset. A broken pair names no instance: UNIT of a
source that has instances is a free value. -/
def Ilpiac.pairBroken (m : Ilpiac) (s : Nat) : Ilpiac :=
  if bitOf (m.g F.FAULT_WIRES_BROKEN) s then m
  else
    let m := m.gw F.FAULT_WIRES_BROKEN (setBit (m.g F.FAULT_WIRES_BROKEN) s)
    if [srcPlacement, srcFurrow, srcTrellis, srcHbmUe, srcLink, srcLane, srcCplStall, srcInternal].contains s then
      let x := m.draw
      x.2.raise s (x.1 % 2 ^ 16) 0 true
    else m.raise s 0 0 true

/-- INTERNAL_PARITY_ERROR (R550). -/
def Ilpiac.parityError (m : Ilpiac) (off : Nat) : Ilpiac := m.raise srcInternal (internalTarget off).2 (off % 2 ^ 32)

/-- A collective ends with ST_MEMORY_FAULT before its commit point (R66, R488). -/
def Ilpiac.memoryFault (m : Ilpiac) (k : CollId) : Ilpiac :=
  match m.collOf k with
  | some c => if c.committed then m else (m.failColl k stMemoryFault).collStep k
  | none => m

/-- A retained result or END copy is lost: its unacknowledged destinations are removed from delivery, or the collective ends. -/
def Ilpiac.retainedLost (m : Ilpiac) (id : Nat) : Ilpiac :=
  match m.coll.retained.find? (fun r => r.id == id) with
  | none => m
  | some r =>
    let m := { m with coll := { m.coll with retained := m.coll.retained.filter (fun x => x.id != id) } }
    let m := m.unhold r.buf
    match m.collOf r.coll with
    | some c =>
      if c.committed then (m.over ((r.dests.filter (fun d => !d.acked)).map (·.addr)) (fun m a => m.undeliver r.coll a stMemoryFault)).collStep r.coll
      else m.memoryFault r.coll
    | none => m

/-- A retained trunk transfer is lost: it is given up at once. -/
def Ilpiac.trunkCopyLost (m : Ilpiac) (id : Nat) : Ilpiac :=
  match m.coll.trunk.find? (fun t => t.id == id) with
  | none => m
  | some t =>
    let m := m.releaseCopy id
    match t.coll, t.group with
    | some k, _ => m.memoryFault k
    | none, some g => (m.recordMissing g (t.bed, t.plane)).clocheFlow
    | none, none => m

/-- The pointers to a packet leave every queue, and its cells are freed. -/
def Ilpiac.dropPacket (m : Ilpiac) (id : Nat) : Ilpiac :=
  let keys := (m.sw.queues.filter (fun q => q.2.any (fun e => e.id == id))).map (·.1)
  let m := m.over keys (fun m k => m.dropFrom k (fun e => e.id == id) none)
  let m := m.over m.sw.ports (fun m (x : Nat × PortX) => m.setPort x.1 { x.2 with landed := x.2.landed.filter (· != id) })
  (m.setBuf id (fun b => { b with held := false, refs := 0 })).reap id

/-- A buffered packet is lost (R377, R488): a contribution is awaited again (R378), a landed packet that was acknowledged counts as a
retained one, and everything else is recovered by its type. -/
def Ilpiac.packetLost (m : Ilpiac) (id : Nat) : Ilpiac :=
  match m.bufPkt id with
  | none => m
  | some b =>
    match m.coll.retained.find? (fun r => r.buf == id) with
    | some r => m.retainedLost r.id
    | none =>
      match m.coll.ctxs.find? (fun x => x.contribs.any (fun c => c.buf == id)) with
      | some x =>
        let leaf := ((x.contribs.find? (fun c => c.buf == id)).map (·.leaf)).getD 0
        let m := m.updCtx x.id (fun x => { x with contribs := x.contribs.filter (fun c => c.buf != id), seen := x.seen.filter (· != leaf),
                                                  todo := x.todo.filter (· != leaf) })
        m.dropPacket id
      | none =>
        let m := m.dropPacket id
        if b.pkt.ty = 0x60 ∨ b.pkt.ty = 0x62 ∨ b.pkt.ty = 0x63 then m.memoryFault b.pkt.coll else m

/-- SRAM_UE_DETECTED (R488). -/
def Ilpiac.sramUe (m : Ilpiac) (a : SramArea) : Ilpiac :=
  let m := match a with
    | .packet id => m.packetLost id
    | .retained id => m.retainedLost id
    | .trunkRetained id => m.trunkCopyLost id
    | .slot x => (m.restart x).pumpAll x
    | .context x => m.memoryFault x.coll
  m.raise srcSramUe fnSwitch 0

/-! ### FAULT_LOG_READ (R493) -/

/-- The 32 bytes of a log entry. -/
def LogEntry.bytes (e : LogEntry) : List Byte :=
  leBytes 8 e.time ++ leBytes 1 e.src ++ leBytes 1 (b2n e.wire + 2 * e.action) ++ leBytes 2 e.unit ++ leBytes 4 e.detail ++ leBytes 4 e.serial ++
    List.replicate 12 0

/-- Entries from a serial number on, at most `n` numbers, that the log still holds. -/
def ModuleRecord.entries (r : ModuleRecord) (first n : Nat) : List LogEntry :=
  r.log.filter (fun e => decide ((e.serial + 2 ^ 32 - first) % 2 ^ 32 < n))

/-- FAULT_LOG_READ. -/
def Ilpiac.faultLogRead (m : Ilpiac) (d : AccDesc) : Ilpiac :=
  let first := d.f 1 0 32
  let n := d.f 1 32 16
  let a := d.f 2 0 64
  let fields := d.w0ok && d.zero [(1, 48, 16), (3, 0, 64), (4, 0, 64), (5, 0, 64), (6, 0, 64), (7, 0, 64)] && decide (1 ≤ n) && decide (n ≤ 4096) &&
    a % 64 == 0
  let m := if fields then m.noteRefusals [(a, 32 * n, true)] else m
  if !fields ∨ !m.addrOk a (32 * n) true then m.done d stBadDescriptor
  else
    let l := m.record.entries first n
    let r := m.boardStore a (l.flatMap LogEntry.bytes)
    r.2.done d (if l.isEmpty ∨ r.1 then stOk else stMemoryFault) { count := l.length }

/-! ### TWIN rows (R502 to R504) -/

/-- TWIN_DIGEST_SEND: at most 64 digests leave on the twin port. -/
def Ilpiac.twinSend (m : Ilpiac) : Ilpiac :=
  let p := m.g F.TWIN_CTRL_PORT
  let l := m.twin.unsent.take 64
  if !m.twinOn ∨ !m.portUp p ∨ l.isEmpty then m
  else
    let m : Ilpiac := { m with twin := { m.twin with unsent := m.twin.unsent.drop 64 } }
    m.emit p (Packet.make 0x70 0 (m.bed * 256 + p) false m.bed true [] (l.flatMap TwinRec.bytes)) .control

/-- TWIN_DIGEST_RECEIVED. -/
def Ilpiac.twinRx (m : Ilpiac) (p : Packet) : Ilpiac := m.over (twinRecs p.body) (fun m r => m.twinPartner r)

/-- TWIN_CTRL.ENABLE takes a value: from 0 to 1 pairing begins and the latch of the first divergence is free again; with 0 twin mode is off. -/
def Ilpiac.twinEnabled (m : Ilpiac) (old : Nat) : Ilpiac :=
  let m : Ilpiac := { m with twin := { own := [], partner := [], unsent := [] } }
  if m.g F.TWIN_CTRL_ENABLE = 1 then
    if old = 1 then m
    else
      let p := m.g F.TWIN_CTRL_PORT
      let m := (m.gw F.TWIN_STATUS_STATE twinPairing).release srcTwin (fun _ => true)
      if m.portPresent p ∧ m.portFormed p then (m.setPortState p 1).sendHello p else m
  else (m.gw F.TWIN_STATUS_STATE twinOff).release srcTwin (fun _ => true)

end Sys2Proof.Machine
end

