-- ==== Sys2Proof/Machine/Boot.lean ====
section
/-! DEFINITION. Placement commits (spec 01: R29 to R32), and boot, images and identity (spec 17: R533 to R546). -/

namespace Sys2Proof.Machine

/-! ### Placement commit (R29, R31, R32, R541) -/

/-- Refusal causes of a commit (R29). -/
def refuseRange : Nat := 1
def refuseVariant : Nat := 2
def refuseLive : Nat := 3

/-- The staged values in the layout of PLACEMENT and PLACEMENT_EXTENT (R511); bits that the layouts reserve are not taken (R17). -/
def Ilpiac.staged (m : Ilpiac) : Nat × Nat :=
  let s := m.g F.SB_STAGE0_STAGE
  (bits s 0 6 + bits s 8 41 * 2 ^ 8, m.g F.SB_STAGE1_EXTENT)

/-- Whether the staged extents, coordinates and plot identifier are out of range (R29). -/
def stageRange (s e : Nat) : Bool :=
  let bad := fun (x n : Nat) => decide (n < 1) || decide (4 < n) || decide (n ≤ x)
  bad (bits s 0 2) (bits e 0 3) || bad (bits s 2 2) (bits e 3 3) || bad (bits s 4 2) (bits e 6 3) || bits s 32 16 == 0

/-- Whether a commit changes a value other than the bed slot. -/
def Ilpiac.stageMoves (m : Ilpiac) (s e : Nat) : Bool :=
  let old := (m.reg 0x30100).toNat
  !m.placed || setBits (bits old 0 49) 12 4 0 != setBits s 12 4 0 || bits (m.reg 0x30108).toNat 0 9 != e

/-- Whether a communicator, a cloche group or a hose entry that is not FREE exists. -/
def Ilpiac.liveState (m : Ilpiac) : Bool := !m.coll.comms.isEmpty || !m.groups.isEmpty || m.g F.ROUTE_STATUS_HOSES_USED != 0

/-- The cause for which a commit is refused, 0 for none. -/
def Ilpiac.commitRefusal (m : Ilpiac) : Nat :=
  let x := m.staged
  if stageRange x.1 x.2 then refuseRange
  else if !m.has F.CAP_PRESENT_TRUNK ∧ (bits x.2 0 3 ≠ 1 ∨ bits x.2 3 3 ≠ 1 ∨ bits x.2 6 3 ≠ 1) then refuseVariant
  else if m.liveState ∧ m.stageMoves x.1 x.2 then refuseLive
  else 0

/-- What an accepted commit brings about in the links: the link map is cleared, trunk ports held down repeat their check, lanes whose
dimension now has a neighbour start, and hellos carry the new placement (R32, R37, R312, R364). -/
def Ilpiac.placementLinks (m : Ilpiac) : Ilpiac :=
  let m := m.gw F.PLACEMENT_STATUS_TRUNK_MISMATCH 0
  let m := m.over (List.range 6) (fun m k =>
    let p := 256 + k
    let m := m.gw F.LINK_MAP_LOST 0 k
    if m.portState p = 3 ∧ !(m.port p).fenceHeld then (m.setPortState p 1).release srcPlacement (· == p) else m)
  (m.lanePowerAll.timeSource true).ownTrunks.helloAll

/-- A commit is checked, and refused or taken; either way it is the PLACEMENT event (R29, R479). -/
def Ilpiac.commitNow (m : Ilpiac) : Ilpiac :=
  let c := m.commitRefusal
  if c ≠ 0 then ((m.gw F.PLACEMENT_STATUS_REFUSE_CAUSE c).event .placement).sbEvent 4
  else
    let x := m.staged
    let gen := m.g F.PLACEMENT_EXTENT_GEN
    let m := m.setReg 0x30100 (BitVec.ofNat 64 (setBits x.1 63 1 1))
    let m := m.setReg 0x30108 (BitVec.ofNat 64 (x.2 + (gen + 1) % 2 ^ 32 * 2 ^ 32))
    let m := m.gw F.PLACEMENT_STATUS_REFUSE_CAUSE 0
    ((m.event .placement).sbEvent 4).placementLinks

/-- SB_COMMIT.COMMIT: before READY the commit is held (R541). -/
def Ilpiac.placementCommit (m : Ilpiac) : Ilpiac :=
  if m.bootReady then m.commitNow else { m with boot := { m.boot with heldCommit := true } }

/-! ### SHAKE256 (FIPS 202; R536) -/

/-- Rotation of a 64-bit lane. -/
def rotl64 (x n : Nat) : Nat := (x * 2 ^ n + x / 2 ^ (64 - n)) % 2 ^ 64

/-- Rotation offsets of lane `x + 5y`. -/
def keccakRot : List Nat := [0, 1, 62, 28, 27, 36, 44, 6, 55, 20, 3, 10, 43, 25, 39, 41, 45, 15, 21, 8, 18, 2, 61, 56, 14]

/-- Round constants. -/
def keccakRound : List Nat := [
  0x0000000000000001, 0x0000000000008082, 0x800000000000808A, 0x8000000080008000, 0x000000000000808B, 0x0000000080000001,
  0x8000000080008081, 0x8000000000008009, 0x000000000000008A, 0x0000000000000088, 0x0000000080008009, 0x000000008000000A,
  0x000000008000808B, 0x800000000000008B, 0x8000000000008089, 0x8000000000008003, 0x8000000000008002, 0x8000000000000080,
  0x000000000000800A, 0x800000008000000A, 0x8000000080008081, 0x8000000000008080, 0x0000000080000001, 0x8000000080008008]

/-- One round of Keccak-f[1600] on 25 lanes. -/
def keccakF (a : List Nat) (rc : Nat) : List Nat :=
  let g := fun (l : List Nat) (i : Nat) => (l[i]?).getD 0
  let c := (List.range 5).map (fun x => (List.range 5).foldl (fun s y => Nat.xor s (g a (x + 5 * y))) 0)
  let d := (List.range 5).map (fun x => Nat.xor (g c ((x + 4) % 5)) (rotl64 (g c ((x + 1) % 5)) 1))
  let t := (List.range 25).map (fun i => rotl64 (Nat.xor (g a i) (g d (i % 5))) (g keccakRot i))
  let b := (List.range 25).map (fun i => let x := i % 5; let y := i / 5; g t ((x + 3 * y) % 5 + 5 * x))
  let e := (List.range 25).map (fun i =>
    let x := i % 5; let y := i / 5
    Nat.xor (g b i) (Nat.land (2 ^ 64 - 1 - g b ((x + 1) % 5 + 5 * y)) (g b ((x + 2) % 5 + 5 * y))))
  match e with
  | [] => []
  | h :: l => Nat.xor h rc :: l

/-- Keccak-f[1600]. -/
def keccak (a : List Nat) : List Nat := keccakRound.foldl keccakF a

/-- Bytes of a block of SHAKE256. -/
def shakeRate : Nat := 136

/-- One block is absorbed. -/
def absorb (a : List Nat) (blk : List Byte) : List Nat :=
  keccak (a.zipIdx.map (fun x => if x.2 < 17 then Nat.xor x.1 (natAt blk (8 * x.2) 8) else x.1))

/-- The message with its domain bits and padding. -/
def shakePad (l : List Byte) : List Byte :=
  let n := shakeRate - l.length % shakeRate
  l ++ (if n = 1 then [0x9F] else [0x1F] ++ List.replicate (n - 2) 0 ++ [0x80])

/-- The first 136 bytes of SHAKE256 of a byte string. -/
def shakeBlock (l : List Byte) : List Byte :=
  let p := shakePad l
  let a := (piecesOf shakeRate (p.length / shakeRate) p).foldl absorb (List.replicate 25 0)
  (a.take 17).flatMap (leBytes 8)

/-- SHAKE256 with an output of `n` bytes, at most 136. -/
def shake256 (l : List Byte) (n : Nat) : List Byte := (shakeBlock l).take n

/-- The bytes of an ASCII string. -/
def ascii (s : String) : List Byte := s.toList.map (fun c => BitVec.ofNat 8 c.toNat)

/-- The key identifier of a public key (R536). -/
def keyId (key : List Byte) : Nat := natAt (shake256 key 64) 0 8

/-! ### The boot state machine (R537 to R541) -/

/-- BOOT_STATUS.STATE (R537). -/
def bootWaitSteward : Nat := 0
def bootLoading : Nat := 1
def bootWaitUcode : Nat := 2
def bootHalted : Nat := 4

/-- BOOT_STATUS.RESULT (R548). -/
def resOk : Nat := 1
def resBadHeader : Nat := 2
def resOrder : Nat := 3
def resUnknownKey : Nat := 4
def resBadSignature : Nat := 5
def resSvnLow : Nat := 6
def resReadFault : Nat := 7
def resRecord : Nat := 8

/-- Kinds of image (R535). -/
def kindSteward : Nat := 1
def kindUcode : Nat := 2

/-- The copy of the assembly record in use (R534). -/
def Ilpiac.copyInUse (m : Ilpiac) : AssemblyCopy := if m.g F.BOOT_STATUS_RECORD_B = 1 then m.record.copyB else m.record.copyA

/-- BOOT_CTRL.LOAD (R538): refused with ORDER unless the state accepts the KIND. -/
def Ilpiac.imageLoad (m : Ilpiac) : Ilpiac :=
  let st := m.g F.BOOT_STATUS_STATE
  let kind := m.g F.BOOT_CTRL_KIND
  if (st = bootWaitSteward ∧ kind = kindSteward) ∨ (st = bootWaitUcode ∧ kind = kindUcode) then
    let m := m.gw F.BOOT_STATUS_STATE bootLoading
    let l : ImageLoading := { kind := kind, addr := m.g F.BOOT_ADDR_ADDR, len := m.g F.BOOT_LEN_BYTES, prev := st, lost := false }
    { m with boot := { m.boot with load := some l } }
  else m.gw F.BOOT_STATUS_RESULT resOrder

/-- Whether the header of an image is valid for a load (R535, R539). -/
def imageHeaderOk (variant kind len : Nat) (b : List Byte) : Bool :=
  let body := natAt b 0x18 4
  let entry := natAt b 0x1C 4
  natAt b 0 4 == 0x59494D31 && natAt b 4 2 == 1 && natAt b 6 1 == kind && natAt b 7 1 == 0 &&
  decide (64 ≤ body) && decide (body ≤ (if kind = kindSteward then 2097152 else 524288)) && body % 64 == 0 &&
  (if kind = kindSteward then entry % 4 == 0 && decide (entry < body) else entry == 0) &&
  natAt b 0x22 94 == 0 && len == 256 + body && natAt b (242 + body) 14 == 0 &&
  decide (1 ≤ variant) && bitOf (natAt b 0x20 2) (variant - 1)

/-- The checks of an image in order, and the image that passes (R539). -/
def Ilpiac.judgeImage (m : Ilpiac) (kind len : Nat) (b : List Byte) : Nat × Option Image :=
  let r := m.copyInUse
  let b := toLen len b
  if !imageHeaderOk r.variant kind len b then (resBadHeader, none)
  else
    let body := natAt b 0x18 4
    let meas := shake256 (b.take (128 + body)) 64
    match r.keys.find? (fun k => keyId k == natAt b 0x10 8) with
    | none => (resUnknownKey, none)
    | some key =>
      if !Config.ed448phVerify key (ascii "Yunate-IMG") meas (bytesAt b (128 + body) 114) then (resBadSignature, none)
      else if natAt b 0xC 4 < (if kind = kindSteward then r.minSvnSteward else r.minSvnUcode) then (resSvnLow, none)
      else (resOk, some { meas := meas, version := natAt b 8 4, svn := natAt b 0xC 4, keyId := natAt b 0x10 8, entry := natAt b 0x1C 4,
                          body := bytesAt b 128 body })

/-- The registers that report an accepted image (R539, R548). -/
def Ilpiac.reportImage (m : Ilpiac) (kind : Nat) (i : Image) : Ilpiac :=
  let s := kind = kindSteward
  let m := m.over (List.range 8) (fun m j => m.gw (if s then F.MEAS_STEWARD_BYTES else F.MEAS_UCODE_BYTES) (natAt i.meas (8 * j) 8) j)
  let m := m.gw (if s then F.IMAGE_STEWARD_VERSION else F.IMAGE_UCODE_VERSION) i.version
  let m := m.gw (if s then F.IMAGE_STEWARD_SVN else F.IMAGE_UCODE_SVN) i.svn
  m.gw (if s then F.KEYID_STEWARD_KEY_ID else F.KEYID_UCODE_KEY_ID) i.keyId

/-- The boot state becomes READY: a held placement commit is checked (R541). -/
def Ilpiac.bootReached (m : Ilpiac) : Ilpiac :=
  let m := m.gw F.BOOT_STATUS_STATE bootReadyState
  if m.boot.heldCommit then Ilpiac.commitNow { m with boot := { m.boot with heldCommit := false } } else m

/-- An accepted image starts the steward, or enables the trellis loader (R537, R539, R540). -/
def Ilpiac.takeImage (m : Ilpiac) (kind : Nat) (i : Image) : Ilpiac :=
  let m := m.reportImage kind i
  if kind = kindSteward then
    let m : Ilpiac := { m with boot := { m.boot with steward := some i, watchdog := true } }
    if m.has F.CAP_PRESENT_TRELLIS then m.gw F.BOOT_STATUS_STATE bootWaitUcode else m.bootReached
  else Ilpiac.bootReached { m with boot := { m.boot with ucode := some i } }

/-- IMAGE_LOAD_DONE (R539): a load that the companion or the Holm port failed, or the verdict of the checks. -/
def Ilpiac.imageLoadDone (m : Ilpiac) (img : ImageBytes) (us : Nat) : Ilpiac :=
  match m.boot.load with
  | none => m
  | some l =>
    let m : Ilpiac := { m with boot := { m.boot with load := none } }
    let m := m.gw F.BOOT_STATUS_LOAD_US (min us (2 ^ 32 - 1))
    let v : Nat × Option Image := match img with
      | none => (resReadFault, none)
      | some b => if l.lost then (resReadFault, none) else m.judgeImage l.kind l.len b
    let m := (m.gw F.BOOT_STATUS_RESULT v.1).gw F.BOOT_STATUS_STATE l.prev
    match v.2 with
    | none => m
    | some i => m.takeImage l.kind i

/-- STEWARD_WATCHDOG_EXPIRY (R540). -/
def Ilpiac.watchdogExpiry (m : Ilpiac) : Ilpiac := if m.boot.watchdog then m.raise srcSteward 0 0 else m

/-! ### Identity (R534, R542) -/

/-- The private key that the PUF gives (R542). -/
def AssemblyCopy.deviceKey (c : AssemblyCopy) : Option (List Byte) :=
  (Config.pufResponse c.puf).map (fun r => shake256 (r ++ ascii "Yunate-DEV") 57)

/-- The valid copy that a start uses, and whether it is copy B. -/
def ModuleRecord.chosen (r : ModuleRecord) : Option (AssemblyCopy × Bool) :=
  if r.copyA.valid then some (r.copyA, false) else if r.copyB.valid then some (r.copyB, true) else none

/-- The assembly record is read: IDENTITY, capabilities, lane taps, and the device key; without a valid copy the boot halts (R534). -/
def Ilpiac.readAssembly (m : Ilpiac) : Ilpiac :=
  match m.record.chosen with
  | none =>
    let m := m.over [0x0, 0x10, 0x18, 0x100000000] (fun m k => m.setReg k 0)
    (m.gw F.BOOT_STATUS_STATE bootHalted).gw F.BOOT_STATUS_RESULT resRecord
  | some (c, b) =>
    let m := m.over (assemblyRegs c) (fun m x => m.setReg x.1 x.2)
    let m := m.over c.taps (fun m x => m.setReg (Blk.lane.at x.1 + 0x10) (BitVec.ofNat 64 (bits x.2 0 21)))
    let m := m.gw F.BOOT_STATUS_RECORD_B (b2n b)
    match c.deviceKey with
    | none => m
    | some k => (m.gw F.BOOT_STATUS_IDENTITY_OK 1).gw F.DEVICE_KEY_ID_KEY_ID (keyId (Config.ed448Public k))

/-! ### ATTEST and CERT_READ (R544 to R546) -/

/-- Bytes 0x000 to 0x17F of an attestation report. -/
def Ilpiac.attestBody (m : Ilpiac) (nonce : List Byte) : List Byte :=
  let word := fun (k : Nat) => leBytes 8 (m.reg k).toNat
  let sw := m.boot.steward
  let uc := m.boot.ucode
  let meas := fun (i : Option Image) => match i with | some x => x.meas | none => List.replicate 64 0
  let num := fun (n : Nat) (f : Image → Nat) (i : Option Image) => leBytes n ((i.map f).getD 0)
  let l := leBytes 4 0x41545431 ++ leBytes 2 1 ++ leBytes 2 0 ++ toLen 32 nonce ++ word 0x0 ++ word 0x8 ++ word 0x10 ++ meas sw ++ meas uc ++
    num 4 (·.version) sw ++ num 4 (·.svn) sw ++ num 4 (·.version) uc ++ num 4 (·.svn) uc ++ num 8 (·.keyId) sw ++ num 8 (·.keyId) uc ++
    word 0x30100 ++ word 0x30108 ++ leBytes 8 m.time.ns ++ word 0x20208 ++ word 0x500E0
  toLen 0x180 l

/-- The 512 bytes of a signed report. -/
def Ilpiac.attestReport (m : Ilpiac) (key nonce : List Byte) : List Byte :=
  let b := m.attestBody nonce
  b ++ toLen 128 (toLen 114 (Config.ed448Sign key (ascii "Yunate-ATT") b))

/-- ATTEST. -/
def Ilpiac.attest (m : Ilpiac) (d : AccDesc) : Ilpiac :=
  let a := d.f 1 0 64
  let fields := d.w0ok && d.zero [(6, 0, 64), (7, 0, 64)] && a % 64 == 0
  let m := if fields then m.noteRefusals [(a, 512, true)] else m
  if m.g F.BOOT_STATUS_IDENTITY_OK = 0 then m.done d stAbsentUnit
  else if !fields ∨ !m.addrOk a 512 true then m.done d stBadDescriptor
  else
    match m.copyInUse.deviceKey with
    | none => m.done d stAbsentUnit
    | some k =>
      let r := m.boardStore a (m.attestReport k (wordBytes ((d.words.drop 2).take 4)))
      r.2.done d (if r.1 then stOk else stMemoryFault) { count := 512 }

/-- CERT_READ. -/
def Ilpiac.certRead (m : Ilpiac) (d : AccDesc) : Ilpiac :=
  let o := d.f 1 0 32
  let n := d.f 1 32 32
  let a := d.f 2 0 64
  let fields := d.w0ok && d.zero [(3, 0, 64), (4, 0, 64), (5, 0, 64), (6, 0, 64), (7, 0, 64)] && a % 64 == 0 &&
    decide (1 ≤ n) && decide (n ≤ 1048576) && decide (o + n ≤ 1048576)
  let m := if fields then m.noteRefusals [(a, n, true)] else m
  if !fields ∨ !m.addrOk a n true then m.done d stBadDescriptor
  else
    let r := m.boardStore a (bytesAt m.record.certs o n)
    r.2.done d (if r.1 then stOk else stMemoryFault) { count := n }

end Sys2Proof.Machine
end

