-- ==== Sys2Proof/Machine/Reset.lean ====
section
/-! DEFINITION. Warm reset, dormant and wake (spec 15: R494 to R497; spec 16: R512), and the state in which power-on and cold reset begin. -/

namespace Sys2Proof.Machine

/-! ### What a warm reset keeps (R495, R496, R512, R547) -/

/-- Registers that a warm reset keeps whole: identity, Holm bases, the committed placement, fabric time and its settings, the lane
reference, lane blocks, retired cells and furrows, broken fault wires, measured power and temperature, SB_IDENT and the staged placement,
and what boot measured. -/
def keepWarm (k : Nat) : Bool :=
  [0x0, 0x8, 0x10, 0x18, 0x200, 0x208, 0x30100, 0x30108, 0x20020, 0x390000, 0x390008, 0x440018, 0x10008, 0x10010, 0x10018, 0x10028,
    0x100000000, 0x100000020, 0x100000028].contains k ||
  (decide (0x30000 ≤ k) && decide (k < 0x30100) && k != 0x30020) ||
  (decide (0x300000 ≤ k) && decide (k < 0x390000)) ||
  (decide (0x400000 ≤ k) && decide (k < 0x440000) && (k % 0x1000 == 8 || (decide (0x40 ≤ k % 0x1000) && decide (k % 0x1000 < 0x88)))) ||
  (decide (0x50040 ≤ k) && decide (k < 0x500E8))

/-- Fault conditions that outlast a warm reset: broken pairs, a brown-out episode that continues and a bank measured too low (R486, R519,
R521). -/
def outlasts (a : Assertion) : Bool := a.wire || a.src == srcBrownout || a.src == srcHoldup

/-- Boot after a warm reset: READY keeps both images, HALTED stays, and any other state waits for the steward image (R537). -/
def Boot.warm (b : Boot) (st : Nat) : Boot :=
  if st = bootReadyState ∨ st = bootHalted then b
  else { b with steward := none, ucode := none, load := none, watchdog := false }

/-- The module as a warm reset leaves it. -/
def Ilpiac.warmState (m : Ilpiac) : Ilpiac :=
  let m := if m.g F.FAULT_FIRST_VALID = 1 then m.logLatch (if m.g F.FAULT_FIRST_STOPPED = 1 then actStop else actNone) else m
  let m := if m.hbmOn then m.hbmStop else m
  let old := m
  let formed := m.formedPorts.map (·.1)
  let st := m.g F.BOOT_STATUS_STATE
  let holm := { m.ctl.holm with wasUp := m.g F.HOLM_STATUS_STATE == holmUp }
  let r := Ilpiac.reset
  let m : Ilpiac := { r with
    regs := m.regs.filter (fun x => keepWarm x.1), clk := m.clk, free := m.free, lanes := m.lanes, links := m.links, time := m.time,
    record := m.record, power := { m.power with faultN := true }, boot := m.boot.warm st, ctl := { r.ctl with holm := holm },
    flt := { r.flt with asserts := m.flt.asserts.filter outlasts },
    sw := { r.sw with nextId := m.sw.nextId, nextOrder := m.sw.nextOrder, nextSetup := m.sw.nextSetup, serials := m.sw.serials, ownSerial := m.sw.ownSerial },
    coll := { r.coll with nextCopy := m.coll.nextCopy },
    hbm := { r.hbm with data := m.hbm.data, poison := m.hbm.poison, errors := m.hbm.errors, lastStart := m.hbm.lastStart } }
  let m := m.gw F.HOLM_STATUS_STATE (old.g F.HOLM_STATUS_STATE)
  let m := m.over old.coll.furrows (fun m x => m.setFx x.1 { FurrowX.init with cellMap := x.2.cellMap })
  let m := m.over ((List.range 64).filter old.furrowPresent) (fun m f =>
    (m.wr .furrow f F.FURROW_STATUS_ACTIVE_CONTEXTS 0).wr .furrow f F.FURROW_STATUS_STATE
      (if old.furrowState f = furrowRetired then furrowRetired else furrowActive))
  let m := m.over ((List.range 12).filter m.stackPresent) (fun m s => m.wr .stack s F.STACK_STATUS_STATE 1)
  let m := m.over formed (fun m p => m.pw p F.PORT_STATUS_STATE 1)
  let m := m.gw F.BOOT_STATUS_STATE (if st = bootReadyState ∨ st = bootHalted then st else bootWaitSteward)
  let m := (m.gw F.BOOT_STATUS_IDENTITY_OK (old.g F.BOOT_STATUS_IDENTITY_OK)).gw F.BOOT_STATUS_RECORD_B (old.g F.BOOT_STATUS_RECORD_B)
  m.ownTrunks

/-- RESET_STATUS after a reset: the kind, whether the sideband asked for it, and the source that was latched (R496, R506). -/
def Ilpiac.resetStatus (m : Ilpiac) (last : Nat) (bySb : Bool) (cause : Nat) : Ilpiac :=
  ((m.gw F.RESET_STATUS_LAST last).gw F.RESET_STATUS_BY_SIDEBAND (b2n bySb)).gw F.RESET_STATUS_CAUSE_SOURCE cause

/-- The source that is latched, 0 for none. -/
def Ilpiac.latchedSource (m : Ilpiac) : Nat := if m.g F.FAULT_FIRST_VALID = 1 then m.g F.FAULT_FIRST_SOURCE else 0

/-- SB_STATE.POWER (R511). -/
def powStarting : Nat := 0
def powRunning : Nat := 1
def powEpisode : Nat := 2
def powStopped : Nat := 3
def powDormant : Nat := 4
def powWarm : Nat := 5

/-- A warm reset begins; register accesses wait from now on (R494). -/
def Ilpiac.warmBegin (m : Ilpiac) (last : Nat) (bySb : Bool) : Ilpiac :=
  let cause := m.latchedSource
  let m := ((m.warmState.resetStatus last bySb cause).gw F.SB_STATE_POWER powWarm).latchNext
  { m with ctl := { m.ctl with resetting := true } }

/-- RESET_CTRL.WARM with its KEY, outside a warm reset (R494). -/
def Ilpiac.warmReset (m : Ilpiac) : Ilpiac := if m.power.phase = .running ∧ !m.ctl.resetting then m.warmBegin 2 false else m

/-- The result of a sideband request; the REQUEST event follows (R511, R512). -/
def Ilpiac.requestResult (m : Ilpiac) (r : Nat) : Ilpiac := (m.gw F.SB_REQUEST_RESULT r).sbEvent 5

/-- Results of a request (R511). -/
def reqDone : Nat := 1
def reqRefused : Nat := 2
def reqBadKey : Nat := 3

/-- WARM_RESET_DONE: the module runs again, or is dormant still; lanes that may run start, formed ports repeat the hello check, a sideband request
ends, and READY is released after a wake. -/
def Ilpiac.warmDone (m : Ilpiac) : Ilpiac :=
  if !m.ctl.resetting then m
  else
    let by_ := m.power.request
    let m : Ilpiac := { m with ctl := { m.ctl with resetting := false, held := [] }, power := { m.power with request := false } }
    let m := m.gw F.SB_STATE_POWER (if m.power.dormant then powDormant else if m.g F.PWR_STATUS_EPISODE = 1 then powEpisode else powRunning)
    let m := if by_ then m.requestResult reqDone else m
    if m.power.dormant then m
    else
      let was := m.power.ready
      let m : Ilpiac := { m with power := { m.power with ready := true } }
      (if was then m else m.sbEvent 7).lanePowerAll.helloAll

/-- Dormant (R497): as a warm reset, with the Holm link and every lane down and READY low. -/
def Ilpiac.enterDormant (m : Ilpiac) : Ilpiac :=
  let last := (m.reg 0x20208).toNat
  let m := m.warmState
  let m : Ilpiac := { m with power := { m.power with dormant := true, ready := false }, ctl := { m.ctl with holm := { m.ctl.holm with wasUp := false } } }
  ((m.lanePowerAll.holmDown.gw F.SB_STATE_POWER powDormant).setReg 0x20208 (BitVec.ofNat 64 last)).requestResult reqDone

/-- A WARM request (R512). -/
def Ilpiac.sbWarm (m : Ilpiac) : Ilpiac := Ilpiac.warmBegin { m with power := { m.power with request := true } } 2 true

/-- A DORMANT request: accepted only while no communicator and no cloche group exists (R497). -/
def Ilpiac.sbDormant (m : Ilpiac) : Ilpiac :=
  if m.power.dormant ∨ !m.coll.comms.isEmpty ∨ !m.groups.isEmpty then m.requestResult reqRefused else m.enterDormant

/-- A WAKE request: leaving dormant acts as a warm reset (R497). -/
def Ilpiac.sbWake (m : Ilpiac) : Ilpiac :=
  if !m.power.dormant then m.requestResult reqRefused
  else Ilpiac.warmBegin { m with power := { m.power with request := true, dormant := false } } 3 true

/-- A write of SB_REQUEST (R511, R512): the lowest request bit is taken; without KEY the request fails, and outside a running module or while a
reset is carried out it is refused. -/
def Ilpiac.sbRequest (m : Ilpiac) (v : Nat) : Ilpiac :=
  if v % 8 = 0 then m
  else if bits v 8 8 ≠ 0xA5 then m.requestResult reqBadKey
  else if m.power.phase ≠ .running ∨ m.ctl.resetting then m.requestResult reqRefused
  else if bitOf v 0 then m.sbWarm
  else if bitOf v 1 then m.sbDormant
  else m.sbWake

/-! ### Power-on and cold reset (R495, R514, R515) -/

/-- Registers that the assembly record in use fills, before boot has read it. -/
def ModuleRecord.regs (r : ModuleRecord) (m : Ilpiac) : Ilpiac :=
  match r.chosen with
  | some (c, _) => m.over (assemblyRegs c) (fun m x => m.setReg x.1 x.2)
  | none => m.over [0x0, 0x10, 0x18, 0x100000000] (fun m k => m.setReg k 0)

/-- Everything as power-on and cold reset leave it but the module record, the strapped SLOT_ID, and, where the steward island stays on, the
sideband address and the journal records in its SRAM. -/
def Ilpiac.blank (m : Ilpiac) (phase : PowerPhase) (island : Bool) : Ilpiac :=
  let r := Ilpiac.reset
  let p : Power := { r.power with phase := phase, slotId := m.power.slotId, dynAddr := if island then m.power.dynAddr else none,
                                  journal := if island then m.power.journal else [] }
  m.record.regs { r with clk := m.clk, free := m.free, record := m.record, power := p }

end Sys2Proof.Machine
end

