-- ==== Sys2Proof/Machine/Power.lean ====
section
/-! DEFINITION. Input power, brown-out, hold-up, throttling and temperature (spec 16: R513 to R530), with power-on and cold reset. -/

namespace Sys2Proof.Machine

/-! ### Issue duty (R518, R519, R527, R530) -/

/-- The module runs. -/
def Ilpiac.isOn (m : Ilpiac) : Bool := m.power.phase == .running

/-- PWR_STATUS.DUTY and THROTTLE_CAUSE follow: the lowest duty that any cause demands applies (R519). -/
def Ilpiac.dutyStat (m : Ilpiac) : Ilpiac :=
  let p := m.power
  let m := m.gw F.PWR_STATUS_DUTY (min p.dutyBrown (min p.dutyLimit p.dutyTherm) - 1)
  m.gw F.PWR_STATUS_THROTTLE_CAUSE (b2n (p.dutyBrown < 16) + 2 * b2n (p.dutyLimit < 16) + 4 * b2n (p.dutyTherm < 16))

/-- A duty in sixteenths, at least one and at most sixteen (R518). -/
def clampDuty (d : Nat) : Nat := max 1 (min 16 d)

/-- The duty that brown-out demands. -/
def Ilpiac.setBrown (m : Ilpiac) (d : Nat) : Ilpiac := Ilpiac.dutyStat { m with power := { m.power with dutyBrown := d } }

/-- The duty that the power limit demands. -/
def Ilpiac.setLimit (m : Ilpiac) (d : Nat) : Ilpiac := Ilpiac.dutyStat { m with power := { m.power with dutyLimit := d } }

/-- The duty that temperature demands. -/
def Ilpiac.setTherm (m : Ilpiac) (d : Nat) : Ilpiac := Ilpiac.dutyStat { m with power := { m.power with dutyTherm := d } }

/-! ### Input voltage and brown-out (R513, R517) -/

/-- The input voltage is reported, and the lowest one of an episode kept (R517, R532). -/
def Ilpiac.vin (m : Ilpiac) (mv : Nat) : Ilpiac :=
  let mv := min mv 65535
  let m := m.gw F.PWR_STATUS_VIN_MV mv
  if m.g F.PWR_STATUS_EPISODE = 1 then
    let low := m.g F.PWR_BROWNOUT_MIN_VIN_MV
    m.gw F.PWR_BROWNOUT_MIN_VIN_MV (if low = 0 then mv else min low mv)
  else m

/-- An episode begins. -/
def Ilpiac.episode (m : Ilpiac) : Ilpiac :=
  let m := (m.gw F.PWR_STATUS_EPISODE 1).gcnt F.PWR_BROWNOUT_EPISODES 1
  let m := if m.g F.SB_STATE_POWER = powRunning then m.gw F.SB_STATE_POWER powEpisode else m
  let m : Ilpiac := { m with power := { m.power with measuring := false } }
  (m.sbEvent 0).raise srcBrownout 0 0

/-- BROWNOUT_START: a dip within an episode belongs to it. -/
def Ilpiac.brownoutStart (m : Ilpiac) (mv duty : Nat) : Ilpiac :=
  if !m.isOn then m
  else
    let m := if m.g F.PWR_STATUS_EPISODE = 1 then m else m.episode
    (m.vin mv).setBrown (clampDuty duty)

/-- BROWNOUT_END: the throttle is lifted, BROWNOUT released and the bank measured again. -/
def Ilpiac.brownoutEnd (m : Ilpiac) (mv us : Nat) : Ilpiac :=
  if !m.isOn ∨ m.g F.PWR_STATUS_EPISODE = 0 then m
  else
    let m := ((m.vin mv).gw F.PWR_STATUS_EPISODE 0).gw F.PWR_BROWNOUT_LAST_US (min us (2 ^ 32 - 1))
    let m := if m.g F.SB_STATE_POWER = powEpisode then m.gw F.SB_STATE_POWER powRunning else m
    let m := (m.setBrown 16).release srcBrownout (fun _ => true)
    { m with power := { m.power with measuring := true } }

/-! ### Hold-up (R520, R521) -/

/-- The energy that enables the journal, in mJ. -/
def journalEnergy : Nat := 1200

/-- What a measurement decides: the journal is enabled and the buffer committed, or refused with source HOLDUP. -/
def Ilpiac.judgeEnergy (m : Ilpiac) (enough : Bool) (mj : Nat) : Ilpiac :=
  if enough then ((m.gw F.PWR_STATUS_JOURNAL_EN 1).journalCommit).release srcHoldup (fun _ => true)
  else (m.gw F.PWR_STATUS_JOURNAL_EN 0).raise srcHoldup 0 mj

/-- HOLDUP, VALID and the HOLDUP event. -/
def Ilpiac.reportBank (m : Ilpiac) (c e esr : Nat) : Ilpiac :=
  (((((m.gw F.HOLDUP_CAP_UF c).gw F.HOLDUP_ENERGY_MJ e).gw F.HOLDUP_ESR_MOHM (min esr 4095)).gw F.HOLDUP_VALID 1).sbEvent 6)

/-- A number that its 16-bit field holds, or a free value where the field cannot hold it. -/
def Ilpiac.fits16 (m : Ilpiac) (x : Option Nat) : Nat × Ilpiac :=
  match x with
  | some v => if v < 2 ^ 16 then (v, m) else let r := m.draw; (r.1 % 2 ^ 16, r.2)
  | none => let r := m.draw; (r.1 % 2 ^ 16, r.2)

/-- A measurement from the bank voltages before and after the draw, in mV (R520). With v0 no larger than v1 capacitance and energy are not
stated, and below 30.0 V the energy is no number of mJ. -/
def Ilpiac.measured (m : Ilpiac) (v0 v1 esr : Nat) : Ilpiac :=
  if v0 ≤ v1 then
    let c := m.fits16 none
    let e := c.2.fits16 none
    (e.2.reportBank c.1 e.1 esr).judgeEnergy (decide (journalEnergy ≤ e.1)) e.1
  else
    let d := v0 - v1
    let mj : Option Nat := if v0 < 30000 then none else some ((v0 * v0 - 900000000) / (5000 * d))
    let c := m.fits16 (some (400000 / d))
    let e := c.2.fits16 mj
    (e.2.reportBank c.1 e.1 esr).judgeEnergy (match mj with | some x => decide (journalEnergy ≤ x) | none => false) e.1

/-- HOLDUP_MEASURE_DONE. -/
def Ilpiac.measureDone (m : Ilpiac) (v0 v1 esr : Nat) : Ilpiac :=
  if !m.power.measuring then m else Ilpiac.measured { m with power := { m.power with measuring := false } } v0 v1 esr

/-- A measurement starts, unless an episode runs. -/
def Ilpiac.measureStart (m : Ilpiac) : Ilpiac :=
  if m.isOn ∧ m.g F.PWR_STATUS_EPISODE = 0 then { m with power := { m.power with measuring := true } } else m

/-- HOLDUP_PERIOD_EXPIRY. -/
def Ilpiac.periodExpiry (m : Ilpiac) : Ilpiac := if m.g F.PWR_CTRL_HOLDUP_PERIOD_H = 0 then m else m.measureStart

/-! ### Power-on, cold reset, power loss (R514 to R516) -/

/-- POWER_ON: the input rises through 47.5 V at a module that is off; during the sequence the input is only reported. -/
def Ilpiac.powerOn (m : Ilpiac) (mv : Nat) : Ilpiac :=
  match m.power.phase with
  | .off => (m.blank .starting false).vin mv
  | .starting => m.vin mv
  | _ => m

/-- The end of the power-on sequence: assembly record, bank and journal, then READY, the Holm lanes and the wait for the steward's image. -/
def Ilpiac.powerUp (m : Ilpiac) (mv v0 v1 esr : Nat) : Ilpiac :=
  let m := m.readAssembly
  let m : Ilpiac := { m with power := { m.power with phase := .running, ready := true } }
  let m := m.gw F.SB_STATE_POWER powRunning
  let m := if mv < 48500 then m.episode else m
  (((m.vin mv).measured v0 v1 esr).sbEvent 7).lanePowerAll

/-- POWER_ON_DONE. -/
def Ilpiac.powerOnDone (m : Ilpiac) (mv v0 v1 esr : Nat) : Ilpiac :=
  if m.power.phase = .starting then (m.resetStatus 0 false 0).powerUp mv v0 v1 esr else m

/-- COLD_RESET, in every powered phase: only the steward island, the sideband and the charger stay on. -/
def Ilpiac.coldReset (m : Ilpiac) : Ilpiac :=
  match m.power.phase with
  | .off | .offOver => m
  | _ => (m.blank .coldHeld true).resetStatus 1 false 0

/-- COLD_RESET_RELEASE. -/
def Ilpiac.coldRelease (m : Ilpiac) (mv v0 v1 esr : Nat) : Ilpiac :=
  if m.power.phase = .coldHeld then m.powerUp mv v0 v1 esr else m

/-- A powered module turns off: the journal is committed when it is enabled, and everything else is lost (R516, R521). -/
def Ilpiac.turnOff (m : Ilpiac) (phase : PowerPhase) : Ilpiac :=
  match m.power.phase with
  | .off | .offOver => m
  | _ => (if m.g F.PWR_STATUS_JOURNAL_EN = 1 then m.journalCommit else m).blank phase false

/-- POWER_LOSS: the input falls through 46.0 V. -/
def Ilpiac.powerLoss (m : Ilpiac) : Ilpiac := m.turnOff .off

/-- OVER_VOLTAGE: the input rises through 60.5 V. -/
def Ilpiac.overVoltage (m : Ilpiac) : Ilpiac := m.turnOff .offOver

/-- OVER_VOLTAGE_RECOVERY: the input has stayed within 47.5–59.0 V for 100 ms. -/
def Ilpiac.recovery (m : Ilpiac) (mv : Nat) : Ilpiac :=
  if m.power.phase = .offOver then (m.blank .starting false).vin mv else m

/-- VIN_THRESHOLD_CROSSING: the counts that it starts or restarts are those whose expiry the rows above are; after an over-voltage an input
below 46.0 V is a loss below 46.0 V (R516, R517). -/
def Ilpiac.crossing (m : Ilpiac) (mv : Nat) : Ilpiac :=
  match m.power.phase with
  | .off => m
  | .offOver => if mv < 46000 then m.blank .off false else m
  | _ => m.vin mv

/-! ### Power limit (R526, R527) -/

/-- The idle figure of the variant, in W (R526). -/
def idleWatts (variant : Nat) : Nat := (([0, 900, 860, 500, 700] : List Nat)[variant]?).getD 0

/-- POWER_LIMIT_SAMPLE: power and voltage are measured, and the duty follows the limits in force: PWR_CTRL.POWER_LIMIT_W, and the brown-out limit
within an episode. -/
def Ilpiac.powerSample (m : Ilpiac) (watts mv duty : Nat) : Ilpiac :=
  if !m.isOn then m
  else
    let m := (m.vin mv).gw F.PWR_STATUS_PIN_W (min watts 4095)
    let limit := m.g F.PWR_CTRL_POWER_LIMIT_W
    let unmet := decide (limit ≠ 0) && decide (limit < idleWatts (m.g F.IDENTITY_VARIANT))
    let m := m.gw F.PWR_STATUS_LIMIT_UNMET (b2n unmet)
    let m := m.setLimit (if limit = 0 then 16 else if unmet then 1 else clampDuty duty)
    if m.g F.PWR_STATUS_EPISODE = 1 then m.setBrown (clampDuty duty) else m

/-- A write of POWER_LIMIT_W = 0 lifts the limit at once (R527, R532). -/
def Ilpiac.limitWritten (m : Ilpiac) : Ilpiac :=
  if m.g F.PWR_CTRL_POWER_LIMIT_W = 0 then (m.gw F.PWR_STATUS_LIMIT_UNMET 0).setLimit 16 else m

/-! ### Temperature (R529, R530) -/

/-- Throttle, trip and hard-trip limits of a sensor group: core dies, I/O dies, HBM, power stage. -/
def tempLimits (g : Nat) : Nat × Nat × Nat :=
  if g = 2 then (85, 95, 105) else if g = 3 then (110, 125, 135) else (95, 110, 120)

/-- The reading of a sensor group in THERM_STATUS. -/
def tempFld (g : Nat) : Fld := ⟨0x10028, 8, 8 * g, 8⟩

/-- A reading is reported. -/
def Ilpiac.setTemp (m : Ilpiac) (g c : Nat) : Ilpiac := m.gw (tempFld g) (min c 255)

/-- Whether a group is at its throttle limit. -/
def Ilpiac.hot (m : Ilpiac) (g : Nat) : Bool := decide ((tempLimits g).1 ≤ m.g (tempFld g))

/-- THERM_STATUS.THROTTLING follows the readings; a group that enters sets the THERMAL event. -/
def Ilpiac.throttleBits (m : Ilpiac) : Ilpiac :=
  let was := m.g F.THERM_STATUS_THROTTLING
  let now := ofBitIdx ((List.range 4).filter m.hot)
  let m := m.gw F.THERM_STATUS_THROTTLING now
  if (bitIdx now 4).any (fun g => !bitOf was g) then m.sbEvent 1 else m

/-- One step of 1/16 down, or, after 10 ms at 3 °C below every limit, up (R530). -/
def Ilpiac.throttleDuty (m : Ilpiac) : Ilpiac :=
  if (List.range 4).any m.hot then
    Ilpiac.setTherm { m with power := { m.power with cool := 0 } } (clampDuty (m.power.dutyTherm - 1))
  else if (List.range 4).all (fun g => decide (m.g (tempFld g) + 3 ≤ (tempLimits g).1)) then
    let m : Ilpiac := { m with power := { m.power with cool := min (m.power.cool + 1) 10 } }
    if m.power.cool = 10 then m.setTherm (clampDuty (m.power.dutyTherm + 1)) else m
  else { m with power := { m.power with cool := 0 } }

/-- THERMAL_THROTTLE: a group reaches its throttle limit. -/
def Ilpiac.thermalThrottle (m : Ilpiac) (g c : Nat) : Ilpiac :=
  if !m.isOn then m
  else
    let was := m.hot g
    let m := (m.setTemp g c).throttleBits
    if m.hot g ∧ !was then Ilpiac.setTherm { m with power := { m.power with cool := 0 } } (clampDuty (m.power.dutyTherm - 1)) else m

/-- THROTTLE_STEP, every 1 ms: readings of core dies, I/O dies, HBM, power stage and bank, then of the stacks; one not given stays. -/
def Ilpiac.throttleStep (m : Ilpiac) (temps : List Nat) : Ilpiac :=
  if !m.isOn then m
  else
    let m := m.over (temps.zipIdx.take 5) (fun m x => m.setTemp x.2 x.1)
    let m := m.over ((temps.drop 5).zipIdx.take 12) (fun m x => if m.stackPresent x.2 then m.wr .stack x.2 F.STACK_STATUS_TEMP_C (min x.1 255) else m)
    let m := m.gw F.THERM_STATUS_BANK_HOT (b2n (70 < m.g F.THERM_STATUS_BANK_C))
    m.throttleBits.throttleDuty

/-- THERMAL_TRIP: THERMAL asserts and takes STOP at once (R490, R491). -/
def Ilpiac.thermalTrip (m : Ilpiac) (g c : Nat) : Ilpiac :=
  if !m.isOn ∨ c < (tempLimits g).2.1 then m else ((m.setTemp g c).throttleBits).raise srcThermal 0 0

/-- HARD_TRIP: every domain but the steward island and the sideband turns off until the input is removed or a cold reset. -/
def Ilpiac.hardTrip (m : Ilpiac) (g c : Nat) : Ilpiac :=
  if !m.isOn ∨ c < (tempLimits g).2.2 then m
  else
    let m := m.setTemp g c
    let m := m.over ((List.range 5).filter m.fnPresent) (fun m n => m.setRun n runStopped)
    let m : Ilpiac := { m with power := { m.power with phase := .hardTrip, ready := false } }
    (m.gw F.SB_STATE_POWER powStopped).lanePowerAll.holmDown

/-! ### The sideband (R510, R512) -/

/-- Whether the sideband answers. -/
def Ilpiac.sidebandOn (m : Ilpiac) : Bool := m.power.phase != .off && m.power.phase != .offOver

/-- A write of SB_EVENTS: event bits written 1 are cleared, and MASK takes its value. -/
def Ilpiac.sbEventsWrite (m : Ilpiac) (v : Nat) : Ilpiac :=
  let e := m.g F.SB_EVENTS_EVENTS
  (m.gw F.SB_EVENTS_EVENTS (e - Nat.land e (v % 256))).gw F.SB_EVENTS_MASK (bits v 8 8)

/-- I3C_DYNAMIC_ADDRESS: SETDASA or ENTDAA. -/
def Ilpiac.dynamicAddress (m : Ilpiac) (a : Nat) : Ilpiac :=
  if m.sidebandOn then { m with power := { m.power with dynAddr := some (a % 128) } } else m

/-! ### Power domains (R523, R524) -/

/-- Whether domain `d` is ON, and whether it is in RETAIN. -/
def Ilpiac.domain (m : Ilpiac) (d : Nat) : Bool × Bool :=
  if !m.isOn then (false, false)
  else if d < 144 then ((List.range 4).any (fun i => m.laneState (4 * d + i) != laneOff), false)
  else if d < 208 then
    let f := d - 144
    let st := m.furrowState f
    if m.furrowPresent f then (st == furrowActive || st == furrowDraining, st == furrowGated) else (false, false)
  else if d < 224 then
    let e := d - 208
    let st := m.rd .engine e F.TRELLIS_STATUS_STATE
    if m.enginePresent e then (st == engReady || st == engRunning || st == engLoading || st == engFaulted, st == engGated || st == engEmpty) else (false, false)
  else if d < 248 then
    let s := (d - 224) / 2
    let st := m.rd .stack s F.STACK_STATUS_STATE
    if m.stackPresent s then (st == 0, st == 1 && d % 2 == 1) else (false, false)
  else if d < 264 then (!m.power.dormant, m.power.dormant)
  else if d < 272 then
    let used := m.coll.ctxs.any (fun x => x.reserved != 0)
    (m.running fnAdmission || used, !(m.running fnAdmission || used))
  else (false, false)

/-- PD_STATEi and PD_RETAINi. -/
def Ilpiac.pdState (m : Ilpiac) (i : Nat) : Nat := ofBitIdx ((List.range 64).filter (fun b => (m.domain (64 * i + b)).1))
def Ilpiac.pdRetain (m : Ilpiac) (i : Nat) : Nat := ofBitIdx ((List.range 64).filter (fun b => (m.domain (64 * i + b)).2))

end Sys2Proof.Machine
end

