-- ==== Sys2Proof/Machine/Flags.lean ====
section
/-! DEFINITION. Status and flag registers whose value follows from other state when they are read: copies on the sideband, fault lines, waiting
records, the selected sync counter, fabric time and power domains (R433, R436, R450, R506, R511, R532, R306). -/

namespace Sys2Proof.Machine

/-- SB_STATE (R511). -/
def Ilpiac.sbState (m : Ilpiac) : Nat :=
  m.g F.SB_STATE_POWER + m.g F.HEADLESS_ACTIVE * 2 ^ 3 + m.g F.FAULT_FIRST_VALID * 2 ^ 4 + m.g F.FAULT_FIRST_SOURCE * 2 ^ 5 +
    m.g F.RESET_STATUS_LAST * 2 ^ 13 + m.g F.PWR_STATUS_JOURNAL_EN * 2 ^ 16

/-- SB_COMMIT: the bit itself reads 0, beside REFUSE_CAUSE and GEN (R511). -/
def Ilpiac.sbCommit (m : Ilpiac) : Nat := m.g F.PLACEMENT_STATUS_REFUSE_CAUSE * 2 ^ 8 + m.g F.PLACEMENT_EXTENT_GEN * 2 ^ 32

/-- SYNC_VAL: value, sticky flags and waiters of the counter that SYNC_SEL names (R450). -/
def Ilpiac.syncView (m : Ilpiac) : Nat :=
  let n := m.g F.SYNC_SEL_COUNTER
  m.cval n + b2n (m.cflag F.SYNC_OVF_FLAGS n) * 2 ^ 32 + b2n (m.cflag F.SYNC_UNF_FLAGS n) * 2 ^ 33 +
    ((m.sync.waits.filter (fun w => w.counter == n)).length % 2 ^ 17) * 2 ^ 34

/-- HEADLESS with the completion records that wait (R506). -/
def Ilpiac.headlessView (m : Ilpiac) : Nat := bits (m.reg 0x20110).toNat 0 32 + min m.ctl.cpl.length (2 ^ 32 - 1) * 2 ^ 32

/-- POOL_CFG0: without SPILL its FALLBACK reads 0xF (R306). -/
def Ilpiac.poolView (m : Ilpiac) : Nat :=
  let v := (m.reg 0x740080).toNat
  if m.has F.CAP_PRESENT_SPILL then v else setBits v 32 4 0xF

/-- The value that a read of the register at a key returns. -/
def Ilpiac.view (m : Ilpiac) (k : Nat) : Word :=
  if k = 0x30000 then BitVec.ofNat 64 m.time.ns
  else if k = 0x30008 then BitVec.ofNat 64 m.time.frac
  else if k = 0x20018 then BitVec.ofNat 64 m.faultLines
  else if k = 0x20110 then BitVec.ofNat 64 m.headlessView
  else if k = 0x40018 then BitVec.ofNat 64 m.syncView
  else if k = 0x740080 then BitVec.ofNat 64 m.poolView
  else if 0x10040 ≤ k ∧ k < 0x10068 then BitVec.ofNat 64 (m.pdState ((k - 0x10040) / 8))
  else if 0x10080 ≤ k ∧ k < 0x100A8 then BitVec.ofNat 64 (m.pdRetain ((k - 0x10080) / 8))
  else if k = 0x100000000 then m.reg 0
  else if k = 0x100000008 then BitVec.ofNat 64 m.sbState
  else if k = 0x100000030 then BitVec.ofNat 64 m.sbCommit
  else if k = 0x100000040 then m.reg 0x10008
  else if k = 0x100000048 then m.reg 0x10028
  else m.reg k

end Sys2Proof.Machine
end

