-- ==== Sys2Proof/Machine/Registers.lean ====
section
/-! DEFINITION. Accesses to the register window and the sideband registers (spec 00: R14 to R20, R549; R5, R494, R541), and what a write of each
register brings about. -/

namespace Sys2Proof.Machine

/-! ### Which registers respond (R5, R14, R541) -/

/-- Whether a window offset lies in a region that responds before the boot is READY (R541): global, power, fault, fabric time, boot. -/
def bootRegion (k : Nat) : Bool := decide (k < 0x40000) || (decide (0x50000 ≤ k) && decide (k < 0x60000))

/-- Whether the unit of a register is present (R5, R306). -/
def Ilpiac.unitHere (m : Ilpiac) (k : Nat) : Bool :=
  let l := locate k
  match l.1 with
  | .dport => m.portPresent l.2.1
  | .tport => m.portPresent (256 + l.2.1)
  | .lane => let lp := lanePort l.2.1; lp == holmPort || m.portPresent lp
  | .furrow => m.furrowPresent l.2.1
  | .engine => m.enginePresent l.2.1
  | .channel => m.channelPresent l.2.1
  | .stack => m.stackPresent l.2.1
  | .dqueue => m.portPresent (l.2.1 / 256)
  | .tqueue => m.portPresent (256 + l.2.1 / 1024)
  | .hose => m.has F.CAP_PRESENT_TRUNK
  | .dring | .cring => true
  | .glob => if 0x740000 ≤ k ∧ k < 0x740100 ∧ k ≠ 0x740080 ∧ k ≠ 0x7400C0 then m.has F.CAP_PRESENT_HBM else true

/-- Whether an offset responds. -/
def Ilpiac.responds (m : Ilpiac) (k : Nat) : Bool := (m.bootReady || bootRegion k) && m.unitHere k

/-! ### RWS owners (R19) -/

/-- Whether the function that owns the RWS fields of a register is stopped (chapters 04, 06, 08, 09, 12, 14, 15). -/
def Ilpiac.ownerStopped (m : Ilpiac) (k : Nat) : Bool :=
  let l := locate k
  let n := l.2.1
  match l.1 with
  | .dport | .tport => m.fnStopped fnSwitch
  | .lane =>
    if l.2.2 = 0x100 then (lanesOf (lanePort n)).all (fun i => m.laneState i == laneOff)
    else m.lg n F.LANE_CTRL_ENABLE == 0 && m.laneState n == laneOff
  | .furrow => m.rd .furrow n F.FURROW_CTRL_ENABLE == 0 && m.furrowState n == furrowGated
  | .engine =>
    let st := m.engState n
    m.rd .engine n F.TRELLIS_CTRL_ENABLE == 0 && (st == engEmpty || st == engFaulted || st == engGated)
  | .channel => m.fnStopped fnHbm
  | .dring => m.rd .dring n F.DR_CTRL_ENABLE == 0
  | .cring => m.rd .cring n F.CR_CTRL_ENABLE == 0
  | .stack | .dqueue | .tqueue | .hose => true
  | .glob =>
    if k / 0x10000 = 0x28 then (if 0x280100 ≤ k then m.g F.SIEVE_CTRL_ENABLE == 0 else m.fnStopped fnSwitch)
    else if k / 0x10000 = 0x29 then m.fnStopped fnSwitch
    else if k / 0x10000 = 0x44 then m.fnStopped fnAdmission
    else if k / 0x10000 = 0x74 then m.fnStopped fnHbm
    else if k / 0x10000 = 4 then m.fnStopped fnSync
    else if k = 0x20300 then m.fnStopped fnSwitch
    else if k / 0x10000 = 3 then m.fnStopped fnTime
    else true

/-! ### A write, field by field (R18, R19) -/

/-- What a field holds after a write of `v` to the bits of `mask`: the new value, and whether a change was refused. -/
def FSpec.written (f : FSpec) (stopped : Bool) (old v mask : Nat) : Nat × Bool :=
  let o := bits old f.lo f.w
  let k := bits mask f.lo f.w
  let w := Nat.land (bits v f.lo f.w) k
  let x := Nat.lor (Nat.land o (2 ^ f.w - 1 - k)) w
  match f.ty with
  | .rw => (x, false)
  | .ro | .rc => (o, false)
  | .w1c => (o - Nat.land o w, false)
  | .w1s => (Nat.lor o w, false)
  | .rws => if stopped then (x, false) else (o, x != o)

/-- What a register holds after a write, and whether a field refused its change. -/
def RegDef.written (d : RegDef) (stopped : Bool) (old v mask : Nat) : Nat × Bool :=
  d.fields.foldl (fun a f => let x := f.written stopped old v mask; (setBits a.1 f.lo f.w x.1, a.2 || x.2)) (old, false)

/-- Bits that a register holds or takes otherwise than its fields alone say: addresses whose low bits read 0 (R338, R548), POOL_CFG0 and RESERVE_MODE
(R167, R306), LANE_PORT (R413, R417), and ring ENABLE bits, which R470 and R474 decide. -/
def Ilpiac.constrained (m : Ilpiac) (k old v : Nat) : Nat :=
  let l := locate k
  if k = 0x50008 then v / 64 * 64
  else if k = 0x280110 then v / 4096 * 4096
  else if k = 0x740080 then (if m.has F.CAP_PRESENT_SPILL then setBits old 32 4 (bits v 32 4) else old)
  else if k = 0x440000 then (if m.has F.CAP_PRESENT_SPILL then v else setBits v 0 1 0)
  else if l.1 = .lane ∧ l.2.2 = 0x100 then
    (if !lanePortHere l.2.1 then 0 else if 512 ≤ l.2.1 then setBits v 18 14 0 else v)
  else if (l.1 = .dring ∨ l.1 = .cring) ∧ l.2.2 = 0x10 then setBits v 0 1 old
  else v

/-- LANE_TXEQ: the taps may not exceed 63 together (R399). -/
def tapsOver (v : Nat) : Bool := decide (63 < bits v 0 5 + bits v 5 5 + bits v 10 6 + bits v 16 5)

/-! ### What a write brings about -/

/-- A pending software map-out is taken (R279, R299). -/
def Ilpiac.softMapout (m : Ilpiac) (c : Nat) : Ilpiac :=
  if m.hbmOn ∧ m.rd .channel c F.CH_CTRL_MAPOUT = 1 then (m.wr .channel c F.CH_CTRL_MAPOUT 0).failChannel c 4 else m

/-- Map-outs that were written while the HBM function was stopped. -/
def Ilpiac.softMapouts (m : Ilpiac) : Ilpiac :=
  m.over ((List.range 768).filter (fun c => m.channelPresent c && m.rd .channel c F.CH_CTRL_MAPOUT == 1)) (fun m c => m.softMapout c)

/-- Effects of a write to a register at a fixed offset, once its fields hold their new values; `old` is the value before. -/
def Ilpiac.globEffect (m : Ilpiac) (k old : Nat) : Ilpiac :=
  if k = 0x10000 then
    let m := m.limitWritten
    if m.g F.PWR_CTRL_HOLDUP_RECHECK = 1 then (m.gw F.PWR_CTRL_HOLDUP_RECHECK 0).measureStart else m
  else if k = 0x20300 then (if m.g F.TWIN_CTRL_ENABLE = bits old 0 1 then m else m.twinEnabled (bits old 0 1))
  else if k = 0x30010 then (if m.g F.TIME_CTRL_APPLY_SET = 1 then (m.gw F.TIME_CTRL_APPLY_SET 0).applySet else m)
  else if k = 0x50000 then (if m.g F.BOOT_CTRL_LOAD = 1 then (m.gw F.BOOT_CTRL_LOAD 0).imageLoad else m)
  else if k = 0x280100 then
    (if m.g F.SIEVE_CTRL_ENABLE = 1 ∧ bits old 0 1 = 0 then Ilpiac.gw { m with sw := { m.sw with sample := 0 } } F.SIEVE_PROD_PROD 0 else m)
  else if k = 0x290000 then (if m.g F.ROUTE_CTRL_AUTO_REROUTE = 1 ∧ bits old 24 1 = 0 then m.checkHoses else m)
  else if k = 0x390000 then (if m.g F.REF_CTRL_SOURCE = bits old 0 3 then m else m.refSource)
  else m

/-- Effects of a write to a register of a port, queue, lane, furrow, engine or channel. -/
def Ilpiac.unitEffect (m : Ilpiac) (b : Blk) (n off old : Nat) : Ilpiac :=
  match b with
  | .dport | .tport =>
    let p := if b = .dport then n else 256 + n
    if off = 0x40 then m.portShaped p (bits old 0 22)
    else if 0x100 ≤ off ∧ (off - 0x100) % 24 = 0 ∧ b = .dport then
      (let i := (off - 0x100) / 24; if m.pg p F.POL_CFG_MODE i = bits old 0 2 then m else m.policerFull p i)
    else m
  | .dqueue => if off = 0 then m.queueShaped (n / 256 * 1024 + n % 256) (bits old 0 22) else m
  | .tqueue => if off = 0 then m.queueShaped ((256 + n / 1024) * 1024 + n % 1024) (bits old 0 22) else m
  | .lane =>
    if off = 0 then
      let m := if m.lg n F.LANE_CTRL_CLEAR_HOLD = 1 then (m.lw n F.LANE_CTRL_CLEAR_HOLD 0).clearHold n else m
      if m.lg n F.LANE_CTRL_ENABLE = bits old 0 1 then m
      else if m.lg n F.LANE_CTRL_ENABLE = 1 then m.laneEnable n else m.laneDisable n
    else if off = 0x50 then (if m.lg n F.LANE_INJECT_ARM = 1 then m.injectLane n else m)
    else m
  | .furrow =>
    if off = 0 then
      let m := if m.rd .furrow n F.FURROW_CTRL_RETIRE = 1 ∧ bits old 1 1 = 0 then m.retireWrite n else m
      if m.rd .furrow n F.FURROW_CTRL_ENABLE = bits old 0 1 then m
      else if m.rd .furrow n F.FURROW_CTRL_ENABLE = 1 then m.enableFurrow n else m.disableFurrow n
    else m
  | .engine =>
    if off = 0 then
      let m := if m.rd .engine n F.TRELLIS_CTRL_ENABLE = bits old 0 1 then m
        else if m.rd .engine n F.TRELLIS_CTRL_ENABLE = 1 then m.enableEngine n else m.disableEngine n
      if m.rd .engine n F.TRELLIS_CTRL_CLEAR_FAULT = 1 then (m.wr .engine n F.TRELLIS_CTRL_CLEAR_FAULT 0).clearEngineFault n else m
    else m
  | .channel =>
    if off = 0 then m.softMapout n
    else if off = 0x18 ∧ bitOf old 32 ∧ m.rd .channel n F.CH_LAST_ERROR_VALID = 0 then m.release srcHbmUe (· == n)
    else m
  | _ => m

/-- A write of RESET_CTRL (R494): WARM with KEY = 0xA5 in the same write, function resets, and a link reset of PORT. -/
def Ilpiac.resetCtrl (m : Ilpiac) (v : Nat) : Ilpiac :=
  if bitOf v 5 ∧ bits v 8 8 = 0xA5 then m.warmReset
  else
    let m := m.over ((bitIdx v 5).filter m.fnPresent) (fun m n => m.functionReset n)
    if bitOf v 26 then m.linkReset (m.g F.RESET_CTRL_PORT) else m

/-- A write whose fields are stored by R18 and R19, with its effects. -/
def Ilpiac.storeReg (m : Ilpiac) (k v mask : Nat) : Ilpiac :=
  let l := locate k
  match regDefAt l.1 l.2.2 with
  | none => m
  | some (d, _) =>
    let old := (m.reg k).toNat
    let x := d.written (m.ownerStopped k) old v mask
    if l.1 = .lane ∧ l.2.2 = 0x10 ∧ tapsOver x.1 then m.regAccess k
    else
      let m := if x.2 then m.regAccess k else m
      let m := m.setReg k (BitVec.ofNat 64 (m.constrained k old x.1))
      if l.1 = .dring ∧ l.2.2 = 0x10 ∧ bitOf mask 0 then (if bitOf v 0 then m.ringEnable l.2.1 else m.ringDisable l.2.1)
      else if l.1 = .cring ∧ l.2.2 = 0x10 ∧ bitOf mask 0 then (if bitOf v 0 then m.cringEnable l.2.1 else m.cringDisable l.2.1)
      else (m.globEffect k old).unitEffect l.1 l.2.1 l.2.2 old

/-- The bits of `mask` taken from `v`, the others from `old`. -/
def merge (old v mask : Nat) : Nat := Nat.lor (Nat.land old (2 ^ 64 - 1 - Nat.land mask (2 ^ 64 - 1))) (Nat.land v mask)

/-- A write of the bits of `mask` of the register at a window offset. Registers whose write is an operation of its own come first: RUN_CTRL
(R462), IRQ_MASK (R476), FAULT_FIRST (R490), HEADLESS (R501), RESET_CTRL (R494), SYNC_VAL (R433), and the doorbells (R466, R473). -/
def Ilpiac.writeReg (m : Ilpiac) (k v mask : Nat) : Ilpiac :=
  let l := locate k
  let w := Nat.land v mask
  if k = 0x100 then m.over ((List.range 5).filter (bitOf mask)) (fun m n => if bitOf v n then m.runStart n else m.runStop n)
  else if k = 0x308 then m.maskWrite (bits (merge (m.reg k).toNat v mask) 0 10)
  else if k = 0x20008 then
    (let m := if bitOf w 9 then m.gw F.FAULT_FIRST_OVERFLOW 0 else m
     if bitOf w 8 then m.faultClear else m)
  else if k = 0x20110 then (if bitOf w 3 then m.resume else m)
  else if k = 0x20200 then
    (let m := m.gw F.RESET_CTRL_PORT (bits (merge (m.reg k).toNat v mask) 16 10)
     m.resetCtrl w)
  else if k = 0x40018 then (if bits mask 0 32 = 0 then m else m.syncValWrite (bits (merge m.syncView v mask) 0 32))
  else if l.1 = .dring ∧ l.2.2 = 0 then m.drDoorbell l.2.1 (bits (merge (m.reg k).toNat v mask) 0 32)
  else if l.1 = .cring ∧ l.2.2 = 0 then m.crDoorbell l.2.1 (bits (merge (m.reg k).toNat v mask) 0 32 + b2n (bitOf w 32) * 2 ^ 32)
  else m.storeReg k v mask

/-! ### Reads (R15, R18, R549) -/

/-- RC fields of a register that lie wholly at or above bit `lo` are cleared. -/
def Ilpiac.clearRc (m : Ilpiac) (k lo : Nat) : Ilpiac :=
  match regDefOf k with
  | none => m
  | some (d, _) =>
    let v := (m.reg k).toNat
    let x := d.fields.foldl (fun a f => if f.ty = .rc ∧ lo ≤ f.lo then setBits a f.lo f.w 0 else a) v
    if x = v then m else m.setReg k (BitVec.ofNat 64 x)

/-- The latched upper half of a register is dropped by any other access (R549). -/
def Ilpiac.unlatch (m : Ilpiac) (k : Nat) : Ilpiac := { m with ctl := { m.ctl with latchHi := Map.erase m.ctl.latchHi k } }

/-- What is read is returned to the companion. -/
def Ilpiac.reply (m : Ilpiac) (n v : Nat) : Ilpiac := m.send (.regData (leBytes n v))

/-- A 64-bit read. -/
def Ilpiac.read64 (m : Ilpiac) (k : Nat) : Ilpiac :=
  let v := (m.view k).toNat
  ((m.unlatch k).clearRc k 0).reply 8 v

/-- A 32-bit read of the lower half: the upper half of the same value is latched. -/
def Ilpiac.readLow (m : Ilpiac) (k : Nat) : Ilpiac :=
  let v := (m.view k).toNat
  let m := (m.unlatch k).clearRc k 0
  Ilpiac.reply { m with ctl := { m.ctl with latchHi := Map.ins m.ctl.latchHi k (v / 2 ^ 32) } } 4 (v % 2 ^ 32)

/-- A 32-bit read of the upper half: the latched one, or the current one with the RC fields that lie wholly in it. -/
def Ilpiac.readHigh (m : Ilpiac) (k : Nat) : Ilpiac :=
  match m.ctl.latchHi.find? (fun x => x.1 == k) with
  | some x => (m.unlatch k).reply 4 x.2
  | none => (m.clearRc k 32).reply 4 ((m.view k).toNat / 2 ^ 32)

/-! ### Accesses -/

/-- The pending lower half of a register is dropped. -/
def Ilpiac.unpend (m : Ilpiac) (k : Nat) : Ilpiac := { m with ctl := { m.ctl with pendLo := Map.erase m.ctl.pendLo k } }

/-- A register access that R15 does not allow: all ones, no effect, a register-access fault. -/
def Ilpiac.badAccess (m : Ilpiac) (off : Nat) (write : Bool) (size : Nat := 8) : Ilpiac :=
  if !(m.bootReady || bootRegion off) then (if write then m else m.reply size 0)
  else
    let m := m.regAccess off
    if write then m else m.reply size (2 ^ (8 * size) - 1)

/-- One half of a register is written (R16). -/
def Ilpiac.halfWrite (m : Ilpiac) (k : Nat) (upper : Bool) (v : Nat) : Ilpiac :=
  let m := m.unlatch k
  if !upper then { m with ctl := { m.ctl with pendLo := Map.ins (Map.erase m.ctl.pendLo k) k v } }
  else
    match m.ctl.pendLo.find? (fun x => x.1 == k) with
    | some x => (m.unpend k).writeReg k (x.2 + v * 2 ^ 32) (2 ^ 64 - 1)
    | none => m.writeReg k (v * 2 ^ 32) (2 ^ 64 - 2 ^ 32)

/-- An access to the register window by its kind. Offsets outside the window are not its own. -/
def Ilpiac.doAccess (m : Ilpiac) (h : HeldAccess) : Ilpiac :=
  match h with
  | .write off v =>
    if 2 ^ 26 ≤ off then m
    else if off % 8 ≠ 0 then m.badAccess off true
    else if !m.responds off then m
    else ((m.unlatch off).unpend off).writeReg off v.toNat (2 ^ 64 - 1)
  | .field off lo w v =>
    if 2 ^ 26 ≤ off then m
    else if !m.responds off then m
    else ((m.unlatch off).unpend off).writeReg off (v % 2 ^ w * 2 ^ lo) ((2 ^ w - 1) * 2 ^ lo)
  | .half off upper v =>
    if 2 ^ 26 ≤ off then m
    else if off % 8 ≠ 0 then m.badAccess off true
    else if !m.responds off then m
    else m.halfWrite off upper v.toNat
  | .read off size =>
    if 2 ^ 26 ≤ off then m
    else if (size = 8 ∧ off % 8 ≠ 0) ∨ off % 4 ≠ 0 then m.badAccess off false size
    else if !m.responds (off / 8 * 8) then m.reply size 0
    else if size = 8 then m.read64 off
    else if off % 8 = 0 then m.readLow off
    else m.readHigh (off - 4)
  | .misaligned off write => if 2 ^ 26 ≤ off then m else m.badAccess off write

/-- An access arrives over the Holm link: refused before Assign (R457), held during a warm reset (R494). -/
def Ilpiac.access (m : Ilpiac) (h : HeldAccess) : Ilpiac :=
  if m.g F.HOLM_STATUS_STATE ≠ holmUp then m
  else if m.ctl.resetting then { m with ctl := { m.ctl with held := m.ctl.held ++ [h] } }
  else m.doAccess h

/-- A write of one field. -/
def Ilpiac.fieldAccess (m : Ilpiac) (b : Blk) (n : Nat) (f : Fld) (v : Nat) : Ilpiac := m.access (.field (f.key b n 0) f.lo f.w v)

/-- WARM_RESET_DONE, and the accesses that waited for it. -/
def Ilpiac.warmResetDone (m : Ilpiac) : Ilpiac :=
  let l := m.ctl.held
  let on := m.ctl.resetting
  let m := m.warmDone
  if on then m.over l (fun m h => m.access h) else m

/-! ### The sideband (R510, R511) -/

/-- A sideband write of the register at an offset. -/
def Ilpiac.sbWrite (m : Ilpiac) (off v : Nat) : Ilpiac :=
  if !m.sidebandOn then m
  else if off = 0x10 then m.sbRequest v
  else if off = 0x18 then m.sbEventsWrite v
  else if off = 0x20 then m.gw F.SB_STAGE0_STAGE v
  else if off = 0x28 then m.gw F.SB_STAGE1_EXTENT v
  else if off = 0x30 then (if bitOf v 0 then m.placementCommit else m)
  else m

end Sys2Proof.Machine
end

