-- ==== Sys2Proof/Machine/Rx.lean ====
section
/-! DEFINITION. Packets that arrive (spec 09: R307 to R333; 11: R362, R367, R373 to R378; 10: R353 to R355): the checks at a port, the landing
cells, where a landed packet moves on to, and member atomic requests. -/

namespace Sys2Proof.Machine

/-! ### Member atomic requests (R321, R322) -/

/-- Results of AMO_RSP. -/
def amoDone : Nat := 0
def amoPoison : Nat := 1
def amoRefused : Nat := 2
def amoStale : Nat := 3

/-- AMO_RSP in the class of the request. -/
def Ilpiac.amoRsp (m : Ilpiac) (port tc tag result : Nat) (body : List Byte := []) : Packet :=
  Packet.make 0x11 tc (m.bed * 256 + port) false m.bed true [tag + result * 2 ^ 32] body

/-- Whether an AMO_REQ is one that the adders refuse. -/
def Ilpiac.amoBad (m : Ilpiac) (p : Packet) : Bool :=
  let op := p.f 2 0 4
  let n := p.f 2 6 7
  !m.has F.CAP_PRESENT_HBM || !p.dstIlp || p.dst != m.bed || op == 0x6 || !amoShape op (p.h 1) n || p.body.length != n ||
    !m.inDirect (p.h 1) n

/-- AMO_REQ from the member at a downlink port: a kept response is sent again, a stale tag has no effect, and an applied request keeps its
response. FETCH_ADD returns the old bytes. -/
def Ilpiac.amoReq (m : Ilpiac) (port : Nat) (p : Packet) : Ilpiac :=
  let tag := p.f 2 32 32
  let op := p.f 2 0 4
  let x := m.port port
  match x.amoKept.find? (fun k => k.tag == tag) with
  | some k => m.emitShared port k.rsp
  | none =>
    if 16 < tagBelow (x.amoLatest.getD tag) tag then m.emitShared port (m.amoRsp port p.tc tag amoStale)
    else
      let latest := newerTag x.amoLatest tag
      let m := m.setPort port { x with amoLatest := some latest }
      if m.amoBad p then m.emitShared port (m.amoRsp port p.tc tag amoRefused)
      else
        match m.memAdd op (p.h 1) (BitVec.ofNat 8 (p.f 2 13 8)) p.body with
        | (none, m) => m.emitShared port (m.amoRsp port p.tc tag amoPoison)
        | (some old, m) =>
          let r := m.amoRsp port p.tc tag amoDone (if op = 0x8 ∨ op = 0x9 then old else [])
          let x := m.port port
          (m.setPort port { x with amoKept := keepRsp x.amoKept latest tag r }).emitShared port r

/-! ### LINK (R314) -/

/-- LINK from the sending end: cells that were lost return to FREED. -/
def Ilpiac.linkSent (m : Ilpiac) (port : Nat) (p : Packet) : Ilpiac :=
  m.over (List.range 8) (fun m c =>
    let x := m.cls port c
    let s := linkCount p c
    m.setCls port c { x with freed := (x.freed + (s + 2 ^ 32 - x.received)) % 2 ^ 32, received := s })

/-- LINK from the receiving end: the partner's FREED counts. -/
def Ilpiac.linkFreed (m : Ilpiac) (port : Nat) (p : Packet) : Ilpiac :=
  m.waking port (fun m => m.over (List.range 8) (fun m c => m.setCls port c { m.cls port c with pFreed := linkCount p c }))

/-- A LINK packet: a member is the sending end; on a trunk DST_ILP = 1 marks FREED counts (assumption 6). -/
def Ilpiac.linkRx (m : Ilpiac) (port : Nat) (p : Packet) : Ilpiac :=
  if isTrunk port ∧ p.dstIlp then m.linkFreed port p else m.linkSent port p

/-! ### Checks at a port (R310, R331, R339, R461) -/

/-- Whether SRC is what the port's partner may write there. -/
def Ilpiac.srcOk (m : Ilpiac) (port : Nat) (p : Packet) : Bool :=
  if isTrunk port || p.ty == 0x01 then true
  else if m.isTwin port then p.srcIlp && p.src == m.bed
  else if p.ty == 0x19 then p.srcIlp && p.dstIlp && p.src == m.bed && p.dst == m.bed
  else !p.srcIlp && p.src == m.bed * 256 + port

/-- Whether DST names a destination of the kind that the type has. -/
def Ilpiac.dstOk (m : Ilpiac) (port : Nat) (p : Packet) : Bool :=
  if p.ty == 0x18 then !p.dstIlp
  else if isTrunk port then p.dstIlp || decide (p.ty < 0x60)
  else if [0x08, 0x09, 0x4A].contains p.ty then p.dstIlp && p.dst == m.bed
  else true

/-- Whether a packet is refused under R310 or for its SRC. -/
def Ilpiac.refuses (m : Ilpiac) (port : Nat) (p : Packet) : Bool :=
  !(typeListed (isTrunk port) (m.isTwin port) p.ty && p.h0Ok && p.zeroOk && m.srcOk port p && m.dstOk port p)

/-- Whether a port discards a packet for its state: a fenced port carries only HELLO and LINK, and while SWITCH does not run only HELLO,
LINK and time packets enter. -/
def Ilpiac.portShut (m : Ilpiac) (port : Nat) (p : Packet) : Bool :=
  (m.portFenced port && p.ty != 0x01 && p.ty != 0x02) || (!m.running 0 && !([0x01, 0x02, 0x48, 0x49, 0x4A].contains p.ty))

/-- Whether a packet needs landing cells (R313). -/
def landsOn (port : Nat) (p : Packet) : Bool := if isTrunk port then !controlType p.ty && !hoseType p.ty else memberCredited p.ty

/-- A packet that needs a link credit lands: RECEIVED counts it, and its cells are taken, or there are too few of them. -/
def Ilpiac.landIn (m : Ilpiac) (port : Nat) (p : Packet) : Option Nat × Ilpiac :=
  let x := m.cls port p.tc
  let x := { x with received := (x.received + p.cells) % 2 ^ 32 }
  if m.landCells port p.tc < x.landUsed + p.cells then (none, m.setCls port p.tc x)
  else
    let s := (m.setCls port p.tc { x with landUsed := x.landUsed + p.cells }).store p .land port false (some (port, p.tc))
    (some s.1, s.2)

/-! ### Egress of PT and cut-through (R323, R333, R362) -/

/-- The port on which a PT packet leaves. -/
def Ilpiac.ptPort (m : Ilpiac) (p : Packet) : Option Nat :=
  if p.dstBed = m.bed then some (p.dst % 256) else (m.route p.dstBed p.srcBed).map (fun k => 256 + k)

/-- Whether cut-through takes a packet from one port to a queue of another (R333): the egress port has no more lanes at work, it is idle, every
queue of the packet's class there is empty, the packet waits for no cell, and the scheduler would select it at once (R344). -/
def Ilpiac.cutsThrough (m : Ilpiac) (port out q : Nat) (p : Packet) : Bool :=
  decide (popCount (m.txSet out) 8 ≤ popCount (m.rxSet port) 8) && (m.port out).tx.isNone && !m.txOff out &&
  (m.portQueues out).all (fun k => m.classOf out (k % 1024) != m.classOf out q) && m.mayCarry out p.ty &&
  (m.pg out F.PORT_SHAPE_RATE == 0 || decide (0 ≤ (m.port out).tokens)) &&
  ((isTrunk port && isTrunk out) || decide (p.cells ≤ m.g F.SW_BUF_STATUS_SHARED_FREE)) &&
  (let s := m.store p .land port
   (s.2.enqAt out q s.1).selectQ out == some (out * 1024 + q))

/-- A packet whose CRC or length is wrong is discarded; a PT packet that has begun to leave by cut-through leaves stomped (R308). -/
def Ilpiac.badCrc (m : Ilpiac) (port : Nat) (p : Packet) : Ilpiac :=
  let m := m.crcDiscard port p
  if p.ty ≠ 0x18 then m
  else
    match m.ptPort p with
    | none => m
    | some o =>
      if m.cutsThrough port o (m.queueFor o p.tc port) p then
        let s := m.store p (if isTrunk port && isTrunk o then .land else .shared) port false none none true
        (s.2.enq o s.1).reap s.1
      else m

/-! ### Where a landed packet moves on to (R328, R362, R367) -/

/-- A PT packet: to SHARED for its port, or discarded where its member cannot have it or no route exists. -/
def Ilpiac.ptMove (m : Ilpiac) (port id : Nat) (p : Packet) : Option Ilpiac :=
  if p.dstBed = m.bed then
    let o := p.dst % 256
    if !m.portUp o ∨ m.portFenced o ∨ m.isTwin o then some (m.misaddressed port p) else m.toShared id o
  else
    match m.route p.dstBed p.srcBed with
    | none => some (m.gcnt F.ROUTE_COUNTS_UNREACHABLE 1)
    | some k => if isTrunk port then some (m.enq (256 + k) id) else m.toShared id (256 + k)

/-- A packet between Ilpiac modules at its destination; none while it must wait. `id` is its number in the buffer. -/
def Ilpiac.ilpMove (m : Ilpiac) (port id : Nat) (p : Packet) : Option Ilpiac :=
  let held := (m.comm p.comm).isSome
  match p.ty with
  | 0x60 => if held then m.columnTry p else some m
  | 0x62 => if held then m.tresultTry p id else some m
  | 0x63 => if held then m.recordsTry p else some m
  | 0x64 => some (m.deltaRx p)
  | 0x65 => some (m.stripeRx p)
  | 0x66 => some (m.ledgerRx p)
  | 0x67 => some (m.stampRx p)
  | 0x68 => some (m.hoseSetupRx port p)
  | 0x69 => some (m.hoseReplyRx p)
  | 0x6D => some (m.hoseWindowRx p)
  | 0x6E => some (m.trunkStateRx port p)
  | _ => some m

/-- The plane of the Ilpiac that a TACK inside RELAY comes from: the packet does not name it, so the oldest copy that it fits and that went
to another plane is taken (assumption 21). -/
def Ilpiac.tackPlane (m : Ilpiac) (p : Packet) : Nat :=
  ((m.coll.trunk.find? (fun t => tackNames p t && t.plane != m.plane)).map (·.plane)).getD m.plane

/-- A RELAY packet of the relay member (R324): its inner packet of a cloche type or TACK is taken here, when it is for this plane. -/
def Ilpiac.relayIn (m : Ilpiac) (port : Nat) (p : Packet) : Ilpiac :=
  if p.f 1 0 4 ≠ m.plane then m
  else
    match Packet.parse p.body with
    | none => m.crcDiscard port p
    | some q =>
      if !(q.lenOk && q.h0Ok && q.zeroOk && q.dstIlp && q.dst == m.bed && [0x61, 0x64, 0x65, 0x66, 0x67].contains q.ty) then m.misaddressed port q
      else if q.ty = 0x61 then m.tackRx q (m.tackPlane q)
      else (m.ilpMove port 0 q).getD m

/-- Whether a landed packet can move on now, and what happens then. -/
def Ilpiac.moveOn (m : Ilpiac) (port id : Nat) (p : Packet) : Option Ilpiac :=
  if p.ty = 0x18 then m.ptMove port id p
  else if p.ty = 0x10 then some (m.amoReq port p)
  else if p.ty = 0x19 then some (m.relayIn port p)
  else if p.ty = 0x40 then some (m.syncOp port p)
  else if p.ty = 0x68 ∨ p.ty = 0x6E ∨ p.dstBed = m.bed then m.ilpMove port id p
  else some (m.datagram id)

/-- Cells of the HOSE_DATA that carried an inner packet (R376). -/
def hoseDataCells (p : Packet) : Nat := ceilDiv (p.len + 24) 256

/-- A landed packet has moved on: its landing cells, or those of its hose at the sink, are free unless it still occupies them. -/
def Ilpiac.movedOn (m : Ilpiac) (id : Nat) (b : BufPkt) : Ilpiac :=
  let m := match b.hose with
    | some h => if m.hg h F.HOSE_CFG_ROLE = roleSink then m.sinkConsume h (hoseDataCells b.pkt) else m
    | none => m
  m.reap id

/-- Whether a packet waits behind another of the same port, class and hose (R328, R373). -/
def Ilpiac.waitsBehind (m : Ilpiac) (port : Nat) (b : BufPkt) : Bool :=
  (m.port port).landed.any (fun i =>
    match m.bufPkt i with
    | some x => x.pkt.tc == b.pkt.tc && x.hose == b.hose
    | none => false)

/-- TACK of a COLUMN, TRESULT or RECORDS that has landed, or the answer for a communicator that is not held (R70, R552). The answer says
whether the packet stays. -/
def Ilpiac.landAck (m : Ilpiac) (p : Packet) : Bool × Ilpiac :=
  if p.dstBed = m.bed ∧ [0x60, 0x62, 0x63].contains p.ty then
    (if (m.comm p.comm).isSome then (true, m.tack p m.plane none) else (false, m.answerUnknown p))
  else (true, m)

/-- A packet that has landed: it moves on, or waits in its cells. -/
def Ilpiac.landed (m : Ilpiac) (port id : Nat) : Ilpiac :=
  match m.bufPkt id with
  | none => m
  | some b =>
    let a := m.landAck b.pkt
    let m := a.2
    if !a.1 then m.movedOn id b
    else
      let wait := m.setPort port { m.port port with landed := (m.port port).landed ++ [id] }
      if m.waitsBehind port b then wait
      else
        match m.moveOn port id b.pkt with
        | some m => m.movedOn id b
        | none => wait

/-- Landed packets of a class try again in their order; one that must wait holds those behind it. -/
def Ilpiac.landRetry (port tc : Nat) : List Nat → List (Option Nat) → Ilpiac → Ilpiac
  | [], _, m => m
  | id :: l, stuck, m =>
    match m.bufPkt id with
    | none => Ilpiac.landRetry port tc l stuck (m.setPort port { m.port port with landed := (m.port port).landed.filter (· != id) })
    | some b =>
      if b.pkt.tc ≠ tc ∨ stuck.contains b.hose then Ilpiac.landRetry port tc l stuck m
      else
        match m.moveOn port id b.pkt with
        | some m =>
          Ilpiac.landRetry port tc l stuck
            ((m.setPort port { m.port port with landed := (m.port port).landed.filter (· != id) }).movedOn id b)
        | none => Ilpiac.landRetry port tc l (stuck ++ [b.hose]) m

/-- LAND_RELEASE and LANDED_PACKET_RELEASE: the waiting packets of a port and class that can move do. -/
def Ilpiac.landRelease (m : Ilpiac) (port tc : Nat) : Ilpiac := Ilpiac.landRetry port tc (m.port port).landed [] m

/-! ### Hose packets (R373, R374, R376) -/

/-- The inner packet of a HOSE_DATA at its sink, as if it had arrived on the trunk port. -/
def Ilpiac.hoseInner (m : Ilpiac) (port h : Nat) (p : Packet) : Ilpiac :=
  match Packet.parse p.body with
  | none => (m.crcDiscard port p).sinkConsume h p.cells
  | some q =>
    if !(q.lenOk && typeListed true false q.ty && q.h0Ok && q.zeroOk && q.dstIlp && q.dst == m.bed) then
      (m.misaddressed port q).sinkConsume h p.cells
    else if q.ty = 0x61 then (m.tackRx q m.plane).sinkConsume h p.cells
    else
      let s := m.store q .hose port false none (some h)
      s.2.landed port s.1

/-- HOSE_DATA at a hop: forwarded under the next label, or taken at the sink. With a wrong CRC it is discarded, or leaves stomped by
cut-through. -/
def Ilpiac.hoseDataRx (m : Ilpiac) (port : Nat) (p : Packet) (crcOk : Bool) : Ilpiac :=
  let h := p.f 1 0 12
  let role := m.hg h F.HOSE_CFG_ROLE
  let next := Packet.make 0x6B p.tc p.dst p.dstIlp p.src p.srcIlp [m.hg h F.HOSE_CFG_NEXT_LABEL] p.body
  if role = roleTransit then
    let o := 256 + m.hg h F.HOSE_CFG_OUT_PORT
    if crcOk then m.hoseForward h next port
    else
      let m := m.crcDiscard port p
      if m.cutsThrough port o (m.hoseQueue o h) next then m.hoseForward h next port true else m
  else if !crcOk then m.crcDiscard port p
  else if role = roleSink then
    let m := (m.hw h F.HOSE_WIN_SENT (m.hg h F.HOSE_WIN_SENT + p.cells)).wrapCnt .hose h F.HOSE_COUNTS_PACKETS 1
    m.hoseInner port h p
  else m

/-! ### Arrival -/

/-- A packet that needs no landing cells is taken at once; a TACK for another bed goes on. `turn` is what a DELAY_REQ needs beside it. -/
def Ilpiac.takeNow (m : Ilpiac) (port : Nat) (p : Packet) (turn : Nat) : Ilpiac :=
  match p.ty with
  | 0x01 => if m.ctl.funcReset.contains 0 then m else m.helloRx port p
  | 0x02 => m.linkRx port p
  | 0x08 => m.contribRx port p
  | 0x09 => m.ackRx port p
  | 0x48 => m.timeSyncRx port p
  | 0x49 => m.delayReqRx port p turn
  | 0x4A => m.delayRspRx port p
  | 0x61 =>
    if p.dstBed = m.bed then m.tackRx p m.plane
    else if m.areaFree .control < p.cells then m
    else
      let s := m.store p .control port
      (s.2.datagram s.1).reap s.1
  | 0x6A => m.hoseTearRx p port
  | 0x6B => m.hoseDataRx port p true
  | 0x6C => m.hoseMarkRx p port
  | 0x70 => m.twinRx p
  | _ => m

/-- A packet arrives on a port. -/
def Ilpiac.receive (m : Ilpiac) (port : Nat) (p : Packet) (crcOk : Bool := true) (turn : Nat := 0) : Ilpiac :=
  if !m.portFormed port ∨ (!m.portUp port ∧ p.ty ≠ 0x01) then m
  else
    let bad := m.refuses port p
    let shut := m.portShut port p
    let pol := if bad || shut then (m, true) else m.police port p
    let m := pol.1
    if !(p.lenOk && crcOk) then
      (if bad || shut || !pol.2 then m.crcDiscard port p
       else if p.ty = 0x6B then m.hoseDataRx port p false
       else m.badCrc port p)
    else
      let m := (m.wrapCnt (portBlk port) (portIdx port) F.PORT_TRAFFIC_RX_PACKETS 1).capture 0 port p
      if landsOn port p then
        let s := m.landIn port p
        let m := s.2
        match s.1 with
        | none => (m.pcnt port F.PORT_ERRORS_NO_CREDIT 1).capture 5 port p
        | some id =>
          if bad then (m.misaddressed port p).reap id
          else if shut || !pol.2 then m.reap id
          else m.landed port id
      else if bad then m.misaddressed port p
      else if shut then m
      else m.takeNow port p turn

/-- The packet that bytes spell, right or wrong. -/
def rawPacket (l : List Byte) : Packet :=
  let n := natAt l 0 8
  let hw := hdrWords (bits n 0 8)
  { h0 := BitVec.ofNat 64 n, hs := bytesWords hw (l.drop 8), body := (l.take (bits n 12 13)).drop (8 + 8 * hw) }

/-- Packets that flits have put together (R389, R391): one that does not pass the check of R308 is discarded. -/
def Ilpiac.fromFlits (m : Ilpiac) (port : Nat) (l : List (List Byte)) : Ilpiac :=
  m.over l (fun m b =>
    match Packet.parse b with
    | some p =>
      let d := m.draw
      if p.ty = 0x49 then d.2.receive port p true (d.1 % 2 ^ 32) else m.receive port p
    | none => if m.portFormed port then m.crcDiscard port (rawPacket b) else m)

/-- A row that is the arrival of a packet of given types. -/
def Ilpiac.arrive (m : Ilpiac) (port : Nat) (tys : List Nat) (p : Packet) (crcOk : Bool := true) (turn : Nat := 0) : Ilpiac :=
  if tys.contains p.ty then m.receive port p crcOk turn else m

end Sys2Proof.Machine
end

