-- ==== Sys2Proof/Machine/Clock.lean ====
section
/-! DEFINITION. What one furrow cycle of idling brings: the cycle count, fabric time, and announced set changes whose SWITCH_SEQ has come. -/

namespace Sys2Proof.Machine

/-- One furrow cycle passes (assumption 3). -/
def Ilpiac.tick (m : Ilpiac) : Ilpiac :=
  let m := Ilpiac.timeTick { m with clk := m.clk + 1 }
  m.over ((m.links.filter (fun (x : Nat × LinkX) => x.2.txSwitch.isSome)).map (·.1)) (fun m lp => m.txDue lp)

end Sys2Proof.Machine
end

