-- ==== Sys2Proof/Machine/Progress.lean ====
section
/-! DEFINITION. HBM accesses over the aperture (spec 14: R455, R457; 08: R277, R286; 07: R258), and what follows within the block from any
command: own aperture writes, open collectives, cloche groups, phase 4 and fault actions that are due at once. -/

namespace Sys2Proof.Machine

/-! ### The aperture -/

/-- Whether an aperture access is one that the Holm link carries: after Assign, 4 to 256 bytes, naturally aligned, inside the installed
capacity (R42, R455, R457). -/
def Ilpiac.apertureHere (m : Ilpiac) (a len : Nat) : Bool :=
  m.g F.HOLM_STATUS_STATE == holmUp && m.has F.CAP_PRESENT_HBM && [4, 8, 16, 32, 64, 128, 256].contains len && a % max 1 len == 0 &&
    decide (a + len ≤ m.g F.CAP_PRESENT_HBM_STACKS * 2 ^ 36)

/-- Data of a read that returns poison: all ones with the poison mark, counted (R272, R455). -/
def Ilpiac.poisonRead (m : Ilpiac) (len : Nat) : Ilpiac :=
  (m.gcnt F.HOLM_STATUS_POISONED_READS 1).send (.apertureData (List.replicate len 0xFF) true)

/-- APERTURE_READ. `us` are upsets that the read's first codeword has suffered since it was written. -/
def Ilpiac.apertureRead (m : Ilpiac) (a len : Nat) (us : List Upset) : Ilpiac :=
  if !m.apertureHere a len then m
  else if !m.hbmOn then m.poisonRead len
  else if m.slots * 2 ^ 30 < a + len then (m.send (.apertureData (List.replicate len 0xFF) false)).raise srcHbmAddress 0 0
  else
    let m := match m.readAt (a / 64) with
      | some cw => m.upset cw us
      | none => m
    match m.memRead a len (m.hintAt a false) with
    | (some d, m) => m.send (.apertureData d false)
    | (none, m) => m.poisonRead len

/-- A write through the aperture takes effect: not while the HBM function is stopped, above the logical capacity or in a shard under the restore
hold (R258, R277, R286). -/
def Ilpiac.apertureStore (m : Ilpiac) (a : Nat) (d : List Byte) : Ilpiac :=
  if !m.hbmOn then m
  else if m.slots * 2 ^ 30 < a + d.length then m.raise srcHbmAddress 0 0
  else if m.heldShard a d.length then m.raise srcCloche 0 0
  else (m.memWrite a d (m.hintAt a true)).2

/-- APERTURE_WRITE. -/
def Ilpiac.apertureWrite (m : Ilpiac) (a : Nat) (d : List Byte) : Ilpiac := if m.apertureHere a d.length then m.apertureStore a d else m

/-! ### What follows from a command -/

/-- Writes of the Ilpiac into its own aperture take effect (R458). -/
def Ilpiac.ownWrites (m : Ilpiac) : Ilpiac :=
  let l := m.ctl.own
  Ilpiac.over { m with ctl := { m.ctl with own := [] } } l (fun m x => m.apertureStore x.1 x.2)

/-- Everything that can happen at once in the collective engine, the cloche and the trellis, and fault actions that are due. -/
def Ilpiac.progress (m : Ilpiac) : Ilpiac :=
  let m := (((m.ownWrites).collAll).clocheFlow).assign
  (Ilpiac.dueActions m.flt.due.length m).ownWrites

/-- Nothing waits that could follow from a command. -/
def Ilpiac.quiet (m : Ilpiac) : Bool :=
  m.ctl.own.isEmpty && m.flt.due.isEmpty && m.coll.colls.isEmpty && m.groups.isEmpty && m.trellis.phase4.isEmpty

/-- The block at the end of a command. -/
def Ilpiac.settle (m : Ilpiac) : Ilpiac := if m.quiet then m else m.progress

/-- A command has run: the block is `m` and what follows from it. -/
def ran (s : State) (m : Ilpiac) : Host.Outcome State Fault Refusal := .next { s with m := m.settle }

end Sys2Proof.Machine
end

