-- ==== Sys2Proof/Machine/ExecCloche.lean ====
section
/-! DEFINITION. Cloche groups (spec 07). -/

namespace Sys2Proof.Machine

/-- CLOCHE_GROUP_CREATE (R246 to R248). -/
def execClocheGroupCreate (ring : Fin 65536) (list : Readback) (s : State) : Host.Outcome State Fault Refusal :=
  ran s (s.m.runDesc ring.val 0x38 (fun d m => m.groupCreate d list))

/-- GROUP_JOIN_RESOLVE (R245, R248, R249). -/
def execGroupJoinResolve (group : Nat) (answers : List JoinAnswer) (s : State) : Host.Outcome State Fault Refusal :=
  ran s (s.m.groupJoin group answers)

/-- DELTA_RECEIVED (R251, R252). -/
def execDeltaReceived (port : Fin 262) (p : Packet) (s : State) : Host.Outcome State Fault Refusal := ran s (s.m.arrive port.val [0x64] p)

/-- STAMP_RECEIVED (R253). -/
def execStampReceived (port : Fin 262) (p : Packet) (s : State) : Host.Outcome State Fault Refusal := ran s (s.m.arrive port.val [0x67] p)

/-- LEDGER_WRITE (R254, R255). -/
def execLedgerWrite (ring : Fin 65536) (entry : Readback) (s : State) : Host.Outcome State Fault Refusal :=
  ran s (s.m.runDesc ring.val 0x3A (fun d m => m.ledgerWrite d entry))

/-- LEDGER_RECEIVED (R255). -/
def execLedgerReceived (port : Fin 262) (p : Packet) (s : State) : Host.Outcome State Fault Refusal := ran s (s.m.arrive port.val [0x66] p)

/-- CLOCHE_RESTORE (R256, R257); it begins once every write into every shard has settled. -/
def execClocheRestore (ring : Fin 65536) (record image : Readback) (answers : List RestoreAnswer) (s : State) : Host.Outcome State Fault Refusal :=
  ran s (match s.m.begin ring.val 0x3B with
    | some (d, m) => if m.settled (d.f 1 0 16) answers then m.restoreBegin d record image answers else s.m
    | none => s.m)

/-- STRIPE_RECEIVED (R258 to R260). -/
def execStripeReceived (port : Fin 262) (p : Packet) (s : State) : Host.Outcome State Fault Refusal := ran s (s.m.arrive port.val [0x65] p)

/-- RESTORE_COMPLETE (R258, R261). -/
def execRestoreComplete (group : Nat) (s : State) : Host.Outcome State Fault Refusal := ran s (s.m.restoreComplete group)

/-- CLOCHE_GROUP_DESTROY (R265). -/
def execClocheGroupDestroy (ring : Fin 65536) (s : State) : Host.Outcome State Fault Refusal :=
  ran s (s.m.runDesc ring.val 0x39 (fun d m => m.groupDestroy d))

/-- CLOCHE_QUERY (R266). -/
def execClocheQuery (ring : Fin 65536) (s : State) : Host.Outcome State Fault Refusal :=
  ran s (s.m.runDesc ring.val 0x3C (fun d m => m.clocheQuery d))

end Sys2Proof.Machine
end

