-- ==== Sys2Proof/Machine/ExecColl.lean ====
section
/-! DEFINITION. Communicators, collectives, admission and furrows (spec 02, 04, 05). -/

namespace Sys2Proof.Machine

/-- COMM_CREATE (R43 to R47). -/
def execCommCreate (ring : Fin 65536) (list experts : Readback) (s : State) : Host.Outcome State Fault Refusal :=
  ran s (s.m.runDesc ring.val 0x01 (fun d m => m.commCreate d list experts))

/-- COMM_DESTROY (R48). -/
def execCommDestroy (ring : Fin 65536) (s : State) : Host.Outcome State Fault Refusal :=
  ran s (s.m.runDesc ring.val 0x02 (fun d m => m.commDestroy d))

/-- COMM_QUERY (R84). -/
def execCommQuery (ring : Fin 65536) (s : State) : Host.Outcome State Fault Refusal := ran s (s.m.runDesc ring.val 0x03 (fun d m => m.commQuery d))

/-- ALL_REDUCE (R49, R54, R70). -/
def execAllReduce (ring : Fin 65536) (s : State) : Host.Outcome State Fault Refusal := ran s (s.m.runDesc ring.val 0x10 (fun d m => m.collAccept d))

/-- REDUCE_SCATTER (R49, R54, R70). -/
def execReduceScatter (ring : Fin 65536) (s : State) : Host.Outcome State Fault Refusal :=
  ran s (s.m.runDesc ring.val 0x11 (fun d m => m.collAccept d))

/-- ALL_GATHER (R49, R54, R70). -/
def execAllGather (ring : Fin 65536) (s : State) : Host.Outcome State Fault Refusal := ran s (s.m.runDesc ring.val 0x12 (fun d m => m.collAccept d))

/-- BROADCAST (R49, R54, R70). -/
def execBroadcast (ring : Fin 65536) (s : State) : Host.Outcome State Fault Refusal := ran s (s.m.runDesc ring.val 0x13 (fun d m => m.collAccept d))

/-- REDUCE_UPDATE_BCAST (R49, R57, R70). -/
def execReduceUpdateBcast (ring : Fin 65536) (s : State) : Host.Outcome State Fault Refusal :=
  ran s (s.m.runDesc ring.val 0x14 (fun d m => m.collAccept d))

/-- DISPATCH (R49, R60, R70). -/
def execDispatch (ring : Fin 65536) (s : State) : Host.Outcome State Fault Refusal := ran s (s.m.runDesc ring.val 0x18 (fun d m => m.collAccept d))

/-- COMBINE (R49, R64, R70). -/
def execCombine (ring : Fin 65536) (s : State) : Host.Outcome State Fault Refusal := ran s (s.m.runDesc ring.val 0x19 (fun d m => m.collAccept d))

/-- MEMBER_FENCE (R79, R80). -/
def execMemberFence (ring : Fin 65536) (s : State) : Host.Outcome State Fault Refusal :=
  ran s (s.m.runDesc ring.val 0x20 (fun d m => m.memberFence d))

/-- MEMBER_UNFENCE (R81). -/
def execMemberUnfence (ring : Fin 65536) (s : State) : Host.Outcome State Fault Refusal :=
  ran s (s.m.runDesc ring.val 0x21 (fun d m => m.memberUnfence d))

/-- RM_QUOTA (R143, R144); one whose communicator has an increase that waits begins when that has ended (assumption 34). -/
def execRmQuota (ring : Fin 65536) (s : State) : Host.Outcome State Fault Refusal :=
  ran s (match s.m.begin ring.val 0x28 with
    | some (d, m) => if (m.comm (d.f 1 0 16)).any (fun c => c.quotaWait.isSome) then s.m else m.rmQuota d
    | none => s.m)

/-- QUOTA_SET_ASIDE (R144). -/
def execQuotaSetAside (comm : Nat) (s : State) : Host.Outcome State Fault Refusal := ran s (s.m.quotaSetAside comm)

/-- CONTEXT_ADMIT (R137). -/
def execContextAdmit (pool : Option Nat) (s : State) : Host.Outcome State Fault Refusal := ran s (s.m.admitCtx pool)

/-- ADMISSION_TIMEOUT (R142). -/
def execAdmissionTimeout (c : CollId) (s : State) : Host.Outcome State Fault Refusal := ran s (s.m.admissionTimeout c)

/-- CONTRIB_RECEIVED (R53). -/
def execContribReceived (port : Fin 256) (p : Packet) (s : State) : Host.Outcome State Fault Refusal := ran s (s.m.arrive port.val [0x08] p)

/-- SPILL_READBACK_DONE (R146, R147): the spilled subtree (level, index) that the context waits for returns. -/
def execSpillReadbackDone (x : CtxId) (level index : Nat) (s : State) : Host.Outcome State Fault Refusal :=
  ran s (match (s.m.ctxOf x).bind (fun c => c.op) with
    | some o => if o.waitSpill.isSome ∧ o.level = level + 1 ∧ o.index = index / 2 then s.m.spillBack x else s.m
    | none => s.m)

/-- FURROW_GROUP_COMPLETE (R153 to R155). -/
def execFurrowGroupComplete (f : Fin 64) (bad : List Mismatch) (s : State) : Host.Outcome State Fault Refusal := ran s (s.m.groupComplete f.val bad)

/-- RETAIN_SPACE_FREED (R76). -/
def execRetainSpaceFreed (s : State) : Host.Outcome State Fault Refusal := ran s ((s.m.drainTrunk s.m.coll.trunkWait.length).drainHeld)

/-- FURROW_RETIRE (R155): FURROW_CTRL.RETIRE is written 1. -/
def execFurrowRetire (f : Fin 64) (s : State) : Host.Outcome State Fault Refusal := ran s (s.m.fieldAccess .furrow f.val F.FURROW_CTRL_RETIRE 1)

/-- CONTEXT_MOVE_DONE (R155). -/
def execContextMoveDone (f : Fin 64) (s : State) : Host.Outcome State Fault Refusal := ran s (s.m.moveDone f.val)

/-- FURROW_WAIT_TIMEOUT (R155). -/
def execFurrowWaitTimeout (c : CollId) (s : State) : Host.Outcome State Fault Refusal := ran s (s.m.furrowTimeout c)

/-- FURROW_DISABLE (R158): FURROW_CTRL.ENABLE is written 0. -/
def execFurrowDisable (f : Fin 64) (s : State) : Host.Outcome State Fault Refusal := ran s (s.m.fieldAccess .furrow f.val F.FURROW_CTRL_ENABLE 0)

/-- FURROW_GATED (R158). -/
def execFurrowGated (f : Fin 64) (s : State) : Host.Outcome State Fault Refusal := ran s (s.m.gateFurrow f.val)

/-- FURROW_ENABLE (R158): FURROW_CTRL.ENABLE is written 1. -/
def execFurrowEnable (f : Fin 64) (s : State) : Host.Outcome State Fault Refusal := ran s (s.m.fieldAccess .furrow f.val F.FURROW_CTRL_ENABLE 1)

/-- FURROW_INJECT_ARM (R157): FURROW_INJECT is written. -/
def execFurrowInjectArm (f : Fin 64) (v : Word) (s : State) : Host.Outcome State Fault Refusal :=
  ran s (s.m.access (.write (F.FURROW_INJECT_ARM.key .furrow f.val 0) v))

/-- ACK_RECEIVED (R73). -/
def execAckReceived (port : Fin 256) (p : Packet) (s : State) : Host.Outcome State Fault Refusal := ran s (s.m.arrive port.val [0x09] p)

/-- RETENTION_TIMEOUT (R74). -/
def execRetentionTimeout (id : Nat) (addr : Nat) (s : State) : Host.Outcome State Fault Refusal := ran s (s.m.retentionTimeout id addr)

/-- CONTRIB_DEADLINE (R75). -/
def execContribDeadline (c : CollId) (addr : Nat) (s : State) : Host.Outcome State Fault Refusal := ran s (s.m.contribDeadline c addr)

/-- TRUNK_RETENTION_TIMEOUT (R77, R551). -/
def execTrunkRetentionTimeout (id : Nat) (s : State) : Host.Outcome State Fault Refusal := ran s (s.m.trunkTimeout id)

/-- RESULT_MISSING_TIMEOUT (R75). -/
def execResultMissingTimeout (c : CollId) (addr : Nat) (s : State) : Host.Outcome State Fault Refusal := ran s (s.m.resultMissing c addr)

/-- VERDICT_PASS_START (R66). -/
def execVerdictPassStart (c : CollId) (s : State) : Host.Outcome State Fault Refusal := ran s (s.m.passStart c)

/-- RECORDS_RECEIVED (R67, R177, R552). -/
def execRecordsReceived (port : Fin 262) (p : Packet) (s : State) : Host.Outcome State Fault Refusal := ran s (s.m.arrive port.val [0x63] p)

/-- END_SEND (R71). -/
def execEndSend (c : CollId) (s : State) : Host.Outcome State Fault Refusal := ran s (s.m.sendEnds c)

/-- COLLECTIVE_COMPLETE (R78). -/
def execCollectiveComplete (c : CollId) (s : State) : Host.Outcome State Fault Refusal := ran s (s.m.collComplete c)

/-- COLUMN_RECEIVED (R135, R552). -/
def execColumnReceived (port : Fin 262) (p : Packet) (s : State) : Host.Outcome State Fault Refusal := ran s (s.m.arrive port.val [0x60] p)

/-- TRESULT_RECEIVED (R175, R552). -/
def execTresultReceived (port : Fin 262) (p : Packet) (s : State) : Host.Outcome State Fault Refusal := ran s (s.m.arrive port.val [0x62] p)

/-- TACK_RECEIVED (R77, R252). -/
def execTackReceived (port : Fin 262) (p : Packet) (s : State) : Host.Outcome State Fault Refusal := ran s (s.m.arrive port.val [0x61] p)

/-- LANDED_PACKET_RELEASE (R552). -/
def execLandedPacketRelease (port : Fin 262) (tc : Fin 8) (s : State) : Host.Outcome State Fault Refusal := ran s (s.m.landRelease port.val tc.val)

end Sys2Proof.Machine
end

