-- ==== Sys2Proof/Machine/ExecControl.lean ====
section
/-! DEFINITION. Companion control over the Holm link (spec 14). -/

namespace Sys2Proof.Machine

/-- ASSIGN (R457). -/
def execAssign (regBase hbmBase : Nat) (s : State) : Host.Outcome State Fault Refusal := ran s (s.m.assignBases regBase hbmBase)

/-- HOLM_ACK_RECEIVED (R453). -/
def execHolmAckReceived (seq : Nat) (lost : Bool) (s : State) : Host.Outcome State Fault Refusal := ran s (s.m.holmAck seq lost)

/-- HOLM_ACK_TIMEOUT (R454). -/
def execHolmAckTimeout (s : State) : Host.Outcome State Fault Refusal := ran s (s.m.holmAckTimeout)

/-- RUN_STOP (R462): a RUN_CTRL bit is written 0. -/
def execRunStop (fn : Fin 5) (s : State) : Host.Outcome State Fault Refusal := ran s (s.m.access (.field 0x100 fn.val 1 0))

/-- RUN_STOP_DONE (R462). -/
def execRunStopDone (fn : Fin 5) (s : State) : Host.Outcome State Fault Refusal := ran s (s.m.runStopDone fn.val)

/-- RUN_START (R462): a RUN_CTRL bit is written 1. -/
def execRunStart (fn : Fin 5) (s : State) : Host.Outcome State Fault Refusal := ran s (s.m.access (.field 0x100 fn.val 1 1))

/-- RUN_START_DONE (R462). -/
def execRunStartDone (fn : Fin 5) (s : State) : Host.Outcome State Fault Refusal := ran s ((s.m.runStartDone fn.val).softMapouts)

/-- DR_DOORBELL (R466): DR_DOORBELL is written. -/
def execDrDoorbell (r : Fin 65536) (v : Word) (s : State) : Host.Outcome State Fault Refusal :=
  ran s (s.m.access (.write (F.DR_DOORBELL_PROD.key .dring r.val 0) v))

/-- RING_ENABLE (R470): DR_CTRL.ENABLE is written 1. -/
def execRingEnable (r : Fin 65536) (s : State) : Host.Outcome State Fault Refusal := ran s (s.m.fieldAccess .dring r.val F.DR_CTRL_ENABLE 1)

/-- RING_DISABLE (R470): DR_CTRL.ENABLE is written 0. -/
def execRingDisable (r : Fin 65536) (s : State) : Host.Outcome State Fault Refusal := ran s (s.m.fieldAccess .dring r.val F.DR_CTRL_ENABLE 0)

/-- DESCRIPTOR_FETCH_DONE (R467, R469). -/
def execDescriptorFetchDone (r : Fin 65536) (first : Nat) (data : Option (List (List Word))) (s : State) : Host.Outcome State Fault Refusal :=
  ran s (s.m.fetchDone r.val first data)

/-- DESCRIPTOR_ACCEPT (R464, R468). -/
def execDescriptorAccept (r : Fin 65536) (s : State) : Host.Outcome State Fault Refusal := ran s (s.m.acceptDesc r.val)

/-- NOP (R478). -/
def execNop (ring : Fin 65536) (s : State) : Host.Outcome State Fault Refusal := ran s (s.m.runDesc ring.val 0x50 (fun d m => m.nop d))

/-- CPL_RING_ENABLE (R474): CR_CTRL.ENABLE is written 1. -/
def execCplRingEnable (c : Fin 4096) (s : State) : Host.Outcome State Fault Refusal := ran s (s.m.fieldAccess .cring c.val F.CR_CTRL_ENABLE 1)

/-- CPL_RING_DISABLE (R474): CR_CTRL.ENABLE is written 0. -/
def execCplRingDisable (c : Fin 4096) (s : State) : Host.Outcome State Fault Refusal := ran s (s.m.fieldAccess .cring c.val F.CR_CTRL_ENABLE 0)

/-- CR_DOORBELL (R473, R475): CR_DOORBELL is written. -/
def execCrDoorbell (c : Fin 4096) (v : Word) (s : State) : Host.Outcome State Fault Refusal :=
  ran s (s.m.access (.write (F.CR_DOORBELL_CONS.key .cring c.val 0) v))

/-- CPL_RECORD_WRITE (R472). -/
def execCplRecordWrite (c : Fin 4096) (s : State) : Host.Outcome State Fault Refusal := ran s (s.m.recordWrite c.val)

/-- CPL_STALL_TIMEOUT (R473). -/
def execCplStallTimeout (c : Fin 4096) (s : State) : Host.Outcome State Fault Refusal := ran s (s.m.stallTimeout c.val)

/-- IRQ_COAL_TIMEOUT (R475). -/
def execIrqCoalTimeout (c : Fin 4096) (s : State) : Host.Outcome State Fault Refusal := ran s (s.m.coalTimeout c.val)

/-- IRQ_SEND (R477). -/
def execIrqSend (s : State) : Host.Outcome State Fault Refusal := ran s (s.m.irqSend)

/-- IRQ_MASK_WRITE (R476): IRQ_MASK is written. -/
def execIrqMaskWrite (v : Word) (s : State) : Host.Outcome State Fault Refusal := ran s (s.m.access (.write 0x308 v))

/-- HOLM_ACK_TIMER (R453). -/
def execHolmAckTimer (s : State) : Host.Outcome State Fault Refusal := ran s (s.m.holmAckTimer)

end Sys2Proof.Machine
end

