-- ==== Sys2Proof/Machine/ExecFaults.lean ====
section
/-! DEFINITION. Faults, resets, headless operation and twin mode (spec 15). -/

namespace Sys2Proof.Machine

/-- FAULT_ASSERT (R489): a source of R487 asserts; code 0 names none. -/
def execFaultAssert (src : Fin 22) (unit detail : Nat) (s : State) : Host.Outcome State Fault Refusal :=
  ran s (if src.val = 0 then s.m else s.m.raise src.val unit detail)

/-- FAULT_PAIR_BROKEN (R489). -/
def execFaultPairBroken (src : Fin 22) (s : State) : Host.Outcome State Fault Refusal := ran s (if src.val = 0 then s.m else s.m.pairBroken src.val)

/-- FAULT_GRACE_EXPIRY (R490). -/
def execFaultGraceExpiry (s : State) : Host.Outcome State Fault Refusal := ran s (if s.m.g F.FAULT_FIRST_VALID = 1 then s.m.graceExpiry else s.m)

/-- FAULT_CLEAR (R490): FAULT_FIRST.VALID is written 1. -/
def execFaultClear (s : State) : Host.Outcome State Fault Refusal := ran s (s.m.fieldAccess .glob 0 F.FAULT_FIRST_VALID 1)

/-- SRAM_UE_DETECTED (R488). -/
def execSramUeDetected (area : SramArea) (s : State) : Host.Outcome State Fault Refusal := ran s (s.m.sramUe area)

/-- INTERNAL_PARITY_ERROR (R550). -/
def execInternalParityError (off : Nat) (s : State) : Host.Outcome State Fault Refusal := ran s (s.m.parityError off)

/-- FAULT_LOG_READ (R493). -/
def execFaultLogRead (ring : Fin 65536) (s : State) : Host.Outcome State Fault Refusal :=
  ran s (s.m.runDesc ring.val 0x58 (fun d m => m.faultLogRead d))

/-- WARM_RESET (R494): RESET_CTRL is written. -/
def execWarmReset (v : Word) (s : State) : Host.Outcome State Fault Refusal := ran s (s.m.access (.write (F.RESET_CTRL_WARM.key .glob 0 0) v))

/-- FUNCTION_RESET (R492): a bit of RESET_CTRL.FUNC is written 1. -/
def execFunctionReset (fn : Fin 5) (s : State) : Host.Outcome State Fault Refusal :=
  ran s (s.m.access (.field (F.RESET_CTRL_FUNC.key .glob 0 0) fn.val 1 1))

/-- LINK_RESET (R494): RESET_CTRL is written with LINK and the port. -/
def execLinkReset (port : Nat) (s : State) : Host.Outcome State Fault Refusal :=
  ran s (s.m.access (.write (F.RESET_CTRL_LINK.key .glob 0 0) (BitVec.ofNat 64 (port % 1024 * 2 ^ 16 + 2 ^ 26))))

/-- HEARTBEAT_TIMEOUT (R499). -/
def execHeartbeatTimeout (s : State) : Host.Outcome State Fault Refusal := ran s (s.m.heartbeatTimeout)

/-- HEADLESS_RESUME (R501): HEADLESS.RESUME is written 1. -/
def execHeadlessResume (s : State) : Host.Outcome State Fault Refusal := ran s (s.m.fieldAccess .glob 0 F.HEADLESS_RESUME 1)

/-- TWIN_DIGEST_SEND (R503). -/
def execTwinDigestSend (s : State) : Host.Outcome State Fault Refusal := ran s (s.m.twinSend)

/-- TWIN_DIGEST_RECEIVED (R504). -/
def execTwinDigestReceived (port : Fin 256) (p : Packet) (s : State) : Host.Outcome State Fault Refusal := ran s (s.m.arrive port.val [0x70] p)

/-- TWIN_KEY_TIMEOUT (R504): the n-th held key. -/
def execTwinKeyTimeout (n : Nat) (s : State) : Host.Outcome State Fault Refusal := ran s (s.m.twinTimeout n)

/-- TWIN_ENABLE (R506): TWIN_CTRL is written. -/
def execTwinEnable (v : Word) (s : State) : Host.Outcome State Fault Refusal := ran s (s.m.access (.write (F.TWIN_CTRL_ENABLE.key .glob 0 0) v))

/-- WARM_RESET_DONE (R494). -/
def execWarmResetDone (s : State) : Host.Outcome State Fault Refusal := ran s (s.m.warmResetDone)

/-- FUNCTION_RESET_DONE (R492). -/
def execFunctionResetDone (s : State) : Host.Outcome State Fault Refusal := ran s (s.m.functionResetDone)

end Sys2Proof.Machine
end

