-- ==== Sys2Proof/Machine/ExecHbm.lean ====
section
/-! DEFINITION. HBM, the memory-side cache and the aperture (spec 08, 14). -/

namespace Sys2Proof.Machine

/-- SCRUB_READ (R274). -/
def execScrubRead (ch : Fin 768) (upsets : List Upset) (s : State) : Host.Outcome State Fault Refusal := ran s (s.m.scrubRead ch.val upsets)

/-- CHANNEL_ACCESS_TIMEOUT (R278): the channel is mapped out with cause DEAD. -/
def execChannelAccessTimeout (ch : Fin 768) (s : State) : Host.Outcome State Fault Refusal :=
  ran s (if s.m.channelPresent ch.val then s.m.failChannel ch.val 1 else s.m)

/-- CHANNEL_MAPOUT (R278, R299): CH_CTRL.MAPOUT is written 1. -/
def execChannelMapout (ch : Fin 768) (s : State) : Host.Outcome State Fault Refusal := ran s (s.m.fieldAccess .channel ch.val F.CH_CTRL_MAPOUT 1)

/-- SLOT_REMAP_DONE (R280). -/
def execSlotRemapDone (slot : Nat) (s : State) : Host.Outcome State Fault Refusal := ran s (s.m.remapDone slot)

/-- MIGRATION_UNIT (R279). -/
def execMigrationUnit (slot unit : Nat) (s : State) : Host.Outcome State Fault Refusal := ran s (s.m.copyUnit slot unit)

/-- CHANNEL_INJECT_ARM (R301): CH_INJECT is written. -/
def execChannelInjectArm (ch : Fin 768) (v : Word) (s : State) : Host.Outcome State Fault Refusal :=
  ran s (s.m.access (.write (F.CH_INJECT_ARM.key .channel ch.val 0) v))

/-- HBM_START_DONE (R283, R285): the channels of `failed` did not train. Map-outs that wait are taken. -/
def execHbmStartDone (failed : List Nat) (s : State) : Host.Outcome State Fault Refusal := ran s ((s.m.hbmStartDone failed).softMapouts)

/-- SELF_REFRESH_ENTER (R302). -/
def execSelfRefreshEnter (stack : Fin 12) (s : State) : Host.Outcome State Fault Refusal := ran s (s.m.selfRefresh stack.val)

/-- APERTURE_READ (R455). -/
def execApertureRead (addr len : Nat) (upsets : List Upset) (s : State) : Host.Outcome State Fault Refusal := ran s (s.m.apertureRead addr len upsets)

/-- APERTURE_WRITE (R455). -/
def execApertureWrite (addr : Nat) (data : List Byte) (s : State) : Host.Outcome State Fault Refusal := ran s (s.m.apertureWrite addr data)

end Sys2Proof.Machine
end

