-- ==== Sys2Proof/Machine/ExecLanes.lean ====
section
/-! DEFINITION. Serial lanes and the reference clock (spec 12). -/

namespace Sys2Proof.Machine

/-- LANE_ENABLE (R397): LANE_CTRL.ENABLE is written 1. -/
def execLaneEnable (l : Fin 576) (s : State) : Host.Outcome State Fault Refusal := ran s (s.m.fieldAccess .lane l.val F.LANE_CTRL_ENABLE 1)

/-- LANE_DISABLE (R401): LANE_CTRL.ENABLE is written 0. -/
def execLaneDisable (l : Fin 576) (s : State) : Host.Outcome State Fault Refusal := ran s (s.m.fieldAccess .lane l.val F.LANE_CTRL_ENABLE 0)

/-- LANE_SIGNAL_DETECT (R397). -/
def execLaneSignalDetect (l : Fin 576) (s : State) : Host.Outcome State Fault Refusal := ran s (s.m.signalDetect l.val)

/-- LANE_CW_LOCK (R397). -/
def execLaneCwLock (l : Fin 576) (s : State) : Host.Outcome State Fault Refusal := ran s (s.m.cwLock l.val)

/-- LANE_TRAIN_TIMEOUT (R397). -/
def execLaneTrainTimeout (l : Fin 576) (s : State) : Host.Outcome State Fault Refusal := ran s (s.m.trainTimeout l.val)

/-- PORT_FORM (R398). -/
def execPortForm (lp : Fin 263) (s : State) : Host.Outcome State Fault Refusal := ran s (s.m.portForm lp.val)

/-- FLIT_RECEIVED (R387 to R391): packets that its flits complete arrive. -/
def execFlitReceived (l : Fin 576) (c : Codeword) (s : State) : Host.Outcome State Fault Refusal :=
  ran s (let r := s.m.flitRx l.val c
    if lanePort l.val = holmPort then r.2 else r.2.fromFlits (lanePort l.val) r.1)

/-- CONTROL_FLIT_RECEIVED (R392). -/
def execControlFlitReceived (l : Fin 576) (c : Control) (s : State) : Host.Outcome State Fault Refusal :=
  ran s (let r := s.m.controlFlit l.val c
    if lanePort l.val = holmPort then r.2 else r.2.fromFlits (lanePort l.val) r.1)

/-- CONTROL_FLIT_TIMER (R392). -/
def execControlFlitTimer (lp : Fin 263) (s : State) : Host.Outcome State Fault Refusal := ran s (s.m.controlTimer lp.val)

/-- LANE_SIGNAL_LOSS (R401). -/
def execLaneSignalLoss (l : Fin 576) (s : State) : Host.Outcome State Fault Refusal := ran s (s.m.signalLoss l.val)

/-- LANE_MARGIN_CHECK (R401). -/
def execLaneMarginCheck (l : Fin 576) (avgSymbols : Nat) (s : State) : Host.Outcome State Fault Refusal := ran s (s.m.marginCheck l.val avgSymbols)

/-- LANE_SWITCH_OFF_TIMEOUT (R402). -/
def execLaneSwitchOffTimeout (l : Fin 576) (s : State) : Host.Outcome State Fault Refusal := ran s (s.m.switchOff l.val)

/-- LANE_READD (R404). -/
def execLaneReadd (l : Fin 576) (s : State) : Host.Outcome State Fault Refusal := ran s (s.m.readd l.val)

/-- LANE_CLEAR_HOLD (R405): LANE_CTRL.CLEAR_HOLD is written 1. -/
def execLaneClearHold (l : Fin 576) (s : State) : Host.Outcome State Fault Refusal := ran s (s.m.fieldAccess .lane l.val F.LANE_CTRL_CLEAR_HOLD 1)

/-- LIGHT_IDLE_ENTER (R406). -/
def execLightIdleEnter (lp : Fin 263) (s : State) : Host.Outcome State Fault Refusal := ran s (s.m.lightEnter lp.val)

/-- LIGHT_IDLE_BEACON (R406). -/
def execLightIdleBeacon (lp : Fin 263) (s : State) : Host.Outcome State Fault Refusal := ran s (s.m.lightBeacon lp.val)

/-- LIGHT_IDLE_EXIT (R406). -/
def execLightIdleExit (lp : Fin 263) (s : State) : Host.Outcome State Fault Refusal := ran s (s.m.lightExit lp.val)

/-- DEEP_IDLE_ENTER (R407). -/
def execDeepIdleEnter (port : Fin 256) (s : State) : Host.Outcome State Fault Refusal := ran s (s.m.deepEnter port.val)

/-- DEEP_IDLE_WAKE (R407). -/
def execDeepIdleWake (port : Fin 256) (s : State) : Host.Outcome State Fault Refusal := ran s (s.m.deepWake port.val)

/-- DEEP_CHECK_TIMER (R407). -/
def execDeepCheckTimer (port : Fin 256) (s : State) : Host.Outcome State Fault Refusal := ran s (s.m.deepWake port.val)

/-- LANE_INJECT_ARM (R412): LANE_INJECT is written. -/
def execLaneInjectArm (l : Fin 576) (v : Word) (s : State) : Host.Outcome State Fault Refusal :=
  ran s (s.m.access (.write (F.LANE_INJECT_ARM.key .lane l.val 0) v))

/-- REF_SOURCE_CHANGE (R395): REF_CTRL is written. -/
def execRefSourceChange (v : Word) (s : State) : Host.Outcome State Fault Refusal := ran s (s.m.access (.write (F.REF_CTRL_SOURCE.key .glob 0 0) v))

/-- REF_SOURCE_LOST (R395). -/
def execRefSourceLost (s : State) : Host.Outcome State Fault Refusal := ran s (s.m.refLost)

/-- REF_SOURCE_RETURN (R395). -/
def execRefSourceReturn (offsetPpb : Int) (spread : Bool) (s : State) : Host.Outcome State Fault Refusal := ran s (s.m.refReturn offsetPpb spread)

/-- LANE_CDR_LOCK (R397). -/
def execLaneCdrLock (l : Fin 576) (s : State) : Host.Outcome State Fault Refusal := ran s (s.m.cdrLock l.val)

end Sys2Proof.Machine
end

