-- ==== Sys2Proof/Machine/ExecPower.lean ====
section
/-! DEFINITION. Module, power and thermal (spec 16), boot and identity (17). -/

namespace Sys2Proof.Machine

/-- POWER_ON (R514). -/
def execPowerOn (mv : Nat) (s : State) : Host.Outcome State Fault Refusal := ran s (s.m.powerOn mv)

/-- POWER_ON_DONE (R514, R520). -/
def execPowerOnDone (mv v0 v1 esrMohm : Nat) (s : State) : Host.Outcome State Fault Refusal := ran s (s.m.powerOnDone mv v0 v1 esrMohm)

/-- COLD_RESET (R515). -/
def execColdReset (s : State) : Host.Outcome State Fault Refusal := ran s (s.m.coldReset)

/-- COLD_RESET_RELEASE (R515). -/
def execColdResetRelease (mv v0 v1 esrMohm : Nat) (s : State) : Host.Outcome State Fault Refusal := ran s (s.m.coldRelease mv v0 v1 esrMohm)

/-- POWER_LOSS (R516): the input falls through 46.0 V. -/
def execPowerLoss (mv : Nat) (s : State) : Host.Outcome State Fault Refusal := ran s (if mv < 46000 then s.m.powerLoss else s.m)

/-- OVER_VOLTAGE (R516): the input rises through 60.5 V. -/
def execOverVoltage (mv : Nat) (s : State) : Host.Outcome State Fault Refusal := ran s (if 60500 ≤ mv then s.m.overVoltage else s.m)

/-- OVER_VOLTAGE_RECOVERY (R516). -/
def execOverVoltageRecovery (mv : Nat) (s : State) : Host.Outcome State Fault Refusal := ran s (s.m.recovery mv)

/-- BROWNOUT_START (R517, R518). -/
def execBrownoutStart (mv : Nat) (duty : Nat) (s : State) : Host.Outcome State Fault Refusal := ran s (s.m.brownoutStart mv duty)

/-- BROWNOUT_END (R517). -/
def execBrownoutEnd (mv : Nat) (durationUs : Nat) (s : State) : Host.Outcome State Fault Refusal := ran s (s.m.brownoutEnd mv durationUs)

/-- HOLDUP_RECHECK (R520): PWR_CTRL.HOLDUP_RECHECK is written 1. -/
def execHoldupRecheck (s : State) : Host.Outcome State Fault Refusal := ran s (s.m.fieldAccess .glob 0 F.PWR_CTRL_HOLDUP_RECHECK 1)

/-- HOLDUP_PERIOD_EXPIRY (R520). -/
def execHoldupPeriodExpiry (s : State) : Host.Outcome State Fault Refusal := ran s (s.m.periodExpiry)

/-- HOLDUP_MEASURE_DONE (R520, R521). -/
def execHoldupMeasureDone (v0 v1 esrMohm : Nat) (s : State) : Host.Outcome State Fault Refusal := ran s (s.m.measureDone v0 v1 esrMohm)

/-- POWER_LIMIT_SAMPLE (R527). -/
def execPowerLimitSample (watts mv : Nat) (duty : Nat) (s : State) : Host.Outcome State Fault Refusal := ran s (s.m.powerSample watts mv duty)

/-- THERMAL_THROTTLE (R530). -/
def execThermalThrottle (group : Fin 4) (tempC : Nat) (s : State) : Host.Outcome State Fault Refusal := ran s (s.m.thermalThrottle group.val tempC)

/-- THROTTLE_STEP (R530). -/
def execThrottleStep (temps : List Nat) (s : State) : Host.Outcome State Fault Refusal := ran s (s.m.throttleStep temps)

/-- THERMAL_TRIP (R530). -/
def execThermalTrip (group : Fin 4) (tempC : Nat) (s : State) : Host.Outcome State Fault Refusal := ran s (s.m.thermalTrip group.val tempC)

/-- HARD_TRIP (R530). -/
def execHardTrip (group : Fin 4) (tempC : Nat) (s : State) : Host.Outcome State Fault Refusal := ran s (s.m.hardTrip group.val tempC)

/-- VIN_THRESHOLD_CROSSING (R516, R517). -/
def execVinThresholdCrossing (mv : Nat) (s : State) : Host.Outcome State Fault Refusal := ran s (s.m.crossing mv)

/-- IMAGE_LOAD (R538): BOOT_CTRL is written. -/
def execImageLoad (v : Word) (s : State) : Host.Outcome State Fault Refusal := ran s (s.m.access (.write (F.BOOT_CTRL_LOAD.key .glob 0 0) v))

/-- IMAGE_LOAD_DONE (R539). -/
def execImageLoadDone (image : ImageBytes) (loadUs : Nat) (s : State) : Host.Outcome State Fault Refusal := ran s (s.m.imageLoadDone image loadUs)

/-- STEWARD_WATCHDOG_EXPIRY (R540). -/
def execStewardWatchdogExpiry (s : State) : Host.Outcome State Fault Refusal := ran s (s.m.watchdogExpiry)

/-- ATTEST (R544). -/
def execAttest (ring : Fin 65536) (s : State) : Host.Outcome State Fault Refusal := ran s (s.m.runDesc ring.val 0x60 (fun d m => m.attest d))

/-- CERT_READ (R545). -/
def execCertRead (ring : Fin 65536) (s : State) : Host.Outcome State Fault Refusal := ran s (s.m.runDesc ring.val 0x61 (fun d m => m.certRead d))

end Sys2Proof.Machine
end

