-- ==== Sys2Proof/Machine/ExecRegs.lean ====
section
/-! DEFINITION. Accesses to registers (spec 00: R14 to R20, R549), the placement commit (01: R29) and the sideband registers (16: R511, R512). -/

namespace Sys2Proof.Machine

/-- REGISTER_WRITE (R19): a whole register is written. -/
def execRegisterWrite (sp : RegSpace) (off : Nat) (v : Word) (s : State) : Host.Outcome State Fault Refusal :=
  ran s (match sp with
    | .window => s.m.access (.write off v)
    | .sideband => s.m.sbWrite off v.toNat)

/-- LOWER_HALF_WRITE (R16). -/
def execLowerHalfWrite (off : Nat) (v : BitVec 32) (s : State) : Host.Outcome State Fault Refusal := ran s (s.m.access (.half off false v))

/-- UPPER_HALF_WRITE (R16). -/
def execUpperHalfWrite (off : Nat) (v : BitVec 32) (s : State) : Host.Outcome State Fault Refusal := ran s (s.m.access (.half off true v))

/-- LOWER_HALF_READ (R549). -/
def execLowerHalfRead (off : Nat) (s : State) : Host.Outcome State Fault Refusal := ran s (s.m.access (.read off 4))

/-- RC_READ (R18): a 64-bit read, or a 32-bit read of the upper half (R549). -/
def execRcRead (off : Nat) (upper : Bool) (s : State) : Host.Outcome State Fault Refusal :=
  ran s (s.m.access (if upper then .read (off + 4) 4 else .read off 8))

/-- MISALIGNED_ACCESS (R15). -/
def execMisalignedAccess (off : Nat) (write : Bool) (s : State) : Host.Outcome State Fault Refusal := ran s (s.m.access (.misaligned off write))

/-- PLACEMENT_COMMIT (R29): SB_COMMIT.COMMIT is written 1. -/
def execPlacementCommit (s : State) : Host.Outcome State Fault Refusal := ran s (s.m.sbWrite 0x30 1)

/-- SB_WARM_REQUEST (R512): SB_REQUEST is written with WARM set. -/
def execSbWarmRequest (v : Word) (s : State) : Host.Outcome State Fault Refusal := ran s (if bitOf v.toNat 0 then s.m.sbWrite 0x10 v.toNat else s.m)

/-- DORMANT_REQUEST (R497): SB_REQUEST is written with DORMANT set. -/
def execDormantRequest (v : Word) (s : State) : Host.Outcome State Fault Refusal := ran s (if bitOf v.toNat 1 then s.m.sbWrite 0x10 v.toNat else s.m)

/-- WAKE_REQUEST (R497): SB_REQUEST is written with WAKE set. -/
def execWakeRequest (v : Word) (s : State) : Host.Outcome State Fault Refusal := ran s (if bitOf v.toNat 2 then s.m.sbWrite 0x10 v.toNat else s.m)

/-- SB_EVENTS_CLEAR (R511): SB_EVENTS is written. -/
def execSbEventsClear (v : Word) (s : State) : Host.Outcome State Fault Refusal := ran s (s.m.sbWrite 0x18 v.toNat)

/-- I3C_DYNAMIC_ADDRESS (R510). -/
def execI3cDynamicAddress (a : Nat) (s : State) : Host.Outcome State Fault Refusal := ran s (s.m.dynamicAddress a)

end Sys2Proof.Machine
end

