-- ==== Sys2Proof/Machine/ExecRoute.lean ====
section
/-! DEFINITION. Routing and hoses (spec 11). -/

namespace Sys2Proof.Machine

/-- TRUNK_STATE_RECEIVED (R364). -/
def execTrunkStateReceived (port : Fin 262) (p : Packet) (s : State) : Host.Outcome State Fault Refusal := ran s (s.m.arrive port.val [0x6E] p)

/-- TRUNK_STATE_SEND (R364). -/
def execTrunkStateSend (s : State) : Host.Outcome State Fault Refusal := ran s (s.m.trunkStateSend)

/-- HOSE_OPEN (R369, R370). -/
def execHoseOpen (ring : Fin 65536) (s : State) : Host.Outcome State Fault Refusal := ran s (s.m.runDesc ring.val 0x40 (fun d m => m.hoseOpen d))

/-- HOSE_SETUP_RECEIVED (R371). -/
def execHoseSetupReceived (port : Fin 262) (p : Packet) (s : State) : Host.Outcome State Fault Refusal := ran s (s.m.arrive port.val [0x68] p)

/-- HOSE_REPLY_RECEIVED (R371, R375). -/
def execHoseReplyReceived (port : Fin 262) (p : Packet) (s : State) : Host.Outcome State Fault Refusal := ran s (s.m.arrive port.val [0x69] p)

/-- HOSE_SETUP_TIMEOUT (R371). -/
def execHoseSetupTimeout (h : Fin 4096) (s : State) : Host.Outcome State Fault Refusal := ran s (s.m.hoseSetupTimeout h.val)

/-- HOSE_CLOSE (R375). -/
def execHoseClose (ring : Fin 65536) (s : State) : Host.Outcome State Fault Refusal := ran s (s.m.runDesc ring.val 0x41 (fun d m => m.hoseClose d))

/-- HOSE_TEAR_SEND (R375). -/
def execHoseTearSend (h : Fin 4096) (s : State) : Host.Outcome State Fault Refusal := ran s (s.m.hoseTearSend h.val)

/-- HOSE_TEAR_RECEIVED (R375). -/
def execHoseTearReceived (port : Fin 262) (p : Packet) (s : State) : Host.Outcome State Fault Refusal := ran s (s.m.arrive port.val [0x6A] p)

/-- HOSE_CLOSE_TIMEOUT (R375). -/
def execHoseCloseTimeout (h : Fin 4096) (s : State) : Host.Outcome State Fault Refusal := ran s (s.m.hoseCloseTimeout h.val)

/-- HOSE_ORPHAN_TIMEOUT (R375). -/
def execHoseOrphanTimeout (h : Fin 4096) (s : State) : Host.Outcome State Fault Refusal := ran s (s.m.hoseOrphan h.val)

/-- HOSE_DATA_RECEIVED (R373, R376). -/
def execHoseDataReceived (port : Fin 262) (p : Packet) (crcOk : Bool) (s : State) : Host.Outcome State Fault Refusal :=
  ran s (s.m.arrive port.val [0x6B] p crcOk)

/-- HOSE_MARK_RECEIVED (R374). -/
def execHoseMarkReceived (port : Fin 262) (p : Packet) (s : State) : Host.Outcome State Fault Refusal := ran s (s.m.arrive port.val [0x6C] p)

/-- HOSE_WINDOW_RECEIVED (R374). -/
def execHoseWindowReceived (port : Fin 262) (p : Packet) (s : State) : Host.Outcome State Fault Refusal := ran s (s.m.arrive port.val [0x6D] p)

/-- HOSE_MARK_TIMER (R374). -/
def execHoseMarkTimer (h : Fin 4096) (s : State) : Host.Outcome State Fault Refusal := ran s (s.m.hoseMarkSend h.val)

/-- HOSE_WINDOW_TIMER (R374). -/
def execHoseWindowTimer (h : Fin 4096) (s : State) : Host.Outcome State Fault Refusal := ran s (s.m.hoseWindowSend h.val)

end Sys2Proof.Machine
end

