-- ==== Sys2Proof/Machine/ExecSwitch.lean ====
section
/-! DEFINITION. The switch core and its queues (spec 09, 10), placement checks (01). -/

namespace Sys2Proof.Machine

/-- HELLO_RECEIVED (R37, R38, R312). -/
def execHelloReceived (port : Fin 262) (p : Packet) (s : State) : Host.Outcome State Fault Refusal := ran s (s.m.arrive port.val [0x01] p)

/-- HELLO_PERIOD_EXPIRY (R312, R314). -/
def execHelloPeriodExpiry (s : State) : Host.Outcome State Fault Refusal := ran s (s.m.helloPeriod)

/-- AMO_REQ_RECEIVED (R321, R322). -/
def execAmoReqReceived (port : Fin 256) (p : Packet) (s : State) : Host.Outcome State Fault Refusal := ran s (s.m.arrive port.val [0x10] p)

/-- PT_RECEIVED (R323). -/
def execPtReceived (port : Fin 262) (p : Packet) (crcOk : Bool) (s : State) : Host.Outcome State Fault Refusal :=
  ran s (s.m.arrive port.val [0x18] p crcOk)

/-- RELAY_RECEIVED (R324). -/
def execRelayReceived (port : Fin 256) (p : Packet) (crcOk : Bool) (s : State) : Host.Outcome State Fault Refusal :=
  ran s (s.m.arrive port.val [0x19] p crcOk)

/-- LINK_RECEIVED (R314). -/
def execLinkReceived (port : Fin 262) (p : Packet) (s : State) : Host.Outcome State Fault Refusal := ran s (s.m.arrive port.val [0x02] p)

/-- LINK_CREDIT_TIMER (R314). -/
def execLinkCreditTimer (port : Fin 262) (s : State) : Host.Outcome State Fault Refusal := ran s (s.m.sendLink port.val)

/-- LAND_RELEASE (R328). -/
def execLandRelease (port : Fin 262) (tc : Fin 8) (s : State) : Host.Outcome State Fault Refusal := ran s (s.m.landRelease port.val tc.val)

/-- SCHEDULER_TICK (R341, R351, R353). -/
def execSchedulerTick (s : State) : Host.Outcome State Fault Refusal := ran s (s.m.over s.m.tickPorts (fun m p => m.tickPort p))

/-- SEND_OPPORTUNITY (R346 to R349). -/
def execSendOpportunity (port : Fin 262) (s : State) : Host.Outcome State Fault Refusal := ran s (s.m.sendOpportunity port.val)

/-- TRANSMIT_COMPLETE (R330). -/
def execTransmitComplete (port : Fin 262) (s : State) : Host.Outcome State Fault Refusal := ran s (s.m.transmitComplete port.val)

/-- SIEVE_ENABLE (R338): SIEVE_CTRL is written. -/
def execSieveEnable (v : Word) (s : State) : Host.Outcome State Fault Refusal := ran s (s.m.access (.write (F.SIEVE_CTRL_ENABLE.key .glob 0 0) v))

/-- SIEVE_CONSUME (R335): SIEVE_CONS is written. -/
def execSieveConsume (v : Word) (s : State) : Host.Outcome State Fault Refusal := ran s (s.m.access (.write (F.SIEVE_CONS_CONS.key .glob 0 0) v))

/-- CREDIT_RESEND_TIMER (R378). -/
def execCreditResendTimer (x : CtxId) (s : State) : Host.Outcome State Fault Refusal := ran s (s.m.creditResend x)

end Sys2Proof.Machine
end

