-- ==== Sys2Proof/Machine/ExecSync.lean ====
section
/-! DEFINITION. The sync unit and fabric time (spec 13). -/

namespace Sys2Proof.Machine

/-- SYNC_SIGNAL (R420, R422, R429). -/
def execSyncSignal (ring : Fin 65536) (s : State) : Host.Outcome State Fault Refusal := ran s (s.m.runDesc ring.val 0x48 (fun d m => m.syncSignal d))

/-- SYNC_WAIT (R422, R424). -/
def execSyncWait (ring : Fin 65536) (s : State) : Host.Outcome State Fault Refusal := ran s (s.m.runDesc ring.val 0x49 (fun d m => m.syncWait d))

/-- SYNC_FENCE (R425). -/
def execSyncFence (ring : Fin 65536) (s : State) : Host.Outcome State Fault Refusal := ran s (s.m.runDesc ring.val 0x4A (fun d m => m.syncFence d))

/-- SYNC_CANCEL (R423, R430). -/
def execSyncCancel (ring : Fin 65536) (s : State) : Host.Outcome State Fault Refusal := ran s (s.m.runDesc ring.val 0x4B (fun d m => m.syncCancel d))

/-- SYNC_OP_RECEIVED (R431, R432). -/
def execSyncOpReceived (port : Fin 256) (p : Packet) (s : State) : Host.Outcome State Fault Refusal := ran s (s.m.arrive port.val [0x40] p)

/-- SYNC_WAIT_TIMEOUT (R423). -/
def execSyncWaitTimeout (w : Waiter) (s : State) : Host.Outcome State Fault Refusal := ran s (s.m.syncWaitTimeout w)

/-- SYNC_VAL_WRITE (R433): SYNC_VAL is written. -/
def execSyncValWrite (v : Word) (s : State) : Host.Outcome State Fault Refusal := ran s (s.m.access (.write (F.SYNC_VAL_VALUE.key .glob 0 0) v))

/-- SYNC_DEADLOCK_DETECT (R427). -/
def execSyncDeadlockDetect (g : Fin 256) (s : State) : Host.Outcome State Fault Refusal := ran s (s.m.syncDeadlock g.val)

/-- TIME_SYNC_TIMER (R437). -/
def execTimeSyncTimer (s : State) : Host.Outcome State Fault Refusal := ran s (s.m.timeSyncTimer)

/-- DELAY_MEASURE_TIMER (R438). -/
def execDelayMeasureTimer (s : State) : Host.Outcome State Fault Refusal := ran s (s.m.delayMeasure)

/-- TIME_SYNC_RECEIVED (R437, R441). -/
def execTimeSyncReceived (port : Fin 262) (p : Packet) (s : State) : Host.Outcome State Fault Refusal := ran s (s.m.arrive port.val [0x48] p)

/-- DELAY_REQ_RECEIVED (R438). -/
def execDelayReqReceived (port : Fin 262) (p : Packet) (turnaroundPs : Nat) (s : State) : Host.Outcome State Fault Refusal :=
  ran s (s.m.arrive port.val [0x49] p true turnaroundPs)

/-- DELAY_RSP_RECEIVED (R438). -/
def execDelayRspReceived (port : Fin 262) (p : Packet) (s : State) : Host.Outcome State Fault Refusal := ran s (s.m.arrive port.val [0x4A] p)

/-- TIME_APPLY_SET (R436): TIME_CTRL.APPLY_SET is written 1. -/
def execTimeApplySet (s : State) : Host.Outcome State Fault Refusal := ran s (s.m.fieldAccess .glob 0 F.TIME_CTRL_APPLY_SET 1)

/-- PPS_IN_EDGE (R440). -/
def execPpsInEdge (s : State) : Host.Outcome State Fault Refusal := ran s (s.m.ppsIn)

/-- TOD_IN_RECEIVED (R448). -/
def execTodInReceived (msg : TodMsg) (s : State) : Host.Outcome State Fault Refusal := ran s (s.m.todIn msg)

/-- PPS_OUT_EDGE (R447). -/
def execPpsOutEdge (s : State) : Host.Outcome State Fault Refusal := ran s (s.m.ppsOut)

/-- TOD_OUT_SEND (R448). -/
def execTodOutSend (s : State) : Host.Outcome State Fault Refusal := ran s (s.m.todOut)

/-- TIME_SOURCE_TIMEOUT (R443). -/
def execTimeSourceTimeout (s : State) : Host.Outcome State Fault Refusal := ran s (s.m.timeSourceLost)

/-- NO_MASTER_TIMEOUT (R443). -/
def execNoMasterTimeout (s : State) : Host.Outcome State Fault Refusal := ran s (s.m.noMaster)

/-- PPS_OUT_PULSE_END (R447). -/
def execPpsOutPulseEnd (s : State) : Host.Outcome State Fault Refusal := ran s (s.m.ppsOutEnd)

end Sys2Proof.Machine
end

