-- ==== Sys2Proof/Machine/ExecTrellis.lean ====
section
/-! DEFINITION. Trellis engines and programs (spec 06). -/

namespace Sys2Proof.Machine

/-- INVOCATION_START (R196, R201). -/
def execInvocationStart (e : Fin 16) (s : State) : Host.Outcome State Fault Refusal := ran s (s.m.invocationStart e.val)

/-- BUNDLE_ISSUE (R206 to R220, R229). -/
def execBundleIssue (e : Fin 16) (s : State) : Host.Outcome State Fault Refusal := ran s (s.m.bundleIssue e.val)

/-- STREAM_COMPLETE (R209). -/
def execStreamComplete (e : Fin 16) (n : Nat) (s : State) : Host.Outcome State Fault Refusal := ran s (s.m.streamComplete e.val n)

/-- ICACHE_FILL_DONE (R228). -/
def execIcacheFillDone (e : Fin 16) (s : State) : Host.Outcome State Fault Refusal := ran s (s.m.icacheFill e.val)

/-- INVOCATION_LIMIT (R231). -/
def execInvocationLimit (e : Fin 16) (s : State) : Host.Outcome State Fault Refusal := ran s (s.m.invocationLimit e.val)

/-- PHASE4_END (R203, R204). -/
def execPhase4End (c : CollId) (s : State) : Host.Outcome State Fault Refusal := ran s (s.m.phase4End c)

/-- PHASE4_TIMEOUT (R205). -/
def execPhase4Timeout (c : CollId) (s : State) : Host.Outcome State Fault Refusal := ran s (s.m.phase4Timeout c)

/-- PROG_LOAD (R223, R224). -/
def execProgLoad (ring : Fin 65536) (s : State) : Host.Outcome State Fault Refusal := ran s (s.m.runDesc ring.val 0x30 (fun d m => m.progLoad d))

/-- PROG_LOAD_DONE (R224 to R226). -/
def execProgLoadDone (program : Nat) (image : Readback) (loadNs : Nat) (s : State) : Host.Outcome State Fault Refusal :=
  ran s (s.m.progLoadDone program image loadNs)

/-- PROG_UNLOAD (R227). -/
def execProgUnload (ring : Fin 65536) (s : State) : Host.Outcome State Fault Refusal := ran s (s.m.runDesc ring.val 0x31 (fun d m => m.progUnload d))

/-- PROG_UNLOAD_DONE (R227). -/
def execProgUnloadDone (program : Nat) (s : State) : Host.Outcome State Fault Refusal := ran s (s.m.progUnloadDone program)

/-- CLEAR_FAULT (R232): TRELLIS_CTRL.CLEAR_FAULT is written 1. -/
def execClearFault (e : Fin 16) (s : State) : Host.Outcome State Fault Refusal := ran s (s.m.fieldAccess .engine e.val F.TRELLIS_CTRL_CLEAR_FAULT 1)

/-- ENGINE_DISABLE (R233): TRELLIS_CTRL.ENABLE is written 0. -/
def execEngineDisable (e : Fin 16) (s : State) : Host.Outcome State Fault Refusal := ran s (s.m.fieldAccess .engine e.val F.TRELLIS_CTRL_ENABLE 0)

/-- ENGINE_ENABLE (R233): TRELLIS_CTRL.ENABLE is written 1. -/
def execEngineEnable (e : Fin 16) (s : State) : Host.Outcome State Fault Refusal := ran s (s.m.fieldAccess .engine e.val F.TRELLIS_CTRL_ENABLE 1)

end Sys2Proof.Machine
end

