-- ==== Sys2Proof/Machine/Dispatch.lean ====
section
/-! DEFINITION. One arm per command: the call of its meaning. -/

namespace Sys2Proof.Machine

/-- The effect of a command on everything but the queue. -/
def exec (i : Instr) (s : State) : Host.Outcome State Fault Refusal :=
  match i with
  | .registerWrite sp off v => Sys2Proof.Machine.execRegisterWrite sp off v s
  | .lowerHalfWrite off v => Sys2Proof.Machine.execLowerHalfWrite off v s
  | .upperHalfWrite off v => Sys2Proof.Machine.execUpperHalfWrite off v s
  | .lowerHalfRead off => Sys2Proof.Machine.execLowerHalfRead off s
  | .rcRead off upper => Sys2Proof.Machine.execRcRead off upper s
  | .misalignedAccess off write => Sys2Proof.Machine.execMisalignedAccess off write s
  | .placementCommit => Sys2Proof.Machine.execPlacementCommit s
  | .helloReceived port p => Sys2Proof.Machine.execHelloReceived port p s
  | .helloPeriodExpiry => Sys2Proof.Machine.execHelloPeriodExpiry s
  | .commCreate ring list experts => Sys2Proof.Machine.execCommCreate ring list experts s
  | .commDestroy ring => Sys2Proof.Machine.execCommDestroy ring s
  | .commQuery ring => Sys2Proof.Machine.execCommQuery ring s
  | .allReduce ring => Sys2Proof.Machine.execAllReduce ring s
  | .reduceScatter ring => Sys2Proof.Machine.execReduceScatter ring s
  | .allGather ring => Sys2Proof.Machine.execAllGather ring s
  | .broadcast ring => Sys2Proof.Machine.execBroadcast ring s
  | .reduceUpdateBcast ring => Sys2Proof.Machine.execReduceUpdateBcast ring s
  | .dispatch ring => Sys2Proof.Machine.execDispatch ring s
  | .combine ring => Sys2Proof.Machine.execCombine ring s
  | .memberFence ring => Sys2Proof.Machine.execMemberFence ring s
  | .memberUnfence ring => Sys2Proof.Machine.execMemberUnfence ring s
  | .rmQuota ring => Sys2Proof.Machine.execRmQuota ring s
  | .quotaSetAside comm => Sys2Proof.Machine.execQuotaSetAside comm s
  | .contextAdmit pool => Sys2Proof.Machine.execContextAdmit pool s
  | .admissionTimeout c => Sys2Proof.Machine.execAdmissionTimeout c s
  | .contribReceived port p => Sys2Proof.Machine.execContribReceived port p s
  | .spillReadbackDone x level index => Sys2Proof.Machine.execSpillReadbackDone x level index s
  | .furrowGroupComplete f bad => Sys2Proof.Machine.execFurrowGroupComplete f bad s
  | .retainSpaceFreed => Sys2Proof.Machine.execRetainSpaceFreed s
  | .furrowRetire f => Sys2Proof.Machine.execFurrowRetire f s
  | .contextMoveDone f => Sys2Proof.Machine.execContextMoveDone f s
  | .furrowWaitTimeout c => Sys2Proof.Machine.execFurrowWaitTimeout c s
  | .furrowDisable f => Sys2Proof.Machine.execFurrowDisable f s
  | .furrowGated f => Sys2Proof.Machine.execFurrowGated f s
  | .furrowEnable f => Sys2Proof.Machine.execFurrowEnable f s
  | .furrowInjectArm f v => Sys2Proof.Machine.execFurrowInjectArm f v s
  | .ackReceived port p => Sys2Proof.Machine.execAckReceived port p s
  | .retentionTimeout id addr => Sys2Proof.Machine.execRetentionTimeout id addr s
  | .contribDeadline c addr => Sys2Proof.Machine.execContribDeadline c addr s
  | .trunkRetentionTimeout id => Sys2Proof.Machine.execTrunkRetentionTimeout id s
  | .resultMissingTimeout c addr => Sys2Proof.Machine.execResultMissingTimeout c addr s
  | .verdictPassStart c => Sys2Proof.Machine.execVerdictPassStart c s
  | .recordsReceived port p => Sys2Proof.Machine.execRecordsReceived port p s
  | .endSend c => Sys2Proof.Machine.execEndSend c s
  | .collectiveComplete c => Sys2Proof.Machine.execCollectiveComplete c s
  | .columnReceived port p => Sys2Proof.Machine.execColumnReceived port p s
  | .tresultReceived port p => Sys2Proof.Machine.execTresultReceived port p s
  | .tackReceived port p => Sys2Proof.Machine.execTackReceived port p s
  | .landedPacketRelease port tc => Sys2Proof.Machine.execLandedPacketRelease port tc s
  | .invocationStart e => Sys2Proof.Machine.execInvocationStart e s
  | .bundleIssue e => Sys2Proof.Machine.execBundleIssue e s
  | .streamComplete e n => Sys2Proof.Machine.execStreamComplete e n s
  | .icacheFillDone e => Sys2Proof.Machine.execIcacheFillDone e s
  | .invocationLimit e => Sys2Proof.Machine.execInvocationLimit e s
  | .phase4End c => Sys2Proof.Machine.execPhase4End c s
  | .phase4Timeout c => Sys2Proof.Machine.execPhase4Timeout c s
  | .progLoad ring => Sys2Proof.Machine.execProgLoad ring s
  | .progLoadDone program image loadNs => Sys2Proof.Machine.execProgLoadDone program image loadNs s
  | .progUnload ring => Sys2Proof.Machine.execProgUnload ring s
  | .progUnloadDone program => Sys2Proof.Machine.execProgUnloadDone program s
  | .clearFault e => Sys2Proof.Machine.execClearFault e s
  | .engineDisable e => Sys2Proof.Machine.execEngineDisable e s
  | .engineEnable e => Sys2Proof.Machine.execEngineEnable e s
  | .clocheGroupCreate ring list => Sys2Proof.Machine.execClocheGroupCreate ring list s
  | .groupJoinResolve group answers => Sys2Proof.Machine.execGroupJoinResolve group answers s
  | .deltaReceived port p => Sys2Proof.Machine.execDeltaReceived port p s
  | .stampReceived port p => Sys2Proof.Machine.execStampReceived port p s
  | .ledgerWrite ring entry => Sys2Proof.Machine.execLedgerWrite ring entry s
  | .ledgerReceived port p => Sys2Proof.Machine.execLedgerReceived port p s
  | .clocheRestore ring record image answers => Sys2Proof.Machine.execClocheRestore ring record image answers s
  | .stripeReceived port p => Sys2Proof.Machine.execStripeReceived port p s
  | .restoreComplete group => Sys2Proof.Machine.execRestoreComplete group s
  | .clocheGroupDestroy ring => Sys2Proof.Machine.execClocheGroupDestroy ring s
  | .clocheQuery ring => Sys2Proof.Machine.execClocheQuery ring s
  | .scrubRead ch upsets => Sys2Proof.Machine.execScrubRead ch upsets s
  | .channelAccessTimeout ch => Sys2Proof.Machine.execChannelAccessTimeout ch s
  | .channelMapout ch => Sys2Proof.Machine.execChannelMapout ch s
  | .slotRemapDone slot => Sys2Proof.Machine.execSlotRemapDone slot s
  | .migrationUnit slot unit => Sys2Proof.Machine.execMigrationUnit slot unit s
  | .channelInjectArm ch v => Sys2Proof.Machine.execChannelInjectArm ch v s
  | .hbmStartDone failed => Sys2Proof.Machine.execHbmStartDone failed s
  | .selfRefreshEnter stack => Sys2Proof.Machine.execSelfRefreshEnter stack s
  | .apertureRead addr len upsets => Sys2Proof.Machine.execApertureRead addr len upsets s
  | .apertureWrite addr data => Sys2Proof.Machine.execApertureWrite addr data s
  | .amoReqReceived port p => Sys2Proof.Machine.execAmoReqReceived port p s
  | .ptReceived port p crcOk => Sys2Proof.Machine.execPtReceived port p crcOk s
  | .relayReceived port p crcOk => Sys2Proof.Machine.execRelayReceived port p crcOk s
  | .linkReceived port p => Sys2Proof.Machine.execLinkReceived port p s
  | .linkCreditTimer port => Sys2Proof.Machine.execLinkCreditTimer port s
  | .landRelease port tc => Sys2Proof.Machine.execLandRelease port tc s
  | .schedulerTick => Sys2Proof.Machine.execSchedulerTick s
  | .sendOpportunity port => Sys2Proof.Machine.execSendOpportunity port s
  | .transmitComplete port => Sys2Proof.Machine.execTransmitComplete port s
  | .sieveEnable v => Sys2Proof.Machine.execSieveEnable v s
  | .sieveConsume v => Sys2Proof.Machine.execSieveConsume v s
  | .creditResendTimer x => Sys2Proof.Machine.execCreditResendTimer x s
  | .trunkStateReceived port p => Sys2Proof.Machine.execTrunkStateReceived port p s
  | .trunkStateSend => Sys2Proof.Machine.execTrunkStateSend s
  | .hoseOpen ring => Sys2Proof.Machine.execHoseOpen ring s
  | .hoseSetupReceived port p => Sys2Proof.Machine.execHoseSetupReceived port p s
  | .hoseReplyReceived port p => Sys2Proof.Machine.execHoseReplyReceived port p s
  | .hoseSetupTimeout h => Sys2Proof.Machine.execHoseSetupTimeout h s
  | .hoseClose ring => Sys2Proof.Machine.execHoseClose ring s
  | .hoseTearSend h => Sys2Proof.Machine.execHoseTearSend h s
  | .hoseTearReceived port p => Sys2Proof.Machine.execHoseTearReceived port p s
  | .hoseCloseTimeout h => Sys2Proof.Machine.execHoseCloseTimeout h s
  | .hoseOrphanTimeout h => Sys2Proof.Machine.execHoseOrphanTimeout h s
  | .hoseDataReceived port p crcOk => Sys2Proof.Machine.execHoseDataReceived port p crcOk s
  | .hoseMarkReceived port p => Sys2Proof.Machine.execHoseMarkReceived port p s
  | .hoseWindowReceived port p => Sys2Proof.Machine.execHoseWindowReceived port p s
  | .hoseMarkTimer h => Sys2Proof.Machine.execHoseMarkTimer h s
  | .hoseWindowTimer h => Sys2Proof.Machine.execHoseWindowTimer h s
  | .laneEnable l => Sys2Proof.Machine.execLaneEnable l s
  | .laneDisable l => Sys2Proof.Machine.execLaneDisable l s
  | .laneSignalDetect l => Sys2Proof.Machine.execLaneSignalDetect l s
  | .laneCwLock l => Sys2Proof.Machine.execLaneCwLock l s
  | .laneTrainTimeout l => Sys2Proof.Machine.execLaneTrainTimeout l s
  | .portForm lp => Sys2Proof.Machine.execPortForm lp s
  | .flitReceived l c => Sys2Proof.Machine.execFlitReceived l c s
  | .controlFlitReceived l c => Sys2Proof.Machine.execControlFlitReceived l c s
  | .controlFlitTimer lp => Sys2Proof.Machine.execControlFlitTimer lp s
  | .laneSignalLoss l => Sys2Proof.Machine.execLaneSignalLoss l s
  | .laneMarginCheck l avgSymbols => Sys2Proof.Machine.execLaneMarginCheck l avgSymbols s
  | .laneSwitchOffTimeout l => Sys2Proof.Machine.execLaneSwitchOffTimeout l s
  | .laneReadd l => Sys2Proof.Machine.execLaneReadd l s
  | .laneClearHold l => Sys2Proof.Machine.execLaneClearHold l s
  | .lightIdleEnter lp => Sys2Proof.Machine.execLightIdleEnter lp s
  | .lightIdleBeacon lp => Sys2Proof.Machine.execLightIdleBeacon lp s
  | .lightIdleExit lp => Sys2Proof.Machine.execLightIdleExit lp s
  | .deepIdleEnter port => Sys2Proof.Machine.execDeepIdleEnter port s
  | .deepIdleWake port => Sys2Proof.Machine.execDeepIdleWake port s
  | .deepCheckTimer port => Sys2Proof.Machine.execDeepCheckTimer port s
  | .laneInjectArm l v => Sys2Proof.Machine.execLaneInjectArm l v s
  | .refSourceChange v => Sys2Proof.Machine.execRefSourceChange v s
  | .refSourceLost => Sys2Proof.Machine.execRefSourceLost s
  | .refSourceReturn offsetPpb spread => Sys2Proof.Machine.execRefSourceReturn offsetPpb spread s
  | .syncSignal ring => Sys2Proof.Machine.execSyncSignal ring s
  | .syncWait ring => Sys2Proof.Machine.execSyncWait ring s
  | .syncFence ring => Sys2Proof.Machine.execSyncFence ring s
  | .syncCancel ring => Sys2Proof.Machine.execSyncCancel ring s
  | .syncOpReceived port p => Sys2Proof.Machine.execSyncOpReceived port p s
  | .syncWaitTimeout w => Sys2Proof.Machine.execSyncWaitTimeout w s
  | .syncValWrite v => Sys2Proof.Machine.execSyncValWrite v s
  | .syncDeadlockDetect g => Sys2Proof.Machine.execSyncDeadlockDetect g s
  | .timeSyncTimer => Sys2Proof.Machine.execTimeSyncTimer s
  | .delayMeasureTimer => Sys2Proof.Machine.execDelayMeasureTimer s
  | .timeSyncReceived port p => Sys2Proof.Machine.execTimeSyncReceived port p s
  | .delayReqReceived port p turnaroundPs => Sys2Proof.Machine.execDelayReqReceived port p turnaroundPs s
  | .delayRspReceived port p => Sys2Proof.Machine.execDelayRspReceived port p s
  | .timeApplySet => Sys2Proof.Machine.execTimeApplySet s
  | .ppsInEdge => Sys2Proof.Machine.execPpsInEdge s
  | .todInReceived msg => Sys2Proof.Machine.execTodInReceived msg s
  | .ppsOutEdge => Sys2Proof.Machine.execPpsOutEdge s
  | .todOutSend => Sys2Proof.Machine.execTodOutSend s
  | .timeSourceTimeout => Sys2Proof.Machine.execTimeSourceTimeout s
  | .noMasterTimeout => Sys2Proof.Machine.execNoMasterTimeout s
  | .assign regBase hbmBase => Sys2Proof.Machine.execAssign regBase hbmBase s
  | .holmAckReceived seq lost => Sys2Proof.Machine.execHolmAckReceived seq lost s
  | .holmAckTimeout => Sys2Proof.Machine.execHolmAckTimeout s
  | .runStop fn => Sys2Proof.Machine.execRunStop fn s
  | .runStopDone fn => Sys2Proof.Machine.execRunStopDone fn s
  | .runStart fn => Sys2Proof.Machine.execRunStart fn s
  | .runStartDone fn => Sys2Proof.Machine.execRunStartDone fn s
  | .drDoorbell r v => Sys2Proof.Machine.execDrDoorbell r v s
  | .ringEnable r => Sys2Proof.Machine.execRingEnable r s
  | .ringDisable r => Sys2Proof.Machine.execRingDisable r s
  | .descriptorFetchDone r first data => Sys2Proof.Machine.execDescriptorFetchDone r first data s
  | .descriptorAccept r => Sys2Proof.Machine.execDescriptorAccept r s
  | .nop ring => Sys2Proof.Machine.execNop ring s
  | .cplRingEnable c => Sys2Proof.Machine.execCplRingEnable c s
  | .cplRingDisable c => Sys2Proof.Machine.execCplRingDisable c s
  | .crDoorbell c v => Sys2Proof.Machine.execCrDoorbell c v s
  | .cplRecordWrite c => Sys2Proof.Machine.execCplRecordWrite c s
  | .cplStallTimeout c => Sys2Proof.Machine.execCplStallTimeout c s
  | .irqCoalTimeout c => Sys2Proof.Machine.execIrqCoalTimeout c s
  | .irqSend => Sys2Proof.Machine.execIrqSend s
  | .irqMaskWrite v => Sys2Proof.Machine.execIrqMaskWrite v s
  | .faultAssert src unit detail => Sys2Proof.Machine.execFaultAssert src unit detail s
  | .faultPairBroken src => Sys2Proof.Machine.execFaultPairBroken src s
  | .faultGraceExpiry => Sys2Proof.Machine.execFaultGraceExpiry s
  | .faultClear => Sys2Proof.Machine.execFaultClear s
  | .sramUeDetected area => Sys2Proof.Machine.execSramUeDetected area s
  | .internalParityError off => Sys2Proof.Machine.execInternalParityError off s
  | .faultLogRead ring => Sys2Proof.Machine.execFaultLogRead ring s
  | .warmReset v => Sys2Proof.Machine.execWarmReset v s
  | .functionReset fn => Sys2Proof.Machine.execFunctionReset fn s
  | .linkReset port => Sys2Proof.Machine.execLinkReset port s
  | .heartbeatTimeout => Sys2Proof.Machine.execHeartbeatTimeout s
  | .headlessResume => Sys2Proof.Machine.execHeadlessResume s
  | .twinDigestSend => Sys2Proof.Machine.execTwinDigestSend s
  | .twinDigestReceived port p => Sys2Proof.Machine.execTwinDigestReceived port p s
  | .twinKeyTimeout n => Sys2Proof.Machine.execTwinKeyTimeout n s
  | .twinEnable v => Sys2Proof.Machine.execTwinEnable v s
  | .powerOn mv => Sys2Proof.Machine.execPowerOn mv s
  | .powerOnDone mv v0 v1 esrMohm => Sys2Proof.Machine.execPowerOnDone mv v0 v1 esrMohm s
  | .coldReset => Sys2Proof.Machine.execColdReset s
  | .coldResetRelease mv v0 v1 esrMohm => Sys2Proof.Machine.execColdResetRelease mv v0 v1 esrMohm s
  | .powerLoss mv => Sys2Proof.Machine.execPowerLoss mv s
  | .overVoltage mv => Sys2Proof.Machine.execOverVoltage mv s
  | .overVoltageRecovery mv => Sys2Proof.Machine.execOverVoltageRecovery mv s
  | .brownoutStart mv duty => Sys2Proof.Machine.execBrownoutStart mv duty s
  | .brownoutEnd mv durationUs => Sys2Proof.Machine.execBrownoutEnd mv durationUs s
  | .holdupRecheck => Sys2Proof.Machine.execHoldupRecheck s
  | .holdupPeriodExpiry => Sys2Proof.Machine.execHoldupPeriodExpiry s
  | .holdupMeasureDone v0 v1 esrMohm => Sys2Proof.Machine.execHoldupMeasureDone v0 v1 esrMohm s
  | .powerLimitSample watts mv duty => Sys2Proof.Machine.execPowerLimitSample watts mv duty s
  | .thermalThrottle group tempC => Sys2Proof.Machine.execThermalThrottle group tempC s
  | .throttleStep temps => Sys2Proof.Machine.execThrottleStep temps s
  | .thermalTrip group tempC => Sys2Proof.Machine.execThermalTrip group tempC s
  | .hardTrip group tempC => Sys2Proof.Machine.execHardTrip group tempC s
  | .sbWarmRequest v => Sys2Proof.Machine.execSbWarmRequest v s
  | .dormantRequest v => Sys2Proof.Machine.execDormantRequest v s
  | .wakeRequest v => Sys2Proof.Machine.execWakeRequest v s
  | .sbEventsClear v => Sys2Proof.Machine.execSbEventsClear v s
  | .imageLoad v => Sys2Proof.Machine.execImageLoad v s
  | .imageLoadDone image loadUs => Sys2Proof.Machine.execImageLoadDone image loadUs s
  | .stewardWatchdogExpiry => Sys2Proof.Machine.execStewardWatchdogExpiry s
  | .attest ring => Sys2Proof.Machine.execAttest ring s
  | .certRead ring => Sys2Proof.Machine.execCertRead ring s
  | .laneCdrLock l => Sys2Proof.Machine.execLaneCdrLock l s
  | .holmAckTimer => Sys2Proof.Machine.execHolmAckTimer s
  | .ppsOutPulseEnd => Sys2Proof.Machine.execPpsOutPulseEnd s
  | .warmResetDone => Sys2Proof.Machine.execWarmResetDone s
  | .functionResetDone => Sys2Proof.Machine.execFunctionResetDone s
  | .i3cDynamicAddress a => Sys2Proof.Machine.execI3cDynamicAddress a s
  | .vinThresholdCrossing mv => Sys2Proof.Machine.execVinThresholdCrossing mv s

end Sys2Proof.Machine
end

