-- ==== Sys2Proof/Safety.lean ====
section
/-! DEFINITION. What counts as a sound state, in the terms that statements use. -/

namespace Sys2Proof.Machine

/-- The register file and the contents of HBM are in canonical form: indices strictly rising, and no entry equal to what an unlisted index
holds, so that equal contents are equal data. -/
structure Ilpiac.Canon (m : Ilpiac) : Prop where
  regs : Map.wf regReset m.regs = true
  mem : Memory.wf m.hbm.data = true

/-- A sound state: the block is canonical. -/
def State.Safe (s : State) : Prop := s.m.Canon

/-- The companion can reach the register window: the Holm port is UP and Assign has been taken, and no warm reset holds accesses back
(R457, R494). -/
structure Ilpiac.Linked (m : Ilpiac) : Prop where
  up : m.g F.HOLM_STATUS_STATE = holmUp
  awake : m.ctl.resetting = false

/-- A window access at this offset reaches a register: aligned, inside the window, of a unit that is present, and open at this stage of the
boot (R5, R14, R15, R541). -/
structure Ilpiac.Reaches (m : Ilpiac) (off : Nat) : Prop extends m.Linked where
  aligned : off % 8 = 0
  inside : off < 2 ^ 26
  here : m.responds off = true

/-- The messages that the module has for the companion and that are not acknowledged yet, in order (R453, R456). -/
def Ilpiac.told (m : Ilpiac) : List HolmMsg := m.ctl.holm.replay.map (·.msg) ++ m.ctl.holm.waiting

/-- A range of board addresses that lies in companion memory and inside a window of that direction (R458, R459). -/
structure Ilpiac.Coherent (m : Ilpiac) (addr len : Nat) (write : Bool) : Prop where
  notAperture : m.inAperture addr len = false
  notWindow : m.inRegWindow addr len = false
  allowed : m.windowOk addr len write = true

/-- Registers at fixed offsets whose write does more than set fields, or that take only some values: RUN_CTRL (R462), IRQ_MASK (R476),
FAULT_FIRST (R490), HEADLESS (R501), RESET_CTRL (R494), SYNC_VAL (R433), PWR_CTRL (R520, R527), TWIN_CTRL (R506), TIME_CTRL (R436), BOOT_CTRL and
BOOT_ADDR (R538, R548), SIEVE_CTRL and SIEVE_BASE (R338), ROUTE_CTRL (R375), REF_CTRL (R395), POOL_CFG0 (R306), RM_POLICY (R167). -/
def actingRegs : List Nat :=
  [0x100, 0x308, 0x20008, 0x20110, 0x20200, 0x40018, 0x10000, 0x20300, 0x30010, 0x50000, 0x50008, 0x280100, 0x280110, 0x290000, 0x390000, 0x740080,
    0x440000]

/-- Any other register at a fixed offset. -/
structure Plain (off : Nat) (d : RegDef) (j : Nat) : Prop where
  named : regDefOf off = some (d, j)
  fixed : (locate off).1 = .glob
  idle : off ∉ actingRegs

/-- The record with which a descriptor completes (R92): its completion ring, its words, its interrupt request. -/
def AccDesc.record (d : AccDesc) (status : Nat) (i : CplInfo := {}) : CplRec :=
  ⟨wRing d.words, cplWords d.words status i, wIrq d.words, d.ring, d.num, none, none⟩

/-- A packet passes the checks at its port (R308, R309, R319, R354): the port is formed and UP (a HELLO needs no UP), the packet is for the port to carry, its port is not shut,
its policer lets it in, and its length is right. -/
structure Ilpiac.Admits (m : Ilpiac) (port : Nat) (p : Packet) : Prop where
  formed : m.portFormed port = true
  up : m.portUp port = true ∨ p.ty = 0x01
  takes : m.refuses port p = false
  opened : m.portShut port p = false
  policed : (m.police port p).2 = true
  sized : p.lenOk = true

/-- A packet that passed the checks has been policed, counted at its port, and seen by the sieve (R335, R339, R354). -/
def Ilpiac.counted (m : Ilpiac) (port : Nat) (p : Packet) : Ilpiac :=
  ((m.police port p).1.wrapCnt (portBlk port) (portIdx port) F.PORT_TRAFFIC_RX_PACKETS 1).capture 0 port p

/-- A packet of a credited type has come in (R328, R552): it passed the checks, the port had landing cells for it, it is packet `id` of the buffer in the block `m2`, no packet of
its class waits before it, and it is not one whose communicator is unknown here. -/
structure Ilpiac.Lands (m : Ilpiac) (port : Nat) (p : Packet) (m2 : Ilpiac) (id : Nat) (b : BufPkt) : Prop extends m.Admits port p where
  credited : landsOn port p = true
  room : (m.counted port p).landIn port p = (some id, m2)
  stored : m2.bufPkt id = some b
  same : b.pkt = p
  front : (m2.landAck p).2.waitsBehind port b = false
  known : (m2.landAck p).1 = true

/-- A run of `n` steps from `s` ends in `t`. -/
def Runs : Nat → State → State → Prop
  | 0, s, t => s = t
  | n + 1, s, t => ∃ u, step s = .next u ∧ Runs n u t

/-- Where `n` beds of a walk lead that leaves each bed by its route toward a destination (R362). -/
def Ilpiac.follow (m : Ilpiac) (dest srcBed : Nat) : Nat → Nat → Nat
  | 0, bed => bed
  | n + 1, bed =>
    match m.routeVia bed dest srcBed [0, 1, 2] with
    | some r => m.follow dest srcBed n (m.neighbour bed r.1)
    | none => bed

/-- The parts of the block's state. -/
inductive Part where
  | regs | ctl | flt | twin | sw | coll | trellis | hbm | groups | lanes | links | sync | time | record | power | boot
deriving DecidableEq, Repr

/-- A part is in block `b` as it is in block `a`. -/
def Part.kept (a b : Ilpiac) : Part → Prop
  | .regs => b.regs = a.regs
  | .ctl => b.ctl = a.ctl
  | .flt => b.flt = a.flt
  | .twin => b.twin = a.twin
  | .sw => b.sw = a.sw
  | .coll => b.coll = a.coll
  | .trellis => b.trellis = a.trellis
  | .hbm => b.hbm = a.hbm
  | .groups => b.groups = a.groups
  | .lanes => b.lanes = a.lanes
  | .links => b.links = a.links
  | .sync => b.sync = a.sync
  | .time => b.time = a.time
  | .record => b.record = a.record
  | .power => b.power = a.power
  | .boot => b.boot = a.boot

/-- Every part but those listed. -/
def Part.but (l : List Part) : List Part :=
  [.regs, .ctl, .flt, .twin, .sw, .coll, .trellis, .hbm, .groups, .lanes, .links, .sync, .time, .record, .power, .boot].filter (fun p => !l.contains p)

/-- The frame of a command: the parts of the state that it leaves alone, for the commands that act on few of them. A command that carries a packet, that
writes a register with an effect of its own, that resets or powers the module or that lets collectives go on stands in no arm of its own: it may act
on every part. -/
def leavesAlone : Instr → List Part
  | .helloPeriodExpiry .. | .linkCreditTimer .. | .transmitComplete .. | .trunkStateSend .. | .hoseOpen .. | .hoseSetupTimeout ..
  | .hoseClose .. | .hoseTearSend .. | .hoseMarkTimer .. | .hoseWindowTimer .. | .functionResetDone .. =>
    Part.but [.regs, .ctl, .flt, .sw, .power]
  | .commCreate .. => Part.but [.regs, .ctl, .flt, .coll, .hbm, .groups, .record, .power]
  | .commQuery .. => Part.but [.regs, .ctl, .flt, .coll, .power]
  | .allReduce .. | .reduceScatter .. | .allGather .. | .broadcast .. | .reduceUpdateBcast .. | .dispatch .. | .combine .. | .rmQuota ..
  | .quotaSetAside .. =>
    Part.but [.regs, .ctl, .coll]
  | .memberUnfence .. | .syncFence .. | .syncDeadlockDetect .. | .assign .. | .holmAckReceived .. | .descriptorAccept .. | .nop ..
  | .irqCoalTimeout .. =>
    Part.but [.regs, .ctl]
  | .admissionTimeout .. | .furrowWaitTimeout .. | .contribDeadline .. => Part.but [.coll]
  | .contextMoveDone .. => Part.but [.regs, .coll]
  | .furrowGated .. | .selfRefreshEnter .. | .laneSignalDetect .. | .laneTrainTimeout .. | .laneCdrLock .. => Part.but [.regs]
  | .retentionTimeout .. | .endSend .. | .creditResendTimer .. => Part.but [.regs, .ctl, .flt, .sw, .coll, .power]
  | .resultMissingTimeout .. => Part.but [.regs, .sw, .coll]
  | .invocationStart .. => Part.but [.regs, .trellis]
  | .icacheFillDone .. => Part.but [.regs, .ctl, .flt, .trellis, .hbm, .groups, .record, .power]
  | .invocationLimit .. | .progLoad .. => Part.but [.regs, .ctl, .flt, .trellis, .power]
  | .progUnload .. => Part.but [.regs, .ctl, .trellis]
  | .progUnloadDone .. => Part.but [.regs, .ctl, .trellis, .hbm]
  | .clocheGroupCreate .. | .groupJoinResolve .. | .clocheRestore .. | .migrationUnit .. | .apertureRead .. | .runStopDone ..
  | .descriptorFetchDone .. =>
    Part.but [.regs, .ctl, .flt, .hbm, .groups, .record, .power]
  | .clocheQuery .. | .refSourceLost .. | .timeSourceTimeout .. | .noMasterTimeout .. | .cplStallTimeout .. | .faultAssert ..
  | .faultPairBroken .. | .internalParityError .. | .faultLogRead .. | .heartbeatTimeout .. | .brownoutStart .. | .thermalTrip ..
  | .stewardWatchdogExpiry .. | .attest .. | .certRead .. =>
    Part.but [.regs, .ctl, .flt, .power]
  | .scrubRead .. | .channelAccessTimeout .. | .hbmStartDone .. => Part.but [.regs, .ctl, .flt, .hbm, .record, .power]
  | .slotRemapDone .. => Part.but [.hbm]
  | .schedulerTick .. | .hoseOrphanTimeout .. => Part.but [.regs, .sw]
  | .sendOpportunity .. => Part.but [.regs, .ctl, .sw, .time]
  | .hoseCloseTimeout .. => Part.but [.regs, .ctl, .sw]
  | .laneCwLock .. | .controlFlitTimer .. | .lightIdleEnter .. | .lightIdleExit .. | .deepIdleEnter .. | .deepIdleWake ..
  | .deepCheckTimer .. =>
    Part.but [.regs, .links]
  | .laneSwitchOffTimeout .. => Part.but [.regs, .lanes, .links]
  | .laneReadd .. | .lightIdleBeacon .. => Part.but [.links]
  | .refSourceReturn .. => Part.but [.regs, .flt]
  | .syncSignal .. | .syncWait .. | .syncCancel .. | .syncWaitTimeout .. => Part.but [.regs, .ctl, .flt, .sw, .sync, .power]
  | .timeSyncTimer .. | .delayMeasureTimer .. => Part.but [.regs, .ctl, .flt, .sw, .time, .power]
  | .ppsInEdge .. | .todInReceived .. => Part.but [.regs, .ctl, .flt, .time, .power]
  | .ppsOutEdge .. | .todOutSend .. | .ppsOutPulseEnd .. => Part.but [.time]
  | .cplRecordWrite .. => Part.but [.regs, .ctl, .flt, .sw, .coll, .hbm, .power]
  | .irqSend .. | .holmAckTimer .. => Part.but [.ctl]
  | .twinDigestSend .. => Part.but [.regs, .ctl, .flt, .twin, .sw, .power]
  | .twinKeyTimeout .. => Part.but [.regs, .ctl, .flt, .twin, .power]
  | .brownoutEnd .. => Part.but [.regs, .flt, .power]
  | .holdupPeriodExpiry .. | .i3cDynamicAddress .. => Part.but [.power]
  | .holdupMeasureDone .. => Part.but [.regs, .ctl, .flt, .record, .power]
  | .powerLimitSample .. | .thermalThrottle .. | .throttleStep .. => Part.but [.regs, .power]
  | _ => []

end Sys2Proof.Machine
end

