-- ==== Sys2Proof/Certificates/Slice0/Obligations.lean ====
section
/-! DEFINITION. The statements for the provers. In those about one command, `m'` is the block as the command itself leaves it, and `m'.settle` is that
block with what then follows at once within the module (open collectives that can go on, due fault actions); `Settling` says when nothing
follows. -/

open Sys2Proof Sys2Proof.Machine

/-! ### The queue -/

/-- A step with a command at the front of the queue is that command's effect on the state with the queue's rest. -/
def Obligations.StepRunsFront : Prop := ∀ (c : Instr) (l : List Instr) (s : State), step { s with pending := c :: l } = exec c { s with pending := l }

/-- With no command waiting a step lets one furrow cycle pass (the model's choice, assumption 3): the queue stays empty and the cycle count rises
by one.

What follows from a command within the block happens only where something waits for it: a block with no open collective, cloche group,
phase 4, due fault action and own aperture write is left as the command left it. -/
def Obligations.Settling : Prop :=
  (∀ (m : Ilpiac),
     ∃ m' : Ilpiac, step { m := m, pending := [] } = .next { m := m', pending := [] } ∧ m' = m.tick ∧ m'.clk = m.clk + 1) ∧
  (∀ (m : Ilpiac), m.ctl.own = [] → m.flt.due = [] → m.coll.colls = [] → m.groups = [] → m.trellis.phase4 = [] →
     m.settle = m)

/-- No command ever stops the block, and commands take effect in the order of the queue: any n commands that wait are taken by n steps. -/
def Obligations.CommandsInOrder : Prop := ∀ (s : State) (n : Nat), n ≤ s.pending.length →
  ∃ t, Runs n s t ∧ t.pending = s.pending.drop n

/-- The frame of the commands: each command ends in a next state, and the parts of the state that
`leavesAlone` lists for it, memory (`hbm`) among them, are after the command itself as they were before. -/
def Obligations.Frames : Prop := ∀ (s : State) (c : Instr),
  ∃ m' : Ilpiac, exec c s = .next { s with m := m'.settle } ∧ ∀ p ∈ leavesAlone c, p.kept s.m m'

/-- Own writes into the aperture never outlast a command (R458): a step ends with none of them outstanding. -/
def Obligations.OwnWritesEnd : Prop := ∀ (s t : State), s.m.ctl.own = [] → step s = .next t → t.m.ctl.own = []

/-- Every step keeps the register file and the contents of HBM in canonical form (indices strictly rising, nothing listed that reads the same unlisted), so that equal
registers and equal memories are equal data in every state that a run reaches from a sound one. -/
def Obligations.SoundKept : Prop := ∀ (s t : State), s.Safe → step s = .next t → t.Safe

/-- The state after reset: no own write outstanding, no command waiting, and registers and memory in canonical form. -/
def Obligations.ResetOwn : Prop := State.reset.m.ctl.own = [] ∧ State.reset.pending = [] ∧ State.reset.Safe

/-- R18: what a field of each type holds after a write, and R19: an RWS field of a running owner keeps its value, and the write counts as refused
exactly when it would have changed the field. `mask` is the bits that the access writes. -/
def Obligations.FieldTypes : Prop := ∀ (f : FSpec) (stopped : Bool) (old v mask i : Nat), i < f.w →
  let x := f.written stopped old v mask
  let o := bitOf old (f.lo + i)
  let k := bitOf mask (f.lo + i)
  let b := bitOf v (f.lo + i)
  (f.ty = .ro ∨ f.ty = .rc → bitOf x.1 i = o) ∧
  (f.ty = .rw ∨ f.ty = .rws ∧ stopped = true → bitOf x.1 i = if k then b else o) ∧
  (f.ty = .w1c → bitOf x.1 i = (o && !(k && b))) ∧
  (f.ty = .w1s → bitOf x.1 i = (o || (k && b))) ∧
  (f.ty = .rws ∧ stopped = false → bitOf x.1 i = o ∧
    (x.2 = true ↔ ∃ n < f.w, bitOf mask (f.lo + n) = true ∧ bitOf v (f.lo + n) ≠ bitOf old (f.lo + n))) ∧
  (¬(f.ty = .rws ∧ stopped = false) → x.2 = false)

/-- REGISTER_WRITE (R18, R19): a register at a fixed offset that takes any value holds its fields as written; no other register changes unless a
refused RWS field makes the fault collector record a register-access fault. On the sideband the staged placement takes the value (R511). -/
def Obligations.RegisterWrite : Prop := ∀ (s : State) (v : Word),
  (∀ off d j, s.m.Reaches off → Plain off d j →
    let x := d.written (s.m.ownerStopped off) (s.m.reg off).toNat v.toNat (2 ^ 64 - 1)
    ∃ m' : Ilpiac, exec (.registerWrite .window off v) s = .next { s with m := m'.settle } ∧ m'.reg off = BitVec.ofNat 64 x.1 ∧
      (x.2 = false → ∀ k, k ≠ off → m'.reg k = s.m.reg k) ∧ (x.2 = true → m'.asserting srcRegAccess = true)) ∧
  (s.m.sidebandOn = true →
    (∃ m' : Ilpiac, exec (.registerWrite .sideband 0x20 v) s = .next { s with m := m'.settle } ∧ m'.g F.SB_STAGE0_STAGE = v.toNat % 2 ^ 63 ∧
      ∀ k, k ≠ 0x100000020 → m'.reg k = s.m.reg k) ∧
    (∃ m' : Ilpiac, exec (.registerWrite .sideband 0x28 v) s = .next { s with m := m'.settle } ∧ m'.g F.SB_STAGE1_EXTENT = v.toNat % 2 ^ 9 ∧
      ∀ k, k ≠ 0x100000028 → m'.reg k = s.m.reg k))

/-- LOWER_HALF_WRITE and UPPER_HALF_WRITE (R16): a lower half alone changes no register and is held as pending; the upper half then gives the
register both halves; with none pending only the upper half is written; a 64-bit write discards a pending half.

RC_READ and LOWER_HALF_READ (R18, R549): the value read goes to the companion, RC fields are cleared by the read that captures them and no
other bit changes; a lower-half read latches the upper half of the same value, which an upper-half read that follows returns.

MISALIGNED_ACCESS (R15): a read returns all ones, a write has no effect, and either makes the fault collector record a register-access
fault with the offset as its detail; registers outside the collector, the interrupts and the sideband events keep their values.
Where the spec leaves it open this follows the model's readings of log entry 129. -/
def Obligations.WindowReads : Prop :=
  (∀ (s : State) (off : Nat) (lo hi : BitVec 32), s.m.Reaches off →
     (∃ m' : Ilpiac, exec (.lowerHalfWrite off lo) s = .next { s with m := m'.settle } ∧ m'.regs = s.m.regs ∧
       m'.ctl.pendLo.find? (fun x => x.1 == off) = some (off, lo.toNat) ∧
       ∀ k, k ≠ off → m'.ctl.pendLo.find? (fun x => x.1 == k) = s.m.ctl.pendLo.find? (fun x => x.1 == k)) ∧
     (∀ d j, Plain off d j → s.m.ctl.pendLo.find? (fun x => x.1 == off) = some (off, lo.toNat) →
       ∃ m' : Ilpiac, exec (.upperHalfWrite off hi) s = .next { s with m := m'.settle } ∧ m'.ctl.pendLo.find? (fun x => x.1 == off) = none ∧
         m'.reg off = BitVec.ofNat 64 (d.written (s.m.ownerStopped off) (s.m.reg off).toNat (hi ++ lo).toNat (2 ^ 64 - 1)).1) ∧
     (∀ d j, Plain off d j → s.m.ctl.pendLo.find? (fun x => x.1 == off) = none →
       ∃ m' : Ilpiac, exec (.upperHalfWrite off hi) s = .next { s with m := m'.settle } ∧
         m'.reg off = BitVec.ofNat 64 (d.written (s.m.ownerStopped off) (s.m.reg off).toNat (hi.toNat * 2 ^ 32) (2 ^ 64 - 2 ^ 32)).1) ∧
     (∀ d j (v : Word), Plain off d j →
       ∃ m' : Ilpiac, exec (.registerWrite .window off v) s = .next { s with m := m'.settle } ∧ m'.ctl.pendLo.find? (fun x => x.1 == off) = none)) ∧
  (∀ (s : State) (off : Nat) (d : RegDef) (j : Nat), s.m.Reaches off → regDefOf off = some (d, j) →
     (∃ m' : Ilpiac, exec (.rcRead off false) s = .next { s with m := m'.settle } ∧ m'.told = s.m.told ++ [.regData (leBytes 8 (s.m.view off).toNat)] ∧
       (∀ k, k ≠ off → m'.reg k = s.m.reg k) ∧
       (∀ f ∈ d.fields, bits (m'.reg off).toNat f.lo f.w = if f.ty = .rc then 0 else bits (s.m.reg off).toNat f.lo f.w)) ∧
     (∃ m' : Ilpiac, exec (.lowerHalfRead off) s = .next { s with m := m'.settle } ∧
       m'.told = s.m.told ++ [.regData (leBytes 4 ((s.m.view off).toNat % 2 ^ 32))] ∧ (∀ k, k ≠ off → m'.reg k = s.m.reg k) ∧
       (∀ f ∈ d.fields, bits (m'.reg off).toNat f.lo f.w = if f.ty = .rc then 0 else bits (s.m.reg off).toNat f.lo f.w) ∧
       m'.ctl.latchHi.find? (fun x => x.1 == off) = some (off, (s.m.view off).toNat / 2 ^ 32)) ∧
     (∀ u, s.m.ctl.latchHi.find? (fun x => x.1 == off) = some (off, u) →
       ∃ m' : Ilpiac, exec (.rcRead off true) s = .next { s with m := m'.settle } ∧ m'.told = s.m.told ++ [.regData (leBytes 4 u)] ∧ m'.regs = s.m.regs) ∧
     (s.m.ctl.latchHi.find? (fun x => x.1 == off) = none →
       ∃ m' : Ilpiac, exec (.rcRead off true) s = .next { s with m := m'.settle } ∧
         m'.told = s.m.told ++ [.regData (leBytes 4 ((s.m.view off).toNat / 2 ^ 32))] ∧
         (∀ f ∈ d.fields, bits (m'.reg off).toNat f.lo f.w = if f.ty = .rc ∧ 32 ≤ f.lo then 0 else bits (s.m.reg off).toNat f.lo f.w))) ∧
  (∀ (s : State) (off : Nat) (write : Bool), s.m.Linked → off < 2 ^ 26 →
     s.m.bootReady = true ∨ bootRegion off = true →
     ∃ m' : Ilpiac, exec (.misalignedAccess off write) s = .next { s with m := m'.settle } ∧
       m'.told = s.m.told ++ (if write then [] else [.regData (leBytes 8 (2 ^ 64 - 1))]) ∧
       (∃ a ∈ m'.flt.asserts, a.src = srcRegAccess ∧ a.detail = off) ∧
       (∀ k, k ∉ [0x20008, 0x20010, 0x20030, 0x300, 0x100000018] → m'.reg k = s.m.reg k))

/-- PLACEMENT_COMMIT (R29, R541): a commit that a check refuses leaves the committed placement unchanged and records REFUSE_CAUSE; one that passes takes the
staged values together, sets VALID and increments GEN, from where the links follow; before READY it is held.
Where the spec leaves it open this follows the model's readings of log entry 95. -/
def Obligations.PlacementCommit : Prop := ∀ (s : State), s.m.sidebandOn = true →
  (s.m.bootReady = true → s.m.commitRefusal ≠ 0 →
    ∃ m' : Ilpiac, exec .placementCommit s = .next { s with m := m'.settle } ∧ m'.reg 0x30100 = s.m.reg 0x30100 ∧ m'.reg 0x30108 = s.m.reg 0x30108 ∧
      m'.g F.PLACEMENT_STATUS_REFUSE_CAUSE = s.m.commitRefusal) ∧
  (s.m.bootReady = true → s.m.commitRefusal = 0 →
    ∃ m' : Ilpiac, exec .placementCommit s = .next { s with m := m'.placementLinks.settle } ∧ m'.placed = true ∧
      m'.g F.PLACEMENT_X = bits (s.m.g F.SB_STAGE0_STAGE) 0 2 ∧ m'.g F.PLACEMENT_Y = bits (s.m.g F.SB_STAGE0_STAGE) 2 2 ∧
      m'.g F.PLACEMENT_Z = bits (s.m.g F.SB_STAGE0_STAGE) 4 2 ∧ m'.plane = bits (s.m.g F.SB_STAGE0_STAGE) 8 4 ∧
      m'.g F.PLACEMENT_FEED_ID = bits (s.m.g F.SB_STAGE0_STAGE) 16 16 ∧ m'.g F.PLACEMENT_PLOT_ID = bits (s.m.g F.SB_STAGE0_STAGE) 32 16 ∧
      m'.g F.PLACEMENT_EXTENT_NX + 8 * m'.g F.PLACEMENT_EXTENT_NY + 64 * m'.g F.PLACEMENT_EXTENT_NZ = s.m.g F.SB_STAGE1_EXTENT ∧
      m'.g F.PLACEMENT_EXTENT_GEN = (s.m.g F.PLACEMENT_EXTENT_GEN + 1) % 2 ^ 32 ∧ m'.g F.PLACEMENT_STATUS_REFUSE_CAUSE = 0) ∧
  (s.m.bootReady = false →
    ∃ m' : Ilpiac, exec .placementCommit s = .next { s with m := m'.settle } ∧ m'.boot.heldCommit = true ∧ m'.regs = s.m.regs)

/-- Requests on the sideband (R497, R512): WARM and WAKE begin a warm reset (RESET_STATUS names its kind and BY_SIDEBAND, register accesses wait), DORMANT
is taken while no communicator and no cloche group exists and refused otherwise, WAKE outside dormant is refused, and a write without the key
sets BAD_KEY.
Where the spec leaves it open this follows the model's readings of log entries 116, 121.

SB_EVENTS_CLEAR and I3C_DYNAMIC_ADDRESS (R510, R511): a 1 in EVENTS clears the bit, a 0 leaves it, MASK takes its value, and no other register
changes; the assigned address is held. -/
def Obligations.Sideband : Prop :=
  (∀ (s : State) (v : Word), s.m.sidebandOn = true →
     (s.m.power.phase = .running → s.m.ctl.resetting = false → bits v.toNat 8 8 = 0xA5 →
       (bitOf v.toNat 0 = true →
         ∃ m' : Ilpiac, exec (.sbWarmRequest v) s = .next { s with m := m'.settle } ∧ m'.ctl.resetting = true ∧ m'.g F.RESET_STATUS_LAST = 2 ∧
           m'.g F.RESET_STATUS_BY_SIDEBAND = 1 ∧ m'.g F.SB_STATE_POWER = powWarm) ∧
       (bitOf v.toNat 0 = false → bitOf v.toNat 1 = true → s.m.power.dormant = false →
         (s.m.coll.comms = [] → s.m.groups = [] →
           ∃ m' : Ilpiac, exec (.dormantRequest v) s = .next { s with m := m'.settle } ∧ m'.g F.SB_STATE_POWER = powDormant ∧ m'.g F.SB_REQUEST_RESULT = reqDone) ∧
         (s.m.coll.comms ≠ [] ∨ s.m.groups ≠ [] →
           ∃ m' : Ilpiac, exec (.dormantRequest v) s = .next { s with m := m'.settle } ∧ m'.g F.SB_REQUEST_RESULT = reqRefused ∧ m'.coll = s.m.coll ∧
             m'.groups = s.m.groups)) ∧
       (bitOf v.toNat 0 = false → bitOf v.toNat 1 = false → bitOf v.toNat 2 = true →
         (s.m.power.dormant = true →
           ∃ m' : Ilpiac, exec (.wakeRequest v) s = .next { s with m := m'.settle } ∧ m'.ctl.resetting = true ∧ m'.g F.RESET_STATUS_LAST = 3 ∧
             m'.g F.SB_STATE_POWER = powWarm) ∧
         (s.m.power.dormant = false →
           ∃ m' : Ilpiac, exec (.wakeRequest v) s = .next { s with m := m'.settle } ∧ m'.g F.SB_REQUEST_RESULT = reqRefused))) ∧
     (bitOf v.toNat 0 = true → bits v.toNat 8 8 ≠ 0xA5 →
       ∃ m' : Ilpiac, exec (.sbWarmRequest v) s = .next { s with m := m'.settle } ∧ m'.g F.SB_REQUEST_RESULT = reqBadKey ∧ m'.ctl = s.m.ctl)) ∧
  (∀ (s : State), s.m.sidebandOn = true →
     (∀ (v : Word), ∃ m' : Ilpiac, exec (.sbEventsClear v) s = .next { s with m := m'.settle } ∧
       (∀ i < 8, bitOf (m'.g F.SB_EVENTS_EVENTS) i = (bitOf (s.m.g F.SB_EVENTS_EVENTS) i && !bitOf v.toNat i)) ∧
       m'.g F.SB_EVENTS_MASK = bits v.toNat 8 8 ∧ ∀ k, k ≠ 0x100000018 → m'.reg k = s.m.reg k) ∧
     (∀ a < 128, ∃ m' : Ilpiac, exec (.i3cDynamicAddress a) s = .next { s with m := m'.settle } ∧ m'.power.dynAddr = some a ∧ m'.regs = s.m.regs))

/-! ### Companion control (spec 14) -/

/-- ASSIGN, HOLM_ACK_RECEIVED, HOLM_ACK_TIMER and HOLM_ACK_TIMEOUT (R453, R454, R457): the bases are taken and the port is UP; acknowledged flits leave
the replay buffer, a lost flit and every later one are sent again and counted; the acknowledgement covers the flits received in order; without an
acknowledgement the port leaves UP and the bases are cleared.
Where the spec leaves it open this follows the model's readings of log entries 89, 92. -/
def Obligations.HolmLink : Prop := ∀ (s : State),
  (∀ reg hbm, s.m.g F.HOLM_STATUS_STATE ≠ holmOff → reg % 2 ^ 26 = 0 → hbm % 2 ^ 40 = 0 → reg < 2 ^ 52 → hbm < 2 ^ 52 →
    ∃ m' : Ilpiac, exec (.assign reg hbm) s = .next { s with m := m'.settle } ∧ m'.g F.HOLM_STATUS_STATE = holmUp ∧ m'.regBase = reg ∧ m'.hbmBase = hbm ∧
      m'.told = s.m.told ++ [.assignAck]) ∧
  (∀ seq i, s.m.ctl.holm.replay.findIdx? (fun f => f.seq == seq) = some i →
    (∃ m' : Ilpiac, exec (.holmAckReceived seq false) s = .next { s with m := m'.settle } ∧ m'.told = s.m.told.drop (i + 1) ∧ m'.regs = s.m.regs) ∧
    (∃ m' : Ilpiac, exec (.holmAckReceived seq true) s = .next { s with m := m'.settle } ∧ m'.told = s.m.told.drop i ∧
      m'.g F.HOLM_STATUS_REPLAYS = satAdd 16 (s.m.g F.HOLM_STATUS_REPLAYS) (s.m.ctl.holm.replay.length - i) ∧
      ∀ k, k ≠ 0x210 → m'.reg k = s.m.reg k)) ∧
  (s.m.g F.HOLM_STATUS_STATE ≠ holmOff →
    ∃ m' : Ilpiac, exec .holmAckTimer s = .next { s with m := m'.settle } ∧ m'.ctl.holm.ackSent = ((s.m.link holmPort).expect + 255) % 256 ∧
      m'.told = s.m.told ∧ m'.regs = s.m.regs) ∧
  (s.m.g F.HOLM_STATUS_STATE ≠ holmOff → s.m.ctl.holm.replay ≠ [] →
    ∃ m' : Ilpiac, exec .holmAckTimeout s = .next { s with m := (if m'.ctl.holm.wasUp then m'.enterHeadless headHolmDown else m').settle } ∧
      m'.g F.HOLM_STATUS_STATE = holmOff ∧ m'.regBase = 0 ∧ m'.hbmBase = 0 ∧ m'.told = [])

/-- RUN_STOP and RUN_START (R461, R462): a stop of a running function clears its bit and begins, or, where the function is busy, is refused with its bit
of STOP_REFUSED, cause 1 and the RUN event; a start of a stopped function sets its bit and begins.
Where the spec leaves it open this follows the model's readings of log entry 88.

RUN_STOP_DONE and RUN_START_DONE (R462, R463): a stop ends STOPPED, or starts anew where the bit was written 1 meanwhile; a start of a function other
than HBM ends RUNNING where its configuration is accepted, and REFUSED with cause 2 otherwise; a start of HBM ends as HBM_START_DONE without
failed channels. -/
def Obligations.RunControl : Prop :=
  (∀ (s : State) (fn : Fin 5), s.m.Linked →
     (s.m.runState fn = runRunning → s.m.stopBusy fn = false →
       ∃ m' : Ilpiac, exec (.runStop fn) s = .next { s with m := m'.settle } ∧ m'.g (F.RUN_BIT fn) = 0 ∧ m'.runState fn = runStopping ∧
         ∀ n < 5, n ≠ fn.val → m'.runState n = s.m.runState n ∧ m'.g (F.RUN_BIT n) = s.m.g (F.RUN_BIT n)) ∧
     (s.m.runState fn = runRunning → s.m.stopBusy fn = true →
       ∃ m' : Ilpiac, exec (.runStop fn) s = .next { s with m := m'.settle } ∧ m'.runState fn = runRunning ∧
         bitOf (m'.g F.RUN_REFUSE_STOP_REFUSED) fn = true ∧ m'.g F.RUN_REFUSE_LAST_CAUSE = 1 ∧ bitOf (m'.g F.IRQ_CAUSE_CAUSE) Event.run.bit = true) ∧
     (s.m.bootReady = true → s.m.stopped = false → s.m.fnPresent fn = true → s.m.fnStopped fn = true →
       ∃ m' : Ilpiac, exec (.runStart fn) s = .next { s with m := m'.settle } ∧ m'.g (F.RUN_BIT fn) = 1 ∧ m'.runState fn = runStarting ∧
         ∀ n < 5, n ≠ fn.val → m'.runState n = s.m.runState n ∧ m'.g (F.RUN_BIT n) = s.m.g (F.RUN_BIT n))) ∧
  (∀ (s : State) (fn : Fin 5),
     (s.m.runState fn = runStopping → s.m.mayStop fn = true →
       let m0 := if fn.val = fnHbm then s.m.hbmStop else s.m
       ∃ m' : Ilpiac, exec (.runStopDone fn) s = .next { s with m := m'.settle } ∧
         m'.runState fn = if m0.g (F.RUN_BIT fn) = 1 then runStarting else runStopped) ∧
     (s.m.runState fn = runStarting → fn.val ≠ fnHbm → s.m.startOk fn = true → s.m.g (F.RUN_BIT fn) = 1 →
       ∃ m' : Ilpiac, exec (.runStartDone fn) s = .next { s with m := (m'.startEffect fn true).softMapouts.settle } ∧ m'.runState fn = runRunning) ∧
     (s.m.runState fn = runStarting → fn.val ≠ fnHbm → s.m.startOk fn = false →
       ∃ m' : Ilpiac, exec (.runStartDone fn) s = .next { s with m := (m'.startEffect fn false).softMapouts.settle } ∧ m'.runState fn = runRefused ∧
         bitOf (m'.g F.RUN_REFUSE_START_REFUSED) fn = true ∧ m'.g F.RUN_REFUSE_LAST_CAUSE = 2) ∧
     exec (.runStartDone 2) s = exec (.hbmStartDone []) s)

/-- DR_DOORBELL, RING_ENABLE and RING_DISABLE (R466, R470): a doorbell within the ring's size sets PROD, one beyond it puts the ring into ERROR with cause 1;
enabling a ring that is configured well starts it at slot 0 with nothing fetched; disabling stops it. -/
def Obligations.RingControl : Prop := ∀ (s : State) (r : Fin 65536), s.m.Linked → s.m.bootReady = true →
  (∀ (v : Word), s.m.drLive r = true →
    ((v.toNat % 2 ^ 32 + 2 ^ 32 - s.m.dg r F.DR_STATUS_CONS) % 2 ^ 32 ≤ s.m.drSize r →
      ∃ m' : Ilpiac, exec (.drDoorbell r v) s = .next { s with m := m'.settle } ∧ m'.dg r F.DR_DOORBELL_PROD = v.toNat % 2 ^ 32 ∧
        m'.dg r F.DR_STATUS_CONS = s.m.dg r F.DR_STATUS_CONS ∧ m'.dg r F.DR_STATUS_STATE = s.m.dg r F.DR_STATUS_STATE ∧
        m'.ctl.descs = s.m.ctl.descs) ∧
    (s.m.drSize r < (v.toNat % 2 ^ 32 + 2 ^ 32 - s.m.dg r F.DR_STATUS_CONS) % 2 ^ 32 →
      ∃ m' : Ilpiac, exec (.drDoorbell r v) s = .next { s with m := m'.settle } ∧ m'.dg r F.DR_STATUS_STATE = drError ∧ m'.dg r F.DR_STATUS_ERR_CAUSE = 1 ∧
        m'.g F.RING_ERROR_RING = r ∧ m'.g F.RING_ERROR_VALID = 1 ∧ m'.dg r F.DR_DOORBELL_PROD = s.m.dg r F.DR_DOORBELL_PROD)) ∧
  (s.m.headless = false → s.m.dg r F.DR_CTRL_ENABLE = 0 → s.m.ringOk r = true →
    ∃ m' : Ilpiac, exec (.ringEnable r) s = .next { s with m := m'.settle } ∧ m'.dg r F.DR_CTRL_ENABLE = 1 ∧ m'.dg r F.DR_STATUS_STATE = drRunning ∧
      m'.dg r F.DR_DOORBELL_PROD = 0 ∧ m'.dg r F.DR_STATUS_CONS = 0 ∧ (m'.ringX r).fetched = [] ∧ m'.dg r F.DR_BASE_BASE = s.m.dg r F.DR_BASE_BASE) ∧
  (∃ m' : Ilpiac, exec (.ringDisable r) s = .next { s with m := m'.settle } ∧ m'.dg r F.DR_CTRL_ENABLE = 0 ∧ m'.dg r F.DR_STATUS_STATE = drStopped ∧
    (m'.ringX r).fetched = [])

/-- DESCRIPTOR_FETCH_DONE and DESCRIPTOR_ACCEPT (R464, R467 to R469): a descriptor that was read is held by its number, a failed read of the head puts the ring
into ERROR with cause 3; a head whose read failed before it was the head is read again; the head is accepted in order (CONS rises by one and the descriptor waits to begin), waits with its cause in HOLD, or, with
an opcode that is not defined, completes with ST_BAD_DESCRIPTOR; a descriptor whose completion ring is disabled puts the ring into ERROR with cause 2.
Where the spec leaves it open this follows the model's readings of log entry 87.

NOP (R91, R478): it completes at once, with ST_OK when its reserved bits are zero and ST_BAD_DESCRIPTOR otherwise, and changes nothing but the
completion that is due. -/
def Obligations.DescriptorsTaken : Prop :=
  (∀ (s : State) (r : Fin 65536), s.m.drLive r = true →
     s.m.dg r F.DR_STATUS_CONS ≠ s.m.dg r F.DR_DOORBELL_PROD →
     let cons := s.m.dg r F.DR_STATUS_CONS
     let a := s.m.drSlot r cons
     (∀ ws : List Word, s.m.inAperture a 64 = false → s.m.inRegWindow a 64 = false → s.m.windowOk a 64 false = true →
       (∃ m' : Ilpiac, exec (.descriptorFetchDone r cons (some [ws])) s = .next { s with m := m'.settle } ∧
         (m'.ringX r).fetched.find? (fun x => x.1 == cons) = some (cons, bytesWords 8 (wordBytes ws)) ∧ m'.regs = s.m.regs) ∧
       (∃ m' : Ilpiac, exec (.descriptorFetchDone r cons none) s = .next { s with m := m'.settle } ∧ m'.dg r F.DR_STATUS_STATE = drError ∧
         m'.dg r F.DR_STATUS_ERR_CAUSE = 3)) ∧
     ((s.m.ringX r).fetched.find? (fun x => x.1 == cons) = some (cons, []) →
       ∃ m' : Ilpiac, exec (.descriptorAccept r) s = .next { s with m := m'.settle } ∧ m'.regs = s.m.regs ∧ m'.ctl.descs = s.m.ctl.descs ∧
         (m'.ringX r).fetched = (s.m.ringX r).fetched.filter (fun x => x.1 != cons)) ∧
     (∀ ws : List Word, (s.m.ringX r).fetched.find? (fun x => x.1 == cons) = some (cons, ws) → ws ≠ [] →
       (s.m.rd .cring (wRing ws) F.CR_CTRL_ENABLE = 1 → s.m.holdCause r ws = none → opKnown (wOp ws) = true →
         ∃ m' : Ilpiac, exec (.descriptorAccept r) s = .next { s with m := m'.settle } ∧ m'.dg r F.DR_STATUS_CONS = (cons + 1) % 2 ^ 32 ∧
           m'.dg r F.DR_STATUS_STATE = drRunning ∧ m'.ctl.descs = s.m.ctl.descs ++ [⟨r, cons, ws, false, false⟩] ∧ m'.ctl.cpl = s.m.ctl.cpl ∧
           (m'.ringX r).fetched = (s.m.ringX r).fetched.filter (fun x => x.1 != cons)) ∧
       (s.m.rd .cring (wRing ws) F.CR_CTRL_ENABLE = 1 → s.m.holdCause r ws = none → opKnown (wOp ws) = false →
         ∃ m' : Ilpiac, exec (.descriptorAccept r) s = .next { s with m := m'.settle } ∧ m'.dg r F.DR_STATUS_CONS = (cons + 1) % 2 ^ 32 ∧
           m'.ctl.cpl = s.m.ctl.cpl ++ [AccDesc.record ⟨r, cons, ws, true, false⟩ stBadDescriptor]) ∧
       (∀ h, s.m.rd .cring (wRing ws) F.CR_CTRL_ENABLE = 1 → s.m.holdCause r ws = some h →
         ∃ m' : Ilpiac, exec (.descriptorAccept r) s = .next { s with m := m'.settle } ∧ m'.dg r F.DR_STATUS_STATE = drHeld ∧ m'.dg r F.DR_STATUS_HOLD = h ∧
           m'.dg r F.DR_STATUS_CONS = cons ∧ m'.ctl = s.m.ctl) ∧
       (s.m.rd .cring (wRing ws) F.CR_CTRL_ENABLE = 0 →
         ∃ m' : Ilpiac, exec (.descriptorAccept r) s = .next { s with m := m'.settle } ∧ m'.dg r F.DR_STATUS_STATE = drError ∧ m'.dg r F.DR_STATUS_ERR_CAUSE = 2 ∧
           m'.ctl.descs = s.m.ctl.descs))) ∧
  (∀ (s : State) (ring : Fin 65536) (d : AccDesc) (m0 : Ilpiac), s.m.begin ring 0x50 = some (d, m0) →
     ∃ m' : Ilpiac, exec (.nop ring) s = .next { s with m := m'.settle } ∧
       m'.ctl.cpl = s.m.ctl.cpl ++ [d.record (if d.w0ok && [1, 2, 3, 4, 5, 6, 7].all (fun i => wordAt d.words i == 0) then stOk else stBadDescriptor)] ∧
       (∀ k, k ≠ F.CR_STATUS_STALLED.key .cring (wRing d.words) 0 → m'.reg k = s.m.reg k) ∧ m'.flt = s.m.flt ∧ m'.sw = s.m.sw ∧ m'.coll = s.m.coll ∧
       m'.hbm = s.m.hbm ∧ m'.groups = s.m.groups ∧ m'.sync = s.m.sync ∧ m'.time = s.m.time)

/-- CPL_RING_ENABLE, CPL_RING_DISABLE and CR_DOORBELL (R473 to R475): an enabled ring starts empty at slot 0; a doorbell that names records the ring holds sets
CONS, any other leaves CONS and makes the fault collector record a register-access fault.
Where the spec leaves it open this follows the model's readings of log entries 90, 93.

CPL_RECORD_WRITE, CPL_STALL_TIMEOUT, IRQ_COAL_TIMEOUT (R92, R472, R473, R475): the record that became due first in its ring goes to the ring's next slot with the
ring's phase, PROD and, with the descriptor's interrupt bit, PENDING rise by one, and what follows the record follows; a ring that stalls for 1 ms raises
CPL_STALL; an armed ring whose oldest record is COAL_TIME old sends its vector.
Where the spec leaves it open this follows the model's readings of log entry 80. -/
def Obligations.CompletionRings : Prop :=
  (∀ (s : State) (c : Fin 4096), s.m.Linked → s.m.bootReady = true →
     (s.m.cg c F.CR_CTRL_ENABLE = 0 → s.m.cringOk c = true →
       ∃ m' : Ilpiac, exec (.cplRingEnable c) s = .next { s with m := m'.settle } ∧ m'.cg c F.CR_CTRL_ENABLE = 1 ∧ m'.cg c F.CR_STATUS_PROD = 0 ∧
         m'.cg c F.CR_DOORBELL_CONS = 0) ∧
     (∃ m' : Ilpiac, exec (.cplRingDisable c) s = .next { s with m := m'.settle } ∧ m'.cg c F.CR_CTRL_ENABLE = 0 ∧ m'.ctl.cpl = s.m.ctl.cpl) ∧
     (∀ v : Word, (s.m.cg c F.CR_STATUS_PROD + 2 ^ 32 - v.toNat % 2 ^ 32) % 2 ^ 32 ≤ 2 ^ s.m.cg c F.CR_CTRL_LOG2_SIZE →
       ∃ m' : Ilpiac, exec (.crDoorbell c v) s = .next { s with m := m'.settle } ∧ m'.cg c F.CR_DOORBELL_CONS = v.toNat % 2 ^ 32 ∧
         (bitOf v.toNat 32 = true → s.m.cg c F.CR_STATUS_PENDING = 0 → m'.cg c F.CR_STATUS_ARMED = 1)) ∧
     (∀ v : Word, 2 ^ s.m.cg c F.CR_CTRL_LOG2_SIZE < (s.m.cg c F.CR_STATUS_PROD + 2 ^ 32 - v.toNat % 2 ^ 32) % 2 ^ 32 →
       ∃ m' : Ilpiac, exec (.crDoorbell c v) s = .next { s with m := m'.settle } ∧ m'.cg c F.CR_DOORBELL_CONS = s.m.cg c F.CR_DOORBELL_CONS ∧
         m'.asserting srcRegAccess = true)) ∧
  (∀ (s : State) (c : Fin 4096),
     (∀ r : CplRec, s.m.ctl.cpl.find? (fun x => x.cring == c.val) = some r → r.words.length = 4 → s.m.crTakes c = true → s.m.recordWaits r = false →
       s.m.g F.HOLM_STATUS_STATE = holmUp → s.m.inAperture (s.m.crSlot c) 32 = false → s.m.inRegWindow (s.m.crSlot c) 32 = false →
       s.m.windowOk (s.m.crSlot c) 32 true = true →
       ∃ m' : Ilpiac, exec (.cplRecordWrite c) s = .next { s with m := (((m'.recordWritten r).restall c).irqCheck c).settle } ∧
         m'.told = s.m.told ++ [.cohWrite (s.m.crSlot c) (s.m.recordBytes r)] ∧ (s.m.recordBytes r).length = 32 ∧
         m'.cg c F.CR_STATUS_PROD = (s.m.cg c F.CR_STATUS_PROD + 1) % 2 ^ 32 ∧
         m'.cg c F.CR_STATUS_PENDING = (if r.irq then min 65535 (s.m.cg c F.CR_STATUS_PENDING + 1) else s.m.cg c F.CR_STATUS_PENDING)) ∧
     ((∃ x ∈ s.m.ctl.cpl, x.cring = c.val) → s.m.cg c F.CR_STATUS_STALLED = 1 →
       ∃ m' : Ilpiac, exec (.cplStallTimeout c) s = .next { s with m := m'.settle } ∧ bitOf (m'.g F.IRQ_CAUSE_CAUSE) Event.cplStall.bit = true ∧
         (∃ a ∈ m'.flt.asserts, a.src = srcCplStall ∧ a.unit = c) ∧ m'.ctl.cpl = s.m.ctl.cpl) ∧
     (1 ≤ s.m.cg c F.CR_STATUS_PENDING →
       (s.m.cg c F.CR_STATUS_ARMED = 1 →
         ∃ m' : Ilpiac, exec (.irqCoalTimeout c) s = .next { s with m := m'.settle } ∧ m'.ctl.irqDue = s.m.ctl.irqDue ++ [s.m.cg c F.CR_CTRL_VECTOR] ∧
           m'.cg c F.CR_STATUS_ARMED = 0 ∧ m'.cg c F.CR_STATUS_PENDING = 0) ∧
       (s.m.cg c F.CR_STATUS_ARMED = 0 →
         ∃ m' : Ilpiac, exec (.irqCoalTimeout c) s = .next { s with m := m'.settle } ∧ m'.ctl.irqDue = s.m.ctl.irqDue ∧ c.val ∈ m'.ctl.coalDue ∧ m'.regs = s.m.regs)))

/-- IRQ_SEND and IRQ_MASK_WRITE (R476, R477): the oldest interrupt that is due goes to the companion; the mask takes its value, and every event that is set and was
masked and no longer is raises its interrupt.
Where the spec leaves it open this follows the model's readings of log entry 101. -/
def Obligations.Interrupts : Prop := ∀ (s : State),
  (∀ v l, s.m.ctl.irqDue = v :: l → s.m.g F.HOLM_STATUS_STATE = holmUp →
    ∃ m' : Ilpiac, exec .irqSend s = .next { s with m := m'.settle } ∧ m'.ctl.irqDue = l ∧ m'.told = s.m.told ++ [.interrupt v] ∧ m'.regs = s.m.regs) ∧
  (∀ v : Word, s.m.Linked →
    ∃ m' : Ilpiac, exec (.irqMaskWrite v) s = .next { s with m := m'.settle } ∧ m'.g F.IRQ_MASK_MASK = v.toNat % 2 ^ 10 ∧
      m'.ctl.irqDue = s.m.ctl.irqDue ++ ((List.range 10).filter (fun e =>
        bitOf (s.m.g F.IRQ_MASK_MASK) e && !bitOf v.toNat e && bitOf (s.m.g F.IRQ_CAUSE_CAUSE) e)).map (fun e => s.m.g F.IRQ_VECTOR_VECTOR e) ∧
      ∀ k, k ≠ 0x308 → m'.reg k = s.m.reg k)


/-! ### Faults, resets, headless operation, twin mode (spec 15) -/

/-- FAULT_ASSERT and FAULT_PAIR_BROKEN (R489, R490): with the latch free and nothing else waiting for it, a source that begins to assert is latched with its
unit, detail and time, counted, and reported as an event in both places; while another source is latched it sets OVERFLOW only; THERMAL and STEWARD
are latched at once; a broken pair is recorded and asserts its source.
Where the spec leaves it open this follows the model's readings of log entries 10, 109, 112. -/
def Obligations.FaultLatch : Prop := ∀ (s : State) (src : Fin 22), src.val ≠ 0 →
  (∀ unit detail, (stopSource src = true ∨ s.m.g F.FAULT_FIRST_VALID = 0) → (∀ a ∈ s.m.flt.asserts, a.latched = true ∧ a.src ≠ src.val) →
    ∃ m' : Ilpiac, exec (.faultAssert src unit detail) s = .next { s with m := m'.settle } ∧ m'.g F.FAULT_FIRST_VALID = 1 ∧ m'.g F.FAULT_FIRST_SOURCE = src ∧
      m'.g F.FAULT_FIRST_UNIT = unit % 2 ^ 16 ∧ m'.g F.FAULT_FIRST_DETAIL = detail % 2 ^ 32 ∧ m'.g F.FAULT_FIRST_WIRE = 0 ∧
      m'.g F.FAULT_TIME_NS = (if s.m.timeSet then s.m.time.ns % 2 ^ 64 else 0) ∧
      m'.g F.FAULT_COUNTS_LATCHED = satAdd 32 (s.m.g F.FAULT_COUNTS_LATCHED) 1 ∧ bitOf (m'.g F.IRQ_CAUSE_CAUSE) Event.fault.bit = true ∧
      bitOf (m'.g F.SB_EVENTS_EVENTS) 3 = true ∧ m'.asserting src = true) ∧
  (∀ unit detail, stopSource src = false → s.m.g F.FAULT_FIRST_VALID = 1 → s.m.g F.FAULT_FIRST_SOURCE ≠ src → s.m.asserting src = false →
    ∃ m' : Ilpiac, exec (.faultAssert src unit detail) s = .next { s with m := m'.settle } ∧ m'.g F.FAULT_FIRST_OVERFLOW = 1 ∧
      m'.g F.FAULT_FIRST_SOURCE = s.m.g F.FAULT_FIRST_SOURCE ∧ m'.g F.FAULT_FIRST_UNIT = s.m.g F.FAULT_FIRST_UNIT ∧
      m'.g F.FAULT_FIRST_DETAIL = s.m.g F.FAULT_FIRST_DETAIL ∧ (∃ a ∈ m'.flt.asserts, a.src = src ∧ a.unit = unit ∧ a.latched = false) ∧
      ∀ k, k ≠ 0x20008 → m'.reg k = s.m.reg k) ∧
  (bitOf (s.m.g F.FAULT_WIRES_BROKEN) src = false →
    ∃ m' : Ilpiac, exec (.faultPairBroken src) s = .next { s with m := m'.settle } ∧ bitOf (m'.g F.FAULT_WIRES_BROKEN) src = true ∧
      ∃ a ∈ m'.flt.asserts, a.src = src ∧ a.wire = true)

/-- FAULT_GRACE_EXPIRY (R490): the latched source's action, raised when the source was latched again within a second of its last one, is taken: NONE only logs and
frees the latch, FENCE and FUNCTION_RESET then act on the target, STOP stops the module; every action but NONE is counted. FAULT_CLEAR frees the
latch; with no other source waiting VALID reads 0, and FAULT_N is released.
Where the spec leaves it open this follows the model's readings of log entries 110, 111.

SRAM_UE_DETECTED and INTERNAL_PARITY_ERROR (R488, R550): whatever the area and the offset, the source asserts, with the unit that R550 names.
Where the spec leaves it open this follows the model's readings of log entry 114. -/
def Obligations.FaultResponse : Prop :=
  (∀ (s : State), s.m.g F.FAULT_FIRST_VALID = 1 →
     let src := s.m.g F.FAULT_FIRST_SOURCE
     let act := s.m.latchedAction
     let target := targetOf src (s.m.g F.FAULT_FIRST_UNIT) (s.m.g F.FAULT_FIRST_DETAIL)
     let noted := fun (m : Ilpiac) => (src, act, s.m.clk) ∈ m.flt.lastAct ∧ src ∉ m.flt.due ∧
       m.g F.FAULT_COUNTS_ESCALATED = satAdd 32 (s.m.g F.FAULT_COUNTS_ESCALATED) (if act = actNone then 0 else 1)
     (s.m.g F.FAULT_FIRST_STOPPED = 0 →
       (act = actNone → ∃ m' : Ilpiac, exec .faultGraceExpiry s = .next { s with m := m'.freeLatch.settle } ∧ noted m') ∧
       (act = actFence → ∃ m' : Ilpiac, exec .faultGraceExpiry s = .next { s with m := (m'.freeLatch.takeFence src target).settle } ∧ noted m') ∧
       (act = actReset → ∃ m' : Ilpiac, exec .faultGraceExpiry s = .next { s with m := (m'.freeLatch.takeReset target).settle } ∧ noted m') ∧
       (act = actStop → ∃ m' : Ilpiac, exec .faultGraceExpiry s = .next { s with m := m'.stop.settle } ∧ noted m' ∧ m'.g F.FAULT_FIRST_VALID = 1)) ∧
     (s.m.Linked → (∀ a ∈ s.m.flt.asserts, a.latched = true) →
       ∃ m' : Ilpiac, exec .faultClear s = .next { s with m := m'.settle } ∧ m'.g F.FAULT_FIRST_VALID = 0 ∧ m'.power.faultN = true ∧ src ∉ m'.flt.due)) ∧
  (∀ (s : State),
     (∀ area, ∃ m' : Ilpiac, exec (.sramUeDetected area) s = .next { s with m := m'.settle } ∧ ∃ a ∈ m'.flt.asserts, a.src = srcSramUe ∧ a.unit = fnSwitch) ∧
     (∀ off, ∃ m' : Ilpiac, exec (.internalParityError off) s = .next { s with m := m'.settle } ∧
       (∃ a ∈ m'.flt.asserts, a.src = srcInternal ∧ a.unit = (internalTarget off).2 ∧ a.detail = off % 2 ^ 32) ∧ m'.coll = s.m.coll ∧ m'.sw = s.m.sw ∧
       m'.hbm = s.m.hbm))

/-- FAULT_LOG_READ (R493): a descriptor whose reserved bits, count or alignment are wrong, or whose buffer the windows refuse, completes with
ST_BAD_DESCRIPTOR; otherwise the entries that the log still holds go to the buffer in companion memory, 32 bytes each, and COUNT is their number.
Where the spec leaves it open this follows the model's readings of log entries 102, 104. -/
def Obligations.FaultLogRead : Prop := ∀ (s : State) (ring : Fin 65536) (d : AccDesc) (m0 : Ilpiac), s.m.begin ring 0x58 = some (d, m0) →
  let a := d.f 2 0 64
  let n := d.f 1 32 16
  let ok := d.w0ok = true ∧ d.zero [(1, 48, 16), (3, 0, 64), (4, 0, 64), (5, 0, 64), (6, 0, 64), (7, 0, 64)] = true ∧ 1 ≤ n ∧ n ≤ 4096 ∧ a % 64 = 0
  (¬ok ∨ s.m.addrOk a (32 * n) true = false →
    ∃ m' : Ilpiac, exec (.faultLogRead ring) s = .next { s with m := m'.settle } ∧ m'.ctl.cpl = s.m.ctl.cpl ++ [d.record stBadDescriptor] ∧ m'.record = s.m.record) ∧
  (ok → s.m.inAperture a (32 * n) = false → s.m.inRegWindow a (32 * n) = false → s.m.windowOk a (32 * n) true = true →
    let l := s.m.record.entries (d.f 1 0 32) n
    l.length ≤ n → s.m.inAperture a (32 * l.length) = false → s.m.inRegWindow a (32 * l.length) = false →
    s.m.g F.HOLM_STATUS_STATE = holmUp →
    ∃ m' : Ilpiac, exec (.faultLogRead ring) s = .next { s with m := m'.settle } ∧ m'.ctl.cpl = s.m.ctl.cpl ++ [d.record stOk { count := l.length }] ∧
      m'.told = s.m.told ++ (cohPieces a (l.flatMap LogEntry.bytes)).map (fun x => .cohWrite x.1 x.2))

/-- WARM_RESET and WARM_RESET_DONE (R494, R496): with KEY 0xA5 a warm reset begins, RESET_STATUS names its kind, and register accesses wait until it is done; then
the module runs again, READY is high, lanes and hellos start, and the accesses that waited take effect in order.
Where the spec leaves it open this follows the model's readings of log entry 116.

FUNCTION_RESET, FUNCTION_RESET_DONE and LINK_RESET (R492, R494): a function reset is counted and ends the collector's fences on the function, and the function's own
reset follows; that of SYNC takes away every wait and keeps every counter; the reset of SWITCH ends with hellos on every port; a link reset of a port that
is present names the port and is carried out on it.
Where the spec leaves it open this follows the model's readings of log entries 113, 115, 133. -/
def Obligations.Resets : Prop :=
  (∀ (s : State),
     (∀ v : Word, s.m.Linked → s.m.power.phase = .running → bitOf v.toNat 5 = true → bits v.toNat 8 8 = 0xA5 →
       ∃ m' : Ilpiac, exec (.warmReset v) s = .next { s with m := m'.settle } ∧ m'.ctl.resetting = true ∧ m'.g F.RESET_STATUS_LAST = 2 ∧
         m'.g F.RESET_STATUS_BY_SIDEBAND = 0 ∧ m'.g F.SB_STATE_POWER = powWarm) ∧
     (s.m.ctl.resetting = true → s.m.power.dormant = false →
       ∃ m' : Ilpiac, exec .warmResetDone s = .next { s with m := ((m'.lanePowerAll.helloAll).over s.m.ctl.held (fun m h => m.access h)).settle } ∧
         m'.ctl.resetting = false ∧ m'.ctl.held = [] ∧ m'.power.ready = true ∧ m'.power.request = false ∧
         m'.g F.SB_STATE_POWER = (if s.m.g F.PWR_STATUS_EPISODE = 1 then powEpisode else powRunning))) ∧
  (∀ (s : State),
     (s.m.Linked → ∀ fn : Fin 5, s.m.fnPresent fn = true →
       let counted := fun (m : Ilpiac) => m.g F.RESET_STATUS_FUNC_RESETS = satAdd F.RESET_STATUS_FUNC_RESETS.w (s.m.g F.RESET_STATUS_FUNC_RESETS) 1 ∧
         (∀ f ∈ m.flt.fences, f.target ≠ .function fn)
       (fn.val = fnSwitch → ∃ m' : Ilpiac, exec (.functionReset fn) s = .next { s with m := m'.resetSwitch.settle } ∧ counted m') ∧
       (fn.val = fnAdmission → ∃ m' : Ilpiac, exec (.functionReset fn) s = .next { s with m := m'.resetAdmission.settle } ∧ counted m') ∧
       (fn.val = fnHbm → ∃ m' : Ilpiac, exec (.functionReset fn) s = .next { s with m := m'.resetHbm.settle } ∧ counted m') ∧
       (fn.val = fnSync → ∃ m' : Ilpiac, exec (.functionReset fn) s = .next { s with m := m'.settle } ∧ m'.sync = { s.m.sync with waits := [] } ∧
         counted m') ∧
       (fn.val = fnTime → ∃ m' : Ilpiac, exec (.functionReset fn) s = .next { s with m := m'.resetTime.settle } ∧ counted m')) ∧
     (s.m.ctl.funcReset ≠ [] →
       ∃ m' : Ilpiac, exec .functionResetDone s = .next { s with m := m'.helloAll.settle } ∧ m'.ctl.funcReset = [] ∧ m'.regs = s.m.regs ∧ m'.sw = s.m.sw) ∧
     (s.m.Linked → ∀ port < 1024, s.m.portPresent port = true →
       ∃ m' : Ilpiac, exec (.linkReset port) s = .next { s with m := (m'.linkRestart port).settle } ∧ m'.g F.RESET_CTRL_PORT = port ∧
         m'.g F.RESET_STATUS_LINK_RESETS = satAdd 16 (s.m.g F.RESET_STATUS_LINK_RESETS) 1 ∧ m'.sw = s.m.sw ∧
         ∀ k, k ≠ 0x20200 → k ≠ 0x20208 → m'.reg k = s.m.reg k))

/-- HEARTBEAT_TIMEOUT and HEADLESS_RESUME (R499, R500, R501): the loss of the companion makes the module headless with its cause, stops every enabled descriptor ring,
and is the sideband's HEADLESS event; the resume ends it.
Where the spec leaves it open this follows the model's readings of log entries 79, 90, 91.

TWIN_ENABLE, TWIN_DIGEST_SEND, TWIN_DIGEST_RECEIVED and TWIN_KEY_TIMEOUT (R503, R504, R506): turned on, twin mode pairs with no digest held, turned off it holds none;
at most 64 digests leave in order; a digest of the twin is compared with the own one of its key, equal ones are counted and no more; a key without its
counterpart for 10 ms is a divergence whose first instance is latched.
Where the spec leaves it open this follows the model's readings of log entries 44, 86. -/
def Obligations.HeadlessAndTwin : Prop :=
  (∀ (s : State),
     (s.m.ctl.holm.wasUp = true → s.m.g F.HB_CTRL_ENABLE = 1 → s.m.g F.HEADLESS_ACTIVE = 0 →
       ∃ m' : Ilpiac, exec .heartbeatTimeout s = .next { s with m := m'.settle } ∧ m'.g F.HEADLESS_ACTIVE = 1 ∧ m'.g F.HEADLESS_CAUSE = headHeartbeat ∧
         bitOf (m'.g F.SB_EVENTS_EVENTS) 2 = true ∧ (∃ a ∈ m'.flt.asserts, a.src = srcCompanion) ∧ (∀ r ∈ s.m.ringsOn .dring, m'.dg r F.DR_CTRL_ENABLE = 0)) ∧
     (s.m.Linked → s.m.g F.HEADLESS_ACTIVE = 1 →
       ∃ m' : Ilpiac, exec .headlessResume s = .next { s with m := m'.settle } ∧ m'.g F.HEADLESS_ACTIVE = 0 ∧ m'.ctl.crWait = [] ∧
         (∀ a ∈ m'.flt.asserts, a.src = srcCompanion → a.wire = true))) ∧
  (∀ (s : State),
     (∀ v : Word, s.m.Linked → bitOf v.toNat 0 = false → s.m.g F.TWIN_CTRL_ENABLE = 1 → s.m.fnStopped fnSwitch = true →
       ∃ m' : Ilpiac, exec (.twinEnable v) s = .next { s with m := m'.settle } ∧ m'.g F.TWIN_CTRL_ENABLE = 0 ∧ m'.g F.TWIN_STATUS_STATE = twinOff ∧ m'.twin = ⟨[], [], []⟩) ∧
     (∀ v : Word, s.m.Linked → bitOf v.toNat 0 = true → s.m.g F.TWIN_CTRL_ENABLE = 0 → s.m.fnStopped fnSwitch = true →
       let p := bits v.toNat 1 8
       ∃ m' : Ilpiac, exec (.twinEnable v) s = .next { s with m := (if m'.portPresent p ∧ m'.portFormed p then (m'.setPortState p 1).sendHello p else m').settle } ∧
         m'.g F.TWIN_CTRL_ENABLE = 1 ∧ m'.g F.TWIN_STATUS_STATE = twinPairing ∧ m'.twin = ⟨[], [], []⟩) ∧
     (s.m.twinOn = true → s.m.portUp (s.m.g F.TWIN_CTRL_PORT) = true → s.m.twin.unsent ≠ [] →
       let p := Packet.make 0x70 0 (s.m.bed * 256 + s.m.g F.TWIN_CTRL_PORT) false s.m.bed true [] ((s.m.twin.unsent.take 64).flatMap TwinRec.bytes)
       ∃ m' : Ilpiac, exec .twinDigestSend s = .next { s with m := (m'.emit (s.m.g F.TWIN_CTRL_PORT) p .control).settle } ∧
         m'.twin = { s.m.twin with unsent := s.m.twin.unsent.drop 64 } ∧ m'.regs = s.m.regs) ∧
     (∀ (port : Fin 256) (p : Packet) (r o : TwinRec), s.m.Admits port p → p.ty = 0x70 → twinRecs p.body = [r] →
       counterpart r (s.m.counted port p).twin.own = some o → o.digest = r.digest →
       ∃ m' : Ilpiac, exec (.twinDigestReceived port p) s = .next { s with m := m'.settle } ∧ m'.twin.own = (s.m.counted port p).twin.own.erase o ∧
         m'.g F.TWIN_STATUS_COMPARED = ((s.m.counted port p).g F.TWIN_STATUS_COMPARED + 1) % 2 ^ F.TWIN_STATUS_COMPARED.w ∧
         m'.g F.TWIN_STATUS_STATE = (s.m.counted port p).g F.TWIN_STATUS_STATE) ∧
     (∀ n r, s.m.twinOn = true → s.m.twin.own[n]? = some r → s.m.g F.TWIN_STATUS_STATE ≠ twinDiverged →
       ∃ m' : Ilpiac, exec (.twinKeyTimeout n) s = .next { s with m := m'.settle } ∧ m'.g F.TWIN_STATUS_STATE = twinDiverged ∧
         m'.g F.TWIN_DIVERGE0_STEP = wordAt r.key 1 ∧ m'.g F.TWIN_DIVERGE3_OWN = r.digest % 2 ^ 32 ∧ m'.g F.TWIN_DIVERGE3_PARTNER = 0 ∧
         m'.twin.own = dropAt s.m.twin.own n ∧ ∃ a ∈ m'.flt.asserts, a.src = srcTwin))

/-! ### Power, temperature, boot and identity (spec 16, 17) -/

/-- POWER_ON, COLD_RESET, POWER_LOSS, OVER_VOLTAGE, OVER_VOLTAGE_RECOVERY, VIN_THRESHOLD_CROSSING (R514 to R516, R521): turning on, off and cold reset leave every
collective, queue and table as after reset and keep the module record (a loss with the journal enabled first commits it); what differs is where the
power stage then stands, and that a cold reset names itself and keeps the sideband address.

POWER_ON_DONE and COLD_RESET_RELEASE (R514, R515, R520): the sequence ends with the assembly record read, the bank measured, READY high and its event set,
and the module running; then the lanes that may run start. Power-on names itself in RESET_STATUS.
Where the spec leaves it open this follows the model's readings of log entry 117. -/
def Obligations.PowerSequence : Prop :=
  (∀ (s : State) (mv : Nat),
     let blank := fun (m : Ilpiac) => m.coll = Ilpiac.reset.coll ∧ m.sw = Ilpiac.reset.sw ∧ m.ctl = Ilpiac.reset.ctl ∧ m.flt = Ilpiac.reset.flt ∧
       m.hbm = Ilpiac.reset.hbm ∧ m.groups = [] ∧ m.sync = Ilpiac.reset.sync ∧ m.time = Ilpiac.reset.time ∧ m.boot = Ilpiac.reset.boot ∧ m.clk = s.m.clk ∧
       m.power.slotId = s.m.power.slotId
     (s.m.power.phase = .off →
       ∃ m' : Ilpiac, exec (.powerOn mv) s = .next { s with m := m'.settle } ∧ blank m' ∧ m'.power.phase = .starting ∧ m'.power.dynAddr = none ∧
         m'.g F.PWR_STATUS_VIN_MV = min mv 65535 ∧ m'.record = s.m.record) ∧
     (s.m.power.phase ≠ .off → s.m.power.phase ≠ .offOver →
       (∃ m' : Ilpiac, exec .coldReset s = .next { s with m := m'.settle } ∧ blank m' ∧ m'.power.phase = .coldHeld ∧ m'.power.dynAddr = s.m.power.dynAddr ∧
         m'.power.journal = s.m.power.journal ∧ m'.g F.RESET_STATUS_LAST = 1 ∧ m'.record = s.m.record) ∧
       (mv < 46000 → ∃ m' : Ilpiac, exec (.powerLoss mv) s = .next { s with m := m'.settle } ∧ blank m' ∧ m'.power.phase = .off ∧ m'.power.journal = [] ∧
         (s.m.g F.PWR_STATUS_JOURNAL_EN = 0 → m'.record = s.m.record)) ∧
       (60500 ≤ mv → ∃ m' : Ilpiac, exec (.overVoltage mv) s = .next { s with m := m'.settle } ∧ blank m' ∧ m'.power.phase = .offOver ∧ m'.power.journal = [] ∧
         (s.m.g F.PWR_STATUS_JOURNAL_EN = 0 → m'.record = s.m.record)) ∧
       (s.m.g F.PWR_STATUS_EPISODE = 0 → ∃ m' : Ilpiac, exec (.vinThresholdCrossing mv) s = .next { s with m := m'.settle } ∧
         m'.g F.PWR_STATUS_VIN_MV = min mv 65535 ∧ m'.power = s.m.power ∧ ∀ k, k ≠ F.PWR_STATUS_VIN_MV.off → m'.reg k = s.m.reg k)) ∧
     (s.m.power.phase = .offOver →
       ∃ m' : Ilpiac, exec (.overVoltageRecovery mv) s = .next { s with m := m'.settle } ∧ blank m' ∧ m'.power.phase = .starting ∧ m'.record = s.m.record)) ∧
  (∀ (s : State) (mv v0 v1 esr : Nat),
     let up := fun (m : Ilpiac) => m.power.phase = .running ∧ m.power.ready = true ∧ m.g F.HOLDUP_VALID = 1 ∧ bitOf (m.g F.SB_EVENTS_EVENTS) 7 = true ∧
       m.coll = s.m.coll ∧ m.groups = s.m.groups
     (s.m.power.phase = .starting →
       ∃ m' : Ilpiac, exec (.powerOnDone mv v0 v1 esr) s = .next { s with m := m'.lanePowerAll.settle } ∧ up m' ∧ m'.g F.RESET_STATUS_LAST = 0) ∧
     (s.m.power.phase = .coldHeld →
       ∃ m' : Ilpiac, exec (.coldResetRelease mv v0 v1 esr) s = .next { s with m := m'.lanePowerAll.settle } ∧ up m' ∧
         m'.g F.RESET_STATUS_LAST = s.m.g F.RESET_STATUS_LAST))

/-- BROWNOUT_START, BROWNOUT_END and POWER_LIMIT_SAMPLE (R517 to R519, R527): an episode begins, is counted and asserts BROWNOUT, and the duty follows the lowest demand; its end
lifts the throttle, withdraws BROWNOUT and has the bank measured; a power limit below the idle figure is reported as unmet at the lowest duty, and no limit
demands nothing.
Where the spec leaves it open this follows the model's readings of log entry 119.

HOLDUP_RECHECK, HOLDUP_PERIOD_EXPIRY and HOLDUP_MEASURE_DONE (R520, R521): outside an episode a measurement starts; from a fall of the bank voltage it finds capacitance and
energy, and enables the journal with 1.2 J or more, or else asserts HOLDUP with the energy as its detail.
Where the spec leaves it open this follows the model's readings of log entries 118, 125.

THERMAL_THROTTLE, THROTTLE_STEP, THERMAL_TRIP, HARD_TRIP (R529, R530): a group that reaches its throttle limit lowers the duty by a sixteenth, every further millisecond
at a limit lowers it again, ten milliseconds at 3 °C below every limit raise it; the trip asserts THERMAL; the hard trip stops every function and turns off.
Where the spec leaves it open this follows the model's readings of log entry 120. -/
def Obligations.PowerConditions : Prop :=
  (∀ (s : State) (mv : Nat), s.m.isOn = true →
     (∀ duty, s.m.g F.PWR_STATUS_EPISODE = 0 →
       ∃ m' : Ilpiac, exec (.brownoutStart mv duty) s = .next { s with m := m'.settle } ∧ m'.g F.PWR_STATUS_EPISODE = 1 ∧
         m'.g F.PWR_BROWNOUT_EPISODES = satAdd F.PWR_BROWNOUT_EPISODES.w (s.m.g F.PWR_BROWNOUT_EPISODES) 1 ∧ m'.power.dutyBrown = clampDuty duty ∧
         m'.g F.PWR_STATUS_DUTY = min (clampDuty duty) (min s.m.power.dutyLimit s.m.power.dutyTherm) - 1 ∧ m'.g F.PWR_STATUS_VIN_MV = min mv 65535 ∧
         bitOf (m'.g F.SB_EVENTS_EVENTS) 0 = true ∧ ∃ a ∈ m'.flt.asserts, a.src = srcBrownout) ∧
     (∀ us, s.m.g F.PWR_STATUS_EPISODE = 1 →
       ∃ m' : Ilpiac, exec (.brownoutEnd mv us) s = .next { s with m := m'.settle } ∧ m'.g F.PWR_STATUS_EPISODE = 0 ∧ m'.g F.PWR_BROWNOUT_LAST_US = min us (2 ^ 32 - 1) ∧
         m'.power.dutyBrown = 16 ∧ m'.power.measuring = true ∧ ∀ a ∈ m'.flt.asserts, a.src = srcBrownout → a.wire = true) ∧
     (∀ watts duty, s.m.g F.PWR_STATUS_EPISODE = 0 →
       let limit := s.m.g F.PWR_CTRL_POWER_LIMIT_W
       let unmet : Bool := decide (limit ≠ 0) && decide (limit < idleWatts (s.m.g F.IDENTITY_VARIANT))
       ∃ m' : Ilpiac, exec (.powerLimitSample watts mv duty) s = .next { s with m := m'.settle } ∧ m'.g F.PWR_STATUS_PIN_W = min watts 4095 ∧
         m'.g F.PWR_STATUS_LIMIT_UNMET = b2n unmet ∧ m'.power.dutyLimit = (if limit = 0 then 16 else if unmet then 1 else clampDuty duty) ∧
         m'.power.dutyBrown = s.m.power.dutyBrown ∧ m'.power.dutyTherm = s.m.power.dutyTherm)) ∧
  (∀ (s : State),
     (s.m.isOn = true → s.m.g F.PWR_STATUS_EPISODE = 0 →
       (s.m.Linked → ∃ m' : Ilpiac, exec .holdupRecheck s = .next { s with m := m'.settle } ∧ m'.power.measuring = true ∧ m'.g F.PWR_CTRL_HOLDUP_RECHECK = 0) ∧
       (s.m.g F.PWR_CTRL_HOLDUP_PERIOD_H ≠ 0 →
         ∃ m' : Ilpiac, exec .holdupPeriodExpiry s = .next { s with m := m'.settle } ∧ m'.power.measuring = true ∧ m'.regs = s.m.regs)) ∧
     (∀ v0 v1 esr, s.m.power.measuring = true → v1 < v0 → 30000 ≤ v0 → 400000 / (v0 - v1) < 2 ^ 16 →
       let energy := (v0 * v0 - 900000000) / (5000 * (v0 - v1))
       energy < 2 ^ 16 →
       ∃ m' : Ilpiac, exec (.holdupMeasureDone v0 v1 esr) s = .next { s with m := m'.settle } ∧ m'.power.measuring = false ∧ m'.g F.HOLDUP_VALID = 1 ∧
         m'.g F.HOLDUP_CAP_UF = 400000 / (v0 - v1) ∧ m'.g F.HOLDUP_ENERGY_MJ = energy ∧ m'.g F.HOLDUP_ESR_MOHM = min esr 4095 ∧
         m'.g F.PWR_STATUS_JOURNAL_EN = (if 1200 ≤ energy then 1 else 0) ∧ bitOf (m'.g F.SB_EVENTS_EVENTS) 6 = true ∧
         (energy < 1200 → ∃ a ∈ m'.flt.asserts, a.src = srcHoldup))) ∧
  (∀ (s : State), s.m.isOn = true →
     (∀ (g : Fin 4) c, s.m.hot g = false → (tempLimits g).1 ≤ c → c < 256 →
       ∃ m' : Ilpiac, exec (.thermalThrottle g c) s = .next { s with m := m'.settle } ∧ m'.g (tempFld g) = c ∧ m'.power.dutyTherm = clampDuty (s.m.power.dutyTherm - 1) ∧
         m'.power.cool = 0 ∧ bitOf (m'.g F.THERM_STATUS_THROTTLING) g = true) ∧
     (∀ a b c d : Nat, a < 256 → b < 256 → c < 256 → d < 256 →
       let hot := 95 ≤ a ∨ 95 ≤ b ∨ 85 ≤ c ∨ 110 ≤ d
       let cold := a ≤ 92 ∧ b ≤ 92 ∧ c ≤ 82 ∧ d ≤ 107
       ∃ m' : Ilpiac, exec (.throttleStep [a, b, c, d]) s = .next { s with m := m'.settle } ∧
         m'.power.dutyTherm = (if hot then clampDuty (s.m.power.dutyTherm - 1)
           else if cold ∧ 9 ≤ s.m.power.cool then clampDuty (s.m.power.dutyTherm + 1) else s.m.power.dutyTherm) ∧
         m'.power.cool = (if hot then 0 else if cold then min (s.m.power.cool + 1) 10 else 0)) ∧
     (∀ (g : Fin 4) c, (tempLimits g).2.1 ≤ c → (∀ a ∈ s.m.flt.asserts, a.src ≠ srcThermal) →
       ∃ m' : Ilpiac, exec (.thermalTrip g c) s = .next { s with m := m'.settle } ∧ m'.g F.FAULT_FIRST_VALID = 1 ∧ m'.g F.FAULT_FIRST_SOURCE = srcThermal ∧
         srcThermal ∈ m'.flt.due) ∧
     (∀ (g : Fin 4) c, (tempLimits g).2.2 ≤ c →
       ∃ m' : Ilpiac, exec (.hardTrip g c) s = .next { s with m := (m'.lanePowerAll.holmDown).settle } ∧ m'.power.phase = .hardTrip ∧ m'.power.ready = false ∧
         m'.g F.SB_STATE_POWER = powStopped ∧ ∀ n < 5, s.m.fnPresent n = true → m'.runState n = runStopped))

/-- IMAGE_LOAD, IMAGE_LOAD_DONE and STEWARD_WATCHDOG_EXPIRY (R537 to R540): a load of the kind that the boot state waits for begins, any other is refused with ORDER; it ends
with the verdict of the checks in RESULT and, unless it passed, in the state before it; an accepted steward image starts the steward and its watchdog, an
accepted microcode image makes the boot READY; a starved watchdog asserts STEWARD.
Where the spec leaves it open this follows the model's readings of log entries 124, 126. -/
def Obligations.Boot : Prop := ∀ (s : State),
  (∀ v : Word, s.m.Linked → bitOf v.toNat 2 = true →
    let kind := bits v.toNat F.BOOT_CTRL_KIND.lo F.BOOT_CTRL_KIND.w
    let st := s.m.g F.BOOT_STATUS_STATE
    ((st = bootWaitSteward ∧ kind = kindSteward) ∨ (st = bootWaitUcode ∧ kind = kindUcode) →
      ∃ m' : Ilpiac, exec (.imageLoad v) s = .next { s with m := m'.settle } ∧ m'.g F.BOOT_STATUS_STATE = bootLoading ∧
        m'.boot.load = some ⟨kind, s.m.g F.BOOT_ADDR_ADDR, s.m.g F.BOOT_LEN_BYTES, st, false⟩) ∧
    (¬((st = bootWaitSteward ∧ kind = kindSteward) ∨ (st = bootWaitUcode ∧ kind = kindUcode)) →
      ∃ m' : Ilpiac, exec (.imageLoad v) s = .next { s with m := m'.settle } ∧ m'.g F.BOOT_STATUS_RESULT = resOrder ∧ m'.boot = s.m.boot)) ∧
  (∀ l us, s.m.boot.load = some l → l.prev < 8 →
    (∃ m' : Ilpiac, exec (.imageLoadDone none us) s = .next { s with m := m'.settle } ∧ m'.g F.BOOT_STATUS_RESULT = resReadFault ∧ m'.g F.BOOT_STATUS_STATE = l.prev ∧
      m'.boot.load = none ∧ m'.boot.steward = s.m.boot.steward ∧ m'.boot.ucode = s.m.boot.ucode) ∧
    (∀ b r, l.lost = false → s.m.judgeImage l.kind l.len b = (r, none) →
      ∃ m' : Ilpiac, exec (.imageLoadDone (some b) us) s = .next { s with m := m'.settle } ∧ m'.g F.BOOT_STATUS_RESULT = r ∧ m'.g F.BOOT_STATUS_STATE = l.prev ∧
        m'.boot.load = none ∧ m'.boot.steward = s.m.boot.steward ∧ m'.boot.ucode = s.m.boot.ucode) ∧
    (∀ b i, l.lost = false → l.kind = kindSteward → s.m.judgeImage l.kind l.len b = (resOk, some i) → s.m.has F.CAP_PRESENT_TRELLIS = true →
      ∃ m' : Ilpiac, exec (.imageLoadDone (some b) us) s = .next { s with m := m'.settle } ∧ m'.g F.BOOT_STATUS_RESULT = resOk ∧
        m'.g F.BOOT_STATUS_STATE = bootWaitUcode ∧ m'.boot.steward = some i ∧ m'.boot.watchdog = true) ∧
    (∀ b i, l.lost = false → l.kind = kindUcode → s.m.judgeImage l.kind l.len b = (resOk, some i) → s.m.boot.heldCommit = false →
      ∃ m' : Ilpiac, exec (.imageLoadDone (some b) us) s = .next { s with m := m'.settle } ∧ m'.g F.BOOT_STATUS_RESULT = resOk ∧ m'.bootReady = true ∧
        m'.boot.ucode = some i)) ∧
  (s.m.boot.watchdog = true →
    ∃ m' : Ilpiac, exec .stewardWatchdogExpiry s = .next { s with m := m'.settle } ∧ ∃ a ∈ m'.flt.asserts, a.src = srcSteward)

/-- ATTEST and CERT_READ (R544, R545): without a device identity ATTEST completes with ST_ABSENT_UNIT; with one, the 512-byte report over the nonce, or the certificate bytes asked
for, go to the buffer in companion memory, and COUNT is their number; wrong fields or a refused buffer complete with ST_BAD_DESCRIPTOR.
Where the spec leaves it open this follows the model's readings of log entry 126. -/
def Obligations.Identity : Prop := ∀ (s : State) (ring : Fin 65536) (d : AccDesc) (m0 : Ilpiac),
  (s.m.begin ring 0x60 = some (d, m0) →
    let a := d.f 1 0 64
    let ok := d.w0ok = true ∧ d.zero [(6, 0, 64), (7, 0, 64)] = true ∧ a % 64 = 0
    (s.m.g F.BOOT_STATUS_IDENTITY_OK = 0 →
      ∃ m' : Ilpiac, exec (.attest ring) s = .next { s with m := m'.settle } ∧ m'.ctl.cpl = s.m.ctl.cpl ++ [d.record stAbsentUnit] ∧ m'.told = s.m.told) ∧
    (s.m.g F.BOOT_STATUS_IDENTITY_OK = 1 → ¬ok ∨ s.m.addrOk a 512 true = false →
      ∃ m' : Ilpiac, exec (.attest ring) s = .next { s with m := m'.settle } ∧ m'.ctl.cpl = s.m.ctl.cpl ++ [d.record stBadDescriptor] ∧ m'.told = s.m.told) ∧
    (∀ key, s.m.g F.BOOT_STATUS_IDENTITY_OK = 1 → ok → s.m.copyInUse.deviceKey = some key → s.m.inAperture a 512 = false → s.m.inRegWindow a 512 = false →
      s.m.windowOk a 512 true = true → s.m.g F.HOLM_STATUS_STATE = holmUp →
      ∃ m' : Ilpiac, exec (.attest ring) s = .next { s with m := m'.settle } ∧ m'.ctl.cpl = s.m.ctl.cpl ++ [d.record stOk { count := 512 }] ∧
        m'.told = s.m.told ++ (cohPieces a (s.m.attestReport key (wordBytes ((d.words.drop 2).take 4)))).map (fun x => .cohWrite x.1 x.2))) ∧
  (s.m.begin ring 0x61 = some (d, m0) →
    let o := d.f 1 0 32
    let n := d.f 1 32 32
    let a := d.f 2 0 64
    let ok := d.w0ok = true ∧ d.zero [(3, 0, 64), (4, 0, 64), (5, 0, 64), (6, 0, 64), (7, 0, 64)] = true ∧ a % 64 = 0 ∧ 1 ≤ n ∧ n ≤ 1048576 ∧ o + n ≤ 1048576
    (¬ok ∨ s.m.addrOk a n true = false →
      ∃ m' : Ilpiac, exec (.certRead ring) s = .next { s with m := m'.settle } ∧ m'.ctl.cpl = s.m.ctl.cpl ++ [d.record stBadDescriptor] ∧ m'.told = s.m.told) ∧
    (ok → s.m.inAperture a n = false → s.m.inRegWindow a n = false → s.m.windowOk a n true = true → s.m.g F.HOLM_STATUS_STATE = holmUp →
      ∃ m' : Ilpiac, exec (.certRead ring) s = .next { s with m := m'.settle } ∧ m'.ctl.cpl = s.m.ctl.cpl ++ [d.record stOk { count := n }] ∧
        m'.told = s.m.told ++ (cohPieces a (bytesAt s.m.record.certs o n)).map (fun x => .cohWrite x.1 x.2)))


/-! ### Synchronisation (spec 13) -/

/-- R422: the ticket queue is served first in, first out while the head's amount is covered: the amounts of the tickets that go are taken from the value in their order, no
other ticket changes, and the head that stays is not covered. -/
def Obligations.TicketOrder : Prop := ∀ (v : Nat) (l : List SyncWaitE),
  let r := serveTickets v l
  r.2.1.map (·.wait) ++ r.2.2 = l ∧ r.1 + (r.2.1.map (·.wait.amount)).sum = v ∧ (∀ w ∈ r.2.2.head?, r.1 < w.amount) ∧
  ∀ i x, r.2.1[i]? = some x → x.value + ((r.2.1.take (i + 1)).map (·.wait.amount)).sum = v

/-- SYNC_SIGNAL (R420, R428, R430): ADD and SUB saturate with their flag and bit 2 of INFO set, SET stores the value; no other counter changes; the record reports counter and value.
Where level waits and tickets are held on the counter, those that its new value covers end (`releaseWaits`). -/
def Obligations.SyncSignal : Prop := ∀ (s : State) (ring : Fin 65536) (d : AccDesc) (m0 : Ilpiac), s.m.begin ring 0x48 = some (d, m0) →
  let n := d.f 1 0 14
  let x := d.f 2 0 32
  let op := d.f 1 16 2
  let v := s.m.cval n
  let ok := d.w0ok = true ∧ d.zero [(1, 14, 2), (1, 18, 46), (2, 32, 32), (3, 0, 64), (4, 0, 64), (5, 0, 64), (6, 0, 64), (7, 0, 64)] = true ∧ op ≠ 3
  let new := if op = 0 then min (v + x) 0xFFFFFFFF else if op = 1 then v - x else x
  let sat := (op = 0 ∧ 0xFFFFFFFF < v + x) ∨ (op = 1 ∧ v < x)
  (¬ok → ∃ m' : Ilpiac, exec (.syncSignal ring) s = .next { s with m := m'.settle } ∧ m'.ctl.cpl = s.m.ctl.cpl ++ [d.record stBadDescriptor] ∧ m'.sync = s.m.sync) ∧
  (ok → (∀ w ∈ s.m.sync.waits, w.counter ≠ n) →
    ∃ m' : Ilpiac, exec (.syncSignal ring) s = .next { s with m := m'.settle } ∧ m'.cval n = new ∧ (∀ k, k ≠ n → m'.cval k = s.m.cval k) ∧
      m'.sync.waits = s.m.sync.waits ∧
      m'.cflag F.SYNC_OVF_FLAGS n = (s.m.cflag F.SYNC_OVF_FLAGS n || decide (op = 0 ∧ 0xFFFFFFFF < v + x)) ∧
      m'.cflag F.SYNC_UNF_FLAGS n = (s.m.cflag F.SYNC_UNF_FLAGS n || decide (op = 1 ∧ v < x)) ∧
      m'.ctl.cpl = s.m.ctl.cpl ++ [d.record stOk { comm := n, info := if sat then 4 else 0, count := new }]) ∧
  (ok → ∃ m' : Ilpiac, exec (.syncSignal ring) s = .next { s with m := m'.settle } ∧
    ∃ m1, m1 = ((m0.counterOp n op x).1).releaseWaits n ∧ m'.sync = m1.sync ∧
      m'.ctl.cpl = m1.ctl.cpl ++ [d.record stOk { comm := n, info := if sat then 4 else 0, count := m1.cval n }])

/-- SYNC_WAIT, SYNC_FENCE, SYNC_CANCEL, SYNC_WAIT_TIMEOUT (R422 to R425, R430): a wait on a counter without other waits ends at once where the value covers it, a ticket taking its amount away, and is
held otherwise; a fence completes; a cancel ends the ring's wait with ST_ABORTED before it completes, and without one completes with
ST_BAD_DESCRIPTOR; a timeout ends a wait with ST_TIMEOUT and the value.
Where the spec leaves it open this follows the model's readings of log entry 60.

SYNC_OP_RECEIVED, SYNC_VAL_WRITE, SYNC_DEADLOCK_DETECT (R427, R431 to R433, R450): a member's operation on a counter of the member range without waits acts once and its response is kept by its tag;
its repetition is answered from there; a write of SYNC_VAL is a SET of the selected counter; a group whose rings all wait is flagged and reported.
Where the spec leaves it open this follows the model's readings of log entries 60, 68. -/
def Obligations.SyncCounters : Prop :=
  (∀ (s : State) (ring : Fin 65536) (d : AccDesc) (m0 : Ilpiac),
     (s.m.begin ring 0x49 = some (d, m0) → m0.ctl.descs.find? (fun x => x.ring == d.ring && x.num == d.num) = some { d with started := true } →
       let n := d.f 1 0 14
       let x := d.f 2 0 32
       let v := s.m.cval n
       d.w0ok = true → d.zero [(1, 14, 2), (1, 17, 7), (1, 32, 32), (3, 0, 64), (4, 0, 64), (5, 0, 64), (6, 0, 64), (7, 0, 64)] = true →
       (d.f 1 16 1 = 1 → x ≠ 0) → (∀ w ∈ s.m.sync.waits, w.counter ≠ n) →
       (x ≤ v → ∃ m' : Ilpiac, exec (.syncWait ring) s = .next { s with m := m'.settle } ∧ m'.sync.waits = s.m.sync.waits ∧
         m'.cval n = (if d.f 1 16 1 = 1 then v - x else v) ∧
         m'.ctl.cpl = s.m.ctl.cpl ++ [d.record stOk { comm := n, count := if d.f 1 16 1 = 1 then v - x else v }]) ∧
       (v < x → ∃ m' : Ilpiac, exec (.syncWait ring) s = .next { s with m := m'.settle } ∧ m'.cval n = v ∧ m'.ctl.cpl = s.m.ctl.cpl ∧
         m'.sync.waits = s.m.sync.waits ++ [⟨n, d.f 1 16 1 == 0, x, .ring d.ring, d.f 1 24 8, d.f 2 32 32, d.num, 0⟩])) ∧
     (s.m.begin ring 0x4A = some (d, m0) → d.w0ok = true →
       d.zero [(1, 0, 64), (2, 0, 64), (3, 0, 64), (4, 0, 64), (5, 0, 64), (6, 0, 64), (7, 0, 64)] = true →
       ∃ m' : Ilpiac, exec (.syncFence ring) s = .next { s with m := m'.settle } ∧ m'.ctl.cpl = s.m.ctl.cpl ++ [d.record stOk] ∧ m'.sync = s.m.sync) ∧
     (s.m.begin ring 0x4B = some (d, m0) → d.w0ok = true →
       d.zero [(1, 16, 48), (2, 0, 64), (3, 0, 64), (4, 0, 64), (5, 0, 64), (6, 0, 64), (7, 0, 64)] = true →
       (s.m.waitOf (.ring (d.f 1 0 16)) = none →
         ∃ m' : Ilpiac, exec (.syncCancel ring) s = .next { s with m := m'.settle } ∧ m'.ctl.cpl = s.m.ctl.cpl ++ [d.record stBadDescriptor] ∧ m'.sync = s.m.sync) ∧
       (∀ w dw, s.m.waitOf (.ring (d.f 1 0 16)) = some w → (∀ x ∈ s.m.sync.waits, x ≠ w → x.counter ≠ w.counter) →
         m0.ctl.descs.find? (fun x => x.ring == d.f 1 0 16 && x.num == w.num) = some dw → dw.num = w.num → dw.ring = d.f 1 0 16 →
         ∃ m' : Ilpiac, exec (.syncCancel ring) s = .next { s with m := m'.settle } ∧ m'.sync.waits = s.m.sync.waits.filter (fun x => x != w) ∧
           m'.cval w.counter = s.m.cval w.counter ∧
           m'.ctl.cpl = s.m.ctl.cpl ++ [dw.record stAborted { comm := w.counter, count := s.m.cval w.counter }, d.record stOk])) ∧
     (∀ r w dw, s.m.waitOf (.ring r) = some w → w.who = .ring r → w.timeout ≠ 0 → (∀ x ∈ s.m.sync.waits, x ≠ w → x.counter ≠ w.counter) →
       s.m.ctl.descs.find? (fun x => x.ring == r && x.num == w.num) = some dw → dw.num = w.num → dw.ring = r →
       ∃ m' : Ilpiac, exec (.syncWaitTimeout (.ring r)) s = .next { s with m := m'.settle } ∧ m'.sync.waits = s.m.sync.waits.filter (fun x => x != w) ∧
         m'.ctl.cpl = s.m.ctl.cpl ++ [dw.record stTimeout { comm := w.counter, count := s.m.cval w.counter }])) ∧
  (∀ (s : State),
     (∀ (port : Fin 256) (p : Packet) m2 id b, s.m.Lands port p m2 id b → p.ty = 0x40 →
       let n := p.f 1 0 14
       let op := p.f 1 14 4
       let tag := p.f 1 32 32
       (∀ k, (m2.port port).syncKept.find? (fun k => k.tag == tag) = some k →
         ∃ m' : Ilpiac, exec (.syncOpReceived port p) s = .next { s with m := (m'.movedOn id b).settle } ∧ m' = m2.emit port k.rsp .control) ∧
       (op ≤ 2 → (m2.port port).syncKept.find? (fun k => k.tag == tag) = none → m2.waitOf (.member port tag) = none →
         tagBelow ((m2.port port).syncLatest.getD tag) tag ≤ 16 → m2.syncBad p = false →
         ∃ m' : Ilpiac, exec (.syncOpReceived port p) s = .next { s with m := (m'.movedOn id b).settle } ∧
           ∃ m1, m1 = (m2.setPort port { m2.port port with syncLatest := some (newerTag (m2.port port).syncLatest tag) }).counterOp n op (p.f 2 0 32) ∧ m' = (m1.1.releaseWaits n).syncAnswer port p.tc tag syncDone n ((m1.1.releaseWaits n).cval n))) ∧
     (∀ v : Word, s.m.Linked → s.m.bootReady = true → (∀ w ∈ s.m.sync.waits, w.counter ≠ s.m.g F.SYNC_SEL_COUNTER) →
       ∃ m' : Ilpiac, exec (.syncValWrite v) s = .next { s with m := m'.settle } ∧ m'.cval (s.m.g F.SYNC_SEL_COUNTER) = v.toNat % 2 ^ 32 ∧
         (∀ k, k ≠ s.m.g F.SYNC_SEL_COUNTER → m'.cval k = s.m.cval k) ∧ m'.sync.waits = s.m.sync.waits) ∧
     (∀ g : Fin 256, g.val ≠ 0 → s.m.g F.SYNC_CTRL_DEADLOCK_US ≠ 0 → s.m.g F.SYNC_GROUP_SIZE_SIZE g ≠ 0 →
       (s.m.sync.waits.filter (fun w => w.group == g.val && (match w.who with | .ring _ => true | .member _ _ => false))).length = s.m.g F.SYNC_GROUP_SIZE_SIZE g →
       ∃ m' : Ilpiac, exec (.syncDeadlockDetect g) s = .next { s with m := m'.settle } ∧ m'.cflag F.SYNC_DEADLOCK_STALLED g = true ∧
         bitOf (m'.g F.IRQ_CAUSE_CAUSE) Event.syncDeadlock.bit = true ∧ m'.sync = s.m.sync))

/-- TIME_SYNC_RECEIVED, PPS_IN_EDGE, TOD_IN_RECEIVED (R437, R440, R441, R448): on a locked module a time packet of the one master on the source's trunk port, or a pulse of the board, corrects fabric time: an
offset above STEP_NS steps it and is counted, a smaller one is slewed; a valid TOD_IN message gives the seconds of the next pulse.

TIME_SYNC_TIMER, DELAY_MEASURE_TIMER, DELAY_REQ_RECEIVED, DELAY_RSP_RECEIVED (R438, R444, R445): a master or locked module sends its time on every port with a new serial number; a measurement starts anew;
a request is answered with its serial number and the turnaround; the answer to the latest request gives the link delay.
Where the spec leaves it open this follows the model's readings of log entry 127. -/
def Obligations.TimeTransfer : Prop :=
  (∀ (s : State),
     let stepped := fun (m m' : Ilpiac) (o : Int) =>
       if m.g F.TIME_CTRL_STEP_NS * 65536 < o.natAbs then
         m'.time.slew = 0 ∧ m'.time.at = ((m.time.at : Int) - o).toNat % (2 ^ 64 * 65536) ∧
           m'.g F.TIME_STATUS_STEPS = satAdd F.TIME_STATUS_STEPS.w (m.g F.TIME_STATUS_STEPS) 1
       else m'.time.slew = o ∧ m'.time.at = m.time.at ∧ m'.g F.TIME_STATUS_STEPS = m.g F.TIME_STATUS_STEPS
     (∀ (port : Fin 262) (p : Packet) d, s.m.Admits port p → p.ty = 0x48 →
       let m := s.m.counted port p
       m.timeApplies = true → m.placed = true → p.f 3 0 16 = m.g F.PLACEMENT_PLOT_ID → m.timeState = timeLocked → m.sourcePort = some port.val →
       (m.time.masters = [] ∨ m.time.masters = [p.f 3 16 6]) → p.f 3 22 3 ≠ timeConflict → m.delayOf port = some d →
       ∃ m' : Ilpiac, exec (.timeSyncReceived port p) s = .next { s with m := m'.settle } ∧
         stepped m m' ((m.time.at : Int) - ((p.h 1 * 65536 + p.f 2 0 16 + d : Nat) : Int)) ∧ m'.g F.TIME_STATUS_MASTER_BED = p.f 3 16 6 ∧
         m'.time.spread = p.f 2 16 12) ∧
     (∀ sec, s.m.g F.REF_CTRL_SOURCE = 1 → s.m.timeApplies = true → s.m.timeState = timeLocked → s.m.time.todSeconds = some sec →
       ∃ m' : Ilpiac, exec .ppsInEdge s = .next { s with m := m'.settle } ∧ m'.time.todSeconds = none ∧ m'.time.lastSeconds = some sec ∧
         stepped s.m m' ((s.m.time.at : Int) - ((sec * 1000000000 * 65536 + s.m.g F.TIME_PATH_PPS_IN_DELAY_PS * 65536 / 1000 : Nat) : Int))) ∧
     (∀ msg : TodMsg, msg.length = 16 → natAt msg 0 1 = 0xA5 → natAt msg 12 4 = (crc32c (msg.take 12)).toNat → s.m.g F.REF_CTRL_SOURCE = 1 →
       natAt msg 1 1 ≠ timeConflict →
       ∃ m' : Ilpiac, exec (.todInReceived msg) s = .next { s with m := m'.settle } ∧ m'.time = { s.m.time with todSeconds := some (natAt msg 4 8) } ∧ m'.regs = s.m.regs)) ∧
  (∀ (s : State),
     (s.m.running 4 = true → s.m.timeState = timeMaster ∨ s.m.timeState = timeLocked ∨ s.m.timeState = timeConflict →
       ∃ m' : Ilpiac, exec .timeSyncTimer s = .next { s with m := (m'.over m'.timePorts (fun m p => m.emit p (m.timeSync p) .control)).settle } ∧
         m'.time = { s.m.time with serial := (s.m.time.serial + 1) % 2 ^ 32 } ∧ m'.regs = s.m.regs ∧ m'.sw = s.m.sw) ∧
     (s.m.running 4 = true →
       ∃ m' : Ilpiac, exec .delayMeasureTimer s = .next { s with m := (m'.over m'.timePorts (fun m p => m.emit p (m.delayPacket p 0x49 m.time.serial) .control)).settle } ∧
         m'.time = { s.m.time with serial := (s.m.time.serial + 1) % 2 ^ 32, reqs := [] } ∧ m'.regs = s.m.regs ∧ m'.sw = s.m.sw) ∧
     (∀ (port : Fin 262) (p : Packet) turn, s.m.Admits port p → p.ty = 0x49 → (s.m.counted port p).running 4 = true → turn < 2 ^ 32 →
       ∃ m' : Ilpiac, exec (.delayReqReceived port p turn) s =
         .next { s with m := (m'.emit port (m'.delayPacket port 0x4A (p.f 1 0 32 + turn * 2 ^ 32)) .control).settle } ∧ m' = s.m.counted port p) ∧
     (∀ (port : Fin 262) (p : Packet) r, s.m.Admits port p → p.ty = 0x4A →
       let m := s.m.counted port p
       m.timeApplies = true → m.time.reqs.find? (fun x => x.1 == port.val) = some (port.val, (p.f 1 0 32, r)) →
       ∃ m' : Ilpiac, exec (.delayRspReceived port p) s = .next { s with m := m'.settle } ∧
         m'.delayOf port = some ((m.time.at - (r.1 * 65536 + r.2) - p.f 1 32 32 * 65536 / 1000) / 2) ∧
         m'.time.reqs = Map.erase m.time.reqs port))

/-- TIME_APPLY_SET, PPS_OUT_EDGE, PPS_OUT_PULSE_END, TOD_OUT_SEND, TIME_SOURCE_TIMEOUT, NO_MASTER_TIMEOUT (R436, R443, R447, R448): the master takes the time written and any other module leaves its time alone; a locked module or master
raises PPS_OUT, for the width of a pulse; TOD_OUT names the next second under a CRC; the loss of the source puts a locked module into HOLDOVER, and that and a missing master assert TIME.
Where the spec leaves it open this follows the model's readings of log entry 61. -/
def Obligations.TimeKeeping : Prop := ∀ (s : State),
  (s.m.Linked →
    (s.m.timeState = timeMaster → ∃ m' : Ilpiac, exec .timeApplySet s = .next { s with m := m'.settle } ∧ m'.time.ns = s.m.g F.TIME_SET_NS_NS ∧ m'.time.frac = 0 ∧
      m'.g F.TIME_CTRL_APPLY_SET = 0) ∧
    (s.m.timeState ≠ timeMaster → ∃ m' : Ilpiac, exec .timeApplySet s = .next { s with m := m'.settle } ∧ m'.time = s.m.time ∧ m'.g F.TIME_CTRL_APPLY_SET = 0)) ∧
  (s.m.g F.TIME_PINS_PPS_OUT_EN = 1 → s.m.timeState = timeLocked ∨ s.m.timeState = timeMaster →
    ∃ m' : Ilpiac, exec .ppsOutEdge s = .next { s with m := m'.settle } ∧ m'.time = { s.m.time with ppsHigh := true }) ∧
  (∃ m' : Ilpiac, exec .ppsOutPulseEnd s = .next { s with m := m'.settle } ∧ m'.time = { s.m.time with ppsHigh := false }) ∧
  (s.m.g F.TIME_PINS_TOD_OUT_EN = 1 →
    ∃ m' : Ilpiac, exec .todOutSend s = .next { s with m := m'.settle } ∧ m'.time.todOut.length = 16 ∧ natAt m'.time.todOut 0 1 = 0xA5 ∧
      natAt m'.time.todOut 4 8 = (s.m.time.ns / 1000000000 + 1) % 2 ^ 64 ∧ natAt m'.time.todOut 12 4 = (crc32c (m'.time.todOut.take 12)).toNat) ∧
  (s.m.running 4 = true → s.m.timeState = timeLocked →
    ∃ m' : Ilpiac, exec .timeSourceTimeout s = .next { s with m := m'.settle } ∧ m'.timeState = timeHoldover ∧ (∃ a ∈ m'.flt.asserts, a.src = srcTime) ∧
      m'.time = s.m.time) ∧
  (s.m.placed = true → s.m.timeState = timeUnset ∨ s.m.timeState = timeAcquiring →
    ∃ m' : Ilpiac, exec .noMasterTimeout s = .next { s with m := m'.settle } ∧ (∃ a ∈ m'.flt.asserts, a.src = srcTime) ∧ m'.timeState = s.m.timeState)


/-! ### HBM (spec 08, 14) -/

/-- What a map-out with a reserve channel does to a slot (R278 to R281): the failed channel is the source of the slot's migration with its cause, the first reserve channel is ACTIVE
and backs the slot, no unit has been copied yet, and one good channel less is counted.
Where the spec leaves it open this follows the model's readings of log entries 14, 122.

SCRUB_READ (R271, R272, R274): a clean codeword of an active channel is read and the scrub goes on to the next; one wrong symbol is corrected in place and counted; with two the stored word
is poison and counted as uncorrectable.
Where the spec leaves it open this follows the model's readings of log entries 63, 126. -/
def Obligations.HbmChannels : Prop :=
  (∀ (s : State) (ch : Fin 768) (q : Nat) (l : List Nat), s.m.hbmOn = true → s.m.channelPresent ch = true →
     s.m.chState ch = chActive → s.m.hbm.reserve = q :: l → q < 768 → q ≠ ch.val → q ∉ l →
     let slot := s.m.rd .channel ch F.CH_STATUS_SLOT
     s.m.backing slot = some ch.val → s.m.migration slot = none →
     let out := fun (m : Ilpiac) (readable : Bool) (cause : Nat) =>
       m.chState ch = chSource ∧ m.rd .channel ch F.CH_STATUS_CAUSE = cause ∧ m.chState q = chActive ∧ m.rd .channel q F.CH_STATUS_SLOT = slot ∧
       m.backing slot = some q ∧ m.hbm.reserve = l ∧ m.migration slot = some ⟨slot, ch, readable, q, []⟩ ∧
       m.g F.HBM_STATUS_GOOD_CHANNELS = s.m.g F.HBM_STATUS_GOOD_CHANNELS - 1 ∧ m.hbm.data = s.m.hbm.data
     (∃ m' : Ilpiac, exec (.channelAccessTimeout ch) s = .next { s with m := m'.settle } ∧ out m' false 1) ∧
     (s.m.Linked → s.m.bootReady = true →
       ∃ m' : Ilpiac, exec (.channelMapout ch) s = .next { s with m := m'.settle } ∧ out m' true 4 ∧ m'.rd .channel ch F.CH_CTRL_MAPOUT = 0)) ∧
  (∀ (s : State) (ch : Fin 768), s.m.hbmOn = true → s.m.channelPresent ch = true → s.m.chState ch = chActive →
     let a := Map.get (fun _ => 0) s.m.hbm.scrubAt ch
     let cw := ch.val * 2 ^ 24 + a
     a < 2 ^ 24 → s.m.cwErrors cw = [] →
     (∃ m' : Ilpiac, exec (.scrubRead ch []) s = .next { s with m := m'.settle } ∧ Map.get (fun _ => 0) m'.hbm.scrubAt ch = (a + 1) % 2 ^ 24 ∧ m'.regs = (s.m.wakeStack ch).regs ∧
       m'.hbm.data = s.m.hbm.data ∧ m'.hbm.poison = s.m.hbm.poison) ∧
     (∀ u : Upset, u.bits ≠ 0 → s.m.rd .channel ch F.CH_CTRL_CE_LIMIT = 0 →
       ∃ m' : Ilpiac, exec (.scrubRead ch [u]) s = .next { s with m := m'.settle } ∧ m'.cwErrors cw = [] ∧ m'.hbm.data = s.m.hbm.data ∧ m'.hbm.poison = s.m.hbm.poison ∧
         m'.rd .channel ch F.CH_ERRORS_CE = satAdd 32 (s.m.rd .channel ch F.CH_ERRORS_CE) 1 ∧ m'.rd .channel ch F.CH_LAST_ERROR_ACCESS = a ∧
         m'.rd .channel ch F.CH_LAST_ERROR_SYMBOL = u.symbol % 68 ∧ m'.rd .channel ch F.CH_LAST_ERROR_KIND = 0 ∧ m'.rd .channel ch F.CH_LAST_ERROR_VALID = 1) ∧
     (∀ u v : Upset, u.bits ≠ 0 → v.bits ≠ 0 → u.symbol % 68 ≠ v.symbol % 68 →
       max 1 (s.m.rd .channel ch F.CH_CTRL_UE_LIMIT) > Map.get (fun _ => 0) s.m.hbm.ueCount ch + 1 →
       ∃ m' : Ilpiac, exec (.scrubRead ch [u, v]) s = .next { s with m := m'.settle } ∧ m'.poisoned cw = true ∧ m'.cwErrors cw = [] ∧
         m'.rd .channel ch F.CH_ERRORS_UE = satAdd 32 (s.m.rd .channel ch F.CH_ERRORS_UE) 1 ∧ m'.rd .channel ch F.CH_LAST_ERROR_SYMBOL = 0x7F ∧
         m'.rd .channel ch F.CH_LAST_ERROR_KIND = 1))

/-- MIGRATION_UNIT, SLOT_REMAP_DONE, CHANNEL_INJECT_ARM, SELF_REFRESH_ENTER (R279, R280, R301, R302): a unit of a migrating slot is copied from a source that reads clean, or filled with poison when the source cannot
be read, and its bit is set; held accesses proceed; an injection is armed with its access; a stack without a migration enters self-refresh.
Where the spec leaves it open this follows the model's readings of log entry 14.

HBM_START_DONE (R283, R285, R462): the start ends with the function RUNNING over the layout that it found, or REFUSED with BAD_CONFIG; a start that finds the configuration of the last one keeps
the contents, and any other begins with memory empty.
Where the spec leaves it open this follows the model's readings of log entries 16, 105. -/
def Obligations.HbmRunning : Prop :=
  (∀ (s : State),
     (∀ slot unit g, s.m.migration slot = some g → g.slot = slot → unit ∉ g.units → unit < slotUnits → g.units.length + 1 < slotUnits → g.source ≠ g.target →
       (g.readable = true → ∀ i < 64, s.m.cwErrors (g.source * 2 ^ 24 + (unit * 64 + i)) = []) →
       ∃ m' : Ilpiac, exec (.migrationUnit slot unit) s = .next { s with m := m'.settle } ∧ m'.migration slot = some { g with units := g.units ++ [unit] } ∧
         m'.rd .channel g.target F.CH_STATUS_MIGRATED = (g.units.length + 1) % 2 ^ F.CH_STATUS_MIGRATED.w ∧
         (g.readable = false → ∀ i < 64, m'.poisoned (g.target * 2 ^ 24 + (unit * 64 + i)) = true)) ∧
     (∀ slot, ∃ m' : Ilpiac, exec (.slotRemapDone slot) s = .next { s with m := m'.settle } ∧ slot ∉ m'.hbm.heldSlots ∧ m'.regs = s.m.regs ∧
       ∀ x, x ≠ slot → (x ∈ m'.hbm.heldSlots ↔ x ∈ s.m.hbm.heldSlots)) ∧
     (∀ (ch : Fin 768) (v : Word), s.m.Linked → s.m.bootReady = true → s.m.channelPresent ch = true →
       ∃ m' : Ilpiac, exec (.channelInjectArm ch v) s = .next { s with m := m'.settle } ∧ m'.rd .channel ch F.CH_INJECT_ACCESS = v.toNat % 2 ^ 24 ∧
         m'.rd .channel ch F.CH_INJECT_SYMBOLS = bits v.toNat 24 2 ∧
         m'.rd .channel ch F.CH_INJECT_ARM = (if bitOf v.toNat 26 then 1 else s.m.rd .channel ch F.CH_INJECT_ARM)) ∧
     (∀ st : Fin 12, s.m.stackPresent st = true → s.m.rd .stack st F.STACK_CTRL_SELF_REFRESH = 1 → s.m.rd .stack st F.STACK_STATUS_STATE = 0 →
       (∀ g ∈ s.m.hbm.migrations, g.source / 64 ≠ st.val ∧ g.target / 64 ≠ st.val) →
       ∃ m' : Ilpiac, exec (.selfRefreshEnter st) s = .next { s with m := m'.settle } ∧ m'.rd .stack st F.STACK_STATUS_STATE = 1 ∧ m'.hbm = s.m.hbm)) ∧
  (∀ (s : State) (failed : List Nat), s.m.runState fnHbm = runStarting →
     let r := s.m.hbmStart failed
     (r.1 = true → r.2.g (F.RUN_BIT fnHbm) = 1 →
       ∃ m' : Ilpiac, exec (.hbmStartDone failed) s = .next { s with m := m'.softMapouts.settle } ∧ m'.runState fnHbm = runRunning ∧ m'.hbm = r.2.hbm ∧
         m'.g F.HBM_STATUS_BAD_CONFIG = 0 ∧ m'.slots = r.2.slots ∧
         (m'.hbm.lastStart = s.m.hbm.lastStart → m'.hbm.data = s.m.hbm.data ∧ m'.hbm.poison = s.m.hbm.poison) ∧
         (m'.hbm.lastStart ≠ s.m.hbm.lastStart → m'.hbm.data = [] ∧ m'.hbm.poison = [] ∧ m'.hbm.lines = [])) ∧
     (r.1 = false →
       ∃ m' : Ilpiac, exec (.hbmStartDone failed) s = .next { s with m := m'.softMapouts.settle } ∧ m'.runState fnHbm = runRefused ∧ m'.g F.HBM_STATUS_BAD_CONFIG = 1 ∧
         bitOf (m'.g F.RUN_REFUSE_START_REFUSED) fnHbm = true ∧ m'.hbm = s.m.hbm))

/-- R275, R276, R295: the layout of a start gives every good channel that is not in reserve one slot and no other channel one, takes at most HEADROOM good channels into reserve, and carves pools that
are aligned to their buffers, lie below the capacity and above the direct area. -/
def Obligations.HbmLayoutSound : Prop := ∀ (m : Ilpiac) (good : List Nat) (l : HbmLayout), m.hbmLayout good = some l →
  l.good = good ∧ l.n = good.length - m.headroom ∧ l.reserve.length ≤ m.headroom ∧ (∀ c ∈ l.reserve, c ∈ good) ∧
  (∀ c, some c ∈ l.slotmap ↔ c ∈ good ∧ c ∉ l.reserve) ∧ none ∉ l.slotmap ∧
  (∀ p ∈ l.pools, p.base % 2 ^ p.log2 = 0 ∧ p.base + p.count * 2 ^ p.log2 ≤ l.n * 2 ^ 30 ∧ l.directEnd ≤ p.base ∧ p.taken = [])

/-- APERTURE_READ and APERTURE_WRITE (R272, R277, R286, R455): a read answers the bytes that HBM holds, or all ones with the poison mark; while the function is stopped a read is such poison and a write has no
effect; above the logical capacity a read is all ones, a write has no effect, and HBM_ADDRESS asserts; a write of a whole line makes its codeword hold
the data and leaves every other codeword alone.
Where the spec leaves it open this follows the model's readings of log entry 128. -/
def Obligations.Aperture : Prop := ∀ (s : State) (a len : Nat), s.m.apertureHere a len = true →
  (∀ us, s.m.hbmOn = true → a + len ≤ s.m.slots * 2 ^ 30 →
    let m0 := match s.m.readAt (a / 64) with | some cw => s.m.upset cw us | none => s.m
    let r := m0.memRead a len (m0.hintAt a false)
    r.2.g F.HOLM_STATUS_STATE = holmUp →
    ∃ m' : Ilpiac, exec (.apertureRead a len us) s = .next { s with m := m'.settle } ∧ m'.hbm = r.2.hbm ∧
      m'.told = r.2.told ++ [match r.1 with | some d => .apertureData d false | none => .apertureData (List.replicate len 0xFF) true]) ∧
  (∀ us d, s.m.hbmOn = false → d.length = len →
    (∃ m' : Ilpiac, exec (.apertureRead a len us) s = .next { s with m := m'.settle } ∧ m'.told = s.m.told ++ [.apertureData (List.replicate len 0xFF) true] ∧
      m'.g F.HOLM_STATUS_POISONED_READS = satAdd 16 (s.m.g F.HOLM_STATUS_POISONED_READS) 1 ∧ m'.hbm = s.m.hbm) ∧
    (∃ m' : Ilpiac, exec (.apertureWrite a d) s = .next { s with m := m'.settle } ∧ m' = s.m)) ∧
  (∀ us d, s.m.hbmOn = true → s.m.slots * 2 ^ 30 < a + len → d.length = len →
    (∃ m' : Ilpiac, exec (.apertureRead a len us) s = .next { s with m := m'.settle } ∧ m'.told = s.m.told ++ [.apertureData (List.replicate len 0xFF) false] ∧
      m'.asserting srcHbmAddress = true ∧ m'.hbm = s.m.hbm) ∧
    (∃ m' : Ilpiac, exec (.apertureWrite a d) s = .next { s with m := m'.settle } ∧ m'.asserting srcHbmAddress = true ∧ m'.hbm = s.m.hbm)) ∧
  (∀ d cw, len = 64 → d.length = 64 → s.m.hbmOn = true → a + 64 ≤ s.m.slots * 2 ^ 30 → s.m.groups = [] → s.m.cacheOn = false →
    s.m.readAt (a / 64) = some cw → s.m.migration (s.m.placeOf (a / 64)).1 = none →
    ∃ m' : Ilpiac, exec (.apertureWrite a d) s = .next { s with m := m'.settle } ∧ m'.cwData cw = d ∧ m'.poisoned cw = false ∧
      ∀ c, c ≠ cw → m'.cwData c = s.m.cwData c ∧ m'.poisoned c = s.m.poisoned c)


/-! ### Serial lanes (spec 12) -/

/-- Writes that act on lanes and on the reference (R393, R395, R397, R401, R405, R410, R412): enabling a lane that is OFF starts bring-up, shows it HELD, puts it into
TEST, or leaves it OFF where it may not be powered; disabling one outside the sets turns it OFF, disabling one that works is a removal with cause
SOFTWARE and the lane waits for the set change; CLEAR_HOLD restarts a held lane and ends the lane fault of its port; an injection is armed and clears
ARM; a change of source starts ACQUIRING or LOCAL and ends the reference fault.
Where the spec leaves it open this follows the model's readings of log entry 81.

Idle states and the reference (R395, R406, R407): light idle is entered where LIGHT_EN allows it, its beacon is three flits on each lane, and leaving it makes the
direction active; deep idle is entered by a downlink port that is UP, which stays UP, and both directions wake together; a source that is lost leaves the reference
in HOLDOVER with a reference fault, which its return ends.
Where the spec leaves it open this follows the model's readings of log entry 81. -/
def Obligations.LaneControl : Prop :=
  (∀ (s : State),
     (∀ l : Fin 576, s.m.Reaches (F.LANE_CTRL_ENABLE.key .lane l 0) → s.m.lg l F.LANE_CTRL_CLEAR_HOLD = 0 →
       (s.m.lg l F.LANE_CTRL_ENABLE = 0 → s.m.laneState l = laneOff →
         ∃ m' : Ilpiac, exec (.laneEnable l) s = .next { s with m := m'.settle } ∧ m'.lg l F.LANE_CTRL_ENABLE = 1 ∧
           m'.laneState l = (if !s.m.laneMay l then laneOff else if s.m.lg l F.LANE_CTRL_MODE ≠ 0 then laneTest
             else if (s.m.lane l).held then laneHeld else laneAcquire) ∧
           m'.lg l F.LANE_STATUS_SIGNAL = 0 ∧ m'.lg l F.LANE_STATUS_CW_LOCK = 0 ∧
           ∀ k, k ∉ [F.LANE_CTRL_ENABLE.key .lane l 0, F.LANE_STATUS_STATE.key .lane l 0, F.LANE_TEST_CHECK_LOCK.key .lane l 0] → m'.reg k = s.m.reg k) ∧
       (s.m.lg l F.LANE_CTRL_ENABLE = 1 → s.m.inSet l = false →
         ∃ m' : Ilpiac, exec (.laneDisable l) s = .next { s with m := m'.settle } ∧ m'.lg l F.LANE_CTRL_ENABLE = 0 ∧ m'.laneState l = laneOff ∧
           ∀ k, k ∉ [F.LANE_CTRL_ENABLE.key .lane l 0, F.LANE_STATUS_STATE.key .lane l 0, F.LANE_TEST_CHECK_LOCK.key .lane l 0] → m'.reg k = s.m.reg k) ∧
       (s.m.lg l F.LANE_CTRL_ENABLE = 1 → s.m.inSet l = true → (s.m.lane l).offDue = false → s.m.flaps l = false →
         ∃ m' : Ilpiac, exec (.laneDisable l) s =
             .next { s with m := (((m'.checkMin (lanePort l) l).announce (lanePort l)).laneDisabled l).settle } ∧
           m'.lg l F.LANE_CTRL_ENABLE = 0 ∧ m'.lg l F.LANE_STATUS_LAST_CAUSE = causeSoftware ∧ m'.laneState l = s.m.laneState l ∧
           m'.lg l F.LANE_STATUS_REMOVALS = satAdd 16 (s.m.lg l F.LANE_STATUS_REMOVALS) 1 ∧ (m'.lane l).offDue = true ∧
           bitOf (m'.link (lanePort l)).rxGood (laneIdx l) = false)) ∧
     (∀ l : Fin 576, s.m.Reaches (F.LANE_CTRL_ENABLE.key .lane l 0) → (s.m.lane l).held = true → s.m.laneState l = laneHeld →
       s.m.lg l F.LANE_CTRL_ENABLE = 1 → s.m.lg l F.LANE_CTRL_MODE = 0 → s.m.laneMay l = true →
       ∃ m' : Ilpiac, exec (.laneClearHold l) s = .next { s with m := m'.settle } ∧ m'.laneState l = laneAcquire ∧ (m'.lane l).held = false ∧
         m'.lg l F.LANE_CTRL_CLEAR_HOLD = 0 ∧
         ((∀ x ∈ lanesOf (lanePort l), x ≠ l.val → (s.m.lane x).held = false) →
           ∀ a ∈ m'.flt.asserts, a.src = srcLane → a.unit = lanePort l → a.wire = true)) ∧
     (∀ (l : Fin 576) (v : Word), s.m.Reaches (F.LANE_INJECT_ARM.key .lane l 0) →
       ∃ m' : Ilpiac, exec (.laneInjectArm l v) s = .next { s with m := m'.settle } ∧ m'.lg l F.LANE_INJECT_ARM = 0 ∧
         m'.lg l F.LANE_INJECT_KIND = bits v.toNat 7 2 ∧ m'.lg l F.LANE_INJECT_SYMBOLS = bits v.toNat 2 5 ∧
         (bitOf v.toNat 0 = true → m'.lg l F.LANE_CHECK_ERRORS =
           if s.m.laneState l = laneTest ∧ (s.m.lg l F.LANE_CTRL_MODE = 2 ∨ s.m.lg l F.LANE_CTRL_MODE = 3) ∧ bits v.toNat 7 2 = 2 ∧
               s.m.lg l F.LANE_TEST_CHECK_LOCK = 1
           then satAdd 32 (s.m.lg l F.LANE_CHECK_ERRORS) 1 else s.m.lg l F.LANE_CHECK_ERRORS)) ∧
     (∀ v : Word, s.m.Reaches 0x390000 →
       (bits v.toNat 0 3 = s.m.g F.REF_CTRL_SOURCE →
         ∃ m' : Ilpiac, exec (.refSourceChange v) s = .next { s with m := m'.settle } ∧ m'.g F.REF_CTRL_SPREAD_PPM = bits v.toNat 4 12 ∧
           ∀ k, k ≠ 0x390000 → m'.reg k = s.m.reg k) ∧
       (bits v.toNat 0 3 ≠ s.m.g F.REF_CTRL_SOURCE →
         ∃ m' : Ilpiac, exec (.refSourceChange v) s = .next { s with m := (m'.timeSource false).settle } ∧ m'.g F.REF_CTRL_SOURCE = bits v.toNat 0 3 ∧
           m'.g F.REF_STATUS_STATE = (if bits v.toNat 0 3 = 0 then refLocal else refAcquiring) ∧
           ∀ a ∈ m'.flt.asserts, a.src = srcReference → a.wire = true))) ∧
  (∀ (s : State),
     (∀ lp : Fin 263,
       ((s.m.link lp).formed = true → s.m.plg lp F.LANE_PORT_LIGHT_EN = 1 → s.m.txIdle lp = 0 →
         ∃ m' : Ilpiac, exec (.lightIdleEnter lp) s = .next { s with m := m'.settle } ∧ m'.txIdle lp = 1 ∧ (m'.link lp).seqBase = s.m.seqNow lp ∧
           ∀ k, k ≠ F.LANE_PORT_STATUS_TX_IDLE.key .lane (laneFirst lp) 0 → m'.reg k = s.m.reg k) ∧
       (s.m.txIdle lp = 1 →
         (∃ m' : Ilpiac, exec (.lightIdleBeacon lp) s = .next { s with m := m'.settle } ∧
           (m'.link lp).seqBase = (s.m.link lp).seqBase + 3 * popCount (s.m.txSet lp) 16 ∧ m'.regs = s.m.regs) ∧
         (∃ m' : Ilpiac, exec (.lightIdleExit lp) s = .next { s with m := m'.settle } ∧ m'.txIdle lp = 0 ∧ (m'.link lp).seqBase = (s.m.link lp).seqBase ∧
           ∀ k, k ≠ F.LANE_PORT_STATUS_TX_IDLE.key .lane (laneFirst lp) 0 → m'.reg k = s.m.reg k))) ∧
     (∀ p : Fin 256,
       (s.m.portUp p = true → s.m.plg p F.LANE_PORT_DEEP_AFTER_US ≠ 0 → s.m.txIdle p ≠ 2 →
         ∃ m' : Ilpiac, exec (.deepIdleEnter p) s = .next { s with m := m'.settle } ∧ m'.txIdle p = 2 ∧ m'.portUp p = true) ∧
       (s.m.txIdle p = 2 ∨ s.m.rxIdle p = 2 →
         (∃ m' : Ilpiac, exec (.deepIdleWake p) s = .next { s with m := m'.settle } ∧ m'.txIdle p = 0 ∧ m'.rxIdle p = 0 ∧
           m'.portUp p = s.m.portUp p) ∧
         (∃ m' : Ilpiac, exec (.deepCheckTimer p) s = .next { s with m := m'.settle } ∧ m'.txIdle p = 0 ∧ m'.rxIdle p = 0 ∧ m'.portUp p = s.m.portUp p))) ∧
     (s.m.g F.REF_CTRL_SOURCE ≠ 0 → s.m.g F.REF_STATUS_STATE ≠ refHoldover →
       ∃ m' : Ilpiac, exec .refSourceLost s = .next { s with m := m'.settle } ∧ m'.g F.REF_STATUS_STATE = refHoldover ∧ m'.g F.REF_STATUS_SPREAD_SEEN = 0 ∧
         m'.asserting srcReference = true) ∧
     (∀ (ppb : Int) (spread : Bool), s.m.g F.REF_CTRL_SOURCE ≠ 0 → ppb.natAbs ≤ 3000000 →
       ∃ m' : Ilpiac, exec (.refSourceReturn ppb spread) s = .next { s with m := m'.settle } ∧ m'.g F.REF_STATUS_STATE = refLocked ∧
         m'.g F.REF_STATUS_SPREAD_SEEN = b2n spread ∧ m'.g F.REF_STATUS_OFFSET_PPB = ofInt ppb 24 ∧
         ∀ a ∈ m'.flt.asserts, a.src = srcReference → a.wire = true))

/-- Bring-up and port formation (R397, R398): signal, CDR lock, codeword lock in this order, with ACQUIRE, ADAPT and LOCKED; a lane without codeword lock goes
back to ACQUIRE and counts a retry; the port forms when both sets hold enough lanes, from where the Holm port waits for Assign and any other sends
HELLO in CHECKING.
Where the spec leaves it open this follows the model's readings of log entry 81. -/
def Obligations.LaneBringUp : Prop := ∀ (s : State),
  (∀ l : Fin 576,
    (s.m.laneState l = laneAcquire →
      ∃ m' : Ilpiac, exec (.laneSignalDetect l) s = .next { s with m := m'.settle } ∧ m'.lg l F.LANE_STATUS_SIGNAL = 1 ∧ m'.laneState l = laneAcquire ∧
        ∀ k, k ≠ F.LANE_STATUS_STATE.key .lane l 0 → m'.reg k = s.m.reg k) ∧
    (s.m.laneState l = laneAcquire → s.m.lg l F.LANE_STATUS_SIGNAL = 1 →
      ∃ m' : Ilpiac, exec (.laneCdrLock l) s = .next { s with m := m'.settle } ∧ m'.lg l F.LANE_STATUS_CDR_LOCK = 1 ∧ m'.laneState l = laneAdapt ∧
        ∀ k, k ≠ F.LANE_STATUS_STATE.key .lane l 0 → m'.reg k = s.m.reg k) ∧
    (s.m.laneState l = laneAdapt → s.m.lg l F.LANE_STATUS_CDR_LOCK = 1 →
      ∃ m' : Ilpiac, exec (.laneCwLock l) s = .next { s with m := m'.settle } ∧ m'.lg l F.LANE_STATUS_CW_LOCK = 1 ∧ m'.laneState l = laneLocked ∧
        bitOf (m'.link (lanePort l)).rxGood (laneIdx l) = (!(s.m.link (lanePort l)).formed || bitOf (s.m.link (lanePort l)).rxGood (laneIdx l))) ∧
    (s.m.laneState l = laneAcquire ∨ s.m.laneState l = laneAdapt → s.m.lg l F.LANE_STATUS_SIGNAL = 1 →
      ∃ m' : Ilpiac, exec (.laneTrainTimeout l) s = .next { s with m := m'.settle } ∧ m'.laneState l = laneAcquire ∧ m'.lg l F.LANE_STATUS_CDR_LOCK = 0 ∧
        m'.lg l F.LANE_STATUS_TRAIN_RETRIES = satAdd 16 (s.m.lg l F.LANE_STATUS_TRAIN_RETRIES) 1)) ∧
  (∀ lp : Fin 263, (s.m.link lp).formed = false → (∃ l ∈ lanesOf lp, s.m.laneState l = laneLocked) →
    let rx := ofBitIdx (bitIdx (s.m.link lp).pTxSet (laneCount lp))
    (popCount (s.m.wantSet lp) 16 < s.m.minLanes lp ∨ popCount rx 16 < s.m.minLanes lp →
      ∃ m' : Ilpiac, exec (.portForm lp) s = .next { s with m := m'.settle } ∧ (m'.link lp).formed = false ∧ m'.links = s.m.links) ∧
    (s.m.minLanes lp ≤ popCount (s.m.wantSet lp) 16 → s.m.minLanes lp ≤ popCount rx 16 →
      (lp.val = holmPort →
        ∃ m' : Ilpiac, exec (.portForm lp) s = .next { s with m := m'.settle } ∧ (m'.link lp).formed = true ∧ (m'.link lp).expect = 0 ∧
          m'.txSet lp = s.m.wantSet lp ∧ m'.rxSet lp = rx ∧ m'.g F.HOLM_STATUS_STATE = holmUnassigned) ∧
      (lp.val < 256 →
        ∃ m' : Ilpiac, exec (.portForm lp) s = .next { s with m := (m'.sendHello lp).settle } ∧ (m'.link lp).formed = true ∧ m'.portState lp = 1 ∧
          m'.txSet lp = s.m.wantSet lp ∧ m'.rxSet lp = rx ∧ (m'.port lp).amoKept = [] ∧ (m'.port lp).syncKept = [])))

/-- Flits (R387 to R392): a lane that receives nothing takes nothing; before the port has formed a codeword only counts, as its corrected symbols or as
uncorrectable; on a formed port the flit that is next in order moves the port on to the following one, a DATA flit with its bytes added to the packet stream and the
packets that it completes arriving; a next flit that is lost moves it on too, the packet in progress is dropped and bytes are skipped until a boundary; a flit
whose LANE does not fit is discarded; the partner's RX_GOOD and TX_SET of a CONTROL flit are held; an announced set takes effect when SWITCH_SEQ is reached and not
before.
Where the spec leaves it open this follows the model's readings of log entries 64, 84. -/
def Obligations.Flits : Prop := ∀ (s : State) (l : Fin 576),
  let lp := lanePort l
  let k := s.m.link lp
  (∀ c : Codeword, s.m.laneReceives l = false → exec (.flitReceived l c) s = .next { s with m := s.m.settle }) ∧
  (∀ c : Codeword, s.m.laneReceives l = true → k.formed = false → k.txSwitch = none →
    (c.symErrors ≤ 15 → c.flit.kind = 4 →
      ∃ m' : Ilpiac, exec (.flitReceived l c) s = .next { s with m := m'.settle } ∧
        m'.lg l F.LANE_FEC_CORR_SYMBOLS = satAdd 32 (s.m.lg l F.LANE_FEC_CORR_SYMBOLS) c.symErrors ∧
        m'.lg l F.LANE_FEC_UNCORR = s.m.lg l F.LANE_FEC_UNCORR ∧ m'.link lp = k ∧
        (m'.lane l).recent = (false :: (s.m.lane l).recent).take 16) ∧
    (15 < c.symErrors →
      ∃ m' : Ilpiac, exec (.flitReceived l c) s = .next { s with m := m'.settle } ∧
        m'.lg l F.LANE_FEC_UNCORR = satAdd 32 (s.m.lg l F.LANE_FEC_UNCORR) 1 ∧
        m'.lg l F.LANE_FEC_CORR_SYMBOLS = s.m.lg l F.LANE_FEC_CORR_SYMBOLS)) ∧
  (∀ c : Codeword, s.m.laneReceives l = true → k.formed = true → k.txSwitch = none → k.rxSwitch = none → k.reorder = [] →
    s.m.laneOfFlit lp k.expect = some (laneIdx l) → (((s.m.lane l).recent.take 15).filter (fun b => b)).length < 7 →
    (c.symErrors ≤ 15 → c.flit.seq = k.expect % 256 → c.flit.lane = laneIdx l % 8 →
      (c.flit.kind = 4 →
        ∃ m' : Ilpiac, exec (.flitReceived l c) s = .next { s with m := m'.settle } ∧ m'.link lp = { k with expect := k.expect + 1 } ∧
          m'.lg l F.LANE_FEC_CORR_SYMBOLS = satAdd 32 (s.m.lg l F.LANE_FEC_CORR_SYMBOLS) c.symErrors) ∧
      (c.flit.kind = 0 → lp ≠ holmPort →
        let a := PktStream.data { asm := k.asm, skip := k.skip, out := [], lost := [] } c.flit
        a.lost = [] →
        ∃ m' : Ilpiac, exec (.flitReceived l c) s = .next { s with m := (m'.fromFlits lp a.out).settle } ∧
          m'.link lp = { k with expect := k.expect + 1, asm := a.asm, skip := a.skip } ∧ m'.rxIdle lp = 0)) ∧
    (15 < c.symErrors → lp ≠ holmPort → k.skip = none →
      ∃ m' : Ilpiac, exec (.flitReceived l c) s = .next { s with m := m'.settle } ∧ (m'.link lp).expect = k.expect + 1 ∧ (m'.link lp).asm = [] ∧
        (m'.link lp).skip.isSome = true ∧ m'.lg l F.LANE_FEC_UNCORR = satAdd 32 (s.m.lg l F.LANE_FEC_UNCORR) 1) ∧
    (c.symErrors ≤ 15 → c.flit.kind = 4 → c.flit.lane ≠ laneIdx l % 8 →
      ∃ m' : Ilpiac, exec (.flitReceived l c) s = .next { s with m := m'.settle } ∧ m'.link lp = k)) ∧
  (∀ c : Control, s.m.laneReceives l = true → k.formed = false → k.txSwitch = none →
    ∃ m' : Ilpiac, exec (.controlFlitReceived l c) s = .next { s with m := m'.settle } ∧
      m'.link lp = { k with pRxGood := c.rxGood, pTxSet := c.txSet } ∧ m'.regs = s.m.regs ∧ m'.sw = s.m.sw) ∧
  (∀ lp : Fin 263,
    ((s.m.link lp).txSwitch = none ∨ (∃ w, (s.m.link lp).txSwitch = some w ∧ s.m.seqNow lp < w.seq) →
      exec (.controlFlitTimer lp) s = .next { s with m := s.m.settle }) ∧
    (∀ w : SetSwitch, (s.m.link lp).txSwitch = some w → w.seq ≤ s.m.seqNow lp →
      ∃ m' : Ilpiac, exec (.controlFlitTimer lp) s = .next { s with m := (m'.announce lp).settle } ∧ m'.txSet lp = w.set % 2 ^ 16 ∧
        (m'.link lp).txSwitch = none))

/-- Lane loss (R401, R402, R404, R405): a lane of the receive set that loses its signal counts a removal with its cause, leaves RX_GOOD and starts bring-up again, from
where the sets follow; the removal that reaches FLAP_LIMIT holds it and makes the fault collector record a lane fault; one whose corrected symbols
average above the threshold decodes until it is turned off; a lane that has kept codeword lock enters RX_GOOD again.
Where the spec leaves it open this follows the model's readings of log entry 81. -/
def Obligations.LaneLoss : Prop := ∀ (s : State) (l : Fin 576),
  (s.m.laneUsed l causeSignal = true →
    (s.m.rxIdle (lanePort l) ≠ 2 → s.m.txIdle (lanePort l) ≠ 2 → s.m.flaps l = false → s.m.lg l F.LANE_CTRL_ENABLE = 1 →
      s.m.lg l F.LANE_CTRL_MODE = 0 → s.m.laneMay l = true → (s.m.lane l).held = false →
      ∃ m' : Ilpiac, exec (.laneSignalLoss l) s = .next { s with m := ((m'.checkMin (lanePort l) l).announce (lanePort l)).settle } ∧
        m'.laneState l = laneAcquire ∧ m'.lg l F.LANE_STATUS_LAST_CAUSE = causeSignal ∧
        m'.lg l F.LANE_STATUS_REMOVALS = satAdd 16 (s.m.lg l F.LANE_STATUS_REMOVALS) 1 ∧
        bitOf (m'.link (lanePort l)).rxGood (laneIdx l) = false) ∧
    (s.m.rxIdle (lanePort l) ≠ 2 → s.m.txIdle (lanePort l) ≠ 2 → s.m.flaps l = true →
      ∃ m' : Ilpiac, exec (.laneSignalLoss l) s = .next { s with m := ((m'.checkMin (lanePort l) l).announce (lanePort l)).settle } ∧
        m'.laneState l = laneHeld ∧ (m'.lane l).held = true ∧ m'.asserting srcLane = true ∧
        bitOf (m'.link (lanePort l)).rxGood (laneIdx l) = false) ∧
    (∀ avg : Nat, s.m.plg (lanePort l) F.LANE_PORT_MARGIN_SYMBOLS ≠ 0 → s.m.plg (lanePort l) F.LANE_PORT_MARGIN_SYMBOLS < avg → s.m.flaps l = false →
      ∃ m' : Ilpiac, exec (.laneMarginCheck l avg) s = .next { s with m := ((m'.checkMin (lanePort l) l).announce (lanePort l)).settle } ∧
        m'.laneState l = s.m.laneState l ∧ (m'.lane l).offDue = true ∧ m'.lg l F.LANE_STATUS_LAST_CAUSE = causeMargin ∧
        m'.lg l F.LANE_STATUS_REMOVALS = satAdd 16 (s.m.lg l F.LANE_STATUS_REMOVALS) 1 ∧
        bitOf (m'.link (lanePort l)).rxGood (laneIdx l) = false)) ∧
  (∀ avg : Nat, s.m.plg (lanePort l) F.LANE_PORT_MARGIN_SYMBOLS = 0 ∨ avg ≤ s.m.plg (lanePort l) F.LANE_PORT_MARGIN_SYMBOLS →
    exec (.laneMarginCheck l avg) s = .next { s with m := s.m.settle }) ∧
  ((s.m.lane l).offDue = true → (s.m.link (lanePort l)).txSwitch = none → s.m.lg l F.LANE_CTRL_ENABLE = 0 →
    ∃ m' : Ilpiac, exec (.laneSwitchOffTimeout l) s = .next { s with m := m'.settle } ∧ m'.laneState l = laneOff ∧ (m'.lane l).offDue = false ∧
      ∀ k, k ∉ [F.LANE_STATUS_STATE.key .lane l 0, F.LANE_TEST_CHECK_LOCK.key .lane l 0] → m'.reg k = s.m.reg k) ∧
  (s.m.laneState l = laneLocked → s.m.laneServes l = true → (s.m.link (lanePort l)).formed = true →
    ∃ m' : Ilpiac, exec (.laneReadd l) s = .next { s with m := (m'.announce (lanePort l)).settle } ∧
      bitOf (m'.link (lanePort l)).rxGood (laneIdx l) = true ∧ m'.regs = s.m.regs)

/-! ### Communicators and collectives (spec 02) -/

/-- COMM_CREATE, COMM_DESTROY, COMM_QUERY (R43 to R48, R84, R91): a creation whose checks pass stores the members and experts that it read, with the digest of R47, and completes
with ST_OK; a COMM_ID in use is refused with ST_DUPLICATE_COMM, and without a placement it completes with ST_UNPLACED; a destruction drops the communicator, whose
identifier stays taken until its record is written; a query writes the 256 bytes of counters and clears them where asked.

MEMBER_FENCE, MEMBER_UNFENCE, RM_QUOTA, QUOTA_SET_ASIDE (R79 to R81, R90, R143, R144): a fence marks the port and takes the member from every retained copy; an unfence of a port that is UP and
that no open collective names clears the mark, and is refused otherwise; a quota that is set aside already is in force at once, an increase waits until all of it has been
set aside, and is then in force with its descriptor complete.
Where the spec leaves it open this follows the model's readings of log entries 32, 34. -/
def Obligations.CommunicatorControl : Prop :=
  (∀ (s : State) (ring : Fin 65536) (d : AccDesc) (m0 : Ilpiac),
     (s.m.begin ring 0x01 = some (d, m0) →
       let n := d.f 1 16 15
       let e := d.f 7 0 16
       let id := d.f 1 0 16
       (∀ lb eb : List Byte,
         let lst := toLen (2 * n) lb
         let exs := if e = 0 then [] else toLen (2 * e) eb
         let members := halfwords n lst
         let experts := halfwords e exs
         let single := members.all (fun a => a / 256 == s.m.bed)
         let digest := crc32c ((wordBytes (d.words.drop 1)).take 8 ++ (wordBytes (d.words.drop 3)).take 16 ++ (wordBytes (d.words.drop 7)).take 8 ++ lst ++ exs)
         s.m.placed = true → d.w0ok = true → d.zero [(1, 31, 1), (1, 36, 28), (7, 16, 48)] = true → 1 ≤ n → n ≤ 16384 → e ≤ 32768 →
         d.f 5 0 32 = 0 ∨ (1000 ≤ d.f 5 0 32 ∧ d.f 5 0 32 ≤ 1000000) → d.f 2 0 64 % 64 = 0 → e = 0 ∨ d.f 6 0 64 % 64 = 0 →
         d.f 1 35 1 = 0 ∨ d.f 1 34 1 = 1 → s.m.Coherent (d.f 2 0 64) (2 * n) false → e = 0 ∨ s.m.Coherent (d.f 6 0 64) (2 * e) false →
         (∀ x ∈ experts, x < n) → ascending members = true → (s.m.has F.CAP_PRESENT_TRUNK = true ∨ single = true) →
         (d.f 1 35 1 = 0 ∨ single = true ∨ s.m.has F.CAP_PRESENT_HBM = true) →
         (∀ a ∈ members, s.m.bedInside (a / 256) = true ∧ a / 256 < 64 ∧ a % 256 < s.m.downlinks ∧
           ¬(s.m.twinOn = true ∧ a = s.m.bed * 256 + s.m.g F.TWIN_CTRL_PORT)) → (∃ a ∈ members, a / 256 = s.m.bed) →
         (s.m.comm id = none → id ∉ s.m.coll.dying → s.m.freeContexts ≠ 0 →
           ∃ m' : Ilpiac, exec (.commCreate ring (some lb) (some eb)) s = .next { s with m := m'.settle } ∧
             m'.coll = { s.m.coll with comms := s.m.coll.comms ++ [newComm d members experts digest.toNat] } ∧
             m'.ctl.cpl = s.m.ctl.cpl ++ [d.record stOk { comm := id }]) ∧
         ((s.m.comm id).isSome = true ∨ id ∈ s.m.coll.dying →
           ∃ m' : Ilpiac, exec (.commCreate ring (some lb) (some eb)) s = .next { s with m := m'.settle } ∧ m'.coll = s.m.coll ∧
             m'.ctl.cpl = s.m.ctl.cpl ++ [d.record stDuplicateComm { comm := id }])) ∧
       (s.m.placed = false → ∀ rb re, ∃ m' : Ilpiac, exec (.commCreate ring rb re) s = .next { s with m := m'.settle } ∧ m'.coll = s.m.coll ∧
         m'.ctl.cpl = s.m.ctl.cpl ++ [d.record stUnplaced { comm := id }])) ∧
     (s.m.begin ring 0x02 = some (d, m0) → s.m.placed = true → d.w0ok = true →
       d.zero [(1, 16, 48), (2, 0, 64), (3, 0, 64), (4, 0, 64), (5, 0, 64), (6, 0, 64), (7, 0, 64)] = true →
       (s.m.comm (d.f 1 0 16) = none →
         ∃ m' : Ilpiac, exec (.commDestroy ring) s = .next { s with m := m'.settle } ∧ m'.coll = s.m.coll ∧
           m'.ctl.cpl = s.m.ctl.cpl ++ [d.record stUnknownComm { comm := d.f 1 0 16 }]) ∧
       (∀ cm, s.m.comm (d.f 1 0 16) = some cm → (∀ c ∈ s.m.coll.colls, c.key.comm ≠ d.f 1 0 16) → cm.quotaWait = none →
         ∃ m' : Ilpiac, exec (.commDestroy ring) s = .next { s with m := m'.settle } ∧ m'.comm (d.f 1 0 16) = none ∧
           m'.coll.dying = s.m.coll.dying ++ [d.f 1 0 16] ∧
           m'.ctl.cpl = s.m.ctl.cpl ++ [{ d.record stOk { comm := d.f 1 0 16 } with frees := some (d.f 1 0 16) }])) ∧
     (∀ cm, s.m.begin ring 0x03 = some (d, m0) → s.m.placed = true → d.w0ok = true →
       d.zero [(1, 17, 47), (3, 0, 64), (4, 0, 64), (5, 0, 64), (6, 0, 64), (7, 0, 64)] = true → s.m.comm (d.f 1 0 16) = some cm →
       d.f 2 0 64 % 64 = 0 → s.m.Coherent (d.f 2 0 64) 256 true → s.m.g F.HOLM_STATUS_STATE = holmUp → cm.cnt.hist.length = 16 →
       ∃ m' : Ilpiac, exec (.commQuery ring) s = .next { s with m := m'.settle } ∧
         m'.told = s.m.told ++ (cohPieces (d.f 2 0 64) cm.cnt.record).map (fun x => .cohWrite x.1 x.2) ∧ cm.cnt.record.length = 256 ∧
         m'.ctl.cpl = s.m.ctl.cpl ++ [d.record stOk { comm := d.f 1 0 16 }] ∧
         (d.f 1 16 1 = 0 → m'.coll = s.m.coll) ∧
         (d.f 1 16 1 = 1 → ∃ c, m'.comm (d.f 1 0 16) = some c ∧ c.cnt.done = 0 ∧ c.cnt.failed = 0 ∧ c.cnt.replays = 0 ∧ c.cnt.stray = 0 ∧
           c.members = cm.members ∧ c.digest = cm.digest))) ∧
  (∀ (s : State) (ring : Fin 65536) (d : AccDesc) (m0 : Ilpiac),
     let addr := d.f 1 0 14
     let p := addr % 256
     let ok := s.m.placed = true ∧ d.w0ok = true ∧ d.zero [(1, 14, 50), (2, 0, 64), (3, 0, 64), (4, 0, 64), (5, 0, 64), (6, 0, 64), (7, 0, 64)] = true ∧
       addr / 256 = s.m.bed ∧ s.m.portPresent p = true
     (s.m.begin ring 0x20 = some (d, m0) → ok →
       (s.m.portFenced p = true →
         ∃ m' : Ilpiac, exec (.memberFence ring) s = .next { s with m := m'.settle } ∧ m'.coll = s.m.coll ∧ m'.sw = s.m.sw ∧
           m'.ctl.cpl = s.m.ctl.cpl ++ [d.record stOk]) ∧
       (s.m.portFenced p = false →
         ∃ m' : Ilpiac, ∃ l, exec (.memberFence ring) s = .next { s with m := m'.settle } ∧ m'.portFenced p = true ∧
           (∀ r ∈ m'.coll.retained, ∀ x ∈ r.dests, x.addr ≠ addr) ∧ s.m.ctl.cpl <+: l ∧ m'.ctl.cpl = l ++ [d.record stOk])) ∧
     (s.m.begin ring 0x21 = some (d, m0) → ok →
       (s.m.portUp p = true → s.m.collsWith addr = [] →
         ∃ m' : Ilpiac, exec (.memberUnfence ring) s = .next { s with m := m'.settle } ∧ m'.portFenced p = false ∧ m'.ctl.cpl = s.m.ctl.cpl ++ [d.record stOk]) ∧
       (s.m.portUp p = false ∨ s.m.collsWith addr ≠ [] →
         ∃ m' : Ilpiac, exec (.memberUnfence ring) s = .next { s with m := m'.settle } ∧ m'.portFenced p = s.m.portFenced p ∧
           m'.ctl.cpl = s.m.ctl.cpl ++ [d.record stBadDescriptor])) ∧
     (∀ cm, s.m.begin ring 0x28 = some (d, m0) → s.m.placed = true → d.w0ok = true →
       d.zero [(1, 32, 32), (2, 0, 64), (3, 0, 64), (4, 0, 64), (5, 0, 64), (6, 0, 64), (7, 0, 64)] = true →
       s.m.comm (d.f 1 0 16) = some cm → cm.quotaWait = none →
       let slots := d.f 1 16 16
       let others := sumOf ((s.m.coll.comms.filter (fun c => c.id != d.f 1 0 16)).map (fun c => match c.quotaWait with | some w => w.1 | none => c.quota))
       slots ≤ 32768 → slots = 0 ∨ (4 + max (levelsOf (s.m.locals cm).length) 1 ≤ slots ∧ slots ≤ 32768 - s.m.g F.RM_POLICY_SHARED_MIN - others) →
       (slots ≤ cm.quotaSet →
         ∃ m' : Ilpiac, ∃ c, exec (.rmQuota ring) s = .next { s with m := m'.settle } ∧ m'.comm (d.f 1 0 16) = some c ∧ c.quota = slots ∧ c.quotaWait = none ∧
           m'.ctl.cpl = s.m.ctl.cpl ++ [d.record stOk { comm := d.f 1 0 16 }]) ∧
       (cm.quotaSet < slots →
         ∃ m' : Ilpiac, ∃ c, exec (.rmQuota ring) s = .next { s with m := m'.settle } ∧ m'.comm (d.f 1 0 16) = some c ∧ c.quota = cm.quota ∧
           c.quotaWait = some (slots, (d.ring, d.num)) ∧ cm.quotaSet ≤ c.quotaSet ∧ c.quotaSet ≤ slots ∧ m'.ctl.cpl = s.m.ctl.cpl)) ∧
     (∀ id cm target r n, s.m.comm id = some cm → cm.quotaWait = some (target, (r, n)) → target ≤ cm.quotaSet →
       s.m.ctl.descs.find? (fun x => x.ring == r && x.num == n) = some d →
       ∃ m' : Ilpiac, ∃ c, exec (.quotaSetAside id) s = .next { s with m := m'.settle } ∧ m'.comm id = some c ∧ c.quota = target ∧ c.quotaWait = none ∧
         m'.ctl.cpl = s.m.ctl.cpl ++ [d.record stOk { comm := id }]))

/-- The seven collective descriptors (R32, R49, R52, R54, R70, R91, R139): without a placement, or for a communicator that is not held, the descriptor completes at once; otherwise the
collective is open with its key, its local members in delivery and no record yet, and its contexts wait at admission, or, where a check finds a failure, it is open as
refused with the largest code found and no contexts.
Where the spec leaves it open this follows the model's readings of log entries 26, 77. -/
def Obligations.CollectiveAccept : Prop := ∀ (s : State) (ring : Fin 65536) (d : AccDesc) (m0 : Ilpiac) (op : Nat) (cmd : Instr),
  (op, cmd) ∈ [(0x10, Instr.allReduce ring), (0x11, .reduceScatter ring), (0x12, .allGather ring), (0x13, .broadcast ring),
    (0x14, .reduceUpdateBcast ring), (0x18, .dispatch ring), (0x19, .combine ring)] →
  s.m.begin ring op = some (d, m0) →
  let k := d.key
  let c := Coll.fresh k d.words d.ring d.num s.m.time.ns
  (s.m.placed = false →
    ∃ m' : Ilpiac, exec cmd s = .next { s with m := m'.settle } ∧ m'.coll = s.m.coll ∧
      m'.ctl.cpl = s.m.ctl.cpl ++ [d.record stUnplaced { comm := k.comm, step := k.step, seq := k.seq }]) ∧
  (s.m.placed = true → s.m.comm k.comm = none →
    ∃ m' : Ilpiac, exec cmd s = .next { s with m := m'.settle } ∧ m'.coll = s.m.coll ∧
      m'.ctl.cpl = s.m.ctl.cpl ++
        [d.record (if s.m.collFields c then stUnknownComm else stBadDescriptor) { comm := k.comm, step := k.step, seq := k.seq }]) ∧
  (∀ cm, s.m.placed = true → s.m.comm k.comm = some cm → s.m.collOf k = none → k ∉ s.m.coll.past →
    (s.m.collCodes cm c = [] →
      ∃ m' : Ilpiac, exec cmd s = .next { s with m := m'.settle } ∧ m'.ctl.cpl = s.m.ctl.cpl ∧
        m'.coll.colls = s.m.coll.colls ++ [{ c with delivery := (s.m.locals cm).filter (fun a => !s.m.memberFenced a) }] ∧
        m'.coll.ctxs = s.m.coll.ctxs ∧ m'.waitingCtxs = s.m.waitingCtxs + s.m.ctxTotal cm c ∧
        ∃ cm', m'.comm k.comm = some cm' ∧ cm'.lastKey = some (k.step, k.seq) ∧ cm'.members = cm.members) ∧
    (s.m.collCodes cm c ≠ [] →
      ∃ m' : Ilpiac, ∃ c', exec cmd s = .next { s with m := m'.settle } ∧ m'.ctl.cpl = s.m.ctl.cpl ∧ m'.coll.colls = s.m.coll.colls ++ [c'] ∧
        c'.key = k ∧ c'.refused = true ∧ c'.status = some (maxOf (s.m.collCodes cm c)) ∧ m'.coll.queues = s.m.coll.queues ∧
        m'.coll.ctxs = s.m.coll.ctxs))

/-- Admission and deadlines (R75, R137 to R142, R155): the context at the head of a queue that finds its resources leaves the queue, is held with what it reserves, and counts as
admitted, from where its credits leave and its work begins; without them it stays; a collective whose contexts still wait, or wait for a furrow, at its timeout, or that
lacks a contribution at its deadline, fails with ST_TIMEOUT and its waiting contexts go. -/
def Obligations.Admission : Prop := ∀ (s : State),
  (∀ (pool : Option Nat) q r l c, s.m.coll.queues.find? (fun q => q.pool == pool) = some q → q.runs = r :: l → s.m.collOf r.coll = some c →
    let x : CtxId := ⟨r.coll, r.part, r.lo⟩
    (s.m.admissible pool c x = false → exec (.contextAdmit pool) s = .next { s with m := s.m.settle }) ∧
    (s.m.admissible pool c x = true → r.lo < r.hi →
      ∃ m' : Ilpiac, ∃ c', exec (.contextAdmit pool) s = .next { s with m := ((m'.sendCredits x).pumpAll x).settle } ∧
        m'.coll.ctxs = s.m.coll.ctxs ++ [s.m.newCtx pool c x] ∧ m'.waitingCtxs + 1 = s.m.waitingCtxs ∧
        m'.collOf r.coll = some c' ∧ c'.admitted = c.admitted + 1 ∧ m'.coll.comms.map (·.id) = s.m.coll.comms.map (·.id))) ∧
  (∀ k c, s.m.collOf k = some c → c.final = none → c.started = false →
    (s.m.anyWaits k = true →
      ∃ m' : Ilpiac, ∃ c', exec (.admissionTimeout k) s = .next { s with m := m'.settle } ∧ m'.anyWaits k = false ∧ m'.collOf k = some c' ∧
        c'.status = some (max stTimeout (c.status.getD 0)) ∧ bitOf c'.info infoAdmission = true) ∧
    ((∃ x ∈ s.m.coll.ctxs, x.id.coll = k ∧ ∃ f, x.home = some f ∧ s.m.furrowState f = furrowRetired) →
      ∃ m' : Ilpiac, ∃ c', exec (.furrowWaitTimeout k) s = .next { s with m := m'.settle } ∧ m'.anyWaits k = false ∧ m'.collOf k = some c' ∧
        c'.status = some (max stTimeout (c.status.getD 0)) ∧ c'.fault = c.fault) ∧
    (∀ cm addr, s.m.comm k.comm = some cm → c.admitted ≠ 0 → addr ∈ s.m.locals cm → s.m.owes cm c addr = true →
      ∃ m' : Ilpiac, ∃ c', exec (.contribDeadline k addr) s = .next { s with m := m'.settle } ∧ m'.anyWaits k = false ∧ m'.collOf k = some c' ∧
        c'.status = some (max stTimeout (c.status.getD 0)) ∧ c'.fault = lowerFault c.fault (some (addr, stTimeout))))

/-- Contributions and acknowledgements (R53, R72 to R75, R80, R319, R551): an accepted contribution enters its context once and is timed; one for a closed collective counts as a duplicate, one for no
collective as a stray; a copy that its last destination acknowledges is freed; a copy that is not acknowledged in time is sent again and counted while the limit lasts; a
member that misses results after the commit point leaves the delivery.
Where the spec leaves it open this follows the model's readings of log entry 29. -/
def Obligations.Contributions : Prop := ∀ (s : State) (port : Fin 256) (p : Packet),
  (s.m.Admits port p → p.ty = 0x08 → ∀ cm, s.m.comm p.comm = some cm →
    let addr := s.m.bed * 256 + port.val
    let x := (contribCtx p).1
    (p.coll ∈ s.m.coll.past →
      ∃ m' : Ilpiac, ∃ c, exec (.contribReceived port p) s = .next { s with m := m'.settle } ∧ m'.comm p.comm = some c ∧
        c.cnt.duplicates = (cm.cnt.duplicates + 1) % 2 ^ 64 ∧ m'.coll.colls = s.m.coll.colls ∧ m'.coll.ctxs = s.m.coll.ctxs) ∧
    (p.coll ∉ s.m.coll.past → s.m.collOf p.coll = none →
      ∃ m' : Ilpiac, ∃ c, exec (.contribReceived port p) s = .next { s with m := m'.settle } ∧ m'.comm p.comm = some c ∧
        c.cnt.stray = (cm.cnt.stray + 1) % 2 ^ 64 ∧ m'.coll.colls = s.m.coll.colls ∧ m'.coll.ctxs = s.m.coll.ctxs) ∧
    (∀ c cx, p.coll ∉ s.m.coll.past → s.m.collOf p.coll = some c → s.m.ctxOf x = some cx → s.m.treeCtx c x = true → c.failing = false →
      c.final = none → (∃ r ∈ s.m.runsOf cm c, r.part = x.part ∧ r.lo ≤ x.index ∧ x.index < r.hi) → addr ∈ s.m.contributors cm c x →
      let leaf := s.m.leafOf cm x addr (contribCtx p).2
      leaf ∈ (s.m.leaves c x).2 → leaf ∉ cx.seen → p.body.length = s.m.contribLen c x leaf p.fmt →
      ∃ m' : Ilpiac, ∃ c' cx', exec (.contribReceived port p) s = .next { s with m := (m'.pumpAll x).settle } ∧ m'.ctxOf x = some cx' ∧
        cx'.seen = cx.seen ++ [leaf] ∧ cx'.todo = cx.todo ++ [leaf] ∧ cx'.contribs.map (·.leaf) = cx.contribs.map (·.leaf) ++ [leaf] ∧
        m'.collOf p.coll = some c' ∧ c'.lastAt = s.m.time.ns ∧ c'.lastMember = addr ∧ c'.firstAt = c.firstAt.or (some s.m.time.ns))) ∧
  (s.m.Admits port p → p.ty = 0x09 → ∀ r ∈ s.m.coll.retained, r.coll = p.coll → r.part = p.part →
    p.part = 15 ∨ (p.part ≠ 2 ∧ p.pos ≤ r.index ∧ r.index < p.pos + p.count) →
    (∀ x ∈ r.dests, x.addr = s.m.bed * 256 + port.val ∨ x.acked = true) →
    ∃ m' : Ilpiac, exec (.ackReceived port p) s = .next { s with m := m'.settle } ∧ r ∉ m'.coll.retained ∧
      (∀ q ∈ s.m.coll.retained, q.coll ≠ p.coll → (∃ x ∈ q.dests, x.acked = false) → q ∈ m'.coll.retained)) ∧
  (∀ id addr r dst, s.m.coll.retained.find? (fun r => r.id == id) = some r → r.dests.find? (fun x => x.addr == addr && !x.acked) = some dst →
    (dst.sends ≤ s.m.replayLimit (some r.coll) →
      ∃ m' : Ilpiac, exec (.retentionTimeout id addr) s = .next { s with m := m'.settle } ∧
        m'.coll.retained = mapIf (fun x => x.id == id)
          (fun x => { x with dests := mapIf (fun y => y.addr == addr) (fun y => { y with sends := y.sends + 1 }) x.dests }) s.m.coll.retained ∧
        (∀ cm, s.m.comm r.coll.comm = some cm → ∃ c, m'.comm r.coll.comm = some c ∧ c.cnt.replays = (cm.cnt.replays + 1) % 2 ^ 64) ∧
        (∀ c, s.m.collOf r.coll = some c → ∃ c', m'.collOf r.coll = some c' ∧ bitOf c'.info infoReplayed = true)) ∧
    (∀ c, s.m.replayLimit (some r.coll) < dst.sends → s.m.collOf r.coll = some c → c.final.isSome = true → addr ∈ c.delivery →
      ∃ m' : Ilpiac, ∃ c', exec (.retentionTimeout id addr) s = .next { s with m := m'.settle } ∧ m'.collOf r.coll = some c' ∧ addr ∉ c'.delivery ∧
        c'.lost = c.lost.or (some (addr, stTimeout)) ∧ c'.final = c.final)) ∧
  (∀ k addr c cm st, s.m.collOf k = some c → s.m.comm k.comm = some cm → c.final = some st → st < 0x40 → addr ∈ c.delivery →
    s.m.resultsHere cm c addr = false →
    ∃ m' : Ilpiac, ∃ c', exec (.resultMissingTimeout k addr) s = .next { s with m := m'.settle } ∧ m'.collOf k = some c' ∧ addr ∉ c'.delivery ∧
      c'.lost = c.lost.or (some (addr, stTimeout)))

/-- The verdict and the end (R66, R67, R71, R78): a pass that may start enters the own record once and is marked started, from where the records travel; END goes in one
retained copy to the local members that have what they are to receive; a collective of which nothing is outstanding has its record due, after those before it.
Where the spec leaves it open this follows the model's readings of log entry 30. -/
def Obligations.CollectiveEnd : Prop := ∀ (s : State) (k : CollId) (c : Coll) (cm : Comm), s.m.collOf k = some c → s.m.comm k.comm = some cm →
  (s.m.passReady cm c = false → exec (.verdictPassStart k) s = .next { s with m := s.m.settle }) ∧
  (s.m.passReady cm c = true →
    ∃ m' : Ilpiac, ∃ c', exec (.verdictPassStart k) s = .next { s with m := ((m'.sendRecords k).commits k.comm).settle } ∧ m'.collOf k = some c' ∧
      c'.started = true ∧ c'.records = c.records.filter (fun x => x.bed != s.m.bed) ++ [s.m.ownRecord cm c]) ∧
  (∀ st, c.final = some st →
    let l := (s.m.receivers c c.delivery).filter (fun a => !c.ended.contains a && (decide (0x40 ≤ st) || s.m.resultsHere cm c a))
    l ≠ [] → 1 ≤ s.m.areaFree .retain →
    ∃ m' : Ilpiac, ∃ c', exec (.endSend k) s = .next { s with m := m'.settle } ∧ m'.collOf k = some c' ∧ c'.ended = c.ended ++ l ∧
      ∃ r ∈ m'.coll.retained, r.coll = k ∧ r.part = partEnd ∧ r.dests = l.map (fun a => ⟨a, 1, false⟩) ∧ r.pkt.ty = 0x0D) ∧
  (s.m.mayComplete c = false → exec (.collectiveComplete k) s = .next { s with m := s.m.settle }) ∧
  (s.m.mayComplete c = true → c.headless = false → c.wantSum = false → c.wantAmax = false →
    ∃ m' : Ilpiac, exec (.collectiveComplete k) s = .next { s with m := m'.settle } ∧ m'.coll = s.m.coll ∧
      m'.ctl.cpl = s.m.ctl.cpl ++
        [⟨wRing c.words, cplWords c.words (c.final.getD stAborted) c.report, wIrq c.words, c.ring, c.num, some k, none⟩])

/-- Furrows and spilled values (R146, R147, R153 to R158): a group whose checks pass once waits for its second pass and after that its value goes on; a group that fails is counted
and recorded, and the operation is issued again with its cell marked; a value read back is issued, and a spilled value that is poisoned restarts the column; retirement marks the furrow
and makes its contexts move; a disabled furrow drains, is gated when it holds no context, and is ACTIVE again when enabled. -/
def Obligations.Furrows : Prop := ∀ (s : State) (f : Fin 64),
  (∀ x q cx o, (s.m.fx f).queue = x :: q → s.m.ctxOf x = some cx → cx.op = some o → s.m.rd .furrow f F.FURROW_INJECT_ARM = 0 →
    s.m.rd .furrow f F.FURROW_INJECT_STICKY = 0 →
    (o.passed = 0 →
      ∃ m' : Ilpiac, ∃ cx', exec (.furrowGroupComplete f []) s = .next { s with m := m'.settle } ∧ m'.ctxOf x = some cx' ∧
        cx'.op = some { o with passed := 1, failed := [] } ∧
        m'.rd .furrow f F.BUSY_CYCLES_CYCLES = (s.m.rd .furrow f F.BUSY_CYCLES_CYCLES + 1) % 2 ^ F.BUSY_CYCLES_CYCLES.w) ∧
    (o.passed ≠ 0 →
      ∃ m' : Ilpiac, exec (.furrowGroupComplete f []) s = .next { s with m := (m'.opDone x).settle } ∧ m'.coll = s.m.coll ∧
        m'.rd .furrow f F.BUSY_CYCLES_CYCLES = (s.m.rd .furrow f F.BUSY_CYCLES_CYCLES + 1) % 2 ^ F.BUSY_CYCLES_CYCLES.w) ∧
    (∀ b : Mismatch, b.cell ∈ s.m.cellsInUse f → b.cell ≠ 0x3FF → b.cell < 1024 → o.failed = [] → (s.m.fx f).fails = [] →
      2 ≤ s.m.rd .furrow f F.FURROW_CTRL_CELL_FAIL_LIMIT →
      ∃ m' : Ilpiac, ∃ cx', exec (.furrowGroupComplete f [b]) s = .next { s with m := m'.settle } ∧ m'.ctxOf x = some cx' ∧
        cx'.op = some { o with failed := [b.cell] } ∧ m'.rd .furrow f F.LAST_FAIL_CELL = b.cell ∧ m'.rd .furrow f F.LAST_FAIL_VALID = 1 ∧
        m'.rd .furrow f F.CHECK_FAILS_EXP_FAILS = satAdd F.CHECK_FAILS_EXP_FAILS.w (s.m.rd .furrow f F.CHECK_FAILS_EXP_FAILS) (b2n b.expPath) ∧
        m'.furrowState f = s.m.furrowState f ∧ (m'.fx f).queue = (s.m.fx f).queue)) ∧
  (∀ x cx o a level index, s.m.ctxOf x = some cx → cx.op = some o → o.waitSpill = some a → o.level = level + 1 → o.index = index / 2 →
    (∀ dat m1, s.m.memRead a 4096 hintDiscard true = (some dat, m1) →
      ∃ m' : Ilpiac, ∃ cx', exec (.spillReadbackDone x level index) s = .next { s with m := ((m'.poolGive a).issue x).settle } ∧ m'.ctxOf x = some cx' ∧
        cx'.op = some { o with a := bytesF32 o.b.length dat, waitSpill := none }) ∧
    (∀ m1, s.m.memRead a 4096 hintDiscard true = (none, m1) →
      ∃ m' : Ilpiac, ∃ cx', exec (.spillReadbackDone x level index) s = .next { s with m := (m'.pumpAll x).settle } ∧ m'.ctxOf x = some cx' ∧
        cx'.op = none ∧ cx'.held = [] ∧ cx'.todo = [] ∧ cx'.inOrder = true ∧ cx'.next = 0)) ∧
  (s.m.Reaches (F.FURROW_CTRL_ENABLE.key .furrow f 0) →
    (s.m.rd .furrow f F.FURROW_CTRL_RETIRE = 0 → s.m.furrowState f ≠ furrowRetired →
      ∃ m' : Ilpiac, exec (.furrowRetire f) s = .next { s with m := m'.settle } ∧ m'.furrowState f = furrowRetired ∧
        bitOf (m'.g F.FURROW_RETIRED_RETIRED) f = true ∧ (m'.fx f).moving = true ∧ (∃ a ∈ m'.flt.asserts, a.src = srcFurrow ∧ a.unit = f)) ∧
    (s.m.rd .furrow f F.FURROW_CTRL_ENABLE = 1 → s.m.furrowState f = furrowActive →
      ∃ m' : Ilpiac, exec (.furrowDisable f) s = .next { s with m := m'.settle } ∧ m'.furrowState f = furrowDraining ∧
        m'.rd .furrow f F.FURROW_CTRL_ENABLE = 0 ∧ m'.coll = s.m.coll) ∧
    (s.m.rd .furrow f F.FURROW_CTRL_ENABLE = 0 → s.m.furrowState f ≠ furrowRetired →
      ∃ m' : Ilpiac, exec (.furrowEnable f) s = .next { s with m := m'.rehome.settle } ∧ m'.furrowState f = furrowActive ∧
        m'.rd .furrow f F.FURROW_CTRL_ENABLE = 1 ∧ m'.coll = s.m.coll) ∧
    (∀ v : Word, s.m.Reaches (F.FURROW_INJECT_ARM.key .furrow f 0) →
      ∃ m' : Ilpiac, exec (.furrowInjectArm f v) s = .next { s with m := m'.settle } ∧
        m'.rd .furrow f F.FURROW_INJECT_CELL = bits v.toNat F.FURROW_INJECT_CELL.lo F.FURROW_INJECT_CELL.w ∧
        (bitOf v.toNat F.FURROW_INJECT_ARM.lo = true → m'.rd .furrow f F.FURROW_INJECT_ARM = 1) ∧ m'.coll = s.m.coll)) ∧
  (s.m.furrowState f = furrowDraining → s.m.homed f = [] →
    ∃ m' : Ilpiac, exec (.furrowGated f) s = .next { s with m := m'.settle } ∧ m'.furrowState f = furrowGated ∧ m'.coll = s.m.coll) ∧
  ((s.m.fx f).moving = true → s.m.homed f = [] →
    ∃ m' : Ilpiac, exec (.contextMoveDone f) s = .next { s with m := m'.settle } ∧ (m'.fx f).moving = false ∧ m'.coll.ctxs = s.m.coll.ctxs)

/-- Packets of other Ilpiac modules (R70, R76, R77, R175, R182, R552): what arrives for a closed collective is taken and changes nothing; a column enters its context once; a verdict list adds the
beds that were missing; a result chunk that must wait stays in its landing cells until LANDED_PACKET_RELEASE finds that it can move; a TACK releases the transfer that it names; a transfer that is
not acknowledged is sent again while the limit lasts, and then given up with ST_TRUNK_LOST; a transfer that waited starts when room is free.
Where the spec leaves it open this follows the model's readings of log entry 21. -/
def Obligations.TrunkTransfers : Prop := ∀ (s : State) (port : Fin 262) (p : Packet),
  (∀ m2 id b, s.m.Lands port p m2 id b → p.dstBed = s.m.bed → p.ty = 0x60 ∨ p.ty = 0x62 ∨ p.ty = 0x63 →
    let m3 := (m2.landAck p).2
    let cmd := if p.ty = 0x60 then Instr.columnReceived port p else if p.ty = 0x62 then .tresultReceived port p else .recordsReceived port p
    (p.coll ∈ m3.coll.past → exec cmd s = .next { s with m := (m3.movedOn id b).settle }) ∧
    (p.ty ≠ 0x63 → p.coll ∉ m3.coll.past → m3.collOf p.coll = none →
      ∃ m' : Ilpiac, exec cmd s = .next { s with m := m'.settle } ∧ (m'.port port).landed = (m3.port port).landed ++ [id] ∧ m'.coll = m3.coll) ∧
    (∀ c cx, p.ty = 0x60 → p.coll ∉ m3.coll.past → m3.collOf p.coll = some c → c.failing = false → c.final = none →
      let x : CtxId := ⟨p.coll, partData, p.f 3 0 24⟩
      m3.ctxOf x = some cx → (p.f 3 27 7, p.f 3 24 2) ∉ cx.gotCols →
      ∃ m' : Ilpiac, ∃ cx', exec (.columnReceived port p) s =
          .next { s with m := (((m'.trunkClimb x (p.f 3 24 2) (columnVal p).1 7 (p.f 3 27 7)).pumpAll x).movedOn id b).settle } ∧
        m'.ctxOf x = some cx' ∧ cx'.gotCols = cx.gotCols ++ [(p.f 3 27 7, p.f 3 24 2)]) ∧
    (∀ c, p.ty = 0x62 → p.coll ∉ m3.coll.past → m3.collOf p.coll = some c → c.op ≠ opCombine → c.failing = false → c.final = none →
      p.part = 0 → (partData, (0, p.pos)) ∈ c.haveRes → exec (.tresultReceived port p) s = .next { s with m := (m3.movedOn id b).settle }) ∧
    (∀ c cm, p.ty = 0x63 → p.coll ∉ m3.coll.past → m3.collOf p.coll = some c → m3.comm p.comm = some cm → c.final = none → p.f 3 0 8 = 0 →
      (∀ r ∈ vrecs (p.f 3 8 8) p.body, r.status < 0x40) →
      ∃ m' : Ilpiac, ∃ c', exec (.recordsReceived port p) s = .next { s with m := (((m'.sendRecords p.coll).commits p.coll.comm).movedOn id b).settle } ∧
        m'.collOf p.coll = some c' ∧
        c'.records = c.records ++ (vrecs (p.f 3 8 8) p.body).filter (fun r => !c.records.any (fun x => x.bed == r.bed)))) ∧
  (s.m.Admits port p → p.ty = 0x61 → p.dstBed = s.m.bed →
    ∀ t, s.m.coll.trunk.find? (fun t => tackNames p t && t.plane == s.m.plane) = some t → t.group = none →
    ∃ m' : Ilpiac, exec (.tackReceived port p) s = .next { s with m := m'.settle } ∧ m'.coll = { s.m.coll with trunk := s.m.coll.trunk.filter (fun x => x.id != t.id) }) ∧
  (∀ (tc : Fin 8) id b, (s.m.port port).landed = [id] → s.m.bufPkt id = some b → b.pkt.tc = tc.val →
    (s.m.moveOn port id b.pkt = none →
      exec (.landedPacketRelease port tc) s = .next { s with m := s.m.settle }) ∧
    (∀ m1, s.m.moveOn port id b.pkt = some m1 → (m1.port port).landed = [id] →
      ∃ m' : Ilpiac, exec (.landedPacketRelease port tc) s = .next { s with m := (m'.movedOn id b).settle } ∧ (m'.port port).landed = [] ∧ m'.coll = m1.coll)) ∧
  (∀ id t, s.m.coll.trunk.find? (fun t => t.id == id) = some t →
    (t.sends ≤ s.m.replayLimit t.coll →
      ∃ m' : Ilpiac, exec (.trunkRetentionTimeout id) s = .next { s with m := m'.settle } ∧
        m'.coll.trunk = mapIf (fun t => t.id == id) (fun t => { t with sends := t.sends + 1 }) s.m.coll.trunk) ∧
    (∀ k c, s.m.replayLimit t.coll < t.sends → t.coll = some k → s.m.collOf k = some c → c.final = none → c.started = false →
      ∃ m' : Ilpiac, ∃ c', exec (.trunkRetentionTimeout id) s = .next { s with m := m'.settle } ∧
        m'.coll.trunk = s.m.coll.trunk.filter (fun x => x.id != id) ∧ m'.collOf k = some c' ∧ c'.status = some (max stTrunkLost (c.status.getD 0)))) ∧
  (∀ t, s.m.coll.trunkWait = [t] →
    (s.m.retainFits t.pkt = false →
      ∃ m' : Ilpiac, exec .retainSpaceFreed s = .next { s with m := m'.drainHeld.settle } ∧ m'.coll = s.m.coll) ∧
    (s.m.retainFits t.pkt = true →
      ∃ m' : Ilpiac, ∃ id, exec .retainSpaceFreed s = .next { s with m := m'.drainHeld.settle } ∧ m'.coll.trunkWait = [] ∧
        m'.coll.trunk = s.m.coll.trunk ++ [{ t with id := id, sends := 1 }]))


/-! ### Trellis (spec 06) -/

/-- INVOCATION_START, INVOCATION_LIMIT, STREAM_COMPLETE, ICACHE_FILL_DONE (R196 to R199, R201, R209, R228, R230, R231): the assigned invocation of a free engine begins at the
entry bundle with its context values and the result columns in the tile buffer; one at its limit is stopped with cause LIMIT and its collective starts no further one; a
stream that no earlier overlapping stream blocks ends with its bytes copied, and with cause MEMORY where HBM answers an uncorrectable error; the line that an engine waits for
enters the instruction cache.
Where the spec leaves it open this follows the model's readings of log entry 50.

CLEAR_FAULT, ENGINE_DISABLE, ENGINE_ENABLE (R232, R234): a FAULTED engine keeps its program and is READY, or GATED without ENABLE, with its fault registers zero; without ENABLE a READY
engine is GATED and keeps its program; with it a GATED engine is READY. -/
def Obligations.Engines : Prop :=
  (∀ (s : State) (e : Fin 16),
     (let m1 := s.m.assign
      let x := m1.eng e
      ∀ a p c cm, x.cur = none → x.next = some a → x.prog = some p → m1.collOf a.coll = some c → m1.comm a.coll.comm = some cm → a.filled = true →
        m1.engState e = engReady ∨ m1.engState e = engRunning →
        ∃ m' : Ilpiac, ∃ i, exec (.invocationStart e) s = .next { s with m := (m'.assign).settle } ∧ (m'.eng e).cur = some i ∧ (m'.eng e).next = none ∧
          (m'.eng e).prog = some p ∧ (m'.eng e).streams = x.streams ∧ m'.engState e = engRunning ∧
          m'.rd .engine e F.TRELLIS_STATUS_CHUNK = a.k % 2 ^ 24 ∧ m'.rd .engine e F.TRELLIS_STATUS_COMM_ID = a.coll.comm % 2 ^ 16 ∧
          i.coll = a.coll ∧ i.k = a.k ∧ i.base = a.base ∧ i.pc = p.entry ∧ i.cycle = 0 ∧ i.loops = [] ∧ i.tiles = [] ∧ i.emitted = [] ∧
          i.cx = contextValues c cm p a.k ∧
          (∀ cx q v, m1.ctxOf ⟨a.coll, partData, a.k⟩ = some cx → cx.result = [(q, v)] → v.length = 1024 →
            ∀ j < 4096, some ((m'.eng e).buffers.byte (a.base * 65536 + 4096 * q + j)) = (f32Bytes v)[j]?) ∧
          m'.coll = m1.coll) ∧
     (∀ i, (s.m.eng e).cur = some i → s.m.cycleLimit e ≤ i.cycle → i.pc < 2 ^ 16 →
       ∃ m' : Ilpiac, exec (.invocationLimit e) s = .next { s with m := (m'.assign).settle } ∧ m'.engState e = engFaulted ∧ (m'.eng e).cur = none ∧
         m'.rd .engine e F.TRELLIS_FAULT_VALID = 1 ∧ m'.rd .engine e F.TRELLIS_FAULT_CAUSE = causeLimit ∧
         m'.rd .engine e F.TRELLIS_FAULT_BUNDLE = i.pc ∧ m'.rd .engine e F.TRELLIS_FAULT_DETAIL = 0 ∧
         (∃ a ∈ m'.flt.asserts, a.src = srcTrellis ∧ a.unit = e) ∧
         ∀ p ∈ m'.trellis.phase4, p.coll = i.coll → p.todo = [] ∧ stHazardFault ≤ p.fail) ∧
     (∀ n st, (s.m.eng e).streams.find? (fun t => t.num == n) = some st → (∀ t ∈ (s.m.eng e).streams, t.blocks st = false) →
       let rest := (s.m.eng e).streams.filter (fun t => t.num != n)
       (∀ d m1, st.sin = true → s.m.memRead st.hbm st.len (s.m.hintAt st.hbm false) = (some d, m1) →
         ∃ m' : Ilpiac, exec (.streamComplete e n) s = .next { s with m := (m'.assign).settle } ∧ (m'.eng e).streams = rest ∧
           (m'.eng e).buffers = (s.m.eng e).buffers.write (st.buf * 65536 + st.off) d ∧ m'.hbm = m1.hbm ∧
           (∀ a, st.fill = true → (s.m.eng e).next = some a → a.coll = st.coll → a.k = st.k → a.base + 1 = st.buf →
             (m'.eng e).next = some { a with filled := true })) ∧
       (∀ m1, st.sin = false →
         s.m.memWrite st.hbm ((s.m.eng e).buffers.read (st.buf * 65536 + st.off) st.len) (s.m.hintAt st.hbm true) (some st.coll) = (true, m1) →
         ∃ m' : Ilpiac, exec (.streamComplete e n) s = .next { s with m := (m'.assign).settle } ∧ (m'.eng e).streams = rest ∧
           (m'.eng e).buffers = (s.m.eng e).buffers ∧ (m'.eng e).cur = (s.m.eng e).cur ∧ m'.hbm = m1.hbm) ∧
       (∀ m1, st.sin = true → s.m.memRead st.hbm st.len (s.m.hintAt st.hbm false) = (none, m1) →
         ∃ m' : Ilpiac, exec (.streamComplete e n) s = .next { s with m := (m'.assign).settle } ∧ (m'.eng e).streams = rest ∧
           (m'.eng e).buffers = (s.m.eng e).buffers ∧ m'.engState e = engFaulted ∧ m'.rd .engine e F.TRELLIS_FAULT_CAUSE = causeMemory ∧
           ∀ p ∈ m'.trellis.phase4, p.coll = st.coll → p.todo = [] ∧ stMemoryFault ≤ p.fail)) ∧
     (∀ i p n b, (s.m.eng e).cur = some i → (s.m.eng e).prog = some p → i.missLine = some n → p.buffer = some b →
       let a := b + (n - 1024) * 256
       (∀ d m1, s.m.memRead a 256 (s.m.hintAt a false) = (some d, m1) →
         ∃ m' : Ilpiac, exec (.icacheFillDone e) s = .next { s with m := m'.settle } ∧ (m'.eng e).cur = some { i with missLine := none } ∧ n ∈ (m'.eng e).lines ∧
           (m'.eng e).streams = (s.m.eng e).streams ∧ m'.hbm = m1.hbm) ∧
       (∀ m1, s.m.memRead a 256 (s.m.hintAt a false) = (none, m1) → i.pc < 2 ^ 16 →
         ∃ m' : Ilpiac, exec (.icacheFillDone e) s = .next { s with m := (m'.assign).settle } ∧ (m'.eng e).cur = none ∧ m'.engState e = engFaulted ∧
           m'.rd .engine e F.TRELLIS_FAULT_CAUSE = causeMemory ∧ m'.rd .engine e F.TRELLIS_FAULT_BUNDLE = i.pc))) ∧
  (∀ (s : State) (e : Fin 16), s.m.Reaches (0x500000 + e.val * 0x10000) → s.m.enginePresent e = true →
     s.m.rd .engine e F.TRELLIS_CTRL_CLEAR_FAULT = 0 →
     (∀ p, s.m.engState e = engFaulted → (s.m.eng e).prog = some p →
       ∃ m' : Ilpiac, exec (.clearFault e) s = .next { s with m := (m'.assign).settle } ∧ m'.trellis = s.m.trellis ∧
         m'.engState e = (if s.m.engOn e = true then engReady else engGated) ∧ 
         (∀ f ∈ [F.TRELLIS_FAULT_CAUSE, F.TRELLIS_FAULT_VALID, F.TRELLIS_FAULT_BUNDLE, F.TRELLIS_FAULT_DETAIL, F.HAZARD_FAULT_BUNDLE, F.HAZARD_FAULT_SLOT,
           F.HAZARD_FAULT_KIND, F.HAZARD_FAULT_LOC_TYPE, F.HAZARD_FAULT_LOC_INDEX, F.HAZARD_FAULT_SHORT_BY, F.HAZARD_FAULT_WRITER], m'.rd .engine e f = 0) ∧
         m'.rd .engine e F.TRELLIS_CTRL_CLEAR_FAULT = 0 ∧ ∀ a ∈ m'.flt.asserts, a.wire = false → ¬(a.src = srcTrellis ∧ a.unit = e)) ∧
     (s.m.engOn e = true → s.m.engState e = engReady →
       ∃ m' : Ilpiac, exec (.engineDisable e) s = .next { s with m := (m'.assign).settle } ∧ m'.engOn e = false ∧ m'.engState e = engGated ∧
         (m'.eng e).prog = (s.m.eng e).prog ∧ (m'.eng e).next = none ∧ (m'.eng e).cur = (s.m.eng e).cur) ∧
     (s.m.engOn e = true → s.m.engState e = engRunning →
       ∃ m' : Ilpiac, exec (.engineDisable e) s = .next { s with m := (m'.assign).settle } ∧ m'.engOn e = false ∧ m'.engState e = engRunning ∧
         (m'.eng e).cur = (s.m.eng e).cur ∧ (m'.eng e).next = none) ∧
     (s.m.engOn e = false → s.m.engState e = engGated →
       ∃ m' : Ilpiac, exec (.engineEnable e) s = .next { s with m := (m'.assign).settle } ∧ m'.engOn e = true ∧ m'.engState e = engReady ∧ m'.trellis = s.m.trellis))

/-- BUNDLE_ISSUE (R206, R207, R209, R212 to R220, R228 to R231): a cycle in which a bundle of instruction memory passes its checks writes the tile slot's result, the load's or
reduction's destination, the stored bytes, the stream and the column that its slots name, and goes on to the next bundle, to the target of a taken branch four
cycles later, or to the first bundle of the innermost loop; a bundle that a check stops has no effect and its engine is FAULTED with the cause; WAITB freezes while streams
use its buffer; a missing line is noted.
Where the spec leaves it open this follows the model's readings of log entries 48, 51, 52, 59. -/
def Obligations.Bundles : Prop := ∀ (s : State) (e : Fin 16) (i : Inv) (p : Program),
  let x := s.m.eng e
  let bd := bundleAt p.bundles i.pc
  let t := slotOf bd 0
  let l := slotOf bd 1
  let r := slotOf bd 2
  let c := slotOf bd 3
  x.cur = some i → x.prog = some p → i.missLine = none → i.cycle < s.m.cycleLimit e →
  let counts := fun (m' : Ilpiac) => m'.rd .engine e F.ISSUE_CYCLES_CYCLES = (s.m.rd .engine e F.ISSUE_CYCLES_CYCLES + 1) % 2 ^ F.ISSUE_CYCLES_CYCLES.w
  let issued := fun (m' : Ilpiac) (i' : Inv) => exec (.bundleIssue e) s = .next { s with m := (if sOp l = 8 then m'.emitUpdate i' else m').settle } ∧
    (m'.eng e).cur = some i' ∧ i'.cycle = i.cycle + 1 ∧ counts m'
  (i.cycle < i.notBefore → ∃ m' : Ilpiac, exec (.bundleIssue e) s = .next { s with m := m'.settle } ∧ (m'.eng e).cur = some { i with cycle := i.cycle + 1 } ∧ counts m' ∧
    m'.coll = s.m.coll ∧ m'.hbm = s.m.hbm) ∧
  (i.notBefore ≤ i.cycle → i.pc < 16384 ∨ i.pc / 16 ∈ x.lines → freezes x i bd = false → bundleStop x p i bd = none → sOp c ≠ opEnd →
    (t ≠ 0 → l = 0 → r = 0 →
      let b := if sBS t = true ∧ sOp t ≠ 0xC then List.replicate 1024 ((i.u (sB t)).setWidth 32) else i.tile (sB t)
      ∃ m' : Ilpiac, ∃ i', issued m' i' ∧ i'.tile (sD t) = (tileRun (sOp t) (bits t 0 5) (i.tile (sA t)) b (i.tile (sC t))).vals ∧
        (∀ n, n ≠ sD t → i'.tile n = i.tile n) ∧ (m'.eng e).buffers = x.buffers ∧ (m'.eng e).streams = x.streams ∧ i'.emitted = i.emitted) ∧
    (t = 0 → l = 0 → r ≠ 0 → c = 0 →
      ∃ m' : Ilpiac, ∃ i', issued m' i' ∧ i'.u 0 = 0 ∧ (sD r ≠ 0 → i'.u (sD r) = reduceRun (sOp r) (i.tile (sA r))) ∧ (∀ n, n ≠ sD r → i'.u n = i.u n) ∧
        i'.tiles = i.tiles) ∧
    (t = 0 → r = 0 → c = 0 →
      let at_ := (i.base + sBuf l) * 65536 + ((i.u (sA l)).toNat + 32 * bits l 0 9)
      (sOp l = 1 → ∃ m' : Ilpiac, ∃ i', issued m' i' ∧ i'.tile (sD l) = tileLoad (sFmt l) (x.buffers.read at_ (tileBytes (sFmt l))) ∧
        (∀ n, n ≠ sD l → i'.tile n = i.tile n) ∧ (m'.eng e).buffers = x.buffers) ∧
      (sOp l = 2 → ∃ m' : Ilpiac, ∃ i', issued m' i' ∧ (m'.eng e).buffers = x.buffers.write at_ (tileStore (sFmt l) (bits l 9 2) (i.tile (sD l))).1 ∧
        i'.tiles = i.tiles ∧ i'.scalars = i.scalars) ∧
      (sOp l = 3 → ∃ m' : Ilpiac, ∃ i', issued m' i' ∧ i'.tile (sD l) = tileLoad 0 (bytesAt p.opnd ((i.u (sA l)).toNat + 64 * sImm l) 4096)) ∧
      (sOp l = 4 → sD l ≠ 0 → ∃ m' : Ilpiac, ∃ i', issued m' i' ∧ i'.u (sD l) = BitVec.ofNat 64 (natAt p.opnd ((i.u (sA l)).toNat + 8 * sImm l) 8)) ∧
      (sOp l = 5 ∨ sOp l = 6 →
        ∃ m' : Ilpiac, ∃ i', issued m' i' ∧ i'.tiles = i.tiles ∧ (m'.eng e).buffers = x.buffers ∧
          (m'.eng e).streams = x.streams ++ [⟨x.nextStream, sOp l == 5, i.base + sBuf l, (i.u (sA l)).toNat, (i.u (sD l)).toNat, sLen l, i.pc, i.coll, i.k, false⟩]) ∧
      (sOp l = 8 →
        ∃ m' : Ilpiac, ∃ i', issued m' i' ∧ i'.emitted = i.emitted ++ [((i.u (sA l)).toNat, i.tile (sD l))] ∧ i'.tiles = i.tiles)) ∧
    (t = 0 → l = 0 → r = 0 →
      (1 ≤ sOp c ∧ sOp c ≤ 9 → sD c ≠ 0 → ∃ m' : Ilpiac, ∃ i', issued m' i' ∧ i'.u (sD c) = scalarI (sOp c) (i.u (sA c)) (i.u (sB c))) ∧
      (0x10 ≤ sOp c ∧ sOp c ≤ 0x14 → sD c ≠ 0 → ∃ m' : Ilpiac, ∃ i', issued m' i' ∧ i'.u (sD c) = scalarImm (sOp c) (i.u (sA c)) (sImm c)) ∧
      (0x18 ≤ sOp c ∧ sOp c ≤ 0x1E → sD c ≠ 0 →
        ∃ m' : Ilpiac, ∃ i', issued m' i' ∧ i'.u (sD c) = (scalarF (sOp c) ((i.u (sA c)).setWidth 32) ((i.u (sB c)).setWidth 32)).setWidth 64) ∧
      (sOp c = 0x20 → sD c ≠ 0 → ∃ m' : Ilpiac, ∃ i', issued m' i' ∧ i'.u (sD c) = (i.cx[sImm c]?).getD 0) ∧
      (sOp c = opLoop → i.loops = [] → i.lc 0 ≠ 0 →
        ∃ m' : Ilpiac, ∃ i', issued m' i' ∧ i'.loops = [⟨i.pc + 1, sImm c, i.lc 0, 0⟩] ∧ i'.pc = i.pc + 1)) ∧
    ((∀ f, i.loops.getLast? = some f → f.last ≠ i.pc) →
      (sOp c ≠ opJmp → sOp c ≠ opLoop → isBranch (sOp c) = false ∨ branchTaken (sOp c) (i.u (sD c)) (i.u (sA c)) = false →
        ∃ m' : Ilpiac, ∃ i', issued m' i' ∧ i'.pc = i.pc + 1 ∧ i'.notBefore = i.cycle + 1 ∧ i'.loops = i.loops) ∧
      (sOp c = opJmp ∨ (isBranch (sOp c) = true ∧ branchTaken (sOp c) (i.u (sD c)) (i.u (sA c)) = true) →
        ∃ m' : Ilpiac, ∃ i', issued m' i' ∧ i'.pc = sImm c ∧ i'.notBefore = i.cycle + 4 ∧ i'.loops = i.loops)) ∧
    (∀ f, i.loops.getLast? = some f → f.last = i.pc →
      (f.done + 1 < f.count → ∃ m' : Ilpiac, ∃ i', issued m' i' ∧ i'.pc = f.first ∧ i'.notBefore = i.cycle + 1 ∧
        i'.loops = i.loops.dropLast ++ [{ f with done := f.done + 1 }]) ∧
      (f.count ≤ f.done + 1 → sOp c = 0 → ∃ m' : Ilpiac, ∃ i', issued m' i' ∧ i'.pc = i.pc + 1 ∧ i'.loops = i.loops.dropLast))) ∧
  (i.notBefore ≤ i.cycle → i.pc < 16384 ∨ (i.pc / 16 ∈ x.lines ∧ i.pc < 2 ^ 16) → freezes x i bd = false →
    (∀ st, bundleStop x p i bd = some st → st.cause < 8 →
      ∃ m' : Ilpiac, exec (.bundleIssue e) s = .next { s with m := (m'.assign).settle } ∧ m'.engState e = engFaulted ∧ (m'.eng e).cur = none ∧
        (m'.eng e).buffers = x.buffers ∧ (m'.eng e).streams = x.streams ∧ m'.rd .engine e F.TRELLIS_FAULT_VALID = 1 ∧
        m'.rd .engine e F.TRELLIS_FAULT_CAUSE = st.cause ∧ m'.rd .engine e F.TRELLIS_FAULT_BUNDLE = i.pc ∧
        ∃ a ∈ m'.flt.asserts, a.src = srcTrellis ∧ a.unit = e) ∧
    (bundleStop x p i bd = none → sOp c = opEnd → l = 0 → t = 0 → r = 0 → s.m.engOn e = true →
      ∃ m' : Ilpiac, exec (.bundleIssue e) s = .next { s with m := (m'.assign).settle } ∧ (m'.eng e).cur = none ∧ m'.engState e = engReady ∧
        m'.rd .engine e F.TRELLIS_COUNTS_INVOCATIONS =
          (s.m.rd .engine e F.TRELLIS_COUNTS_INVOCATIONS + 1) % 2 ^ F.TRELLIS_COUNTS_INVOCATIONS.w)) ∧
  (i.notBefore ≤ i.cycle → i.pc < 16384 → sOp l = 7 → x.onBuf i (sBuf l) ≠ [] →
    ∃ m' : Ilpiac, exec (.bundleIssue e) s = .next { s with m := m'.settle } ∧ m'.trellis = s.m.trellis ∧
      m'.rd .engine e F.FROZEN_CYCLES_CYCLES = (s.m.rd .engine e F.FROZEN_CYCLES_CYCLES + 1) % 2 ^ F.FROZEN_CYCLES_CYCLES.w ∧
      m'.rd .engine e F.ISSUE_CYCLES_CYCLES = s.m.rd .engine e F.ISSUE_CYCLES_CYCLES) ∧
  (i.notBefore ≤ i.cycle → 16384 ≤ i.pc → i.pc / 16 ∉ x.lines →
    ∃ m' : Ilpiac, exec (.bundleIssue e) s = .next { s with m := m'.settle } ∧ (m'.eng e).cur = some { i with missLine := some (i.pc / 16) } ∧
      m'.rd .engine e F.TRELLIS_COUNTS_ICACHE_MISSES =
        (s.m.rd .engine e F.TRELLIS_COUNTS_ICACHE_MISSES + 1) % 2 ^ F.TRELLIS_COUNTS_ICACHE_MISSES.w)

/-- PROG_LOAD, PROG_LOAD_DONE, PROG_UNLOAD, PROG_UNLOAD_DONE, PHASE4_END, PHASE4_TIMEOUT (R203, R205, R223 to R227): a load is refused where the trellis is absent or a check
fails, and otherwise puts its engines into LOADING; it ends with the verdict of verification: the engines hold the program and the report says so, or they are EMPTY;
an unload waits until no collective or engine uses the program, and then empties its engines; phase 4 ends once no invocation, stream or write of it is left, and at its
time limit fails with ST_TIMEOUT.
Where the spec leaves it open this follows the model's readings of log entries 53, 62. -/
def Obligations.Programs : Prop := ∀ (s : State),
  (∀ (ring : Fin 65536) d m0, s.m.begin ring 0x30 = some (d, m0) →
    let handle := d.f 1 0 16
    let mask := d.f 1 16 16
    let es := bitIdx mask 16
    (s.m.has F.CAP_PRESENT_TRELLIS = false ∨ (∃ e ∈ es, s.m.enginePresent e = false) →
      ∃ m' : Ilpiac, exec (.progLoad ring) s = .next { s with m := m'.settle } ∧ m'.trellis = s.m.trellis ∧ m'.ctl.cpl = s.m.ctl.cpl ++ [d.record stAbsentUnit]) ∧
    (s.m.has F.CAP_PRESENT_TRELLIS = true → (∀ e ∈ es, s.m.enginePresent e = true) →
      d.f 2 0 64 % 64 = 0 → d.f 3 0 64 % 32 = 0 → s.m.Coherent (d.f 2 0 64) (d.f 4 0 32) false → s.m.Coherent (d.f 3 0 64) 32 true →
      (d.w0ok = true → d.zero [(1, 32, 32), (4, 32, 32), (5, 0, 64), (6, 0, 64), (7, 0, 64)] = true → handle ≠ 0 → mask ≠ 0 →
        s.m.handleHeld handle = false → (∀ e ∈ es, (s.m.eng e).prog = none ∧ s.m.engState e = engEmpty ∧ s.m.engOn e = true) →
        ∃ m' : Ilpiac, exec (.progLoad ring) s = .next { s with m := m'.settle } ∧ m'.ctl.cpl = s.m.ctl.cpl ∧ m'.trellis.engines = s.m.trellis.engines ∧
          m'.trellis.loads = s.m.trellis.loads ++ [⟨d.ring, d.num, handle, mask, d.f 2 0 64, d.f 4 0 32, d.f 3 0 64⟩] ∧
          ∀ e ∈ es, m'.engState e = engLoading) ∧
      (handle = 0 ∨ mask = 0 ∨ s.m.handleHeld handle = true ∨ (∃ e ∈ es, (s.m.eng e).prog.isSome = true) →
        ∃ m' : Ilpiac, exec (.progLoad ring) s = .next { s with m := m'.settle } ∧ m'.trellis = s.m.trellis ∧
          m'.ctl.cpl = s.m.ctl.cpl ++ [d.record stBadDescriptor]))) ∧
  (∀ l d bytes ns, s.m.trellis.loads.find? (fun x => x.handle == l.handle) = some l →
    s.m.ctl.descs.find? (fun d => s.m.trellis.loads.any (fun x => x.handle == l.handle && x.ring == d.ring && x.num == d.num)) = some d →
    bytes.length = l.imageBytes → s.m.Coherent l.imageAddr l.imageBytes false → s.m.Coherent l.reportAddr 32 true → s.m.g F.HOLM_STATUS_STATE = holmUp →
    let h := imageHeader bytes
    let told := fun (f : Finding) => (cohPieces l.reportAddr (f.report (imageCrc bytes) h.bundles ns)).map (fun y => HolmMsg.cohWrite y.1 y.2)
    (verify bytes = none → h.bundles ≤ 16384 →
      ∃ m' : Ilpiac, exec (.progLoadDone l.handle (some bytes) ns) s = .next { s with m := (m'.assign).settle } ∧ m'.told = s.m.told ++ told { reason := 0 } ∧
        m'.ctl.cpl = s.m.ctl.cpl ++ [d.record stOk] ∧ (∀ x ∈ m'.trellis.loads, x ≠ l) ∧
        ∀ e ∈ bitIdx l.mask 16, (m'.eng e).prog = some ⟨l.handle, imageBundles bytes, h.entry, imageOpnd bytes, h.preload, h.stride, none⟩ ∧
          (m'.eng e).cur = none ∧ m'.engState e = (if s.m.engOn e = true then engReady else engGated) ∧
          m'.rd .engine e F.TRELLIS_STATUS_PROGRAM = l.handle % 65536) ∧
    (∀ f, verify bytes = some f →
      ∃ m' : Ilpiac, exec (.progLoadDone l.handle (some bytes) ns) s = .next { s with m := m'.settle } ∧ m'.told = s.m.told ++ told f ∧
        m'.ctl.cpl = s.m.ctl.cpl ++ [d.record stBadDescriptor] ∧ m'.trellis.engines = s.m.trellis.engines ∧
        ∀ e ∈ bitIdx l.mask 16, m'.engState e = engEmpty)) ∧
  (∀ (ring : Fin 65536) d m0, s.m.begin ring 0x31 = some (d, m0) → s.m.has F.CAP_PRESENT_TRELLIS = true → d.w0ok = true →
    d.zero [(1, 16, 48), (2, 0, 64), (3, 0, 64), (4, 0, 64), (5, 0, 64), (6, 0, 64), (7, 0, 64)] = true →
    (s.m.holders (d.f 1 0 16) ≠ [] →
      ∃ m' : Ilpiac, exec (.progUnload ring) s = .next { s with m := m'.settle } ∧ m'.trellis = { s.m.trellis with unloads := s.m.trellis.unloads ++ [⟨d.ring, d.num, d.f 1 0 16⟩] } ∧
        m'.ctl.cpl = s.m.ctl.cpl) ∧
    (s.m.holders (d.f 1 0 16) = [] →
      ∃ m' : Ilpiac, exec (.progUnload ring) s = .next { s with m := m'.settle } ∧ m'.trellis = s.m.trellis ∧ m'.ctl.cpl = s.m.ctl.cpl ++ [d.record stBadDescriptor])) ∧
  (∀ u d, s.m.trellis.unloads.find? (fun x => x.handle == u.handle) = some u → s.m.programBusy u.handle = false → s.m.holders u.handle ≠ [] →
    (∀ e ∈ s.m.holders u.handle, e < 16) → s.m.ctl.descs.find? (fun d => d.ring == u.ring && d.num == u.num) = some d →
    ∃ m' : Ilpiac, exec (.progUnloadDone u.handle) s = .next { s with m := m'.settle } ∧ m'.ctl.cpl = s.m.ctl.cpl ++ [d.record stOk] ∧
      ∀ e ∈ s.m.holders u.handle, (m'.eng e).prog = none ∧ m'.engState e = engEmpty) ∧
  (∀ k p, s.m.trellis.phase4.find? (fun p => p.coll == k) = some p →
    (p.todo = [] → (∀ e ∈ s.m.enginesHere, (s.m.eng e).worksFor k = false) → (∀ t ∈ s.m.coll.trunk ++ s.m.coll.trunkWait, t.writer ≠ some k) →
      ∃ m' : Ilpiac, exec (.phase4End k) s = .next { s with m := (m'.collStep k).settle } ∧ (∀ q ∈ m'.trellis.phase4, q.coll ≠ k) ∧
        (p.fail = 0 → m'.coll = s.m.coll) ∧
        (p.fail ≠ 0 → ∀ c, s.m.collOf k = some c → c.committed = false → c.started = false →
          ∃ c', m'.collOf k = some c' ∧ c'.status = some (max p.fail (c.status.getD 0)))) ∧
    (∃ m' : Ilpiac, exec (.phase4Timeout k) s = .next { s with m := (m'.collStep k).settle } ∧ (∀ q ∈ m'.trellis.phase4, q.coll ≠ k) ∧
      (∀ e ∈ s.m.enginesHere, ∀ a, (m'.eng e).next = some a → a.coll ≠ k) ∧
      ∀ c, s.m.collOf k = some c → c.committed = false → c.started = false →
        ∃ c', m'.collOf k = some c' ∧ c'.status = some (max (max stTimeout p.fail) (c.status.getD 0))))

/-! ### Cloche groups (spec 07) -/

/-- CLOCHE_GROUP_CREATE, GROUP_JOIN_RESOLVE, CLOCHE_GROUP_DESTROY, CLOCHE_QUERY (R243 to R249, R265, R266): a creation that passes this module's checks and finds its buffers adds the forming
group; one whose GROUP_ID is in use is refused with ST_BAD_DESCRIPTOR; joining removes the group with the largest code of the participants, or ends the forming with own shard and
pieces zeroed and ST_OK; a destruction removes the group; a query writes the 256 bytes of its record.
Where the spec leaves it open this follows the model's readings of log entries 54, 56. -/
def Obligations.ClocheGroups : Prop := ∀ (s : State) (ring : Fin 65536) (d : AccDesc) (m0 : Ilpiac),
  let id := d.f 1 0 16
  (s.m.begin ring 0x38 = some (d, m0) →
    let n := d.f 1 24 5
    let k := d.f 1 32 5
    let total := n + k + (if d.f 1 16 1 = 1 then k else 0)
    let la := d.f 3 0 64
    (s.m.placed = false → ∀ rb, ∃ m' : Ilpiac, exec (.clocheGroupCreate ring rb) s = .next { s with m := m'.settle } ∧ m'.groups = s.m.groups ∧
      m'.ctl.cpl = s.m.ctl.cpl ++ [d.record stUnplaced { comm := id }]) ∧
    (s.m.placed = true → s.m.Coherent la (16 * total) false →
      ((s.m.group id).isSome = true → ∀ rb,
        ∃ m' : Ilpiac, exec (.clocheGroupCreate ring rb) s = .next { s with m := m'.settle } ∧ m'.groups = s.m.groups ∧
          m'.ctl.cpl = s.m.ctl.cpl ++ [d.record stBadDescriptor { comm := id }]) ∧
      (∀ l : List Byte, d.groupFields s.m.crossBed = true → s.m.group id = none → l.length = 16 * total → listOk n total l = true →
        let digest := (crc32c (wordBytes ((d.words.drop 1).take 2) ++ wordBytes ((d.words.drop 4).take 1) ++ l)).toNat
        let g := groupOf d l digest
        (s.m.bed, s.m.plane) ∈ g.participants →
        (s.m.has F.CAP_PRESENT_CLOCHE = false →
          ∃ m' : Ilpiac, exec (.clocheGroupCreate ring (some l)) s = .next { s with m := m'.settle } ∧ m'.groups = s.m.groups ∧
            m'.ctl.cpl = s.m.ctl.cpl ++ [d.record stAbsentUnit { comm := id }]) ∧
        (∀ ps lb m1 m2, s.m.has F.CAP_PRESENT_CLOCHE = true → (∀ x ∈ g.participants, s.m.bedInside x.1 = true ∧ (s.m.crossBed = false → x.1 = s.m.bed)) →
          s.m.placesOk g = true → (∀ x, s.m.myEntry g = some x → (s.m.comm x.comm).isSome = true ∧ s.m.shardFits g x = true) →
          (m0.noteRefusals [(la, 16 * total, false)]).takePieces (ceilDiv g.pieceBytes (2 ^ s.m.poolLog2 4)) (s.m.kept g) = (some ps, m1) →
          m1.poolTake 5 = (some lb, m2) →
          ∃ m' : Ilpiac, exec (.clocheGroupCreate ring (some l)) s = .next { s with m := m'.settle } ∧ m'.ctl.cpl = s.m.ctl.cpl ∧
            m'.groups = s.m.groups ++ [{ g with pieces := ps, ledgerBuf := some lb }] ∧ m'.hbm = m2.hbm)))) ∧
  (∀ gid g at_ (ans : List JoinAnswer), s.m.group gid = some g → g.forming = some at_ → s.m.descOf at_ = some d → (∀ a ∈ ans, (a.bed, a.plane) ∈ s.m.others g) →
    let self : Site := ⟨s.m.bed, s.m.plane, s.m.g F.PLACEMENT_FEED_ID, s.m.g F.IDENTITY_VARIANT, true⟩
    let g1 := { g with sites := self :: ans.map (fun a => (⟨a.bed, a.plane, a.feed, a.variant, a.answered⟩ : Site)) }
    let st := s.m.joinStatus g1 ans
    (0x40 ≤ st →
      ∃ m' : Ilpiac, exec (.groupJoinResolve gid ans) s = .next { s with m := m'.settle } ∧ m'.groups = s.m.groups.filter (fun x => x.id != gid) ∧
        m'.ctl.cpl = s.m.ctl.cpl ++ [d.record st { comm := gid }]) ∧
    (st < 0x40 → (∀ x ∈ s.m.others g, ∃ a ∈ ans, (a.bed, a.plane) = x ∧ a.answered = true) → (∀ a ∈ ans, a.holder = false) →
      ∃ m' : Ilpiac, ∃ g', exec (.groupJoinResolve gid ans) s = .next { s with m := m'.settle } ∧ m'.group gid = some g' ∧ g'.forming = none ∧ g'.sites = g1.sites ∧
        g'.members = g.members ∧ g'.pieces = g.pieces ∧ g'.missM = g.missM ∧ g'.missP = g.missP ∧ g'.missQ = g.missQ ∧
        m'.hbm = (s.m.zeroOwn g').hbm ∧ m'.ctl.cpl = s.m.ctl.cpl ++ [d.record stOk { comm := gid }])) ∧
  (s.m.begin ring 0x39 = some (d, m0) → s.m.placed = true → s.m.has F.CAP_PRESENT_CLOCHE = true →
    (s.m.group id = none →
      ∃ m' : Ilpiac, exec (.clocheGroupDestroy ring) s = .next { s with m := m'.settle } ∧ m'.groups = s.m.groups ∧
        m'.ctl.cpl = s.m.ctl.cpl ++ [d.record stBadDescriptor { comm := id }]) ∧
    (∀ g, s.m.group id = some g → d.w0ok = true →
      d.zero [(1, 16, 48), (2, 0, 64), (3, 0, 64), (4, 0, 64), (5, 0, 64), (6, 0, 64), (7, 0, 64)] = true → g.restore = none → g.ledgerWaits = [] → g.forming = none →
      ∃ m' : Ilpiac, exec (.clocheGroupDestroy ring) s = .next { s with m := m'.settle } ∧ m'.group id = none ∧
        m'.groups = s.m.groups.filter (fun x => x.id != id) ∧ m'.ctl.cpl = s.m.ctl.cpl ++ [d.record stOk { comm := id }])) ∧
  (∀ g, s.m.begin ring 0x3C = some (d, m0) → s.m.placed = true → s.m.has F.CAP_PRESENT_CLOCHE = true → d.w0ok = true →
    d.zero [(1, 16, 48), (3, 0, 64), (4, 0, 64), (5, 0, 64), (6, 0, 64), (7, 0, 64)] = true → s.m.group id = some g → d.f 2 0 64 % 64 = 0 →
    s.m.Coherent (d.f 2 0 64) 256 true → s.m.g F.HOLM_STATUS_STATE = holmUp →
    ∃ m' : Ilpiac, exec (.clocheQuery ring) s = .next { s with m := m'.settle } ∧ m'.groups = s.m.groups ∧
      m'.told = s.m.told ++ (cohPieces (d.f 2 0 64) (s.m.groupRecord g)).map (fun x => .cohWrite x.1 x.2) ∧
      (g.stamps.length = 16 → (s.m.groupRecord g).length = 256) ∧ m'.ctl.cpl = s.m.ctl.cpl ++ [d.record stOk { comm := id }])

/-- DELTA_RECEIVED, STAMP_RECEIVED, LEDGER_RECEIVED, LEDGER_WRITE (R251 to R255): a delta that was not seen before is folded into the piece once and acknowledged, and a LOST group takes none; a
stamp is recorded for its member, whose shard is marked MISSING or not as it says; a ledger entry is kept for its member beside those of the others; an own entry with a right CRC is
kept and waits for the acknowledgements, or for the end of a restore, and one with a wrong CRC is refused.
Where the spec leaves it open this follows the model's readings of log entry 23. -/
def Obligations.ClocheUpkeep : Prop := ∀ (s : State),
  (∀ (port : Fin 262) (p : Packet) m2 id b g, s.m.Lands port p m2 id b → p.dstBed = s.m.bed → m2.group (p.f 1 0 16) = some g →
    let pos := p.f 1 16 4
    let j := p.f 1 20 4
    let off := p.f 1 24 40
    (∀ y, p.ty = 0x64 → g.pieces.filter (fun y => y.num == j) = [y] → p.body.length = 64 → off % 64 = 0 → off + 64 ≤ g.pieceBytes →
      (g.lost = true → exec (.deltaReceived port p) s = .next { s with m := (m2.movedOn id b).settle }) ∧
      (∀ r m3 g3, g.lost = false → g.forming = none → (BitVec.ofNat 64 (p.h 1), p.body) ∉ g.seen →
        m2.memAdd (if y.q = true then 0x5 else 0x4) (m2.pieceAddr y off) (if y.q = true then gfG pos else 0) p.body = (some r, m3) →
        m3.group g.id = some g3 →
        ∃ m' : Ilpiac, ∃ g', exec (.deltaReceived port p) s = .next { s with m := ((m'.clocheTack g p).movedOn id b).settle } ∧ m'.group g.id = some g' ∧
          g'.applied = (g3.applied + 1) % 2 ^ 64 ∧ (BitVec.ofNat 64 (p.h 1), p.body) ∈ g'.seen ∧ m'.hbm = m3.hbm)) ∧
    (∀ y, p.ty = 0x67 → g.members[pos]? = some y →
      ∃ m' : Ilpiac, ∃ g', exec (.stampReceived port p) s = .next { s with m := ((m'.clocheTack g p).movedOn id b).settle } ∧ m'.group g.id = some g' ∧
        g'.stamps = g.stamps.set pos (p.h 2) ∧ (pos ∈ g'.missM ↔ p.f 1 20 1 = 1) ∧ (∀ i, i ≠ pos → (i ∈ g'.missM ↔ i ∈ g.missM)) ∧
        (g.lost = true → g'.lost = true) ∧ g'.ledger = g.ledger) ∧
    (p.ty = 0x66 → p.body.length = 512 →
      ∃ m' : Ilpiac, ∃ g', exec (.ledgerReceived port p) s = .next { s with m := ((m'.clocheTack g p).movedOn id b).settle } ∧ m'.group g.id = some g' ∧
        ⟨pos, p.body⟩ ∈ g'.ledger ∧ (g'.ledger.filter (fun x => x.pos == pos)).length ≤ 64 ∧ (∀ x ∈ g.ledger, x.pos ≠ pos → x ∈ g'.ledger) ∧
        g'.stamps = g.stamps)) ∧
  (∀ (ring : Fin 65536) d m0 g pos me (e : List Byte), s.m.begin ring 0x3A = some (d, m0) → s.m.placed = true → s.m.has F.CAP_PRESENT_CLOCHE = true → d.w0ok = true →
    d.zero [(1, 16, 48), (3, 0, 64), (4, 0, 64), (5, 0, 64), (6, 0, 64), (7, 0, 64)] = true → d.f 2 0 64 % 64 = 0 → s.m.Coherent (d.f 2 0 64) 512 false →
    s.m.group (d.f 1 0 16) = some g → s.m.myPos g = some pos → s.m.myEntry g = some me → g.forming = none → e.length = 512 →
    (∀ cm, entryCrcOk e = true → natAt e 0x20 2 = me.comm → s.m.comm me.comm = some cm → natAt e 8 8 = cm.seedLo.toNat → natAt e 0x10 8 = cm.seedHi.toNat →
      (∀ x, g.lastEntry pos = some x → x ≤ natAt e 0 8) →
      ∃ m' : Ilpiac, ∃ g', exec (.ledgerWrite ring (some e)) s = .next { s with m := (m'.ledgerFlow g.id).settle } ∧ m'.group g.id = some g' ∧
        g'.ledgerWaits = g.ledgerWaits ++ [⟨d.ring, d.num, e, g.restore.isSome⟩] ∧ m'.ctl.cpl = s.m.ctl.cpl ∧
        (g.restore = none → ⟨pos, e⟩ ∈ g'.ledger) ∧ (g.restore.isSome = true → g'.ledger = g.ledger)) ∧
    (entryCrcOk e = false →
      ∃ m' : Ilpiac, exec (.ledgerWrite ring (some e)) s = .next { s with m := m'.settle } ∧ m'.groups = s.m.groups ∧
        m'.ctl.cpl = s.m.ctl.cpl ++ [d.record stBadDescriptor { comm := d.f 1 0 16, step := natAt e 0 8 }]))

/-- CLOCHE_RESTORE, STRIPE_RECEIVED, RESTORE_COMPLETE (R256 to R261): a restore waits while writes into the shard have not settled; from parity it begins where the record and the stamps agree
and no more is lost than the pieces can rebuild, and it is refused with ST_STEP_SKEW or ST_MEMORY_FAULT otherwise; a stripe received at the target is written and counted once;
a survivor's stripe at a keeper enters what it rebuilds; once every stripe is written the shard counts as restored, with its stamp and ST_OK.
Where the spec leaves it open this follows the model's readings of log entries 45, 46. -/
def Obligations.ClocheRestores : Prop := ∀ (s : State),
  (∀ (ring : Fin 65536) d m0 g (rec_ : List Byte) (ans : List RestoreAnswer), s.m.begin ring 0x3B = some (d, m0) → s.m.group (d.f 1 0 16) = some g →
    (s.m.settled g.id ans = false → exec (.clocheRestore ring (some rec_) none ans) s = .next { s with m := s.m.settle }) ∧
    (let mask := d.f 1 32 16
     s.m.settled g.id ans = true → s.m.placed = true → s.m.has F.CAP_PRESENT_CLOCHE = true → d.f 1 16 1 = 0 → d.w0ok = true →
      d.zero [(1, 17, 15), (1, 48, 16), (4, 0, 64), (5, 0, 64), (6, 0, 64), (7, 0, 64)] = true → d.f 2 0 64 % 64 = 0 → d.f 3 0 64 = 0 →
      s.m.Coherent (d.f 2 0 64) 64 false → (mask ≠ 0 ∧ ∃ pos, s.m.myPos g = some pos ∧ bitOf mask pos = true) ∨ (mask = 0 ∧ s.m.kept g ≠ []) → g.forming = none →
      (∀ i ∈ bitIdx mask 16, i < g.members.length) → rec_.length = 64 →
      let bad := g.lost = true ∨ (if g.q = true then 2 else 1) < popCount mask 16 ∨ g.canRebuild mask = false ∨ (mask = 0 ∧ g.missM ≠ [])
      let rest := exec (.clocheRestore ring (some rec_) none ans) s
      (bad → ∃ m' : Ilpiac, rest = .next { s with m := m'.settle } ∧ m'.groups = s.m.groups ∧ m'.ctl.cpl = s.m.ctl.cpl ++ [d.record stMemoryFault { comm := g.id }]) ∧
      (¬bad → g.restore = none → (∀ a ∈ ans, ∀ r, a.running = some r → r = (mask, false)) →
        let step := natAt rec_ 0 8
        (s.m.recordAgrees g rec_ ans = true → s.m.stampsAgree g mask false ans step = true →
          ∃ m' : Ilpiac, ∃ g', rest = .next { s with m := m'.settle } ∧ m'.group g.id = some g' ∧ g'.restore = some ⟨true, d.ring, d.num, false, mask, step, [], [], []⟩ ∧
            g'.missM = g.missM ∧ m'.ctl.cpl = s.m.ctl.cpl) ∧
        (s.m.recordAgrees g rec_ ans = false ∨ s.m.stampsAgree g mask false ans step = false →
          ∃ m' : Ilpiac, rest = .next { s with m := m'.settle } ∧ m'.groups = s.m.groups ∧
            m'.ctl.cpl = s.m.ctl.cpl ++ [d.record stStepSkew { comm := g.id, step := step }])))) ∧
  (∀ (ring : Fin 65536) d m0 g pos (rec_ img : List Byte) (ans : List RestoreAnswer), s.m.begin ring 0x3B = some (d, m0) → s.m.group (d.f 1 0 16) = some g →
    s.m.settled g.id ans = true → s.m.placed = true → s.m.has F.CAP_PRESENT_CLOCHE = true → d.f 1 16 1 = 1 → d.w0ok = true →
    d.zero [(1, 17, 15), (1, 48, 16), (4, 0, 64), (5, 0, 64), (6, 0, 64), (7, 0, 64)] = true → d.f 2 0 64 % 64 = 0 → d.f 3 0 64 % 64 = 0 → d.f 1 32 16 = 0 →
    s.m.Coherent (d.f 2 0 64) 64 false → s.m.Coherent (d.f 3 0 64) (64 + g.shardBytes) false → s.m.myPos g = some pos → g.forming = none → g.lost = false →
    g.restore = none → (∀ a ∈ ans, ∀ r, a.running = some r → r = (0, true)) → rec_.length = 64 → img.length = 64 + g.shardBytes →
    natAt img 0 4 = 0x434C4F31 → natAt img 0x10 8 = g.shardBytes → (bytesAt img 0x18 40).all (· == 0) = true → natAt img 4 4 = (crc32c (img.drop 64)).toNat →
    natAt img 8 8 = natAt rec_ 0 8 → s.m.recordAgrees g rec_ ans = true → s.m.stampsAgree g 0 true ans (natAt rec_ 0 8) = true →
    ∃ m' : Ilpiac, ∃ g', exec (.clocheRestore ring (some rec_) (some img) ans) s = .next { s with m := m'.settle } ∧ m'.group g.id = some g' ∧
      g'.restore = some ⟨true, d.ring, d.num, true, 0, natAt rec_ 0 8, [], [], img.drop 64⟩ ∧ m'.ctl.cpl = s.m.ctl.cpl) ∧
  (∀ (port : Fin 262) (p : Packet) m2 id b g, s.m.Lands port p m2 id b → p.ty = 0x65 → p.dstBed = s.m.bed → m2.group (p.f 1 0 16) = some g →
    let pos := p.f 1 16 4
    let j := p.f 1 20 4
    let off := p.f 1 24 40
    let st := g.stripeAt j off
    let m3 := m2.clocheTack g p
    p.body.length = 4096 → off % 4096 = 0 → st < g.shardBytes / 4096 → g.lost = false → g.forming = none →
    (∀ r me m4, g.restore = some r → r.target = true → r.image = false → m3.myPos g = some pos → m3.myEntry g = some me →
      m3.plainWrite (me.base + st * 4096) p.body (m3.hintAt (me.base + st * 4096) true) = (true, m4) →
      ∃ m' : Ilpiac, ∃ g', exec (.stripeReceived port p) s = .next { s with m := (m'.movedOn id b).settle } ∧ m'.group g.id = some g' ∧ m'.hbm = m4.hbm ∧
        g'.restore = some { r with written := r.written.filter (· != st) ++ [st] } ∧ g'.missM = g.missM ∧ g'.applied = g.applied) ∧
    (∀ y, g.restore = none → y ∈ g.pieces → y.num = j → pos ∉ g.missM →
      ∃ m' : Ilpiac, ∃ g' x, exec (.stripeReceived port p) s = .next { s with m := ((m'.solve g.id x).movedOn id b).settle } ∧ m'.group g.id = some g' ∧
        x ∈ (g'.restore.map (·.rebuilds)).getD [] ∧ x.piece = j ∧ x.stripe = st ∧ x.srcs = [pos] ∧ x.xorSum = xorBytes (List.replicate 4096 0) p.body ∧
        x.gfSum = xorBytes (List.replicate 4096 0) (gfScale (gfG pos) p.body) ∧ g'.missM = g.missM)) ∧
  (∀ g r d pos me, s.m.group g.id = some g → g.restore = some r → r.target = true → s.m.descOf (r.ring, r.num) = some d →
    s.m.myPos g = some pos → s.m.myEntry g = some me →
    (r.image = false → r.mask ≠ 0 → s.m.wanted g r ≤ r.written.length →
      ∃ m' : Ilpiac, ∃ g', exec (.restoreComplete g.id) s = .next { s with m := (m'.ledgerFlow g.id).settle } ∧ m'.group g.id = some g' ∧ g'.restore = none ∧
        g'.stamp = r.step ∧ g'.missM = g.missM.filter (· != pos) ∧ g'.stamps = g.stamps.set pos r.step ∧
        (∀ cm, s.m.comm me.comm = some cm → ∃ c, m'.comm me.comm = some c ∧ c.stale = false) ∧
        m'.ctl.cpl = s.m.ctl.cpl ++ [d.record stOk { comm := g.id, step := r.step, count := r.written.length }]) ∧
    (r.image = false → r.mask = 0 → s.m.wanted g r ≤ r.written.length →
      ∃ m' : Ilpiac, ∃ g', exec (.restoreComplete g.id) s = .next { s with m := (m'.ledgerFlow g.id).settle } ∧ m'.group g.id = some g' ∧ g'.restore = none ∧
        (∀ x, x ∈ g'.missP ↔ x ∈ g.missP ∧ (x, false) ∉ s.m.kept g) ∧ (∀ x, x ∈ g'.missQ ↔ x ∈ g.missQ ∧ (x, true) ∉ s.m.kept g) ∧
        m'.ctl.cpl = s.m.ctl.cpl ++ [d.record stOk { comm := g.id, step := r.step, count := r.written.length }]) ∧
    (∀ m1 g1, r.image = true → r.written.length < g.shardBytes / 4096 → s.m.memWrite me.base r.shard (s.m.hintAt me.base true) = (true, m1) →
      m1.group g.id = some g1 → g1.unsettled ≠ 0 →
      ∃ m' : Ilpiac, ∃ g', exec (.restoreComplete g.id) s = .next { s with m := m'.settle } ∧ m'.hbm = m1.hbm ∧ m'.group g.id = some g' ∧
        g'.restore = some { r with written := List.range (g.shardBytes / 4096), shard := [] }) ∧
    (r.image = true → g.shardBytes / 4096 ≤ r.written.length → g.unsettled = 0 →
      ∃ m' : Ilpiac, ∃ g', exec (.restoreComplete g.id) s = .next { s with m := (m'.ledgerFlow g.id).settle } ∧ m'.group g.id = some g' ∧ g'.restore = none ∧
        g'.stamp = r.step ∧ m'.ctl.cpl = s.m.ctl.cpl ++ [d.record stOk { comm := g.id, step := r.step, count := r.written.length }]))

/-- R241, R259: the pieces recover what is lost. From P and the other members' stripes one lost stripe comes back, from Q alone as well, and from both two lost stripes: with Pxy and Qxy the sums
of the two lost stripes, Dx = (g^x XOR g^y)^-1 · (Qxy XOR g^y · Pxy) and Dy = Pxy XOR Dx, for every pair of the 16 positions and all contents; and the order in which two stripes
enter a sum does not matter.

R292: on one element the integer, XOR and GF_MAC operations of two members leave the same memory in either order of arrival. -/
def Obligations.StripeRecovery : Prop :=
  (∀ (a b : Fin 16) (dx dy : List Byte), dx.length = dy.length → a ≠ b →
     (let pxy := xorBytes dx dy
      let qxy := xorBytes (gfScale (gfG a) dx) (gfScale (gfG b) dy)
      let x := gfScale (gfInv (gfG a ^^^ gfG b)) (xorBytes qxy (gfScale (gfG b) pxy))
      x = dx ∧ xorBytes pxy x = dy) ∧
     (∀ rest : List Byte, rest.length = dx.length →
       xorBytes (xorBytes rest dx) rest = dx ∧ gfScale (gfInv (gfG a)) (xorBytes (xorBytes rest (gfScale (gfG a) dx)) rest) = dx) ∧
     (∀ r : Rebuild, r.xorSum.length = dx.length → r.gfSum.length = dx.length → a.val ∉ r.srcs → b.val ∉ r.srcs →
       ((r.fold a dx).fold b dy).xorSum = ((r.fold b dy).fold a dx).xorSum ∧ ((r.fold a dx).fold b dy).gfSum = ((r.fold b dy).fold a dx).gfSum)) ∧
  (∀ (op : Nat) (ca cb : Byte) (mem a b : List Byte), op ∈ [0x2, 0x3, 0x4, 0x5, 0x8, 0x9] →
     a.length = mem.length → b.length = mem.length →
     amoApply op cb (amoApply op ca mem a) b = amoApply op ca (amoApply op cb mem b) a)

/-! ### Switch and scheduler (spec 09, 10) -/

/-- HELLO_RECEIVED, HELLO_PERIOD_EXPIRY, LINK_RECEIVED, LINK_CREDIT_TIMER (R37, R38, R311 to R314): a HELLO is recorded; where its check passes the port is UP with its counts at zero and
the partner's LAND values, and where it fails the port is held down, counted or marked, and PLACEMENT is asserted; a period sends HELLO and LINK on every port that is UP; a LINK on a
downlink gives back the cells that the partner lost, one on a trunk with DST_ILP = 1 sets the partner's FREED counts; the timer sends a port's counts.
Where the spec leaves it open this follows the model's readings of log entries 6, 85.

TRUNK_STATE_RECEIVED, TRUNK_STATE_SEND (R363, R364): a newer serial of another bed is recorded and its mask enters the link map; one that is not newer, or is of the own bed, changes
nothing; a send takes the next serial, and nothing is sent without a placement.
Where the spec leaves it open this follows the model's readings of log entry 98. -/
def Obligations.LinksAndMap : Prop :=
  (∀ (s : State) (port : Fin 262) (p : Packet),
     (let m1 := s.m.counted port p
      s.m.Admits port p → p.ty = 0x01 → 0 ∉ m1.ctl.funcReset → m1.portFormed port = true →
       let recorded := fun (m : Ilpiac) => m.pg port F.PORT_HELLO1_H1 = p.h 1 ∧ m.pg port F.PORT_HELLO2_H2 = p.h 2
       let passes := if isTrunk port = true then m1.portState port ≠ 3 ∧ m1.trunkHelloOk (port - 256) p = true
         else if m1.isTwin port = true then m1.twinHelloOk p = true else m1.memberHelloOk p = true
       (m1.placed = false → ∃ m' : Ilpiac, exec (.helloReceived port p) s = .next { s with m := m'.settle } ∧ recorded m' ∧ m'.portState port = m1.portState port) ∧
       (m1.placed = true → passes → m1.portUp port = false →
         ∃ m' : Ilpiac, exec (.helloReceived port p) s = .next { s with m := (if isTrunk port = true then m'.ownTrunks else m').settle } ∧ recorded m' ∧ m'.portState port = 2 ∧
           ∀ c < 8, (m'.cls port c).pLand = p.f 3 (8 * c) 8 ∧ (m'.cls port c).landUsed = 0 ∧ (m'.cls port c).freed = 0 ∧ (m'.cls port c).received = 0 ∧
             (m'.cls port c).sent = 0 ∧ (m'.cls port c).pFreed = 0) ∧
       (m1.placed = true → passes → m1.portUp port = true →
         ∃ m' : Ilpiac, exec (.helloReceived port p) s = .next { s with m := m'.settle } ∧ recorded m' ∧ m'.portState port = 2 ∧
           ∀ c < 8, (m'.cls port c).pLand = p.f 3 (8 * c) 8 ∧ (m'.cls port c).freed = (m1.cls port c).freed) ∧
       (m1.placed = true → isTrunk port = true → m1.portState port ≠ 3 → m1.trunkHelloOk (port - 256) p = false →
         ∃ m' : Ilpiac, exec (.helloReceived port p) s = .next { s with m := (m'.ownTrunks.raise srcPlacement port 0).settle } ∧ m'.portState port = 3 ∧
           bitOf (m'.g F.PLACEMENT_STATUS_TRUNK_MISMATCH) (port - 256) = true ∧ recorded m') ∧
       (m1.placed = true → isTrunk port = false → m1.isTwin port = false → m1.memberHelloOk p = false →
         ∃ m' : Ilpiac, exec (.helloReceived port p) s = .next { s with m := (m'.raise srcPlacement port 0).settle } ∧ m'.portState port = 3 ∧ m'.portFenced port = true ∧
           recorded m')) ∧
     ((∀ b ∈ s.m.sw.buf, b.id < s.m.sw.nextId) →
       let i := s.m.sw.nextId
       let sent := fun (m : Ilpiac) (id : Nat) (q : Packet) => ∃ b, m.bufPkt id = some b ∧ b.pkt = q ∧ b.refs = 1 ∧ b.area = .control
       let freed := fun (q : Nat) => (List.range 8).map (fun c => (s.m.cls q c).freed)
       (∀ (n : Fin 256), s.m.portUp n = true → (∀ q < 262, q ≠ n.val → s.m.portState q = 0) → 2 ≤ s.m.areaFree .control →
         ∃ m' : Ilpiac, exec .helloPeriodExpiry s = .next { s with m := m'.settle } ∧ sent m' i (s.m.hello n) ∧
           sent m' (i + 1) (linkPacket (freed n) (s.m.bed * 256 + n) false s.m.bed) ∧ m'.sw.nextId = i + 2) ∧
       (s.m.portUp port = true → 2 ≤ s.m.areaFree .control →
         ∃ m' : Ilpiac, exec (.linkCreditTimer port) s = .next { s with m := m'.settle } ∧
           sent m' i (linkPacket (freed port) (if isTrunk port = true then s.m.neighbour s.m.bed (port - 256) else s.m.bed * 256 + port) (isTrunk port) s.m.bed) ∧
           (isTrunk port = true → sent m' (i + 1)
             (linkPacket ((List.range 8).map (fun c => (s.m.cls port c).sent)) (s.m.neighbour s.m.bed (port - 256)) false s.m.bed)))) ∧
     (s.m.portUp port = false → exec (.linkCreditTimer port) s = .next { s with m := s.m.settle }) ∧
     (s.m.Admits port p → p.ty = 0x02 →
       let m1 := s.m.counted port p
       (isTrunk port = true → p.dstIlp = true →
         ∃ m' : Ilpiac, exec (.linkReceived port p) s = .next { s with m := m'.settle } ∧
           ∀ c < 8, (m'.cls port c).pFreed = linkCount p c ∧ (m'.cls port c).sent = (m1.cls port c).sent ∧ (m'.cls port c).received = (m1.cls port c).received) ∧
       (isTrunk port = false ∨ p.dstIlp = false →
         ∃ m' : Ilpiac, exec (.linkReceived port p) s = .next { s with m := m'.settle } ∧
           ∀ c < 8, (m'.cls port c).received = linkCount p c ∧
             (m'.cls port c).freed = ((m1.cls port c).freed + (linkCount p c + 2 ^ 32 - (m1.cls port c).received)) % 2 ^ 32 ∧
             (m'.cls port c).pFreed = (m1.cls port c).pFreed))) ∧
  (∀ (s : State),
     (∀ (port : Fin 262) (p : Packet) m2 id b, s.m.Lands port p m2 id b → p.ty = 0x6E →
       let o := p.f 1 0 6
       let n := p.f 1 32 32
       (o ≠ m2.bed → (∀ x, m2.sw.serials.find? (fun x : Nat × Nat => x.1 == o) = some x → newer32 x.2 n = true) →
         ∃ m' : Ilpiac, exec (.trunkStateReceived port p) s = .next { s with m := ((m'.checkHoses).movedOn id b).settle } ∧ m'.lostMask o = p.f 1 6 6 ∧
           (∀ k < 6, ∀ bed < 64, bed ≠ o → m'.portLost bed k = m2.portLost bed k) ∧
           m'.sw.serials = m2.sw.serials.filter (fun (x : Nat × Nat) => x.1 != o) ++ [(o, n)] ∧
           (m2.lostMask o ≠ p.f 1 6 6 → m'.g F.ROUTE_STATUS_EPOCH = (m2.g F.ROUTE_STATUS_EPOCH + 1) % 2 ^ F.ROUTE_STATUS_EPOCH.w)) ∧
       (o = m2.bed ∨ (∃ x, m2.sw.serials.find? (fun x : Nat × Nat => x.1 == o) = some x ∧ newer32 x.2 n = false) →
         exec (.trunkStateReceived port p) s = .next { s with m := (m2.movedOn id b).settle })) ∧
     (s.m.placed = true → s.m.running 0 = true →
       ∃ m' : Ilpiac, exec .trunkStateSend s = .next { s with m := m'.settle } ∧ m'.sw.ownSerial = (s.m.sw.ownSerial + 1) % 2 ^ 32 ∧
         ∀ k, s.m.upTrunks = [k] → s.m.portFenced (256 + k) = false → 1 ≤ s.m.areaFree .shared → (∀ b ∈ s.m.sw.buf, b.id < s.m.sw.nextId) →
           ∃ b, m'.bufPkt s.m.sw.nextId = some b ∧ b.refs = 1 ∧ b.area = .shared ∧
             b.pkt = s.m.packet 0x6E 0 s.m.bed [s.m.bed + s.m.ownMask * 2 ^ 6 + (s.m.sw.ownSerial + 1) % 2 ^ 32 * 2 ^ 32]) ∧
     (s.m.placed = false → exec .trunkStateSend s = .next { s with m := s.m.settle }))

/-- AMO_REQ_RECEIVED, PT_RECEIVED, RELAY_RECEIVED, LAND_RELEASE (R321 to R324, R328, R330): a request whose response is kept gets it again; one that is stale or refused gets that result and
changes nothing; otherwise the adder runs once and its response is kept and sent; a PT packet moves into SHARED and to the port of its member, or waits in its landing cells; one
with a wrong CRC is discarded and counted; a relayed packet of another plane is dropped and a relayed STAMP is recorded; a waiting packet that can move on frees its landing cells.
Where the spec leaves it open this follows the model's readings of log entries 65, 68. -/
def Obligations.MemberRequests : Prop := ∀ (s : State) (port : Fin 262) (p : Packet),
  (∀ m2 id b, s.m.Lands port p m2 id b →
    (∀ n : Fin 256, n.val = port.val → p.ty = 0x10 →
      let tag := p.f 2 32 32
      let op := p.f 2 0 4
      let x := m2.port port
      let answers := fun (m : Ilpiac) (r : Packet) => exec (.amoReqReceived n p) s = .next { s with m := ((m.emitShared port r).movedOn id b).settle }
      (∀ k, x.amoKept.find? (fun k => k.tag == tag) = some k → answers m2 k.rsp) ∧
      (x.amoKept.find? (fun k => k.tag == tag) = none → 16 < tagBelow (x.amoLatest.getD tag) tag → answers m2 (m2.amoRsp port p.tc tag amoStale)) ∧
      (x.amoKept.find? (fun k => k.tag == tag) = none → tagBelow (x.amoLatest.getD tag) tag ≤ 16 →
        (m2.amoBad p = true →
          ∃ m' : Ilpiac, answers m' (m2.amoRsp port p.tc tag amoRefused) ∧ m'.hbm = m2.hbm ∧ (m'.port port).amoKept = x.amoKept ∧
            (m'.port port).amoLatest = some (newerTag x.amoLatest tag)) ∧
        (∀ old m3, m2.amoBad p = false →
          (m2.setPort port { x with amoLatest := some (newerTag x.amoLatest tag) }).memAdd op (p.h 1) (BitVec.ofNat 8 (p.f 2 13 8)) p.body = (some old, m3) →
          let r := m3.amoRsp port p.tc tag amoDone (if op = 0x8 ∨ op = 0x9 then old else [])
          ∃ m' : Ilpiac, answers m' r ∧ m'.hbm = m3.hbm ∧ (tagBelow (x.amoLatest.getD tag) tag < 16 → ⟨tag, r⟩ ∈ (m'.port port).amoKept)))) ∧
    (p.ty = 0x18 → p.dstBed = m2.bed →
      let o := p.dst % 256
      (m2.portUp o = true → m2.portFenced o = false → m2.isTwin o = false → m2.running 0 = true →
        (let k := o * 1024 + m2.queueFor o p.tc b.ingress
         b.cells ≤ m2.g F.SW_BUF_STATUS_SHARED_FREE →
          ∃ m' : Ilpiac, ∃ b' e, exec (.ptReceived port p true) s = .next { s with m := (m'.movedOn id b).settle } ∧ m'.bufPkt id = some b' ∧ b'.area = .shared ∧
            b'.land = none ∧ b'.refs = b.refs + 1 ∧ b'.pkt = p ∧ m'.queue k = m2.queue k ++ [e] ∧ e.id = id ∧ e.size = p.sched) ∧
        (m2.sharedRoom p.tc b.cells = none →
          ∃ m' : Ilpiac, exec (.ptReceived port p true) s = .next { s with m := m'.settle } ∧ (m'.port port).landed = (m2.port port).landed ++ [id] ∧
            m'.sw.queues = m2.sw.queues)) ∧
      (m2.portUp o = false ∨ m2.portFenced o = true ∨ m2.isTwin o = true →
        exec (.ptReceived port p true) s = .next { s with m := ((m2.misaddressed port p).movedOn id b).settle })) ∧
    (∀ n : Fin 256, n.val = port.val → p.ty = 0x19 →
      (p.f 1 0 4 ≠ m2.plane → exec (.relayReceived n p true) s = .next { s with m := (m2.movedOn id b).settle }) ∧
      (∀ q g, p.f 1 0 4 = m2.plane → Packet.parse p.body = some q → q.lenOk = true → q.h0Ok = true → q.zeroOk = true → q.dstIlp = true → q.dst = m2.bed →
        q.ty = 0x67 → q.dstBed = m2.bed → m2.group (q.f 1 0 16) = some g → q.f 1 16 4 < g.members.length →
        ∃ m' : Ilpiac, ∃ g', exec (.relayReceived n p true) s = .next { s with m := ((m'.clocheTack g q).movedOn id b).settle } ∧ m'.group g.id = some g' ∧
          g'.stamps = g.stamps.set (q.f 1 16 4) (q.h 2)))) ∧
  (s.m.Admits port p → p.ty = 0x18 → ((s.m.police port p).1.crcDiscard port p).ptPort p = none →
    ∃ m' : Ilpiac, exec (.ptReceived port p false) s = .next { s with m := (m'.capture 2 port p).settle } ∧
      m'.pg port F.PORT_ERRORS_CRC_DISCARDS = satAdd F.PORT_ERRORS_CRC_DISCARDS.w (s.m.pg port F.PORT_ERRORS_CRC_DISCARDS) 1 ∧
      m'.sw.buf = s.m.sw.buf ∧ m'.hbm = s.m.hbm) ∧
  (∀ (tp : Fin 262) (tc : Fin 8) id b m1, (s.m.port tp).landed = [id] → s.m.bufPkt id = some b → b.pkt.tc = tc.val → s.m.moveOn tp id b.pkt = some m1 →
    (m1.port tp).landed = [id] →
    ∃ m' : Ilpiac, exec (.landRelease tp tc) s = .next { s with m := (m'.movedOn id b).settle } ∧ (m'.port tp).landed = [] ∧ m'.hbm = m1.hbm)

/-- SEND_OPPORTUNITY, TRANSMIT_COMPLETE, SCHEDULER_TICK (R330, R346 to R352): an idle port serves the head of the queue that the service order selects: it is in transmission, its size has left the
buckets that have a rate, and a weighted queue and class take their finish tags; a strict class goes before the others; a busy port changes nothing; the end of a transmission
counts the packet and takes one pointer; a tick refills each bucket up to its burst.
Where the spec leaves it open this follows the model's readings of log entry 72.

SIEVE_ENABLE, SIEVE_CONSUME, CREDIT_RESEND_TIMER (R138, R335, R338, R378): enabling the sieve starts its ring at entry 0 with nothing sampled; CONS takes the written value; credits of a
context are sent again to the member whose contribution is missing, and no more once the collective fails or is committed.
Where the spec leaves it open this follows the model's readings of log entry 96. -/
def Obligations.SwitchService : Prop :=
  (∀ (s : State) (port : Fin 262),
     ((s.m.port port).tx.isSome = true ∨ s.m.txOff port = true → exec (.sendOpportunity port) s = .next { s with m := s.m.settle }) ∧
     ((s.m.port port).tx = none → s.m.txOff port = false → s.m.pg port F.PORT_SHAPE_RATE = 0 ∨ 0 ≤ (s.m.port port).tokens →
       (s.m.eligQ port = [] → exec (.sendOpportunity port) s = .next { s with m := s.m.settle }) ∧
       (∀ k e rest b, s.m.selectQ port = some k → s.m.queue k = e :: rest → s.m.bufPkt e.id = some b →
         let c := s.m.classOf port (k % 1024)
         ∃ m' : Ilpiac, ∃ t, exec (.sendOpportunity port) s = .next { s with m := m'.settle } ∧ m'.queue k = rest ∧ (m'.port port).tx = some t ∧ t.id = e.id ∧ t.cls = c ∧
           t.queue = k % 1024 ∧ t.stomp = b.crcBad ∧ (b.pkt.ty ≠ 0x48 → t.pkt = b.pkt) ∧
           (m'.qx k).tokens = (if s.m.qg k F.Q_SHAPE_RATE = 0 then (s.m.qx k).tokens else (s.m.qx k).tokens - (e.size * 65536 : Nat)) ∧
           (m'.port port).tokens = (if s.m.pg port F.PORT_SHAPE_RATE = 0 then (s.m.port port).tokens else (s.m.port port).tokens - (e.size * 65536 : Nat)) ∧
           (c < 2 → (m'.cls port c).last = k % 1024) ∧
           (2 ≤ c → (m'.qx k).finish = finishTag (s.m.qg k F.Q_TAG_START) e.size (s.m.qg k F.Q_SHAPE_WEIGHT) ∧
             (m'.cls port c).finish = finishTag (s.m.cls port c).start e.size (s.m.classWeight port c)) ∧
           m'.sw.buf = s.m.sw.buf)) ∧
     (∀ k, s.m.selectQ port = some k → k ∈ s.m.eligQ port ∧
       ∀ j ∈ s.m.eligQ port, s.m.classOf port (j % 1024) < 2 → s.m.classOf port (k % 1024) ≤ s.m.classOf port (j % 1024)) ∧
     (∀ t, (s.m.port port).tx = some t →
       ∃ m' : Ilpiac, exec (.transmitComplete port) s = .next { s with m := ((m'.capture 1 port t.pkt).unref t.id).settle } ∧ (m'.port port).tx = none ∧
         m'.pg port F.PORT_TRAFFIC_TX_PACKETS = (s.m.pg port F.PORT_TRAFFIC_TX_PACKETS + 1) % 2 ^ F.PORT_TRAFFIC_TX_PACKETS.w ∧
         m'.pg port F.PORT_ERRORS_STOMPED = (if t.stomp = true then satAdd F.PORT_ERRORS_STOMPED.w (s.m.pg port F.PORT_ERRORS_STOMPED) 1
           else s.m.pg port F.PORT_ERRORS_STOMPED) ∧ m'.sw.buf = s.m.sw.buf ∧ m'.sw.queues = s.m.sw.queues) ∧
     (s.m.tickPorts = [] → exec .schedulerTick s = .next { s with m := s.m.settle }) ∧
     (s.m.tickPorts = [port.val] →
       (∀ k, s.m.shaped port = [k] → s.m.policers port = [] →
         ∃ m' : Ilpiac, exec .schedulerTick s = .next { s with m := m'.settle } ∧
           (m'.qx k).tokens = refill (s.m.qx k).tokens (s.m.qg k F.Q_SHAPE_RATE) (s.m.qg k F.Q_SHAPE_BURST) ∧ m'.sw.queues = s.m.sw.queues) ∧
       (s.m.shaped port = [] → s.m.policers port = [] →
         ∃ m' : Ilpiac, exec .schedulerTick s = .next { s with m := m'.settle } ∧
           (m'.port port).tokens = (if s.m.pg port F.PORT_SHAPE_RATE = 0 then (s.m.port port).tokens
             else refill (s.m.port port).tokens (s.m.pg port F.PORT_SHAPE_RATE) (s.m.pg port F.PORT_SHAPE_BURST)) ∧ m'.sw.queues = s.m.sw.queues) ∧
       (∀ i, s.m.shaped port = [] → s.m.policers port = [i] → s.m.pg port F.PORT_SHAPE_RATE = 0 →
         ∃ m' : Ilpiac, exec .schedulerTick s = .next { s with m := m'.settle } ∧ m'.sw.queues = s.m.sw.queues ∧
           m'.polx port i = (s.m.polx port i).refill (s.m.pg port F.POL_CFG_MODE i) (s.m.pg port F.POL_CFG_CIR i) (s.m.pg port F.POL_CFG_PIR i)
             (s.m.pg port F.POL_BUCKETS_CBS i) (s.m.pg port F.POL_BUCKETS_EBS_PBS i)))) ∧
  (∀ (s : State),
     (∀ v : Word, s.m.Reaches 0x280100 → s.m.g F.SIEVE_CTRL_ENABLE = 0 → bitOf v.toNat 0 = true →
       ∃ m' : Ilpiac, exec (.sieveEnable v) s = .next { s with m := m'.settle } ∧ m'.g F.SIEVE_CTRL_ENABLE = 1 ∧ m'.g F.SIEVE_PROD_PROD = 0 ∧ m'.sw.sample = 0 ∧
         m'.g F.SIEVE_CTRL_THRESHOLD = bits v.toNat 32 24 ∧ m'.g F.SIEVE_CONS_CONS = s.m.g F.SIEVE_CONS_CONS ∧ m'.hbm = s.m.hbm) ∧
     (∀ v : Word, s.m.Reaches 0x280120 →
       ∃ m' : Ilpiac, exec (.sieveConsume v) s = .next { s with m := m'.settle } ∧ m'.g F.SIEVE_CONS_CONS = v.toNat % 2 ^ 32 ∧ m'.g F.SIEVE_PROD_PROD = s.m.g F.SIEVE_PROD_PROD ∧
         m'.sw = s.m.sw) ∧
     (∀ x c cm cx, s.m.collOf x.coll = some c → s.m.comm x.coll.comm = some cm → s.m.ctxOf x = some cx →
       (c.failing = true ∨ c.committed = true → exec (.creditResendTimer x) s = .next { s with m := s.m.settle }) ∧
       (∀ addr, c.failing = false → c.committed = false → x.part ≠ partRow → s.m.contributors cm c x = [addr] → s.m.memberFenced addr = false →
         s.m.leafOf cm x addr 0 ∉ cx.seen → s.m.portUp (addr % 256) = true → s.m.portFenced (addr % 256) = false → s.m.isTwin (addr % 256) = false →
         s.m.running 0 = true → 1 ≤ s.m.areaFree .control → (∀ b ∈ s.m.sw.buf, b.id < s.m.sw.nextId) →
         ∃ m' : Ilpiac, ∃ b cx', exec (.creditResendTimer x) s = .next { s with m := m'.settle } ∧ m'.bufPkt s.m.sw.nextId = some b ∧ 
           b.pkt = Packet.make 0x0A s.m.tcCtrl addr false s.m.bed true (partHdr x.coll x.part (ctxHdr x).1 (ctxHdr x).2 0 0 ++ [1]) [] ∧ b.refs = 1 ∧ m'.ctxOf x = some cx' ∧ cx'.credited = true ∧ cx'.seen = cx.seen)))

/-! ### Routing and hoses (spec 11) -/

/-- HOSE_OPEN, HOSE_SETUP_RECEIVED, HOSE_REPLY_RECEIVED, HOSE_SETUP_TIMEOUT (R369 to R371): an opening takes the entry as source in SETUP with its path and window, or is refused; a hop with a
FREE entry and room takes the lowest one, sets the cells aside and passes the setup on, the sink is ACTIVE at once, and a hop without an entry answers with the result; a reply makes
the hop ACTIVE with the label, at the source with ST_OK, or frees the entry with the status that the result stands for; without a reply in time the entry is freed.
Where the spec leaves it open this follows the model's readings of log entries 7, 99. -/
def Obligations.HoseSetup : Prop := ∀ (s : State),
  (∀ (ring : Fin 65536) d m0, s.m.begin ring 0x40 = some (d, m0) →
    let h := d.f 1 0 12
    let path := d.f 2 4 24
    let hops := d.f 2 0 4
    (s.m.placed = false →
      ∃ m' : Ilpiac, exec (.hoseOpen ring) s = .next { s with m := m'.settle } ∧ m'.sw = s.m.sw ∧ m'.ctl.cpl = s.m.ctl.cpl ++ [d.record stUnplaced]) ∧
    (s.m.placed = true → s.m.has F.CAP_PRESENT_TRUNK = true →
      (s.m.hg h F.HOSE_CFG_ROLE ≠ roleFree ∨ d.f 1 38 3 < 2 ∨ d.f 1 48 16 < 18 ∨ 16384 < d.f 1 48 16 ∨ hops = 0 ∨ 8 < hops ∨
          s.m.pathOk path hops (d.f 1 32 6) = false →
        ∃ m' : Ilpiac, exec (.hoseOpen ring) s = .next { s with m := m'.settle } ∧ m'.sw = s.m.sw ∧ m'.ctl.cpl = s.m.ctl.cpl ++ [d.record stBadDescriptor]) ∧
      (d.w0ok = true → d.zero [(1, 12, 4), (1, 41, 7), (2, 28, 36), (3, 10, 54), (4, 0, 64), (5, 0, 64), (6, 0, 64), (7, 0, 64)] = true →
        s.m.hg h F.HOSE_CFG_ROLE = roleFree → 2 ≤ d.f 1 38 3 → 18 ≤ d.f 1 48 16 → d.f 1 48 16 ≤ 16384 → 1 ≤ hops → hops ≤ 8 →
        s.m.pathOk path hops (d.f 1 32 6) = true →
        (∀ x ∈ s.m.hosesUsed, ¬(s.m.hg x F.HOSE_CFG_ROLE = roleSource ∧ s.m.hg x F.HOSE_CFG_COMM_ID = d.f 1 16 16 ∧
          s.m.hg x F.HOSE_CFG_DST_BED = d.f 1 32 6 ∧ s.m.hg x F.HOSE_CFG_TC = d.f 1 38 3)) →
        (s.m.portLost s.m.bed (pathHop path 0) = true →
          ∃ m' : Ilpiac, exec (.hoseOpen ring) s = .next { s with m := m'.settle } ∧ m'.sw = s.m.sw ∧ m'.ctl.cpl = s.m.ctl.cpl ++ [d.record stTrunkLost]) ∧
        (s.m.portLost s.m.bed (pathHop path 0) = false →
          ∃ m' : Ilpiac, exec (.hoseOpen ring) s = .next { s with m := m'.settle } ∧ m'.ctl.cpl = s.m.ctl.cpl ∧ m'.hg h F.HOSE_CFG_ROLE = roleSource ∧
            m'.hg h F.HOSE_STATE_STATE = hoseSetup ∧ m'.hg h F.HOSE_CFG_TC = d.f 1 38 3 ∧ m'.hg h F.HOSE_CFG_DST_BED = d.f 1 32 6 ∧
            m'.hg h F.HOSE_CFG_OUT_PORT = pathHop path 0 ∧ m'.hg h F.HOSE_STATE_PATH = path ∧ m'.hg h F.HOSE_STATE_HOPS = hops ∧
            m'.hg h F.HOSE_STATE_WINDOW_CELLS = d.f 1 48 16 ∧ m'.hg h F.HOSE_WIN_SENT = 0 ∧ m'.hg h F.HOSE_WIN_CONSUMED = 0 ∧
            (m'.hx h).desc = some (d.ring, d.num) ∧ (m'.hx h).setupId = (h + s.m.sw.nextSetup * 4096) % 2 ^ 32)))) ∧
  (∀ (port : Fin 262) (p : Packet) m2 id b, s.m.Lands port p m2 id b →
    (p.ty = 0x68 →
      let k := port.val - 256
      let prev := p.f 1 0 12
      let hop := p.f 1 12 4
      let hops := p.f 1 48 4
      let win := p.f 1 32 16
      let sid := p.f 2 32 32
      let out := pathHop (p.f 2 0 24) hop
      let answers := fun (m : Ilpiac) (label r : Nat) => exec (.hoseSetupReceived port p) s =
        .next { s with m := ((m.sendOn k (m.replyPacket (m.neighbour m.bed k) label prev r sid)).movedOn id b).settle }
      (hops < hop ∨ (hop = hops ∧ p.f 2 24 6 ≠ m2.bed) → answers m2 0 3) ∧
      (hop = hops → p.f 2 24 6 = m2.bed →
        (m2.freeHose = none → answers m2 0 1) ∧
        (∀ h, m2.freeHose = some h →
          (m2.mayAside win = false → answers m2 0 2) ∧
          (m2.mayAside win = true →
            ∃ m' : Ilpiac, answers m' h 0 ∧ m'.hg h F.HOSE_CFG_ROLE = roleSink ∧ m'.hg h F.HOSE_STATE_STATE = hoseActive ∧ (m'.hx h).aside = win ∧
              (m'.hx h).prevLabel = prev ∧ (m'.hx h).prevPort = k ∧ (m'.hx h).setupId = sid ∧ (m'.hx h).srcBed = p.srcBed))) ∧
      (∀ h, hop < hops → out < 6 → 2 ≤ m2.extent (out / 2) → m2.freeHose = some h → m2.mayAside win = true →
        (m2.portLost m2.bed out = true → answers m2 0 4) ∧
        (m2.portLost m2.bed out = false →
          ∃ m' : Ilpiac, exec (.hoseSetupReceived port p) s = .next { s with m := ((m'.sendOn out (m'.setupPacket h p.srcBed (hop + 1) sid)).movedOn id b).settle } ∧
            m'.hg h F.HOSE_CFG_ROLE = roleTransit ∧ m'.hg h F.HOSE_STATE_STATE = hoseSetup ∧ m'.hg h F.HOSE_CFG_OUT_PORT = out ∧
            (m'.hx h).aside = win ∧ (m'.hx h).prevLabel = prev ∧ (m'.hx h).prevPort = k))) ∧
    (p.ty = 0x69 → p.dstBed = m2.bed →
      let h := p.f 1 12 12
      let r := p.f 1 24 4
      let sid := p.f 1 32 32
      let x := m2.hx h
      (∀ c d, r = 5 → m2.sw.closes.find? (fun c => c.2.1 == sid) = some c → m2.ctl.descs.find? (fun d => d.ring == c.2.2.1 && d.num == c.2.2.2) = some d →
        ∃ m' : Ilpiac, exec (.hoseReplyReceived port p) s = .next { s with m := (m'.movedOn id b).settle } ∧
          m'.sw.closes = m2.sw.closes.filter (fun x => x != c) ∧ m'.ctl.cpl = m2.ctl.cpl ++ [d.record stOk]) ∧
      (r ≠ 5 → x.setupId = sid → m2.hg h F.HOSE_STATE_STATE = hoseSetup →
        (r = 0 →
          (∀ rn d, m2.hg h F.HOSE_CFG_ROLE = roleSource → x.desc = some rn → m2.ctl.descs.find? (fun d => d.ring == rn.1 && d.num == rn.2) = some d →
            ∃ m' : Ilpiac, exec (.hoseReplyReceived port p) s = .next { s with m := ((m'.pumpHose h).movedOn id b).settle } ∧
              m'.hg h F.HOSE_STATE_STATE = hoseActive ∧ m'.hg h F.HOSE_CFG_NEXT_LABEL = p.f 1 0 12 ∧ m'.ctl.cpl = m2.ctl.cpl ++ [d.record stOk]) ∧
          (m2.hg h F.HOSE_CFG_ROLE = roleTransit →
            ∃ m' : Ilpiac, exec (.hoseReplyReceived port p) s = .next { s with m :=
                ((m'.sendOn x.prevPort (m'.replyPacket (m'.neighbour m'.bed x.prevPort) h x.prevLabel 0 sid)).movedOn id b).settle } ∧
              m'.hg h F.HOSE_STATE_STATE = hoseActive ∧ m'.hg h F.HOSE_CFG_NEXT_LABEL = p.f 1 0 12 ∧ m'.sw = m2.sw)) ∧
        (r ≠ 0 → m2.hg h F.HOSE_CFG_ROLE = roleTransit →
          ∃ m' : Ilpiac, exec (.hoseReplyReceived port p) s = .next { s with m :=
              ((m'.sendOn x.prevPort (m'.replyPacket (m'.neighbour m'.bed x.prevPort) h x.prevLabel r sid)).movedOn id b).settle } ∧
            m'.hg h F.HOSE_CFG_ROLE = roleFree ∧ m'.hx h = HoseX.init) ∧
        (∀ rn d, r ≠ 0 → m2.hg h F.HOSE_CFG_ROLE = roleSource → x.desc = some rn → x.waiting = [] →
          m2.ctl.descs.find? (fun d => d.ring == rn.1 && d.num == rn.2) = some d →
          ∃ m' : Ilpiac, exec (.hoseReplyReceived port p) s = .next { s with m := (m'.movedOn id b).settle } ∧ m'.hg h F.HOSE_CFG_ROLE = roleFree ∧
            m'.hx h = HoseX.init ∧ m'.ctl.cpl = m2.ctl.cpl ++ [d.record (replyStatus r)])))) ∧
  (∀ h : Fin 4096, s.m.hg h F.HOSE_STATE_STATE = hoseSetup →
    (s.m.hg h F.HOSE_CFG_ROLE = roleTransit →
      ∃ m' : Ilpiac, exec (.hoseSetupTimeout h) s = .next { s with m := m'.settle } ∧ m'.hg h F.HOSE_CFG_ROLE = roleFree ∧ m'.hx h = HoseX.init) ∧
    (∀ rn d, s.m.hg h F.HOSE_CFG_ROLE = roleSource → (s.m.hx h).desc = some rn → (s.m.hx h).waiting = [] →
      s.m.ctl.descs.find? (fun d => d.ring == rn.1 && d.num == rn.2) = some d →
      ∃ m' : Ilpiac, exec (.hoseSetupTimeout h) s = .next { s with m := m'.settle } ∧ m'.hg h F.HOSE_CFG_ROLE = roleFree ∧ m'.hx h = HoseX.init ∧
        m'.ctl.cpl = s.m.ctl.cpl ++ [d.record stTrunkLost]))

/-- HOSE_CLOSE, HOSE_TEAR_SEND, HOSE_TEAR_RECEIVED, HOSE_CLOSE_TIMEOUT, HOSE_ORPHAN_TIMEOUT, HOSE_DATA_RECEIVED, HOSE_MARK_RECEIVED, HOSE_WINDOW_RECEIVED, HOSE_MARK_TIMER, HOSE_WINDOW_TIMER (R373 to
R376, R379): a close makes the hose TEARING with nothing waiting; the tear frees the source's entry and, on its way, each hop's, and the sink answers TORN; data and marks go on under the
next label, or are discarded where the port is not UP; at the sink data count as received and a mark makes the counts agree with the source; the window reopens by what the sink has
consumed.
Where the spec leaves it open this follows the model's readings of log entries 8, 99. -/
def Obligations.HoseTraffic : Prop := ∀ (s : State),
  (∀ (ring : Fin 65536) d m0, s.m.begin ring 0x41 = some (d, m0) →
    let h := d.f 1 0 12
    (s.m.hg h F.HOSE_CFG_ROLE ≠ roleSource ∨ s.m.hg h F.HOSE_STATE_STATE = hoseSetup ∨ (s.m.hx h).closing = true →
      ∃ m' : Ilpiac, exec (.hoseClose ring) s = .next { s with m := m'.settle } ∧ m'.sw = s.m.sw ∧ m'.ctl.cpl = s.m.ctl.cpl ++ [d.record stBadDescriptor]) ∧
    (d.w0ok = true → d.zero [(1, 12, 52), (2, 0, 64), (3, 0, 64), (4, 0, 64), (5, 0, 64), (6, 0, 64), (7, 0, 64)] = true →
      s.m.hg h F.HOSE_CFG_ROLE = roleSource → s.m.hg h F.HOSE_STATE_STATE ≠ hoseSetup → (s.m.hx h).closing = false →
      ∃ m' : Ilpiac, exec (.hoseClose ring) s = .next { s with m := (m'.hoseSpill h).settle } ∧ m'.hg h F.HOSE_STATE_STATE = hoseTearing ∧
        m'.hx h = { s.m.hx h with closing := true, desc := some (d.ring, d.num) } ∧ m'.ctl.cpl = s.m.ctl.cpl)) ∧
  (∀ (h : Fin 4096),
    (∀ rn, s.m.hg h F.HOSE_CFG_ROLE = roleSource → (s.m.hx h).closing = true → (s.m.hx h).desc = some rn →
      ∃ m' : Ilpiac, exec (.hoseTearSend h) s = .next { s with m := m'.settle } ∧ m'.hg h F.HOSE_CFG_ROLE = roleFree ∧ m'.hx h = HoseX.init ∧
        m'.sw.closes = s.m.sw.closes ++ [(h.val, ((s.m.hx h).setupId, rn))] ∧ m'.ctl.cpl = s.m.ctl.cpl) ∧
    (∀ c d, s.m.sw.closes.find? (fun c => c.1 == h.val) = some c → s.m.ctl.descs.find? (fun d => d.ring == c.2.2.1 && d.num == c.2.2.2) = some d →
      ∃ m' : Ilpiac, exec (.hoseCloseTimeout h) s = .next { s with m := m'.settle } ∧ m'.sw.closes = s.m.sw.closes.filter (fun x => x != c) ∧
        m'.ctl.cpl = s.m.ctl.cpl ++ [d.record stTrunkLost]) ∧
    (s.m.hg h F.HOSE_CFG_ROLE = roleTransit ∨ s.m.hg h F.HOSE_CFG_ROLE = roleSink →
      ∃ m' : Ilpiac, exec (.hoseOrphanTimeout h) s = .next { s with m := m'.settle } ∧ m'.hg h F.HOSE_CFG_ROLE = roleFree ∧ m'.hx h = HoseX.init ∧
        m'.sw.queues = s.m.sw.queues) ∧
    (s.m.hg h F.HOSE_CFG_ROLE = roleSource → s.m.hg h F.HOSE_STATE_STATE = hoseActive → s.m.hoseOut h + 1 ≤ s.m.hg h F.HOSE_STATE_WINDOW_CELLS →
      ∃ m' : Ilpiac, exec (.hoseMarkTimer h) s = .next { s with m := m'.settle } ∧ m'.hg h F.HOSE_WIN_SENT = (s.m.hg h F.HOSE_WIN_SENT + 1) % 2 ^ 32 ∧
        m'.hg h F.HOSE_WIN_CONSUMED = s.m.hg h F.HOSE_WIN_CONSUMED) ∧
    (s.m.hg h F.HOSE_CFG_ROLE = roleSource → s.m.hg h F.HOSE_STATE_WINDOW_CELLS < s.m.hoseOut h + 1 →
      exec (.hoseMarkTimer h) s = .next { s with m := s.m.settle }) ∧
    (s.m.hg h F.HOSE_CFG_ROLE = roleSink →
      let c := s.m.hg h F.HOSE_WIN_CONSUMED
      ∃ m' : Ilpiac, exec (.hoseWindowTimer h) s = .next { s with m :=
          (m'.sendDatagram (m'.packet 0x6D 0 (s.m.hx h).srcBed [(s.m.hx h).setupId % 4096 + c * 2 ^ 32]) .shared).settle } ∧
        m'.hx h = { s.m.hx h with reported := c } ∧ m'.regs = s.m.regs)) ∧
  (∀ (port : Fin 262) (p : Packet), s.m.Admits port p → isTrunk port = true →
    let m1 := s.m.counted port p
    let h := p.f 1 0 12
    let out := 256 + m1.hg h F.HOSE_CFG_OUT_PORT
    (p.ty = 0x6A →
      (m1.hg h F.HOSE_CFG_ROLE = roleTransit →
        ∃ m' : Ilpiac, exec (.hoseTearReceived port p) s = .next { s with m := m'.settle } ∧ m'.hg h F.HOSE_CFG_ROLE = roleFree ∧ m'.hx h = HoseX.init) ∧
      (m1.hg h F.HOSE_CFG_ROLE = roleSink →
        ∃ m' : Ilpiac, exec (.hoseTearReceived port p) s = .next { s with m :=
            (m'.sendDatagram (m'.replyPacket p.srcBed 0 ((m1.hx h).setupId % 4096) 5 (m1.hx h).setupId) .shared).settle } ∧
          m'.hg h F.HOSE_CFG_ROLE = roleFree ∧ m'.hx h = HoseX.init)) ∧
    (p.ty = 0x6B →
      (m1.hg h F.HOSE_CFG_ROLE = roleTransit → m1.portUp out = false →
        ∃ m' : Ilpiac, exec (.hoseDataReceived port p true) s = .next { s with m := m'.settle } ∧ m'.sw = m1.sw ∧
          m'.hg h F.HOSE_COUNTS_DISCARDS = satAdd F.HOSE_COUNTS_DISCARDS.w (m1.hg h F.HOSE_COUNTS_DISCARDS) 1) ∧
      (m1.hg h F.HOSE_CFG_ROLE = roleTransit → m1.portUp out = true → m1.running 0 = true → m1.portFenced out = false →
        (∀ b ∈ m1.sw.buf, b.id < m1.sw.nextId) →
        ∃ m' : Ilpiac, ∃ b, exec (.hoseDataReceived port p true) s = .next { s with m := m'.settle } ∧ m'.bufPkt m1.sw.nextId = some b ∧ b.refs = 1 ∧ b.hose = some h ∧
          b.pkt.body = p.body ∧ b.pkt.f 1 0 12 = m1.hg h F.HOSE_CFG_NEXT_LABEL ∧
          m'.hg h F.HOSE_COUNTS_PACKETS = (m1.hg h F.HOSE_COUNTS_PACKETS + 1) % 2 ^ F.HOSE_COUNTS_PACKETS.w) ∧
      (m1.hg h F.HOSE_CFG_ROLE = roleSink →
        ∃ m' : Ilpiac, exec (.hoseDataReceived port p true) s = .next { s with m := (m'.hoseInner port h p).settle } ∧ m'.sw = m1.sw ∧
          m'.hg h F.HOSE_WIN_SENT = (m1.hg h F.HOSE_WIN_SENT + p.cells) % 2 ^ 32 ∧ m'.hg h F.HOSE_WIN_CONSUMED = m1.hg h F.HOSE_WIN_CONSUMED)) ∧
    (p.ty = 0x6C →
      (m1.hg h F.HOSE_CFG_ROLE = roleTransit → m1.portUp out = false →
        ∃ m' : Ilpiac, exec (.hoseMarkReceived port p) s = .next { s with m := m'.settle } ∧ m'.sw = m1.sw ∧
          m'.hg h F.HOSE_COUNTS_DISCARDS = satAdd F.HOSE_COUNTS_DISCARDS.w (m1.hg h F.HOSE_COUNTS_DISCARDS) 1) ∧
      (m1.hg h F.HOSE_CFG_ROLE = roleTransit → m1.portUp out = true → m1.running 0 = true → m1.portFenced out = false →
        (∀ b ∈ m1.sw.buf, b.id < m1.sw.nextId) →
        ∃ m' : Ilpiac, ∃ b, exec (.hoseMarkReceived port p) s = .next { s with m := m'.settle } ∧ m'.bufPkt m1.sw.nextId = some b ∧ b.refs = 1 ∧ b.hose = some h ∧
          b.pkt.f 1 0 12 = m1.hg h F.HOSE_CFG_NEXT_LABEL ∧ b.pkt.f 1 32 32 = p.f 1 32 32) ∧
      (m1.hg h F.HOSE_CFG_ROLE = roleSink →
        ∃ m' : Ilpiac, exec (.hoseMarkReceived port p) s = .next { s with m := m'.settle } ∧ m'.sw = m1.sw ∧ m'.hg h F.HOSE_WIN_SENT = p.f 1 32 32 ∧
          m'.hg h F.HOSE_WIN_CONSUMED = (m1.hg h F.HOSE_WIN_CONSUMED + (p.f 1 32 32 + 2 ^ 32 - m1.hg h F.HOSE_WIN_SENT)) % 2 ^ 32))) ∧
  (∀ (port : Fin 262) (p : Packet) m2 id b, s.m.Lands port p m2 id b → p.ty = 0x6D → p.dstBed = m2.bed →
    let h := p.f 1 0 12
    (m2.hg h F.HOSE_CFG_ROLE = roleSource → m2.hg h F.HOSE_CFG_DST_BED = p.srcBed →
      ∃ m' : Ilpiac, exec (.hoseWindowReceived port p) s = .next { s with m := ((m'.pumpHose h).movedOn id b).settle } ∧ m'.hg h F.HOSE_WIN_CONSUMED = p.f 1 32 32 ∧
        m'.sw = m2.sw) ∧
    (m2.hg h F.HOSE_CFG_ROLE ≠ roleSource → exec (.hoseWindowReceived port p) s = .next { s with m := (m2.movedOn id b).settle }))

/-- R362: with no link lost, a packet that leaves each bed by its route is at its destination after at most two hops in each dimension, from every bed of the plot and for every source
bed; and the route avoids every lost link that it names: a route that exists walks only links that are not lost. -/
def Obligations.RoutesArrive : Prop := ∀ (m : Ilpiac) (bed dest srcBed : Nat),
  (∀ d < 3, 1 ≤ m.extent d ∧ m.extent d ≤ 4 ∧ coord bed d < m.extent d ∧ coord dest d < m.extent d) → bed < 64 → dest < 64 →
  ((∀ b k, m.portLost b k = false) → ∃ n ≤ 6, m.follow dest srcBed n bed = dest) ∧
  (∀ r, m.routeVia bed dest srcBed [0, 1, 2] = some r → bed ≠ dest ∧ r.1 < 6 ∧ m.walkOk bed r.1 r.2 = true ∧ m.linkLost bed r.1 = false)
end

