-- ==== Sys2Proof/Laws/Map.lean ====
section
/-! SUPPORT. Laws of sparse tables and of byte memory: read after write, and the canonical form. -/

namespace Sys2Proof.Machine

variable {V : Type}

theorem Map.get_erase_ne (d : Nat → V) (l : List (Nat × V)) {k j : Nat} (h : j ≠ k) :
    Map.get d (Map.erase l k) j = Map.get d l j := by
  induction l with
  | nil => rfl
  | cons e l ih =>
    by_cases hk : e.1 = k
    · have : Map.erase (e :: l) k = Map.erase l k := by simp [Map.erase, hk]
      rw [this, ih, Map.get, if_neg (by omega)]
    · have : Map.erase (e :: l) k = e :: Map.erase l k := by simp [Map.erase, hk]
      rw [this, Map.get, Map.get, ih]

theorem Map.get_erase_self (d : Nat → V) (l : List (Nat × V)) (k : Nat) : Map.get d (Map.erase l k) k = d k := by
  induction l with
  | nil => rfl
  | cons e l ih =>
    by_cases hk : e.1 = k
    · have : Map.erase (e :: l) k = Map.erase l k := by simp [Map.erase, hk]
      rw [this, ih]
    · have : Map.erase (e :: l) k = e :: Map.erase l k := by simp [Map.erase, hk]
      rw [this, Map.get, if_neg hk, ih]

theorem Map.get_ins_ne (d : Nat → V) (l : List (Nat × V)) {k j : Nat} (v : V) (h : j ≠ k) :
    Map.get d (Map.ins l k v) j = Map.get d l j := by
  induction l with
  | nil => simp [Map.ins, Map.get]; omega
  | cons e l ih =>
    unfold Map.ins
    split
    · rw [Map.get, if_neg (by simp; omega)]
    · rw [Map.get, Map.get, ih]

theorem Map.get_ins_self (d : Nat → V) (l : List (Nat × V)) (k : Nat) (v : V) (h : ∀ e ∈ l, e.1 ≠ k) :
    Map.get d (Map.ins l k v) k = v := by
  induction l with
  | nil => simp [Map.ins, Map.get]
  | cons e l ih =>
    unfold Map.ins
    split
    · simp [Map.get]
    · rw [Map.get, if_neg (h e (by simp)), ih (fun x hx => h x (by simp [hx]))]

theorem Map.erase_ne (l : List (Nat × V)) (k : Nat) : ∀ e ∈ Map.erase l k, e.1 ≠ k := by
  intro e he
  simpa using (List.mem_filter.mp he).2

variable [DecidableEq V]

/-- Reading what was put. -/
@[simp] theorem Map.get_put_self (d : Nat → V) (l : List (Nat × V)) (k : Nat) (v : V) : Map.get d (Map.put d l k v) k = v := by
  unfold Map.put
  split
  · rw [Map.get_erase_self]; exact Eq.symm ‹_›
  · exact Map.get_ins_self d _ k v (Map.erase_ne l k)

/-- Every other index keeps what it held. -/
theorem Map.get_put_ne (d : Nat → V) (l : List (Nat × V)) {k j : Nat} (v : V) (h : j ≠ k) :
    Map.get d (Map.put d l k v) j = Map.get d l j := by
  unfold Map.put
  split
  · exact Map.get_erase_ne d l h
  · rw [Map.get_ins_ne d _ v h, Map.get_erase_ne d l h]

theorem Map.wf_cons (d : Nat → V) (e : Nat × V) (l : List (Nat × V)) :
    Map.wf d (e :: l) = true ↔ e.2 ≠ d e.1 ∧ (∀ x ∈ l, e.1 < x.1) ∧ Map.wf d l = true := by
  simp [Map.wf, and_assoc]

theorem Map.wf_filter (d : Nat → V) (p : Nat × V → Bool) {l : List (Nat × V)} (h : Map.wf d l = true) : Map.wf d (l.filter p) = true := by
  induction l with
  | nil => rfl
  | cons e l ih =>
    obtain ⟨h1, h2, h3⟩ := (Map.wf_cons d e l).mp h
    by_cases hp : p e = true
    · rw [List.filter_cons_of_pos hp]
      exact (Map.wf_cons d e _).mpr ⟨h1, fun x hx => h2 x (List.mem_filter.mp hx).1, ih h3⟩
    · rw [List.filter_cons_of_neg hp]; exact ih h3

theorem Map.wf_erase (d : Nat → V) {l : List (Nat × V)} (k : Nat) (h : Map.wf d l = true) : Map.wf d (Map.erase l k) = true :=
  Map.wf_filter d _ h

omit [DecidableEq V] in
theorem Map.mem_ins (l : List (Nat × V)) (k : Nat) (v : V) (x : Nat × V) (h : x ∈ Map.ins l k v) : x = (k, v) ∨ x ∈ l := by
  induction l with
  | nil => simpa [Map.ins] using h
  | cons e l ih =>
    unfold Map.ins at h
    split at h
    · simpa using h
    · rcases List.mem_cons.mp h with h | h
      · exact .inr (by simp [h])
      · rcases ih h with h | h
        · exact .inl h
        · exact .inr (by simp [h])

theorem Map.wf_ins (d : Nat → V) {l : List (Nat × V)} (k : Nat) (v : V) (hv : v ≠ d k) (h : Map.wf d l = true) (hk : ∀ e ∈ l, e.1 ≠ k) :
    Map.wf d (Map.ins l k v) = true := by
  induction l with
  | nil => simp [Map.ins, Map.wf, hv]
  | cons e l ih =>
    obtain ⟨h1, h2, h3⟩ := (Map.wf_cons d e l).mp h
    have hek := hk e (by simp)
    unfold Map.ins
    split
    · rename_i hlt
      refine (Map.wf_cons d _ _).mpr ⟨hv, ?_, h⟩
      intro x hx
      rcases List.mem_cons.mp hx with hx | hx
      · subst hx; exact hlt
      · exact Nat.lt_trans hlt (h2 x hx)
    · rename_i hlt
      refine (Map.wf_cons d _ _).mpr ⟨h1, ?_, ih h3 (fun x hx => hk x (by simp [hx]))⟩
      intro x hx
      rcases Map.mem_ins l k v x hx with hx | hx
      · subst hx; simp only; omega
      · exact h2 x hx

/-- A put keeps the canonical form. -/
theorem Map.wf_put (d : Nat → V) {l : List (Nat × V)} (k : Nat) (v : V) (h : Map.wf d l = true) : Map.wf d (Map.put d l k v) = true := by
  unfold Map.put
  split
  · exact Map.wf_erase d k h
  · exact Map.wf_ins d k v ‹_› (Map.wf_erase d k h) (Map.erase_ne l k)

/-! ### Byte memory -/

/-- A byte stored is the byte read. -/
@[simp] theorem Memory.byte_setByte_self (m : Memory) (a : Nat) (v : Byte) : (m.setByte a v).byte a = v := Map.get_put_self _ m a v

/-- Every other byte reads as before. -/
theorem Memory.byte_setByte_ne (m : Memory) {a b : Nat} (v : Byte) (h : b ≠ a) : (m.setByte a v).byte b = m.byte b := Map.get_put_ne _ m v h

theorem Memory.wf_setByte {m : Memory} (a : Nat) (v : Byte) (h : m.wf = true) : (m.setByte a v).wf = true := Map.wf_put _ a v h

/-- A byte string stored keeps the canonical form. -/
theorem Memory.wf_write {m : Memory} (a : Nat) (l : List Byte) (h : m.wf = true) : (m.write a l).wf = true := by
  induction l generalizing m a with
  | nil => exact h
  | cons b l ih => exact ih (a + 1) (Memory.wf_setByte a b h)

/-- Bytes outside the stored range read as before. -/
theorem Memory.byte_write_out (m : Memory) (a : Nat) (l : List Byte) {b : Nat} (h : b < a ∨ a + l.length ≤ b) :
    (m.write a l).byte b = m.byte b := by
  induction l generalizing m a with
  | nil => rfl
  | cons v l ih =>
    rw [List.length_cons] at h
    rw [Memory.write, ih _ _ (by omega), Memory.byte_setByte_ne _ _ (by omega)]

/-- The bytes of the stored range are the ones stored. -/
theorem Memory.byte_write_in (m : Memory) (a : Nat) (l : List Byte) (i : Nat) (h : i < l.length) :
    (m.write a l).byte (a + i) = l[i] := by
  induction l generalizing m a i with
  | nil => simp at h
  | cons v l ih =>
    cases i with
    | zero =>
      rw [Nat.add_zero, Memory.write, Memory.byte_write_out _ _ _ (.inl (Nat.lt_succ_self a)), Memory.byte_setByte_self]; rfl
    | succ i =>
      have h' : i < l.length := by simpa using h
      rw [Memory.write, show a + (i + 1) = a + 1 + i by omega, ih _ _ i h']; rfl

end Sys2Proof.Machine
end

