-- ==== Sys2Proof/Laws/State.lean ====
section
/-! SUPPORT. Laws of the register file and of fields of registers: read after write, what stays, and the canonical form. -/

namespace Sys2Proof.Machine

/-! ### Bit fields -/

theorem bits_lt (x lo w : Nat) : bits x lo w < 2 ^ w := Nat.mod_lt _ (Nat.two_pow_pos w)

/-- A field that was set reads as the value, cut to the field's width. -/
@[simp] theorem bits_setBits_self (x lo w v : Nat) : bits (setBits x lo w v) lo w = v % 2 ^ w := by
  unfold bits setBits
  have h1 : x % 2 ^ lo < 2 ^ lo := Nat.mod_lt _ (Nat.two_pow_pos lo)
  have h2 : x % 2 ^ lo + v % 2 ^ w * 2 ^ lo + x / 2 ^ (lo + w) * 2 ^ (lo + w) = x % 2 ^ lo + (v % 2 ^ w + x / 2 ^ (lo + w) * 2 ^ w) * 2 ^ lo := by
    rw [Nat.pow_add]; ring
  rw [h2, Nat.add_mul_div_right _ _ (Nat.two_pow_pos lo), Nat.div_eq_of_lt h1, Nat.zero_add, Nat.add_mul_mod_self_right, Nat.mod_mod]

/-- A field below the one that was set reads as before. -/
theorem bits_setBits_below (x lo w v lo' w' : Nat) (h : lo' + w' ≤ lo) : bits (setBits x lo w v) lo' w' = bits x lo' w' := by
  unfold bits setBits
  obtain ⟨d, rfl⟩ := Nat.exists_eq_add_of_le h
  have hx : x = x % 2 ^ (lo' + w' + d) + x / 2 ^ (lo' + w' + d) * 2 ^ (lo' + w' + d) := by
    rw [Nat.mul_comm]; exact (Nat.mod_add_div _ _).symm
  have key : ∀ y z : Nat, (y + z * 2 ^ (lo' + w' + d)) / 2 ^ lo' % 2 ^ w' = y / 2 ^ lo' % 2 ^ w' := by
    intro y z
    have : y + z * 2 ^ (lo' + w' + d) = y + z * 2 ^ d * 2 ^ w' * 2 ^ lo' := by simp only [Nat.pow_add]; ring
    rw [this, Nat.add_mul_div_right _ _ (Nat.two_pow_pos _), Nat.add_mul_mod_self_right]
  have e : x % 2 ^ (lo' + w' + d) + v % 2 ^ w * 2 ^ (lo' + w' + d) + x / 2 ^ (lo' + w' + d + w) * 2 ^ (lo' + w' + d + w) =
      x % 2 ^ (lo' + w' + d) + (v % 2 ^ w + x / 2 ^ (lo' + w' + d + w) * 2 ^ w) * 2 ^ (lo' + w' + d) := by
    rw [Nat.pow_add 2 (lo' + w' + d) w]; ring
  rw [e, key, ← key (x % _) (x / 2 ^ (lo' + w' + d)), ← hx]

/-- A field above the one that was set reads as before. -/
theorem bits_setBits_above (x lo w v lo' w' : Nat) (h : lo + w ≤ lo') : bits (setBits x lo w v) lo' w' = bits x lo' w' := by
  unfold bits setBits
  obtain ⟨d, rfl⟩ := Nat.exists_eq_add_of_le h
  have h1 : x % 2 ^ lo < 2 ^ lo := Nat.mod_lt _ (Nat.two_pow_pos lo)
  have h2 : v % 2 ^ w < 2 ^ w := Nat.mod_lt _ (Nat.two_pow_pos w)
  have h3 : x % 2 ^ lo + v % 2 ^ w * 2 ^ lo < 2 ^ (lo + w) := by
    rw [Nat.pow_add]
    calc x % 2 ^ lo + v % 2 ^ w * 2 ^ lo < 2 ^ lo + v % 2 ^ w * 2 ^ lo := by omega
      _ = (v % 2 ^ w + 1) * 2 ^ lo := by ring
      _ ≤ 2 ^ w * 2 ^ lo := Nat.mul_le_mul_right _ h2
      _ = 2 ^ lo * 2 ^ w := Nat.mul_comm _ _
  rw [Nat.pow_add 2 (lo + w) d, ← Nat.div_div_eq_div_mul, Nat.add_mul_div_right _ _ (Nat.two_pow_pos _), Nat.div_eq_of_lt h3, Nat.zero_add,
    Nat.div_div_eq_div_mul]

theorem setBits_lt (x lo w v n : Nat) (hx : x < 2 ^ n) (h : lo + w ≤ n) : setBits x lo w v < 2 ^ n := by
  unfold setBits
  obtain ⟨d, rfl⟩ := Nat.exists_eq_add_of_le h
  have h1 : x % 2 ^ lo < 2 ^ lo := Nat.mod_lt _ (Nat.two_pow_pos lo)
  have h2 : v % 2 ^ w < 2 ^ w := Nat.mod_lt _ (Nat.two_pow_pos w)
  have h3 : x % 2 ^ lo + v % 2 ^ w * 2 ^ lo < 2 ^ (lo + w) := by
    rw [Nat.pow_add]
    calc x % 2 ^ lo + v % 2 ^ w * 2 ^ lo < 2 ^ lo + v % 2 ^ w * 2 ^ lo := by omega
      _ = (v % 2 ^ w + 1) * 2 ^ lo := by ring
      _ ≤ 2 ^ w * 2 ^ lo := Nat.mul_le_mul_right _ h2
      _ = 2 ^ lo * 2 ^ w := Nat.mul_comm _ _
  have h4 : x / 2 ^ (lo + w) < 2 ^ d := by
    rw [Nat.div_lt_iff_lt_mul (Nat.two_pow_pos _), ← Nat.pow_add, Nat.add_comm]; exact hx
  calc _ < 2 ^ (lo + w) + x / 2 ^ (lo + w) * 2 ^ (lo + w) := by omega
    _ = (x / 2 ^ (lo + w) + 1) * 2 ^ (lo + w) := by ring
    _ ≤ 2 ^ d * 2 ^ (lo + w) := Nat.mul_le_mul_right _ h4
    _ = 2 ^ (lo + w + d) := by rw [← Nat.pow_add, Nat.add_comm]

/-! ### Registers -/

/-- A register that was set holds the value. -/
@[simp] theorem Ilpiac.reg_setReg_self (m : Ilpiac) (k : Nat) (v : Word) : (m.setReg k v).reg k = v := Map.get_put_self _ _ _ _

/-- Every other register keeps its value. -/
theorem Ilpiac.reg_setReg_ne (m : Ilpiac) {k j : Nat} (v : Word) (h : j ≠ k) : (m.setReg k v).reg j = m.reg j := Map.get_put_ne _ _ _ h

/-- Setting a register keeps the canonical form. -/
theorem Ilpiac.canon_setReg {m : Ilpiac} (k : Nat) (v : Word) (h : m.Canon) : (m.setReg k v).Canon := ⟨Map.wf_put _ k v h.regs, h.mem⟩

/-- A field that was set reads as the value, cut to the field's width. -/
theorem Ilpiac.rd_wr_self (m : Ilpiac) (b : Blk) (n : Nat) (f : Fld) (v j : Nat) (h : f.lo + f.w ≤ 64) :
    (m.wr b n f v j).rd b n f j = v % 2 ^ f.w := by
  unfold Ilpiac.rd Ilpiac.wr
  rw [Ilpiac.reg_setReg_self, BitVec.toNat_ofNat, Nat.mod_eq_of_lt (setBits_lt _ _ _ _ 64 (BitVec.isLt _) h), bits_setBits_self]

/-- A field of another register reads as before. -/
theorem Ilpiac.rd_wr_ne (m : Ilpiac) (b b' : Blk) (n n' : Nat) (f f' : Fld) (v j j' : Nat) (h : f'.key b' n' j' ≠ f.key b n j) :
    (m.wr b n f v j).rd b' n' f' j' = m.rd b' n' f' j' := by
  unfold Ilpiac.rd Ilpiac.wr
  rw [Ilpiac.reg_setReg_ne _ _ h]

/-- Another field of the register reads as before. -/
theorem Ilpiac.rd_wr_disj (m : Ilpiac) (b b' : Blk) (n n' : Nat) (f f' : Fld) (v j j' : Nat) (h : f'.key b' n' j' = f.key b n j)
    (hd : f'.lo + f'.w ≤ f.lo ∨ f.lo + f.w ≤ f'.lo) (hf : f.lo + f.w ≤ 64) :
    (m.wr b n f v j).rd b' n' f' j' = m.rd b' n' f' j' := by
  unfold Ilpiac.rd Ilpiac.wr
  rw [h, Ilpiac.reg_setReg_self, BitVec.toNat_ofNat, Nat.mod_eq_of_lt (setBits_lt _ _ _ _ 64 (BitVec.isLt _) hf)]
  rcases hd with hd | hd
  · exact bits_setBits_below _ _ _ _ _ _ hd
  · exact bits_setBits_above _ _ _ _ _ _ hd

/-- Every other register keeps its value when a field is set. -/
theorem Ilpiac.reg_wr_ne (m : Ilpiac) (b : Blk) (n : Nat) (f : Fld) (v j k : Nat) (h : k ≠ f.key b n j) :
    (m.wr b n f v j).reg k = m.reg k := Ilpiac.reg_setReg_ne _ _ h

theorem Ilpiac.canon_wr {m : Ilpiac} (b : Blk) (n : Nat) (f : Fld) (v j : Nat) (h : m.Canon) : (m.wr b n f v j).Canon := Ilpiac.canon_setReg _ _ h

/-- A field of a register at a fixed offset that was set reads as the value. -/
theorem Ilpiac.g_gw_self (m : Ilpiac) (f : Fld) (v j : Nat) (h : f.lo + f.w ≤ 64) : (m.gw f v j).g f j = v % 2 ^ f.w :=
  Ilpiac.rd_wr_self m _ _ f v j h

/-- Whether two fields, of array elements `j` and `j'`, share no bit: other registers, or bits apart. -/
def Fld.apart (f : Fld) (j : Nat) (f' : Fld) (j' : Nat) : Bool :=
  f.off + j * f.stride != f'.off + j' * f'.stride || decide (f'.lo + f'.w ≤ f.lo) || decide (f.lo + f.w ≤ f'.lo)

/-- A field that shares no bit with the one that was set reads as before. -/
theorem Ilpiac.g_gw_apart (m : Ilpiac) (f f' : Fld) (v j j' : Nat) (h : Fld.apart f j f' j' = true) (hf : f.lo + f.w ≤ 64) :
    (m.gw f v j).g f' j' = m.g f' j' := by
  by_cases hk : f'.key .glob 0 j' = f.key .glob 0 j
  · refine Ilpiac.rd_wr_disj m _ _ _ _ f f' v j j' hk ?_ hf
    simp only [Fld.apart, Bool.or_eq_true, bne_iff_ne, ne_eq, decide_eq_true_eq] at h
    simp only [Fld.key] at hk
    omega
  · exact Ilpiac.rd_wr_ne m _ _ _ _ f f' v j j' hk

/-! ### What a register leaves alone -/

section
variable (m : Ilpiac) (k : Nat) (v : Word)
@[simp] theorem Ilpiac.setReg_clk : (m.setReg k v).clk = m.clk := (rfl)
@[simp] theorem Ilpiac.setReg_free : (m.setReg k v).free = m.free := (rfl)
@[simp] theorem Ilpiac.setReg_ctl : (m.setReg k v).ctl = m.ctl := (rfl)
@[simp] theorem Ilpiac.setReg_flt : (m.setReg k v).flt = m.flt := (rfl)
@[simp] theorem Ilpiac.setReg_twin : (m.setReg k v).twin = m.twin := (rfl)
@[simp] theorem Ilpiac.setReg_sw : (m.setReg k v).sw = m.sw := (rfl)
@[simp] theorem Ilpiac.setReg_coll : (m.setReg k v).coll = m.coll := (rfl)
@[simp] theorem Ilpiac.setReg_trellis : (m.setReg k v).trellis = m.trellis := (rfl)
@[simp] theorem Ilpiac.setReg_hbm : (m.setReg k v).hbm = m.hbm := (rfl)
@[simp] theorem Ilpiac.setReg_groups : (m.setReg k v).groups = m.groups := (rfl)
@[simp] theorem Ilpiac.setReg_lanes : (m.setReg k v).lanes = m.lanes := (rfl)
@[simp] theorem Ilpiac.setReg_links : (m.setReg k v).links = m.links := (rfl)
@[simp] theorem Ilpiac.setReg_sync : (m.setReg k v).sync = m.sync := (rfl)
@[simp] theorem Ilpiac.setReg_time : (m.setReg k v).time = m.time := (rfl)
@[simp] theorem Ilpiac.setReg_record : (m.setReg k v).record = m.record := (rfl)
@[simp] theorem Ilpiac.setReg_power : (m.setReg k v).power = m.power := (rfl)
@[simp] theorem Ilpiac.setReg_boot : (m.setReg k v).boot = m.boot := (rfl)
end

section
variable (m : Ilpiac) (b : Blk) (n : Nat) (f : Fld) (v j : Nat)
@[simp] theorem Ilpiac.wr_clk : (m.wr b n f v j).clk = m.clk := (rfl)
@[simp] theorem Ilpiac.wr_free : (m.wr b n f v j).free = m.free := (rfl)
@[simp] theorem Ilpiac.wr_ctl : (m.wr b n f v j).ctl = m.ctl := (rfl)
@[simp] theorem Ilpiac.wr_flt : (m.wr b n f v j).flt = m.flt := (rfl)
@[simp] theorem Ilpiac.wr_twin : (m.wr b n f v j).twin = m.twin := (rfl)
@[simp] theorem Ilpiac.wr_sw : (m.wr b n f v j).sw = m.sw := (rfl)
@[simp] theorem Ilpiac.wr_coll : (m.wr b n f v j).coll = m.coll := (rfl)
@[simp] theorem Ilpiac.wr_trellis : (m.wr b n f v j).trellis = m.trellis := (rfl)
@[simp] theorem Ilpiac.wr_hbm : (m.wr b n f v j).hbm = m.hbm := (rfl)
@[simp] theorem Ilpiac.wr_groups : (m.wr b n f v j).groups = m.groups := (rfl)
@[simp] theorem Ilpiac.wr_lanes : (m.wr b n f v j).lanes = m.lanes := (rfl)
@[simp] theorem Ilpiac.wr_links : (m.wr b n f v j).links = m.links := (rfl)
@[simp] theorem Ilpiac.wr_sync : (m.wr b n f v j).sync = m.sync := (rfl)
@[simp] theorem Ilpiac.wr_time : (m.wr b n f v j).time = m.time := (rfl)
@[simp] theorem Ilpiac.wr_record : (m.wr b n f v j).record = m.record := (rfl)
@[simp] theorem Ilpiac.wr_power : (m.wr b n f v j).power = m.power := (rfl)
@[simp] theorem Ilpiac.wr_boot : (m.wr b n f v j).boot = m.boot := (rfl)
end

section
variable (m : Ilpiac) (f : Fld) (v j : Nat)
@[simp] theorem Ilpiac.gw_clk : (m.gw f v j).clk = m.clk := (rfl)
@[simp] theorem Ilpiac.gw_free : (m.gw f v j).free = m.free := (rfl)
@[simp] theorem Ilpiac.gw_ctl : (m.gw f v j).ctl = m.ctl := (rfl)
@[simp] theorem Ilpiac.gw_flt : (m.gw f v j).flt = m.flt := (rfl)
@[simp] theorem Ilpiac.gw_twin : (m.gw f v j).twin = m.twin := (rfl)
@[simp] theorem Ilpiac.gw_sw : (m.gw f v j).sw = m.sw := (rfl)
@[simp] theorem Ilpiac.gw_coll : (m.gw f v j).coll = m.coll := (rfl)
@[simp] theorem Ilpiac.gw_trellis : (m.gw f v j).trellis = m.trellis := (rfl)
@[simp] theorem Ilpiac.gw_hbm : (m.gw f v j).hbm = m.hbm := (rfl)
@[simp] theorem Ilpiac.gw_groups : (m.gw f v j).groups = m.groups := (rfl)
@[simp] theorem Ilpiac.gw_lanes : (m.gw f v j).lanes = m.lanes := (rfl)
@[simp] theorem Ilpiac.gw_links : (m.gw f v j).links = m.links := (rfl)
@[simp] theorem Ilpiac.gw_sync : (m.gw f v j).sync = m.sync := (rfl)
@[simp] theorem Ilpiac.gw_time : (m.gw f v j).time = m.time := (rfl)
@[simp] theorem Ilpiac.gw_record : (m.gw f v j).record = m.record := (rfl)
@[simp] theorem Ilpiac.gw_power : (m.gw f v j).power = m.power := (rfl)
@[simp] theorem Ilpiac.gw_boot : (m.gw f v j).boot = m.boot := (rfl)
end

/-- Setting fields changes nothing but the register file. -/
theorem Ilpiac.wr_eq (m : Ilpiac) (b : Blk) (n : Nat) (f : Fld) (v j : Nat) : m.wr b n f v j = { m with regs := (m.wr b n f v j).regs } := rfl

/-! ### Settling -/

/-- A block in which nothing waits stays as it is. -/
theorem Ilpiac.settle_quiet {m : Ilpiac} (h : m.quiet = true) : m.settle = m := if_pos h

/-- What a command answers when nothing follows from it. -/
theorem ran_quiet (s : State) {m : Ilpiac} (h : m.quiet = true) : ran s m = .next { s with m := m } := by
  rw [ran, Ilpiac.settle_quiet h]

end Sys2Proof.Machine
end

