-- ==== Sys2Proof/Laws/Ops.lean ====
section
/-! SUPPORT. Laws of the shared operations: what each of them leaves alone, a conjunction that simp takes part by part, and what the operations that
send and report do. -/

namespace Sys2Proof.Machine

/-! ### Iterated operations keep what each step keeps -/

@[simp] theorem Ilpiac.foldl_regs {α : Type} (f : Ilpiac → α → Ilpiac) (l : List α) (m : Ilpiac) (h : ∀ m a, (f m a).regs = m.regs) : (l.foldl f
      m).regs = m.regs := by
  induction l generalizing m with
  | nil => rfl
  | cons a l ih => rw [List.foldl_cons, ih, h]
@[simp] theorem Ilpiac.over_regs {α : Type} (f : Ilpiac → α → Ilpiac) (l : List α) (m : Ilpiac) (h : ∀ m a, (f m a).regs = m.regs) : (m.over l f).regs
      = m.regs :=
  Ilpiac.foldl_regs f l m h

@[simp] theorem Ilpiac.foldl_clk {α : Type} (f : Ilpiac → α → Ilpiac) (l : List α) (m : Ilpiac) (h : ∀ m a, (f m a).clk = m.clk) : (l.foldl f m).clk =
      m.clk := by
  induction l generalizing m with
  | nil => rfl
  | cons a l ih => rw [List.foldl_cons, ih, h]
@[simp] theorem Ilpiac.over_clk {α : Type} (f : Ilpiac → α → Ilpiac) (l : List α) (m : Ilpiac) (h : ∀ m a, (f m a).clk = m.clk) : (m.over l f).clk =
      m.clk :=
  Ilpiac.foldl_clk f l m h

@[simp] theorem Ilpiac.foldl_free {α : Type} (f : Ilpiac → α → Ilpiac) (l : List α) (m : Ilpiac) (h : ∀ m a, (f m a).free = m.free) : (l.foldl f
      m).free = m.free := by
  induction l generalizing m with
  | nil => rfl
  | cons a l ih => rw [List.foldl_cons, ih, h]
@[simp] theorem Ilpiac.over_free {α : Type} (f : Ilpiac → α → Ilpiac) (l : List α) (m : Ilpiac) (h : ∀ m a, (f m a).free = m.free) : (m.over l f).free
      = m.free :=
  Ilpiac.foldl_free f l m h

@[simp] theorem Ilpiac.foldl_ctl {α : Type} (f : Ilpiac → α → Ilpiac) (l : List α) (m : Ilpiac) (h : ∀ m a, (f m a).ctl = m.ctl) : (l.foldl f m).ctl =
      m.ctl := by
  induction l generalizing m with
  | nil => rfl
  | cons a l ih => rw [List.foldl_cons, ih, h]
@[simp] theorem Ilpiac.over_ctl {α : Type} (f : Ilpiac → α → Ilpiac) (l : List α) (m : Ilpiac) (h : ∀ m a, (f m a).ctl = m.ctl) : (m.over l f).ctl =
      m.ctl :=
  Ilpiac.foldl_ctl f l m h

@[simp] theorem Ilpiac.foldl_flt {α : Type} (f : Ilpiac → α → Ilpiac) (l : List α) (m : Ilpiac) (h : ∀ m a, (f m a).flt = m.flt) : (l.foldl f m).flt =
      m.flt := by
  induction l generalizing m with
  | nil => rfl
  | cons a l ih => rw [List.foldl_cons, ih, h]
@[simp] theorem Ilpiac.over_flt {α : Type} (f : Ilpiac → α → Ilpiac) (l : List α) (m : Ilpiac) (h : ∀ m a, (f m a).flt = m.flt) : (m.over l f).flt =
      m.flt :=
  Ilpiac.foldl_flt f l m h

@[simp] theorem Ilpiac.foldl_twin {α : Type} (f : Ilpiac → α → Ilpiac) (l : List α) (m : Ilpiac) (h : ∀ m a, (f m a).twin = m.twin) : (l.foldl f
      m).twin = m.twin := by
  induction l generalizing m with
  | nil => rfl
  | cons a l ih => rw [List.foldl_cons, ih, h]
@[simp] theorem Ilpiac.over_twin {α : Type} (f : Ilpiac → α → Ilpiac) (l : List α) (m : Ilpiac) (h : ∀ m a, (f m a).twin = m.twin) : (m.over l f).twin
      = m.twin :=
  Ilpiac.foldl_twin f l m h

@[simp] theorem Ilpiac.foldl_sw {α : Type} (f : Ilpiac → α → Ilpiac) (l : List α) (m : Ilpiac) (h : ∀ m a, (f m a).sw = m.sw) : (l.foldl f m).sw =
      m.sw := by
  induction l generalizing m with
  | nil => rfl
  | cons a l ih => rw [List.foldl_cons, ih, h]
@[simp] theorem Ilpiac.over_sw {α : Type} (f : Ilpiac → α → Ilpiac) (l : List α) (m : Ilpiac) (h : ∀ m a, (f m a).sw = m.sw) : (m.over l f).sw = m.sw
      :=
  Ilpiac.foldl_sw f l m h

@[simp] theorem Ilpiac.foldl_coll {α : Type} (f : Ilpiac → α → Ilpiac) (l : List α) (m : Ilpiac) (h : ∀ m a, (f m a).coll = m.coll) : (l.foldl f
      m).coll = m.coll := by
  induction l generalizing m with
  | nil => rfl
  | cons a l ih => rw [List.foldl_cons, ih, h]
@[simp] theorem Ilpiac.over_coll {α : Type} (f : Ilpiac → α → Ilpiac) (l : List α) (m : Ilpiac) (h : ∀ m a, (f m a).coll = m.coll) : (m.over l f).coll
      = m.coll :=
  Ilpiac.foldl_coll f l m h

@[simp] theorem Ilpiac.foldl_trellis {α : Type} (f : Ilpiac → α → Ilpiac) (l : List α) (m : Ilpiac) (h : ∀ m a, (f m a).trellis = m.trellis) :
      (l.foldl f m).trellis = m.trellis := by
  induction l generalizing m with
  | nil => rfl
  | cons a l ih => rw [List.foldl_cons, ih, h]
@[simp] theorem Ilpiac.over_trellis {α : Type} (f : Ilpiac → α → Ilpiac) (l : List α) (m : Ilpiac) (h : ∀ m a, (f m a).trellis = m.trellis) : (m.over
      l f).trellis = m.trellis :=
  Ilpiac.foldl_trellis f l m h

@[simp] theorem Ilpiac.foldl_hbm {α : Type} (f : Ilpiac → α → Ilpiac) (l : List α) (m : Ilpiac) (h : ∀ m a, (f m a).hbm = m.hbm) : (l.foldl f m).hbm =
      m.hbm := by
  induction l generalizing m with
  | nil => rfl
  | cons a l ih => rw [List.foldl_cons, ih, h]
@[simp] theorem Ilpiac.over_hbm {α : Type} (f : Ilpiac → α → Ilpiac) (l : List α) (m : Ilpiac) (h : ∀ m a, (f m a).hbm = m.hbm) : (m.over l f).hbm =
      m.hbm :=
  Ilpiac.foldl_hbm f l m h

@[simp] theorem Ilpiac.foldl_groups {α : Type} (f : Ilpiac → α → Ilpiac) (l : List α) (m : Ilpiac) (h : ∀ m a, (f m a).groups = m.groups) : (l.foldl f
      m).groups = m.groups := by
  induction l generalizing m with
  | nil => rfl
  | cons a l ih => rw [List.foldl_cons, ih, h]
@[simp] theorem Ilpiac.over_groups {α : Type} (f : Ilpiac → α → Ilpiac) (l : List α) (m : Ilpiac) (h : ∀ m a, (f m a).groups = m.groups) : (m.over l
      f).groups = m.groups :=
  Ilpiac.foldl_groups f l m h

@[simp] theorem Ilpiac.foldl_lanes {α : Type} (f : Ilpiac → α → Ilpiac) (l : List α) (m : Ilpiac) (h : ∀ m a, (f m a).lanes = m.lanes) : (l.foldl f
      m).lanes = m.lanes := by
  induction l generalizing m with
  | nil => rfl
  | cons a l ih => rw [List.foldl_cons, ih, h]
@[simp] theorem Ilpiac.over_lanes {α : Type} (f : Ilpiac → α → Ilpiac) (l : List α) (m : Ilpiac) (h : ∀ m a, (f m a).lanes = m.lanes) : (m.over l
      f).lanes = m.lanes :=
  Ilpiac.foldl_lanes f l m h

@[simp] theorem Ilpiac.foldl_links {α : Type} (f : Ilpiac → α → Ilpiac) (l : List α) (m : Ilpiac) (h : ∀ m a, (f m a).links = m.links) : (l.foldl f
      m).links = m.links := by
  induction l generalizing m with
  | nil => rfl
  | cons a l ih => rw [List.foldl_cons, ih, h]
@[simp] theorem Ilpiac.over_links {α : Type} (f : Ilpiac → α → Ilpiac) (l : List α) (m : Ilpiac) (h : ∀ m a, (f m a).links = m.links) : (m.over l
      f).links = m.links :=
  Ilpiac.foldl_links f l m h

@[simp] theorem Ilpiac.foldl_sync {α : Type} (f : Ilpiac → α → Ilpiac) (l : List α) (m : Ilpiac) (h : ∀ m a, (f m a).sync = m.sync) : (l.foldl f
      m).sync = m.sync := by
  induction l generalizing m with
  | nil => rfl
  | cons a l ih => rw [List.foldl_cons, ih, h]
@[simp] theorem Ilpiac.over_sync {α : Type} (f : Ilpiac → α → Ilpiac) (l : List α) (m : Ilpiac) (h : ∀ m a, (f m a).sync = m.sync) : (m.over l f).sync
      = m.sync :=
  Ilpiac.foldl_sync f l m h

@[simp] theorem Ilpiac.foldl_time {α : Type} (f : Ilpiac → α → Ilpiac) (l : List α) (m : Ilpiac) (h : ∀ m a, (f m a).time = m.time) : (l.foldl f
      m).time = m.time := by
  induction l generalizing m with
  | nil => rfl
  | cons a l ih => rw [List.foldl_cons, ih, h]
@[simp] theorem Ilpiac.over_time {α : Type} (f : Ilpiac → α → Ilpiac) (l : List α) (m : Ilpiac) (h : ∀ m a, (f m a).time = m.time) : (m.over l f).time
      = m.time :=
  Ilpiac.foldl_time f l m h

@[simp] theorem Ilpiac.foldl_record {α : Type} (f : Ilpiac → α → Ilpiac) (l : List α) (m : Ilpiac) (h : ∀ m a, (f m a).record = m.record) : (l.foldl f
      m).record = m.record := by
  induction l generalizing m with
  | nil => rfl
  | cons a l ih => rw [List.foldl_cons, ih, h]
@[simp] theorem Ilpiac.over_record {α : Type} (f : Ilpiac → α → Ilpiac) (l : List α) (m : Ilpiac) (h : ∀ m a, (f m a).record = m.record) : (m.over l
      f).record = m.record :=
  Ilpiac.foldl_record f l m h

@[simp] theorem Ilpiac.foldl_power {α : Type} (f : Ilpiac → α → Ilpiac) (l : List α) (m : Ilpiac) (h : ∀ m a, (f m a).power = m.power) : (l.foldl f
      m).power = m.power := by
  induction l generalizing m with
  | nil => rfl
  | cons a l ih => rw [List.foldl_cons, ih, h]
@[simp] theorem Ilpiac.over_power {α : Type} (f : Ilpiac → α → Ilpiac) (l : List α) (m : Ilpiac) (h : ∀ m a, (f m a).power = m.power) : (m.over l
      f).power = m.power :=
  Ilpiac.foldl_power f l m h

@[simp] theorem Ilpiac.foldl_boot {α : Type} (f : Ilpiac → α → Ilpiac) (l : List α) (m : Ilpiac) (h : ∀ m a, (f m a).boot = m.boot) : (l.foldl f
      m).boot = m.boot := by
  induction l generalizing m with
  | nil => rfl
  | cons a l ih => rw [List.foldl_cons, ih, h]
@[simp] theorem Ilpiac.over_boot {α : Type} (f : Ilpiac → α → Ilpiac) (l : List α) (m : Ilpiac) (h : ∀ m a, (f m a).boot = m.boot) : (m.over l f).boot
      = m.boot :=
  Ilpiac.foldl_boot f l m h

/-! ### The frame of each shared operation -/

@[simp] theorem Ilpiac.hw_frame (m : Ilpiac) (h : Nat) (f : Fld) (v : Nat) :
    (Ilpiac.hw m h f v).clk = m.clk ∧ (Ilpiac.hw m h f v).free = m.free ∧ (Ilpiac.hw m h f v).ctl = m.ctl ∧ (Ilpiac.hw m h f v).flt = m.flt ∧
      (Ilpiac.hw m h f v).twin = m.twin ∧ (Ilpiac.hw m h f v).sw = m.sw ∧ (Ilpiac.hw m h f v).coll = m.coll ∧ (Ilpiac.hw m h f v).trellis = m.trellis
      ∧ (Ilpiac.hw m h f v).hbm = m.hbm ∧ (Ilpiac.hw m h f v).groups = m.groups ∧ (Ilpiac.hw m h f v).lanes = m.lanes ∧ (Ilpiac.hw m h f v).links =
      m.links ∧ (Ilpiac.hw m h f v).sync = m.sync ∧ (Ilpiac.hw m h f v).time = m.time ∧ (Ilpiac.hw m h f v).record = m.record ∧ (Ilpiac.hw m h f
      v).power = m.power ∧ (Ilpiac.hw m h f v).boot = m.boot := by
  unfold Ilpiac.hw; (try dsimp only); (repeat' split) <;> simp

@[simp] theorem Ilpiac.setLines_frame (m : Ilpiac) (l : List CacheLine) :
    (Ilpiac.setLines m l).regs = m.regs ∧ (Ilpiac.setLines m l).clk = m.clk ∧ (Ilpiac.setLines m l).free = m.free ∧ (Ilpiac.setLines m l).ctl = m.ctl
      ∧ (Ilpiac.setLines m l).flt = m.flt ∧ (Ilpiac.setLines m l).twin = m.twin ∧ (Ilpiac.setLines m l).sw = m.sw ∧ (Ilpiac.setLines m l).coll =
      m.coll ∧ (Ilpiac.setLines m l).trellis = m.trellis ∧ (Ilpiac.setLines m l).groups = m.groups ∧ (Ilpiac.setLines m l).lanes = m.lanes ∧
      (Ilpiac.setLines m l).links = m.links ∧ (Ilpiac.setLines m l).sync = m.sync ∧ (Ilpiac.setLines m l).time = m.time ∧ (Ilpiac.setLines m l).record
      = m.record ∧ (Ilpiac.setLines m l).power = m.power ∧ (Ilpiac.setLines m l).boot = m.boot := by
  unfold Ilpiac.setLines; (try dsimp only); (repeat' split) <;> simp

@[simp] theorem Ilpiac.dropLine_frame (m : Ilpiac) (line : Nat) :
    (Ilpiac.dropLine m line).regs = m.regs ∧ (Ilpiac.dropLine m line).clk = m.clk ∧ (Ilpiac.dropLine m line).free = m.free ∧ (Ilpiac.dropLine m
      line).ctl = m.ctl ∧ (Ilpiac.dropLine m line).flt = m.flt ∧ (Ilpiac.dropLine m line).twin = m.twin ∧ (Ilpiac.dropLine m line).sw = m.sw ∧
      (Ilpiac.dropLine m line).coll = m.coll ∧ (Ilpiac.dropLine m line).trellis = m.trellis ∧ (Ilpiac.dropLine m line).groups = m.groups ∧
      (Ilpiac.dropLine m line).lanes = m.lanes ∧ (Ilpiac.dropLine m line).links = m.links ∧ (Ilpiac.dropLine m line).sync = m.sync ∧ (Ilpiac.dropLine
      m line).time = m.time ∧ (Ilpiac.dropLine m line).record = m.record ∧ (Ilpiac.dropLine m line).power = m.power ∧ (Ilpiac.dropLine m line).boot =
      m.boot := by
  unfold Ilpiac.dropLine; (try dsimp only); (repeat' split) <;> simp

@[simp] theorem Ilpiac.touch_frame (m : Ilpiac) (c : CacheLine) :
    (Ilpiac.touch m c).regs = m.regs ∧ (Ilpiac.touch m c).clk = m.clk ∧ (Ilpiac.touch m c).free = m.free ∧ (Ilpiac.touch m c).ctl = m.ctl ∧
      (Ilpiac.touch m c).flt = m.flt ∧ (Ilpiac.touch m c).twin = m.twin ∧ (Ilpiac.touch m c).sw = m.sw ∧ (Ilpiac.touch m c).coll = m.coll ∧
      (Ilpiac.touch m c).trellis = m.trellis ∧ (Ilpiac.touch m c).groups = m.groups ∧ (Ilpiac.touch m c).lanes = m.lanes ∧ (Ilpiac.touch m c).links =
      m.links ∧ (Ilpiac.touch m c).sync = m.sync ∧ (Ilpiac.touch m c).time = m.time ∧ (Ilpiac.touch m c).record = m.record ∧ (Ilpiac.touch m c).power
      = m.power ∧ (Ilpiac.touch m c).boot = m.boot := by
  unfold Ilpiac.touch; (try dsimp only); (repeat' split) <;> simp

@[simp] theorem Ilpiac.vin_frame (m : Ilpiac) (mv : Nat) :
    (Ilpiac.vin m mv).clk = m.clk ∧ (Ilpiac.vin m mv).free = m.free ∧ (Ilpiac.vin m mv).ctl = m.ctl ∧ (Ilpiac.vin m mv).flt = m.flt ∧ (Ilpiac.vin m
      mv).twin = m.twin ∧ (Ilpiac.vin m mv).sw = m.sw ∧ (Ilpiac.vin m mv).coll = m.coll ∧ (Ilpiac.vin m mv).trellis = m.trellis ∧ (Ilpiac.vin m
      mv).hbm = m.hbm ∧ (Ilpiac.vin m mv).groups = m.groups ∧ (Ilpiac.vin m mv).lanes = m.lanes ∧ (Ilpiac.vin m mv).links = m.links ∧ (Ilpiac.vin m
      mv).sync = m.sync ∧ (Ilpiac.vin m mv).time = m.time ∧ (Ilpiac.vin m mv).record = m.record ∧ (Ilpiac.vin m mv).power = m.power ∧ (Ilpiac.vin m
      mv).boot = m.boot := by
  unfold Ilpiac.vin; (try dsimp only); (repeat' split) <;> simp

@[simp] theorem Ilpiac.setPort_frame (m : Ilpiac) (p : Nat) (x : PortX) :
    (Ilpiac.setPort m p x).regs = m.regs ∧ (Ilpiac.setPort m p x).clk = m.clk ∧ (Ilpiac.setPort m p x).free = m.free ∧ (Ilpiac.setPort m p x).ctl =
      m.ctl ∧ (Ilpiac.setPort m p x).flt = m.flt ∧ (Ilpiac.setPort m p x).twin = m.twin ∧ (Ilpiac.setPort m p x).coll = m.coll ∧ (Ilpiac.setPort m p
      x).trellis = m.trellis ∧ (Ilpiac.setPort m p x).hbm = m.hbm ∧ (Ilpiac.setPort m p x).groups = m.groups ∧ (Ilpiac.setPort m p x).lanes = m.lanes
      ∧ (Ilpiac.setPort m p x).links = m.links ∧ (Ilpiac.setPort m p x).sync = m.sync ∧ (Ilpiac.setPort m p x).time = m.time ∧ (Ilpiac.setPort m p
      x).record = m.record ∧ (Ilpiac.setPort m p x).power = m.power ∧ (Ilpiac.setPort m p x).boot = m.boot := by
  unfold Ilpiac.setPort; (try dsimp only); (repeat' split) <;> simp

@[simp] theorem Ilpiac.setCls_frame (m : Ilpiac) (p c : Nat) (x : ClassX) :
    (Ilpiac.setCls m p c x).regs = m.regs ∧ (Ilpiac.setCls m p c x).clk = m.clk ∧ (Ilpiac.setCls m p c x).free = m.free ∧ (Ilpiac.setCls m p c x).ctl
      = m.ctl ∧ (Ilpiac.setCls m p c x).flt = m.flt ∧ (Ilpiac.setCls m p c x).twin = m.twin ∧ (Ilpiac.setCls m p c x).coll = m.coll ∧ (Ilpiac.setCls m
      p c x).trellis = m.trellis ∧ (Ilpiac.setCls m p c x).hbm = m.hbm ∧ (Ilpiac.setCls m p c x).groups = m.groups ∧ (Ilpiac.setCls m p c x).lanes =
      m.lanes ∧ (Ilpiac.setCls m p c x).links = m.links ∧ (Ilpiac.setCls m p c x).sync = m.sync ∧ (Ilpiac.setCls m p c x).time = m.time ∧
      (Ilpiac.setCls m p c x).record = m.record ∧ (Ilpiac.setCls m p c x).power = m.power ∧ (Ilpiac.setCls m p c x).boot = m.boot := by
  unfold Ilpiac.setCls; (try dsimp only); (repeat' split) <;> simp

@[simp] theorem Ilpiac.landFree_frame (m : Ilpiac) (b : BufPkt) :
    (Ilpiac.landFree m b).regs = m.regs ∧ (Ilpiac.landFree m b).clk = m.clk ∧ (Ilpiac.landFree m b).free = m.free ∧ (Ilpiac.landFree m b).ctl = m.ctl
      ∧ (Ilpiac.landFree m b).flt = m.flt ∧ (Ilpiac.landFree m b).twin = m.twin ∧ (Ilpiac.landFree m b).coll = m.coll ∧ (Ilpiac.landFree m b).trellis
      = m.trellis ∧ (Ilpiac.landFree m b).hbm = m.hbm ∧ (Ilpiac.landFree m b).groups = m.groups ∧ (Ilpiac.landFree m b).lanes = m.lanes ∧
      (Ilpiac.landFree m b).links = m.links ∧ (Ilpiac.landFree m b).sync = m.sync ∧ (Ilpiac.landFree m b).time = m.time ∧ (Ilpiac.landFree m b).record
      = m.record ∧ (Ilpiac.landFree m b).power = m.power ∧ (Ilpiac.landFree m b).boot = m.boot := by
  unfold Ilpiac.landFree; (try dsimp only); (repeat' split) <;> simp

@[simp] theorem Ilpiac.recount_frame (m : Ilpiac) :
    (Ilpiac.recount m).clk = m.clk ∧ (Ilpiac.recount m).free = m.free ∧ (Ilpiac.recount m).ctl = m.ctl ∧ (Ilpiac.recount m).flt = m.flt ∧
      (Ilpiac.recount m).twin = m.twin ∧ (Ilpiac.recount m).sw = m.sw ∧ (Ilpiac.recount m).coll = m.coll ∧ (Ilpiac.recount m).trellis = m.trellis ∧
      (Ilpiac.recount m).hbm = m.hbm ∧ (Ilpiac.recount m).groups = m.groups ∧ (Ilpiac.recount m).lanes = m.lanes ∧ (Ilpiac.recount m).links = m.links
      ∧ (Ilpiac.recount m).sync = m.sync ∧ (Ilpiac.recount m).time = m.time ∧ (Ilpiac.recount m).record = m.record ∧ (Ilpiac.recount m).power =
      m.power ∧ (Ilpiac.recount m).boot = m.boot := by
  unfold Ilpiac.recount; (try dsimp only); (repeat' split) <;> simp

@[simp] theorem Ilpiac.areaGive_frame (m : Ilpiac) (a : Area) (tc n : Nat) :
    (Ilpiac.areaGive m a tc n).clk = m.clk ∧ (Ilpiac.areaGive m a tc n).free = m.free ∧ (Ilpiac.areaGive m a tc n).ctl = m.ctl ∧ (Ilpiac.areaGive m a
      tc n).flt = m.flt ∧ (Ilpiac.areaGive m a tc n).twin = m.twin ∧ (Ilpiac.areaGive m a tc n).coll = m.coll ∧ (Ilpiac.areaGive m a tc n).trellis =
      m.trellis ∧ (Ilpiac.areaGive m a tc n).hbm = m.hbm ∧ (Ilpiac.areaGive m a tc n).groups = m.groups ∧ (Ilpiac.areaGive m a tc n).lanes = m.lanes ∧
      (Ilpiac.areaGive m a tc n).links = m.links ∧ (Ilpiac.areaGive m a tc n).sync = m.sync ∧ (Ilpiac.areaGive m a tc n).time = m.time ∧
      (Ilpiac.areaGive m a tc n).record = m.record ∧ (Ilpiac.areaGive m a tc n).power = m.power ∧ (Ilpiac.areaGive m a tc n).boot = m.boot := by
  unfold Ilpiac.areaGive; (try dsimp only); (repeat' split) <;> simp

@[simp] theorem Ilpiac.reap_frame (m : Ilpiac) (id : Nat) :
    (Ilpiac.reap m id).clk = m.clk ∧ (Ilpiac.reap m id).free = m.free ∧ (Ilpiac.reap m id).ctl = m.ctl ∧ (Ilpiac.reap m id).flt = m.flt ∧ (Ilpiac.reap
      m id).twin = m.twin ∧ (Ilpiac.reap m id).coll = m.coll ∧ (Ilpiac.reap m id).trellis = m.trellis ∧ (Ilpiac.reap m id).hbm = m.hbm ∧ (Ilpiac.reap
      m id).groups = m.groups ∧ (Ilpiac.reap m id).lanes = m.lanes ∧ (Ilpiac.reap m id).links = m.links ∧ (Ilpiac.reap m id).sync = m.sync ∧
      (Ilpiac.reap m id).time = m.time ∧ (Ilpiac.reap m id).record = m.record ∧ (Ilpiac.reap m id).power = m.power ∧ (Ilpiac.reap m id).boot = m.boot
      := by
  unfold Ilpiac.reap; (try dsimp only); (repeat' split) <;> simp

@[simp] theorem Ilpiac.setBuf_frame (m : Ilpiac) (id : Nat) (f : BufPkt → BufPkt) :
    (Ilpiac.setBuf m id f).regs = m.regs ∧ (Ilpiac.setBuf m id f).clk = m.clk ∧ (Ilpiac.setBuf m id f).free = m.free ∧ (Ilpiac.setBuf m id f).ctl =
      m.ctl ∧ (Ilpiac.setBuf m id f).flt = m.flt ∧ (Ilpiac.setBuf m id f).twin = m.twin ∧ (Ilpiac.setBuf m id f).coll = m.coll ∧ (Ilpiac.setBuf m id
      f).trellis = m.trellis ∧ (Ilpiac.setBuf m id f).hbm = m.hbm ∧ (Ilpiac.setBuf m id f).groups = m.groups ∧ (Ilpiac.setBuf m id f).lanes = m.lanes
      ∧ (Ilpiac.setBuf m id f).links = m.links ∧ (Ilpiac.setBuf m id f).sync = m.sync ∧ (Ilpiac.setBuf m id f).time = m.time ∧ (Ilpiac.setBuf m id
      f).record = m.record ∧ (Ilpiac.setBuf m id f).power = m.power ∧ (Ilpiac.setBuf m id f).boot = m.boot := by
  unfold Ilpiac.setBuf; (try dsimp only); (repeat' split) <;> simp

@[simp] theorem Ilpiac.unhold_frame (m : Ilpiac) (id : Nat) :
    (Ilpiac.unhold m id).clk = m.clk ∧ (Ilpiac.unhold m id).free = m.free ∧ (Ilpiac.unhold m id).ctl = m.ctl ∧ (Ilpiac.unhold m id).flt = m.flt ∧
      (Ilpiac.unhold m id).twin = m.twin ∧ (Ilpiac.unhold m id).coll = m.coll ∧ (Ilpiac.unhold m id).trellis = m.trellis ∧ (Ilpiac.unhold m id).hbm =
      m.hbm ∧ (Ilpiac.unhold m id).groups = m.groups ∧ (Ilpiac.unhold m id).lanes = m.lanes ∧ (Ilpiac.unhold m id).links = m.links ∧ (Ilpiac.unhold m
      id).sync = m.sync ∧ (Ilpiac.unhold m id).time = m.time ∧ (Ilpiac.unhold m id).record = m.record ∧ (Ilpiac.unhold m id).power = m.power ∧
      (Ilpiac.unhold m id).boot = m.boot := by
  unfold Ilpiac.unhold; (try dsimp only); (repeat' split) <;> simp

@[simp] theorem Ilpiac.retainSweep_frame (m : Ilpiac) :
    (Ilpiac.retainSweep m).clk = m.clk ∧ (Ilpiac.retainSweep m).free = m.free ∧ (Ilpiac.retainSweep m).ctl = m.ctl ∧ (Ilpiac.retainSweep m).flt =
      m.flt ∧ (Ilpiac.retainSweep m).twin = m.twin ∧ (Ilpiac.retainSweep m).trellis = m.trellis ∧ (Ilpiac.retainSweep m).hbm = m.hbm ∧
      (Ilpiac.retainSweep m).groups = m.groups ∧ (Ilpiac.retainSweep m).lanes = m.lanes ∧ (Ilpiac.retainSweep m).links = m.links ∧ (Ilpiac.retainSweep
      m).sync = m.sync ∧ (Ilpiac.retainSweep m).time = m.time ∧ (Ilpiac.retainSweep m).record = m.record ∧ (Ilpiac.retainSweep m).power = m.power ∧
      (Ilpiac.retainSweep m).boot = m.boot := by
  unfold Ilpiac.retainSweep; (try dsimp only); (repeat' split) <;> simp

@[simp] theorem Ilpiac.setErrors_frame (m : Ilpiac) (cw : Nat) (l : List (Nat × Nat)) :
    (Ilpiac.setErrors m cw l).regs = m.regs ∧ (Ilpiac.setErrors m cw l).clk = m.clk ∧ (Ilpiac.setErrors m cw l).free = m.free ∧ (Ilpiac.setErrors m cw
      l).ctl = m.ctl ∧ (Ilpiac.setErrors m cw l).flt = m.flt ∧ (Ilpiac.setErrors m cw l).twin = m.twin ∧ (Ilpiac.setErrors m cw l).sw = m.sw ∧
      (Ilpiac.setErrors m cw l).coll = m.coll ∧ (Ilpiac.setErrors m cw l).trellis = m.trellis ∧ (Ilpiac.setErrors m cw l).groups = m.groups ∧
      (Ilpiac.setErrors m cw l).lanes = m.lanes ∧ (Ilpiac.setErrors m cw l).links = m.links ∧ (Ilpiac.setErrors m cw l).sync = m.sync ∧
      (Ilpiac.setErrors m cw l).time = m.time ∧ (Ilpiac.setErrors m cw l).record = m.record ∧ (Ilpiac.setErrors m cw l).power = m.power ∧
      (Ilpiac.setErrors m cw l).boot = m.boot := by
  unfold Ilpiac.setErrors; (try dsimp only); (repeat' split) <;> simp

@[simp] theorem Ilpiac.sbEvent_frame (m : Ilpiac) (e : Nat) :
    (Ilpiac.sbEvent m e).clk = m.clk ∧ (Ilpiac.sbEvent m e).free = m.free ∧ (Ilpiac.sbEvent m e).ctl = m.ctl ∧ (Ilpiac.sbEvent m e).flt = m.flt ∧
      (Ilpiac.sbEvent m e).twin = m.twin ∧ (Ilpiac.sbEvent m e).sw = m.sw ∧ (Ilpiac.sbEvent m e).coll = m.coll ∧ (Ilpiac.sbEvent m e).trellis =
      m.trellis ∧ (Ilpiac.sbEvent m e).hbm = m.hbm ∧ (Ilpiac.sbEvent m e).groups = m.groups ∧ (Ilpiac.sbEvent m e).lanes = m.lanes ∧ (Ilpiac.sbEvent m
      e).links = m.links ∧ (Ilpiac.sbEvent m e).sync = m.sync ∧ (Ilpiac.sbEvent m e).time = m.time ∧ (Ilpiac.sbEvent m e).record = m.record ∧
      (Ilpiac.sbEvent m e).boot = m.boot := by
  unfold Ilpiac.sbEvent; (try dsimp only); (repeat' split) <;> simp

@[simp] theorem Ilpiac.cnt_frame (m : Ilpiac) (b : Blk) (n : Nat) (f : Fld) (k : Nat) (j : Nat) :
    (Ilpiac.cnt m b n f k j).clk = m.clk ∧ (Ilpiac.cnt m b n f k j).free = m.free ∧ (Ilpiac.cnt m b n f k j).ctl = m.ctl ∧ (Ilpiac.cnt m b n f k
      j).flt = m.flt ∧ (Ilpiac.cnt m b n f k j).twin = m.twin ∧ (Ilpiac.cnt m b n f k j).sw = m.sw ∧ (Ilpiac.cnt m b n f k j).coll = m.coll ∧
      (Ilpiac.cnt m b n f k j).trellis = m.trellis ∧ (Ilpiac.cnt m b n f k j).hbm = m.hbm ∧ (Ilpiac.cnt m b n f k j).groups = m.groups ∧ (Ilpiac.cnt m
      b n f k j).lanes = m.lanes ∧ (Ilpiac.cnt m b n f k j).links = m.links ∧ (Ilpiac.cnt m b n f k j).sync = m.sync ∧ (Ilpiac.cnt m b n f k j).time =
      m.time ∧ (Ilpiac.cnt m b n f k j).record = m.record ∧ (Ilpiac.cnt m b n f k j).power = m.power ∧ (Ilpiac.cnt m b n f k j).boot = m.boot := by
  unfold Ilpiac.cnt; (try dsimp only); (repeat' split) <;> simp

@[simp] theorem Ilpiac.gcnt_frame (m : Ilpiac) (f : Fld) (k : Nat) (j : Nat) :
    (Ilpiac.gcnt m f k j).clk = m.clk ∧ (Ilpiac.gcnt m f k j).free = m.free ∧ (Ilpiac.gcnt m f k j).ctl = m.ctl ∧ (Ilpiac.gcnt m f k j).flt = m.flt ∧
      (Ilpiac.gcnt m f k j).twin = m.twin ∧ (Ilpiac.gcnt m f k j).sw = m.sw ∧ (Ilpiac.gcnt m f k j).coll = m.coll ∧ (Ilpiac.gcnt m f k j).trellis =
      m.trellis ∧ (Ilpiac.gcnt m f k j).hbm = m.hbm ∧ (Ilpiac.gcnt m f k j).groups = m.groups ∧ (Ilpiac.gcnt m f k j).lanes = m.lanes ∧ (Ilpiac.gcnt m
      f k j).links = m.links ∧ (Ilpiac.gcnt m f k j).sync = m.sync ∧ (Ilpiac.gcnt m f k j).time = m.time ∧ (Ilpiac.gcnt m f k j).record = m.record ∧
      (Ilpiac.gcnt m f k j).power = m.power ∧ (Ilpiac.gcnt m f k j).boot = m.boot := by
  unfold Ilpiac.gcnt; (try dsimp only); (repeat' split) <;> simp

@[simp] theorem Ilpiac.irqDue_frame (m : Ilpiac) (vector : Nat) :
    (Ilpiac.irqDue m vector).regs = m.regs ∧ (Ilpiac.irqDue m vector).clk = m.clk ∧ (Ilpiac.irqDue m vector).free = m.free ∧ (Ilpiac.irqDue m
      vector).flt = m.flt ∧ (Ilpiac.irqDue m vector).twin = m.twin ∧ (Ilpiac.irqDue m vector).sw = m.sw ∧ (Ilpiac.irqDue m vector).coll = m.coll ∧
      (Ilpiac.irqDue m vector).trellis = m.trellis ∧ (Ilpiac.irqDue m vector).hbm = m.hbm ∧ (Ilpiac.irqDue m vector).groups = m.groups ∧
      (Ilpiac.irqDue m vector).lanes = m.lanes ∧ (Ilpiac.irqDue m vector).links = m.links ∧ (Ilpiac.irqDue m vector).sync = m.sync ∧ (Ilpiac.irqDue m
      vector).time = m.time ∧ (Ilpiac.irqDue m vector).record = m.record ∧ (Ilpiac.irqDue m vector).power = m.power ∧ (Ilpiac.irqDue m vector).boot =
      m.boot := by
  unfold Ilpiac.irqDue; (try dsimp only); (repeat' split) <;> simp

@[simp] theorem Ilpiac.event_frame (m : Ilpiac) (e : Event) :
    (Ilpiac.event m e).clk = m.clk ∧ (Ilpiac.event m e).free = m.free ∧ (Ilpiac.event m e).flt = m.flt ∧ (Ilpiac.event m e).twin = m.twin ∧
      (Ilpiac.event m e).sw = m.sw ∧ (Ilpiac.event m e).coll = m.coll ∧ (Ilpiac.event m e).trellis = m.trellis ∧ (Ilpiac.event m e).hbm = m.hbm ∧
      (Ilpiac.event m e).groups = m.groups ∧ (Ilpiac.event m e).lanes = m.lanes ∧ (Ilpiac.event m e).links = m.links ∧ (Ilpiac.event m e).sync =
      m.sync ∧ (Ilpiac.event m e).time = m.time ∧ (Ilpiac.event m e).record = m.record ∧ (Ilpiac.event m e).power = m.power ∧ (Ilpiac.event m e).boot
      = m.boot := by
  unfold Ilpiac.event; (try dsimp only); (repeat' split) <;> simp

@[simp] theorem Ilpiac.markLatched_frame (m : Ilpiac) (a : Assertion) :
    (Ilpiac.markLatched m a).regs = m.regs ∧ (Ilpiac.markLatched m a).clk = m.clk ∧ (Ilpiac.markLatched m a).free = m.free ∧ (Ilpiac.markLatched m
      a).ctl = m.ctl ∧ (Ilpiac.markLatched m a).twin = m.twin ∧ (Ilpiac.markLatched m a).sw = m.sw ∧ (Ilpiac.markLatched m a).coll = m.coll ∧
      (Ilpiac.markLatched m a).trellis = m.trellis ∧ (Ilpiac.markLatched m a).hbm = m.hbm ∧ (Ilpiac.markLatched m a).groups = m.groups ∧
      (Ilpiac.markLatched m a).lanes = m.lanes ∧ (Ilpiac.markLatched m a).links = m.links ∧ (Ilpiac.markLatched m a).sync = m.sync ∧
      (Ilpiac.markLatched m a).time = m.time ∧ (Ilpiac.markLatched m a).record = m.record ∧ (Ilpiac.markLatched m a).power = m.power ∧
      (Ilpiac.markLatched m a).boot = m.boot := by
  unfold Ilpiac.markLatched; (try dsimp only); (repeat' split) <;> simp

@[simp] theorem Ilpiac.addAssert_frame (m : Ilpiac) (a : Assertion) :
    (Ilpiac.addAssert m a).regs = m.regs ∧ (Ilpiac.addAssert m a).clk = m.clk ∧ (Ilpiac.addAssert m a).free = m.free ∧ (Ilpiac.addAssert m a).ctl =
      m.ctl ∧ (Ilpiac.addAssert m a).twin = m.twin ∧ (Ilpiac.addAssert m a).sw = m.sw ∧ (Ilpiac.addAssert m a).coll = m.coll ∧ (Ilpiac.addAssert m
      a).trellis = m.trellis ∧ (Ilpiac.addAssert m a).hbm = m.hbm ∧ (Ilpiac.addAssert m a).groups = m.groups ∧ (Ilpiac.addAssert m a).lanes = m.lanes
      ∧ (Ilpiac.addAssert m a).links = m.links ∧ (Ilpiac.addAssert m a).sync = m.sync ∧ (Ilpiac.addAssert m a).time = m.time ∧ (Ilpiac.addAssert m
      a).record = m.record ∧ (Ilpiac.addAssert m a).power = m.power ∧ (Ilpiac.addAssert m a).boot = m.boot := by
  unfold Ilpiac.addAssert; (try dsimp only); (repeat' split) <;> simp

@[simp] theorem Ilpiac.firstFault_frame (m : Ilpiac) (a : Assertion) :
    (Ilpiac.firstFault m a).clk = m.clk ∧ (Ilpiac.firstFault m a).free = m.free ∧ (Ilpiac.firstFault m a).ctl = m.ctl ∧ (Ilpiac.firstFault m a).flt =
      m.flt ∧ (Ilpiac.firstFault m a).twin = m.twin ∧ (Ilpiac.firstFault m a).sw = m.sw ∧ (Ilpiac.firstFault m a).coll = m.coll ∧ (Ilpiac.firstFault m
      a).trellis = m.trellis ∧ (Ilpiac.firstFault m a).hbm = m.hbm ∧ (Ilpiac.firstFault m a).groups = m.groups ∧ (Ilpiac.firstFault m a).lanes =
      m.lanes ∧ (Ilpiac.firstFault m a).links = m.links ∧ (Ilpiac.firstFault m a).sync = m.sync ∧ (Ilpiac.firstFault m a).time = m.time ∧
      (Ilpiac.firstFault m a).record = m.record ∧ (Ilpiac.firstFault m a).power = m.power ∧ (Ilpiac.firstFault m a).boot = m.boot := by
  unfold Ilpiac.firstFault; (try dsimp only); (repeat' split) <;> simp

@[simp] theorem Ilpiac.dueAtOnce_frame (m : Ilpiac) (src : Nat) :
    (Ilpiac.dueAtOnce m src).regs = m.regs ∧ (Ilpiac.dueAtOnce m src).clk = m.clk ∧ (Ilpiac.dueAtOnce m src).free = m.free ∧ (Ilpiac.dueAtOnce m
      src).ctl = m.ctl ∧ (Ilpiac.dueAtOnce m src).twin = m.twin ∧ (Ilpiac.dueAtOnce m src).sw = m.sw ∧ (Ilpiac.dueAtOnce m src).coll = m.coll ∧
      (Ilpiac.dueAtOnce m src).trellis = m.trellis ∧ (Ilpiac.dueAtOnce m src).hbm = m.hbm ∧ (Ilpiac.dueAtOnce m src).groups = m.groups ∧
      (Ilpiac.dueAtOnce m src).lanes = m.lanes ∧ (Ilpiac.dueAtOnce m src).links = m.links ∧ (Ilpiac.dueAtOnce m src).sync = m.sync ∧ (Ilpiac.dueAtOnce
      m src).time = m.time ∧ (Ilpiac.dueAtOnce m src).record = m.record ∧ (Ilpiac.dueAtOnce m src).power = m.power ∧ (Ilpiac.dueAtOnce m src).boot =
      m.boot := by
  unfold Ilpiac.dueAtOnce; (try dsimp only); (repeat' split) <;> simp

@[simp] theorem Ilpiac.latch_frame (m : Ilpiac) (a : Assertion) :
    (Ilpiac.latch m a).clk = m.clk ∧ (Ilpiac.latch m a).free = m.free ∧ (Ilpiac.latch m a).twin = m.twin ∧ (Ilpiac.latch m a).sw = m.sw ∧
      (Ilpiac.latch m a).coll = m.coll ∧ (Ilpiac.latch m a).trellis = m.trellis ∧ (Ilpiac.latch m a).hbm = m.hbm ∧ (Ilpiac.latch m a).groups =
      m.groups ∧ (Ilpiac.latch m a).lanes = m.lanes ∧ (Ilpiac.latch m a).links = m.links ∧ (Ilpiac.latch m a).sync = m.sync ∧ (Ilpiac.latch m a).time
      = m.time ∧ (Ilpiac.latch m a).record = m.record ∧ (Ilpiac.latch m a).boot = m.boot := by
  unfold Ilpiac.latch; (try dsimp only); (repeat' split) <;> simp

@[simp] theorem Ilpiac.latchNext_frame (m : Ilpiac) :
    (Ilpiac.latchNext m).clk = m.clk ∧ (Ilpiac.latchNext m).free = m.free ∧ (Ilpiac.latchNext m).twin = m.twin ∧ (Ilpiac.latchNext m).sw = m.sw ∧
      (Ilpiac.latchNext m).coll = m.coll ∧ (Ilpiac.latchNext m).trellis = m.trellis ∧ (Ilpiac.latchNext m).hbm = m.hbm ∧ (Ilpiac.latchNext m).groups =
      m.groups ∧ (Ilpiac.latchNext m).lanes = m.lanes ∧ (Ilpiac.latchNext m).links = m.links ∧ (Ilpiac.latchNext m).sync = m.sync ∧ (Ilpiac.latchNext
      m).time = m.time ∧ (Ilpiac.latchNext m).record = m.record ∧ (Ilpiac.latchNext m).boot = m.boot := by
  unfold Ilpiac.latchNext; (try dsimp only); (repeat' split) <;> simp

@[simp] theorem Ilpiac.raise_frame (m : Ilpiac) (src unit detail : Nat) (wire : Bool) :
    (Ilpiac.raise m src unit detail wire).clk = m.clk ∧ (Ilpiac.raise m src unit detail wire).free = m.free ∧ (Ilpiac.raise m src unit detail
      wire).twin = m.twin ∧ (Ilpiac.raise m src unit detail wire).sw = m.sw ∧ (Ilpiac.raise m src unit detail wire).coll = m.coll ∧ (Ilpiac.raise m
      src unit detail wire).trellis = m.trellis ∧ (Ilpiac.raise m src unit detail wire).hbm = m.hbm ∧ (Ilpiac.raise m src unit detail wire).groups =
      m.groups ∧ (Ilpiac.raise m src unit detail wire).lanes = m.lanes ∧ (Ilpiac.raise m src unit detail wire).links = m.links ∧ (Ilpiac.raise m src
      unit detail wire).sync = m.sync ∧ (Ilpiac.raise m src unit detail wire).time = m.time ∧ (Ilpiac.raise m src unit detail wire).record = m.record
      ∧ (Ilpiac.raise m src unit detail wire).boot = m.boot := by
  unfold Ilpiac.raise; (try dsimp only); (repeat' split) <;> simp

@[simp] theorem Ilpiac.release_frame (m : Ilpiac) (src : Nat) (p : Nat → Bool) :
    (Ilpiac.release m src p).regs = m.regs ∧ (Ilpiac.release m src p).clk = m.clk ∧ (Ilpiac.release m src p).free = m.free ∧ (Ilpiac.release m src
      p).ctl = m.ctl ∧ (Ilpiac.release m src p).twin = m.twin ∧ (Ilpiac.release m src p).sw = m.sw ∧ (Ilpiac.release m src p).coll = m.coll ∧
      (Ilpiac.release m src p).trellis = m.trellis ∧ (Ilpiac.release m src p).hbm = m.hbm ∧ (Ilpiac.release m src p).groups = m.groups ∧
      (Ilpiac.release m src p).lanes = m.lanes ∧ (Ilpiac.release m src p).links = m.links ∧ (Ilpiac.release m src p).sync = m.sync ∧ (Ilpiac.release m
      src p).time = m.time ∧ (Ilpiac.release m src p).record = m.record ∧ (Ilpiac.release m src p).power = m.power ∧ (Ilpiac.release m src p).boot =
      m.boot := by
  unfold Ilpiac.release; (try dsimp only); (repeat' split) <;> simp

@[simp] theorem Ilpiac.setTimeState_frame (m : Ilpiac) (st : Nat) :
    (Ilpiac.setTimeState m st).clk = m.clk ∧ (Ilpiac.setTimeState m st).free = m.free ∧ (Ilpiac.setTimeState m st).twin = m.twin ∧
      (Ilpiac.setTimeState m st).sw = m.sw ∧ (Ilpiac.setTimeState m st).coll = m.coll ∧ (Ilpiac.setTimeState m st).trellis = m.trellis ∧
      (Ilpiac.setTimeState m st).hbm = m.hbm ∧ (Ilpiac.setTimeState m st).groups = m.groups ∧ (Ilpiac.setTimeState m st).lanes = m.lanes ∧
      (Ilpiac.setTimeState m st).links = m.links ∧ (Ilpiac.setTimeState m st).sync = m.sync ∧ (Ilpiac.setTimeState m st).time = m.time ∧
      (Ilpiac.setTimeState m st).record = m.record ∧ (Ilpiac.setTimeState m st).boot = m.boot := by
  unfold Ilpiac.setTimeState; (try dsimp only); (repeat' split) <;> simp

@[simp] theorem Ilpiac.areaTake_frame (m : Ilpiac) (a : Area) (tc n : Nat) :
    (Ilpiac.areaTake m a tc n).clk = m.clk ∧ (Ilpiac.areaTake m a tc n).free = m.free ∧ (Ilpiac.areaTake m a tc n).ctl = m.ctl ∧ (Ilpiac.areaTake m a
      tc n).flt = m.flt ∧ (Ilpiac.areaTake m a tc n).twin = m.twin ∧ (Ilpiac.areaTake m a tc n).coll = m.coll ∧ (Ilpiac.areaTake m a tc n).trellis =
      m.trellis ∧ (Ilpiac.areaTake m a tc n).hbm = m.hbm ∧ (Ilpiac.areaTake m a tc n).groups = m.groups ∧ (Ilpiac.areaTake m a tc n).lanes = m.lanes ∧
      (Ilpiac.areaTake m a tc n).links = m.links ∧ (Ilpiac.areaTake m a tc n).sync = m.sync ∧ (Ilpiac.areaTake m a tc n).time = m.time ∧
      (Ilpiac.areaTake m a tc n).record = m.record ∧ (Ilpiac.areaTake m a tc n).power = m.power ∧ (Ilpiac.areaTake m a tc n).boot = m.boot := by
  unfold Ilpiac.areaTake; (try dsimp only); (repeat' split) <;> simp

@[simp] theorem Ilpiac.store_frame (m : Ilpiac) (p : Packet) (a : Area) (ingress : Nat) (held : Bool) (land : Option (Nat × Nat)) (hose : Option Nat)
      (crcBad : Bool) :
    (Ilpiac.store m p a ingress held land hose crcBad).2.clk = m.clk ∧ (Ilpiac.store m p a ingress held land hose crcBad).2.free = m.free ∧
      (Ilpiac.store m p a ingress held land hose crcBad).2.ctl = m.ctl ∧ (Ilpiac.store m p a ingress held land hose crcBad).2.flt = m.flt ∧
      (Ilpiac.store m p a ingress held land hose crcBad).2.twin = m.twin ∧ (Ilpiac.store m p a ingress held land hose crcBad).2.coll = m.coll ∧
      (Ilpiac.store m p a ingress held land hose crcBad).2.trellis = m.trellis ∧ (Ilpiac.store m p a ingress held land hose crcBad).2.hbm = m.hbm ∧
      (Ilpiac.store m p a ingress held land hose crcBad).2.groups = m.groups ∧ (Ilpiac.store m p a ingress held land hose crcBad).2.lanes = m.lanes ∧
      (Ilpiac.store m p a ingress held land hose crcBad).2.links = m.links ∧ (Ilpiac.store m p a ingress held land hose crcBad).2.sync = m.sync ∧
      (Ilpiac.store m p a ingress held land hose crcBad).2.time = m.time ∧ (Ilpiac.store m p a ingress held land hose crcBad).2.record = m.record ∧
      (Ilpiac.store m p a ingress held land hose crcBad).2.power = m.power ∧ (Ilpiac.store m p a ingress held land hose crcBad).2.boot = m.boot := by
  unfold Ilpiac.store; (try dsimp only); (repeat' split) <;> simp

@[simp] theorem Ilpiac.regAccess_frame (m : Ilpiac) (off : Nat) :
    (Ilpiac.regAccess m off).clk = m.clk ∧ (Ilpiac.regAccess m off).free = m.free ∧ (Ilpiac.regAccess m off).twin = m.twin ∧ (Ilpiac.regAccess m
      off).sw = m.sw ∧ (Ilpiac.regAccess m off).coll = m.coll ∧ (Ilpiac.regAccess m off).trellis = m.trellis ∧ (Ilpiac.regAccess m off).hbm = m.hbm ∧
      (Ilpiac.regAccess m off).groups = m.groups ∧ (Ilpiac.regAccess m off).lanes = m.lanes ∧ (Ilpiac.regAccess m off).links = m.links ∧
      (Ilpiac.regAccess m off).sync = m.sync ∧ (Ilpiac.regAccess m off).time = m.time ∧ (Ilpiac.regAccess m off).record = m.record ∧ (Ilpiac.regAccess
      m off).boot = m.boot := by
  unfold Ilpiac.regAccess; (try dsimp only); (repeat' split) <;> simp

@[simp] theorem Ilpiac.dutyStat_frame (m : Ilpiac) :
    (Ilpiac.dutyStat m).clk = m.clk ∧ (Ilpiac.dutyStat m).free = m.free ∧ (Ilpiac.dutyStat m).ctl = m.ctl ∧ (Ilpiac.dutyStat m).flt = m.flt ∧
      (Ilpiac.dutyStat m).twin = m.twin ∧ (Ilpiac.dutyStat m).sw = m.sw ∧ (Ilpiac.dutyStat m).coll = m.coll ∧ (Ilpiac.dutyStat m).trellis = m.trellis
      ∧ (Ilpiac.dutyStat m).hbm = m.hbm ∧ (Ilpiac.dutyStat m).groups = m.groups ∧ (Ilpiac.dutyStat m).lanes = m.lanes ∧ (Ilpiac.dutyStat m).links =
      m.links ∧ (Ilpiac.dutyStat m).sync = m.sync ∧ (Ilpiac.dutyStat m).time = m.time ∧ (Ilpiac.dutyStat m).record = m.record ∧ (Ilpiac.dutyStat
      m).power = m.power ∧ (Ilpiac.dutyStat m).boot = m.boot := by
  unfold Ilpiac.dutyStat; (try dsimp only); (repeat' split) <;> simp

@[simp] theorem Ilpiac.setBrown_frame (m : Ilpiac) (d : Nat) :
    (Ilpiac.setBrown m d).clk = m.clk ∧ (Ilpiac.setBrown m d).free = m.free ∧ (Ilpiac.setBrown m d).ctl = m.ctl ∧ (Ilpiac.setBrown m d).flt = m.flt ∧
      (Ilpiac.setBrown m d).twin = m.twin ∧ (Ilpiac.setBrown m d).sw = m.sw ∧ (Ilpiac.setBrown m d).coll = m.coll ∧ (Ilpiac.setBrown m d).trellis =
      m.trellis ∧ (Ilpiac.setBrown m d).hbm = m.hbm ∧ (Ilpiac.setBrown m d).groups = m.groups ∧ (Ilpiac.setBrown m d).lanes = m.lanes ∧
      (Ilpiac.setBrown m d).links = m.links ∧ (Ilpiac.setBrown m d).sync = m.sync ∧ (Ilpiac.setBrown m d).time = m.time ∧ (Ilpiac.setBrown m d).record
      = m.record ∧ (Ilpiac.setBrown m d).boot = m.boot := by
  unfold Ilpiac.setBrown; (try dsimp only); (repeat' split) <;> simp

@[simp] theorem Ilpiac.send_frame (m : Ilpiac) (x : HolmMsg) :
    (Ilpiac.send m x).regs = m.regs ∧ (Ilpiac.send m x).clk = m.clk ∧ (Ilpiac.send m x).free = m.free ∧ (Ilpiac.send m x).flt = m.flt ∧ (Ilpiac.send m
      x).twin = m.twin ∧ (Ilpiac.send m x).sw = m.sw ∧ (Ilpiac.send m x).coll = m.coll ∧ (Ilpiac.send m x).trellis = m.trellis ∧ (Ilpiac.send m x).hbm
      = m.hbm ∧ (Ilpiac.send m x).groups = m.groups ∧ (Ilpiac.send m x).lanes = m.lanes ∧ (Ilpiac.send m x).links = m.links ∧ (Ilpiac.send m x).sync =
      m.sync ∧ (Ilpiac.send m x).time = m.time ∧ (Ilpiac.send m x).record = m.record ∧ (Ilpiac.send m x).power = m.power ∧ (Ilpiac.send m x).boot =
      m.boot := by
  unfold Ilpiac.send; (try dsimp only); (repeat' split) <;> simp

@[simp] theorem Ilpiac.setHx_frame (m : Ilpiac) (h : Nat) (x : HoseX) :
    (Ilpiac.setHx m h x).regs = m.regs ∧ (Ilpiac.setHx m h x).clk = m.clk ∧ (Ilpiac.setHx m h x).free = m.free ∧ (Ilpiac.setHx m h x).ctl = m.ctl ∧
      (Ilpiac.setHx m h x).flt = m.flt ∧ (Ilpiac.setHx m h x).twin = m.twin ∧ (Ilpiac.setHx m h x).coll = m.coll ∧ (Ilpiac.setHx m h x).trellis =
      m.trellis ∧ (Ilpiac.setHx m h x).hbm = m.hbm ∧ (Ilpiac.setHx m h x).groups = m.groups ∧ (Ilpiac.setHx m h x).lanes = m.lanes ∧ (Ilpiac.setHx m h
      x).links = m.links ∧ (Ilpiac.setHx m h x).sync = m.sync ∧ (Ilpiac.setHx m h x).time = m.time ∧ (Ilpiac.setHx m h x).record = m.record ∧
      (Ilpiac.setHx m h x).power = m.power ∧ (Ilpiac.setHx m h x).boot = m.boot := by
  unfold Ilpiac.setHx; (try dsimp only); (repeat' split) <;> simp

@[simp] theorem Ilpiac.migrate_frame (m : Ilpiac) (slot source : Nat) (readable : Bool) (q : Nat) :
    (Ilpiac.migrate m slot source readable q).clk = m.clk ∧ (Ilpiac.migrate m slot source readable q).free = m.free ∧ (Ilpiac.migrate m slot source
      readable q).ctl = m.ctl ∧ (Ilpiac.migrate m slot source readable q).flt = m.flt ∧ (Ilpiac.migrate m slot source readable q).twin = m.twin ∧
      (Ilpiac.migrate m slot source readable q).sw = m.sw ∧ (Ilpiac.migrate m slot source readable q).coll = m.coll ∧ (Ilpiac.migrate m slot source
      readable q).trellis = m.trellis ∧ (Ilpiac.migrate m slot source readable q).groups = m.groups ∧ (Ilpiac.migrate m slot source readable q).lanes
      = m.lanes ∧ (Ilpiac.migrate m slot source readable q).links = m.links ∧ (Ilpiac.migrate m slot source readable q).sync = m.sync ∧
      (Ilpiac.migrate m slot source readable q).time = m.time ∧ (Ilpiac.migrate m slot source readable q).record = m.record ∧ (Ilpiac.migrate m slot
      source readable q).power = m.power ∧ (Ilpiac.migrate m slot source readable q).boot = m.boot := by
  unfold Ilpiac.migrate; (try dsimp only); (repeat' split) <;> simp

@[simp] theorem Ilpiac.setEng_frame (m : Ilpiac) (e : Nat) (x : Engine) :
    (Ilpiac.setEng m e x).regs = m.regs ∧ (Ilpiac.setEng m e x).clk = m.clk ∧ (Ilpiac.setEng m e x).free = m.free ∧ (Ilpiac.setEng m e x).ctl = m.ctl
      ∧ (Ilpiac.setEng m e x).flt = m.flt ∧ (Ilpiac.setEng m e x).twin = m.twin ∧ (Ilpiac.setEng m e x).sw = m.sw ∧ (Ilpiac.setEng m e x).coll =
      m.coll ∧ (Ilpiac.setEng m e x).hbm = m.hbm ∧ (Ilpiac.setEng m e x).groups = m.groups ∧ (Ilpiac.setEng m e x).lanes = m.lanes ∧ (Ilpiac.setEng m
      e x).links = m.links ∧ (Ilpiac.setEng m e x).sync = m.sync ∧ (Ilpiac.setEng m e x).time = m.time ∧ (Ilpiac.setEng m e x).record = m.record ∧
      (Ilpiac.setEng m e x).power = m.power ∧ (Ilpiac.setEng m e x).boot = m.boot := by
  unfold Ilpiac.setEng; (try dsimp only); (repeat' split) <;> simp

@[simp] theorem Ilpiac.startFill_frame (m : Ilpiac) (e : Nat) :
    (Ilpiac.startFill m e).regs = m.regs ∧ (Ilpiac.startFill m e).clk = m.clk ∧ (Ilpiac.startFill m e).free = m.free ∧ (Ilpiac.startFill m e).ctl =
      m.ctl ∧ (Ilpiac.startFill m e).flt = m.flt ∧ (Ilpiac.startFill m e).twin = m.twin ∧ (Ilpiac.startFill m e).sw = m.sw ∧ (Ilpiac.startFill m
      e).coll = m.coll ∧ (Ilpiac.startFill m e).hbm = m.hbm ∧ (Ilpiac.startFill m e).groups = m.groups ∧ (Ilpiac.startFill m e).lanes = m.lanes ∧
      (Ilpiac.startFill m e).links = m.links ∧ (Ilpiac.startFill m e).sync = m.sync ∧ (Ilpiac.startFill m e).time = m.time ∧ (Ilpiac.startFill m
      e).record = m.record ∧ (Ilpiac.startFill m e).power = m.power ∧ (Ilpiac.startFill m e).boot = m.boot := by
  unfold Ilpiac.startFill; (try dsimp only); (repeat' split) <;> simp

@[simp] theorem Ilpiac.windowRefusal_frame (m : Ilpiac) :
    (Ilpiac.windowRefusal m).clk = m.clk ∧ (Ilpiac.windowRefusal m).free = m.free ∧ (Ilpiac.windowRefusal m).ctl = m.ctl ∧ (Ilpiac.windowRefusal
      m).flt = m.flt ∧ (Ilpiac.windowRefusal m).twin = m.twin ∧ (Ilpiac.windowRefusal m).sw = m.sw ∧ (Ilpiac.windowRefusal m).coll = m.coll ∧
      (Ilpiac.windowRefusal m).trellis = m.trellis ∧ (Ilpiac.windowRefusal m).hbm = m.hbm ∧ (Ilpiac.windowRefusal m).groups = m.groups ∧
      (Ilpiac.windowRefusal m).lanes = m.lanes ∧ (Ilpiac.windowRefusal m).links = m.links ∧ (Ilpiac.windowRefusal m).sync = m.sync ∧
      (Ilpiac.windowRefusal m).time = m.time ∧ (Ilpiac.windowRefusal m).record = m.record ∧ (Ilpiac.windowRefusal m).power = m.power ∧
      (Ilpiac.windowRefusal m).boot = m.boot := by
  unfold Ilpiac.windowRefusal; (try dsimp only); (repeat' split) <;> simp

@[simp] theorem Ilpiac.setTemp_frame (m : Ilpiac) (g c : Nat) :
    (Ilpiac.setTemp m g c).clk = m.clk ∧ (Ilpiac.setTemp m g c).free = m.free ∧ (Ilpiac.setTemp m g c).ctl = m.ctl ∧ (Ilpiac.setTemp m g c).flt =
      m.flt ∧ (Ilpiac.setTemp m g c).twin = m.twin ∧ (Ilpiac.setTemp m g c).sw = m.sw ∧ (Ilpiac.setTemp m g c).coll = m.coll ∧ (Ilpiac.setTemp m g
      c).trellis = m.trellis ∧ (Ilpiac.setTemp m g c).hbm = m.hbm ∧ (Ilpiac.setTemp m g c).groups = m.groups ∧ (Ilpiac.setTemp m g c).lanes = m.lanes
      ∧ (Ilpiac.setTemp m g c).links = m.links ∧ (Ilpiac.setTemp m g c).sync = m.sync ∧ (Ilpiac.setTemp m g c).time = m.time ∧ (Ilpiac.setTemp m g
      c).record = m.record ∧ (Ilpiac.setTemp m g c).power = m.power ∧ (Ilpiac.setTemp m g c).boot = m.boot := by
  unfold Ilpiac.setTemp; (try dsimp only); (repeat' split) <;> simp

@[simp] theorem Ilpiac.unqueue_frame (m : Ilpiac) (k : CollId) :
    (Ilpiac.unqueue m k).regs = m.regs ∧ (Ilpiac.unqueue m k).clk = m.clk ∧ (Ilpiac.unqueue m k).free = m.free ∧ (Ilpiac.unqueue m k).ctl = m.ctl ∧
      (Ilpiac.unqueue m k).flt = m.flt ∧ (Ilpiac.unqueue m k).twin = m.twin ∧ (Ilpiac.unqueue m k).sw = m.sw ∧ (Ilpiac.unqueue m k).trellis =
      m.trellis ∧ (Ilpiac.unqueue m k).hbm = m.hbm ∧ (Ilpiac.unqueue m k).groups = m.groups ∧ (Ilpiac.unqueue m k).lanes = m.lanes ∧ (Ilpiac.unqueue m
      k).links = m.links ∧ (Ilpiac.unqueue m k).sync = m.sync ∧ (Ilpiac.unqueue m k).time = m.time ∧ (Ilpiac.unqueue m k).record = m.record ∧
      (Ilpiac.unqueue m k).power = m.power ∧ (Ilpiac.unqueue m k).boot = m.boot := by
  unfold Ilpiac.unqueue; (try dsimp only); (repeat' split) <;> simp

@[simp] theorem Ilpiac.qw_frame (m : Ilpiac) (k : Nat) (f : Fld) (v : Nat) :
    (Ilpiac.qw m k f v).clk = m.clk ∧ (Ilpiac.qw m k f v).free = m.free ∧ (Ilpiac.qw m k f v).ctl = m.ctl ∧ (Ilpiac.qw m k f v).flt = m.flt ∧
      (Ilpiac.qw m k f v).twin = m.twin ∧ (Ilpiac.qw m k f v).sw = m.sw ∧ (Ilpiac.qw m k f v).coll = m.coll ∧ (Ilpiac.qw m k f v).trellis = m.trellis
      ∧ (Ilpiac.qw m k f v).hbm = m.hbm ∧ (Ilpiac.qw m k f v).groups = m.groups ∧ (Ilpiac.qw m k f v).lanes = m.lanes ∧ (Ilpiac.qw m k f v).links =
      m.links ∧ (Ilpiac.qw m k f v).sync = m.sync ∧ (Ilpiac.qw m k f v).time = m.time ∧ (Ilpiac.qw m k f v).record = m.record ∧ (Ilpiac.qw m k f
      v).power = m.power ∧ (Ilpiac.qw m k f v).boot = m.boot := by
  unfold Ilpiac.qw; (try dsimp only); (repeat' split) <;> simp

@[simp] theorem Ilpiac.wake_frame (m : Ilpiac) (p : Nat) (before : List Nat) :
    (Ilpiac.wake m p before).clk = m.clk ∧ (Ilpiac.wake m p before).free = m.free ∧ (Ilpiac.wake m p before).ctl = m.ctl ∧ (Ilpiac.wake m p
      before).flt = m.flt ∧ (Ilpiac.wake m p before).twin = m.twin ∧ (Ilpiac.wake m p before).coll = m.coll ∧ (Ilpiac.wake m p before).trellis =
      m.trellis ∧ (Ilpiac.wake m p before).hbm = m.hbm ∧ (Ilpiac.wake m p before).groups = m.groups ∧ (Ilpiac.wake m p before).lanes = m.lanes ∧
      (Ilpiac.wake m p before).links = m.links ∧ (Ilpiac.wake m p before).sync = m.sync ∧ (Ilpiac.wake m p before).time = m.time ∧ (Ilpiac.wake m p
      before).record = m.record ∧ (Ilpiac.wake m p before).power = m.power ∧ (Ilpiac.wake m p before).boot = m.boot := by
  unfold Ilpiac.wake; (try dsimp only); (repeat' split) <;> simp

@[simp] theorem Ilpiac.boardWrite_frame (m : Ilpiac) (addr : Nat) (d : List Byte) :
    (Ilpiac.boardWrite m addr d).clk = m.clk ∧ (Ilpiac.boardWrite m addr d).free = m.free ∧ (Ilpiac.boardWrite m addr d).twin = m.twin ∧
      (Ilpiac.boardWrite m addr d).sw = m.sw ∧ (Ilpiac.boardWrite m addr d).coll = m.coll ∧ (Ilpiac.boardWrite m addr d).trellis = m.trellis ∧
      (Ilpiac.boardWrite m addr d).hbm = m.hbm ∧ (Ilpiac.boardWrite m addr d).groups = m.groups ∧ (Ilpiac.boardWrite m addr d).lanes = m.lanes ∧
      (Ilpiac.boardWrite m addr d).links = m.links ∧ (Ilpiac.boardWrite m addr d).sync = m.sync ∧ (Ilpiac.boardWrite m addr d).time = m.time ∧
      (Ilpiac.boardWrite m addr d).record = m.record ∧ (Ilpiac.boardWrite m addr d).boot = m.boot := by
  unfold Ilpiac.boardWrite; (try dsimp only); (repeat' split) <;> simp

@[simp] theorem Ilpiac.sieveLevel_frame (m : Ilpiac) :
    (Ilpiac.sieveLevel m).clk = m.clk ∧ (Ilpiac.sieveLevel m).free = m.free ∧ (Ilpiac.sieveLevel m).flt = m.flt ∧ (Ilpiac.sieveLevel m).twin = m.twin
      ∧ (Ilpiac.sieveLevel m).sw = m.sw ∧ (Ilpiac.sieveLevel m).coll = m.coll ∧ (Ilpiac.sieveLevel m).trellis = m.trellis ∧ (Ilpiac.sieveLevel m).hbm
      = m.hbm ∧ (Ilpiac.sieveLevel m).groups = m.groups ∧ (Ilpiac.sieveLevel m).lanes = m.lanes ∧ (Ilpiac.sieveLevel m).links = m.links ∧
      (Ilpiac.sieveLevel m).sync = m.sync ∧ (Ilpiac.sieveLevel m).time = m.time ∧ (Ilpiac.sieveLevel m).record = m.record ∧ (Ilpiac.sieveLevel
      m).power = m.power ∧ (Ilpiac.sieveLevel m).boot = m.boot := by
  unfold Ilpiac.sieveLevel; (try dsimp only); (repeat' split) <;> simp

@[simp] theorem Ilpiac.capture_frame (m : Ilpiac) (ev port : Nat) (p : Packet) :
    (Ilpiac.capture m ev port p).clk = m.clk ∧ (Ilpiac.capture m ev port p).free = m.free ∧ (Ilpiac.capture m ev port p).twin = m.twin ∧
      (Ilpiac.capture m ev port p).coll = m.coll ∧ (Ilpiac.capture m ev port p).trellis = m.trellis ∧ (Ilpiac.capture m ev port p).hbm = m.hbm ∧
      (Ilpiac.capture m ev port p).groups = m.groups ∧ (Ilpiac.capture m ev port p).lanes = m.lanes ∧ (Ilpiac.capture m ev port p).links = m.links ∧
      (Ilpiac.capture m ev port p).sync = m.sync ∧ (Ilpiac.capture m ev port p).time = m.time ∧ (Ilpiac.capture m ev port p).record = m.record ∧
      (Ilpiac.capture m ev port p).boot = m.boot := by
  unfold Ilpiac.capture; (try dsimp only); (repeat' split) <;> simp

@[simp] theorem Ilpiac.setQueue_frame (m : Ilpiac) (k : Nat) (l : List QEnt) :
    (Ilpiac.setQueue m k l).regs = m.regs ∧ (Ilpiac.setQueue m k l).clk = m.clk ∧ (Ilpiac.setQueue m k l).free = m.free ∧ (Ilpiac.setQueue m k l).ctl
      = m.ctl ∧ (Ilpiac.setQueue m k l).flt = m.flt ∧ (Ilpiac.setQueue m k l).twin = m.twin ∧ (Ilpiac.setQueue m k l).coll = m.coll ∧ (Ilpiac.setQueue
      m k l).trellis = m.trellis ∧ (Ilpiac.setQueue m k l).hbm = m.hbm ∧ (Ilpiac.setQueue m k l).groups = m.groups ∧ (Ilpiac.setQueue m k l).lanes =
      m.lanes ∧ (Ilpiac.setQueue m k l).links = m.links ∧ (Ilpiac.setQueue m k l).sync = m.sync ∧ (Ilpiac.setQueue m k l).time = m.time ∧
      (Ilpiac.setQueue m k l).record = m.record ∧ (Ilpiac.setQueue m k l).power = m.power ∧ (Ilpiac.setQueue m k l).boot = m.boot := by
  unfold Ilpiac.setQueue; (try dsimp only); (repeat' split) <;> simp

@[simp] theorem Ilpiac.qstat_frame (m : Ilpiac) (k : Nat) :
    (Ilpiac.qstat m k).clk = m.clk ∧ (Ilpiac.qstat m k).free = m.free ∧ (Ilpiac.qstat m k).ctl = m.ctl ∧ (Ilpiac.qstat m k).flt = m.flt ∧
      (Ilpiac.qstat m k).twin = m.twin ∧ (Ilpiac.qstat m k).sw = m.sw ∧ (Ilpiac.qstat m k).coll = m.coll ∧ (Ilpiac.qstat m k).trellis = m.trellis ∧
      (Ilpiac.qstat m k).hbm = m.hbm ∧ (Ilpiac.qstat m k).groups = m.groups ∧ (Ilpiac.qstat m k).lanes = m.lanes ∧ (Ilpiac.qstat m k).links = m.links
      ∧ (Ilpiac.qstat m k).sync = m.sync ∧ (Ilpiac.qstat m k).time = m.time ∧ (Ilpiac.qstat m k).record = m.record ∧ (Ilpiac.qstat m k).power =
      m.power ∧ (Ilpiac.qstat m k).boot = m.boot := by
  unfold Ilpiac.qstat; (try dsimp only); (repeat' split) <;> simp

@[simp] theorem Ilpiac.waking_clk (m : Ilpiac) (q : Nat) (f : Ilpiac → Ilpiac) (h : ∀ m, (f m).clk = m.clk) : (m.waking q f).clk = m.clk := by
  unfold Ilpiac.waking; simp [h]

@[simp] theorem Ilpiac.waking_free (m : Ilpiac) (q : Nat) (f : Ilpiac → Ilpiac) (h : ∀ m, (f m).free = m.free) : (m.waking q f).free = m.free := by
  unfold Ilpiac.waking; simp [h]

@[simp] theorem Ilpiac.waking_twin (m : Ilpiac) (q : Nat) (f : Ilpiac → Ilpiac) (h : ∀ m, (f m).twin = m.twin) : (m.waking q f).twin = m.twin := by
  unfold Ilpiac.waking; simp [h]

@[simp] theorem Ilpiac.waking_coll (m : Ilpiac) (q : Nat) (f : Ilpiac → Ilpiac) (h : ∀ m, (f m).coll = m.coll) : (m.waking q f).coll = m.coll := by
  unfold Ilpiac.waking; simp [h]

@[simp] theorem Ilpiac.waking_trellis (m : Ilpiac) (q : Nat) (f : Ilpiac → Ilpiac) (h : ∀ m, (f m).trellis = m.trellis) : (m.waking q f).trellis =
      m.trellis := by
  unfold Ilpiac.waking; simp [h]

@[simp] theorem Ilpiac.waking_hbm (m : Ilpiac) (q : Nat) (f : Ilpiac → Ilpiac) (h : ∀ m, (f m).hbm = m.hbm) : (m.waking q f).hbm = m.hbm := by
  unfold Ilpiac.waking; simp [h]

@[simp] theorem Ilpiac.waking_groups (m : Ilpiac) (q : Nat) (f : Ilpiac → Ilpiac) (h : ∀ m, (f m).groups = m.groups) : (m.waking q f).groups =
      m.groups := by
  unfold Ilpiac.waking; simp [h]

@[simp] theorem Ilpiac.waking_lanes (m : Ilpiac) (q : Nat) (f : Ilpiac → Ilpiac) (h : ∀ m, (f m).lanes = m.lanes) : (m.waking q f).lanes = m.lanes :=
      by
  unfold Ilpiac.waking; simp [h]

@[simp] theorem Ilpiac.waking_links (m : Ilpiac) (q : Nat) (f : Ilpiac → Ilpiac) (h : ∀ m, (f m).links = m.links) : (m.waking q f).links = m.links :=
      by
  unfold Ilpiac.waking; simp [h]

@[simp] theorem Ilpiac.waking_sync (m : Ilpiac) (q : Nat) (f : Ilpiac → Ilpiac) (h : ∀ m, (f m).sync = m.sync) : (m.waking q f).sync = m.sync := by
  unfold Ilpiac.waking; simp [h]

@[simp] theorem Ilpiac.waking_time (m : Ilpiac) (q : Nat) (f : Ilpiac → Ilpiac) (h : ∀ m, (f m).time = m.time) : (m.waking q f).time = m.time := by
  unfold Ilpiac.waking; simp [h]

@[simp] theorem Ilpiac.waking_record (m : Ilpiac) (q : Nat) (f : Ilpiac → Ilpiac) (h : ∀ m, (f m).record = m.record) : (m.waking q f).record =
      m.record := by
  unfold Ilpiac.waking; simp [h]

@[simp] theorem Ilpiac.waking_boot (m : Ilpiac) (q : Nat) (f : Ilpiac → Ilpiac) (h : ∀ m, (f m).boot = m.boot) : (m.waking q f).boot = m.boot := by
  unfold Ilpiac.waking; simp [h]

@[simp] theorem Ilpiac.enqAt_frame (m : Ilpiac) (port q id : Nat) :
    (Ilpiac.enqAt m port q id).clk = m.clk ∧ (Ilpiac.enqAt m port q id).free = m.free ∧ (Ilpiac.enqAt m port q id).twin = m.twin ∧ (Ilpiac.enqAt m
      port q id).coll = m.coll ∧ (Ilpiac.enqAt m port q id).trellis = m.trellis ∧ (Ilpiac.enqAt m port q id).hbm = m.hbm ∧ (Ilpiac.enqAt m port q
      id).groups = m.groups ∧ (Ilpiac.enqAt m port q id).lanes = m.lanes ∧ (Ilpiac.enqAt m port q id).links = m.links ∧ (Ilpiac.enqAt m port q
      id).sync = m.sync ∧ (Ilpiac.enqAt m port q id).time = m.time ∧ (Ilpiac.enqAt m port q id).record = m.record ∧ (Ilpiac.enqAt m port q id).boot =
      m.boot := by
  (repeat' apply And.intro) <;> (unfold Ilpiac.enqAt; (try extract_lets); (repeat' split) <;> simp +zetaDelta -implicitDefEqProofs)

@[simp] theorem Ilpiac.updEng_frame (m : Ilpiac) (e : Nat) (f : Engine → Engine) :
    (Ilpiac.updEng m e f).regs = m.regs ∧ (Ilpiac.updEng m e f).clk = m.clk ∧ (Ilpiac.updEng m e f).free = m.free ∧ (Ilpiac.updEng m e f).ctl = m.ctl
      ∧ (Ilpiac.updEng m e f).flt = m.flt ∧ (Ilpiac.updEng m e f).twin = m.twin ∧ (Ilpiac.updEng m e f).sw = m.sw ∧ (Ilpiac.updEng m e f).coll =
      m.coll ∧ (Ilpiac.updEng m e f).hbm = m.hbm ∧ (Ilpiac.updEng m e f).groups = m.groups ∧ (Ilpiac.updEng m e f).lanes = m.lanes ∧ (Ilpiac.updEng m
      e f).links = m.links ∧ (Ilpiac.updEng m e f).sync = m.sync ∧ (Ilpiac.updEng m e f).time = m.time ∧ (Ilpiac.updEng m e f).record = m.record ∧
      (Ilpiac.updEng m e f).power = m.power ∧ (Ilpiac.updEng m e f).boot = m.boot := by
  unfold Ilpiac.updEng; (try dsimp only); (repeat' split) <;> simp

@[simp] theorem Ilpiac.giveInv_frame (m : Ilpiac) (e : Nat) (coll : CollId) (k : Nat) :
    (Ilpiac.giveInv m e coll k).regs = m.regs ∧ (Ilpiac.giveInv m e coll k).clk = m.clk ∧ (Ilpiac.giveInv m e coll k).free = m.free ∧ (Ilpiac.giveInv
      m e coll k).ctl = m.ctl ∧ (Ilpiac.giveInv m e coll k).flt = m.flt ∧ (Ilpiac.giveInv m e coll k).twin = m.twin ∧ (Ilpiac.giveInv m e coll k).sw =
      m.sw ∧ (Ilpiac.giveInv m e coll k).coll = m.coll ∧ (Ilpiac.giveInv m e coll k).hbm = m.hbm ∧ (Ilpiac.giveInv m e coll k).groups = m.groups ∧
      (Ilpiac.giveInv m e coll k).lanes = m.lanes ∧ (Ilpiac.giveInv m e coll k).links = m.links ∧ (Ilpiac.giveInv m e coll k).sync = m.sync ∧
      (Ilpiac.giveInv m e coll k).time = m.time ∧ (Ilpiac.giveInv m e coll k).record = m.record ∧ (Ilpiac.giveInv m e coll k).power = m.power ∧
      (Ilpiac.giveInv m e coll k).boot = m.boot := by
  unfold Ilpiac.giveInv; (try dsimp only); (repeat' split) <;> simp

@[simp] theorem Ilpiac.updPhase4_frame (m : Ilpiac) (k : CollId) (f : Phase4 → Phase4) :
    (Ilpiac.updPhase4 m k f).regs = m.regs ∧ (Ilpiac.updPhase4 m k f).clk = m.clk ∧ (Ilpiac.updPhase4 m k f).free = m.free ∧ (Ilpiac.updPhase4 m k
      f).ctl = m.ctl ∧ (Ilpiac.updPhase4 m k f).flt = m.flt ∧ (Ilpiac.updPhase4 m k f).twin = m.twin ∧ (Ilpiac.updPhase4 m k f).sw = m.sw ∧
      (Ilpiac.updPhase4 m k f).coll = m.coll ∧ (Ilpiac.updPhase4 m k f).hbm = m.hbm ∧ (Ilpiac.updPhase4 m k f).groups = m.groups ∧ (Ilpiac.updPhase4 m
      k f).lanes = m.lanes ∧ (Ilpiac.updPhase4 m k f).links = m.links ∧ (Ilpiac.updPhase4 m k f).sync = m.sync ∧ (Ilpiac.updPhase4 m k f).time =
      m.time ∧ (Ilpiac.updPhase4 m k f).record = m.record ∧ (Ilpiac.updPhase4 m k f).power = m.power ∧ (Ilpiac.updPhase4 m k f).boot = m.boot := by
  unfold Ilpiac.updPhase4; (try dsimp only); (repeat' split) <;> simp

@[simp] theorem Ilpiac.setLink_frame (m : Ilpiac) (lp : Nat) (x : LinkX) :
    (Ilpiac.setLink m lp x).regs = m.regs ∧ (Ilpiac.setLink m lp x).clk = m.clk ∧ (Ilpiac.setLink m lp x).free = m.free ∧ (Ilpiac.setLink m lp x).ctl
      = m.ctl ∧ (Ilpiac.setLink m lp x).flt = m.flt ∧ (Ilpiac.setLink m lp x).twin = m.twin ∧ (Ilpiac.setLink m lp x).sw = m.sw ∧ (Ilpiac.setLink m lp
      x).coll = m.coll ∧ (Ilpiac.setLink m lp x).trellis = m.trellis ∧ (Ilpiac.setLink m lp x).hbm = m.hbm ∧ (Ilpiac.setLink m lp x).groups = m.groups
      ∧ (Ilpiac.setLink m lp x).lanes = m.lanes ∧ (Ilpiac.setLink m lp x).sync = m.sync ∧ (Ilpiac.setLink m lp x).time = m.time ∧ (Ilpiac.setLink m lp
      x).record = m.record ∧ (Ilpiac.setLink m lp x).power = m.power ∧ (Ilpiac.setLink m lp x).boot = m.boot := by
  unfold Ilpiac.setLink; (try dsimp only); (repeat' split) <;> simp

@[simp] theorem Ilpiac.seqMark_frame (m : Ilpiac) (lp : Nat) :
    (Ilpiac.seqMark m lp).regs = m.regs ∧ (Ilpiac.seqMark m lp).clk = m.clk ∧ (Ilpiac.seqMark m lp).free = m.free ∧ (Ilpiac.seqMark m lp).ctl = m.ctl
      ∧ (Ilpiac.seqMark m lp).flt = m.flt ∧ (Ilpiac.seqMark m lp).twin = m.twin ∧ (Ilpiac.seqMark m lp).sw = m.sw ∧ (Ilpiac.seqMark m lp).coll =
      m.coll ∧ (Ilpiac.seqMark m lp).trellis = m.trellis ∧ (Ilpiac.seqMark m lp).hbm = m.hbm ∧ (Ilpiac.seqMark m lp).groups = m.groups ∧
      (Ilpiac.seqMark m lp).lanes = m.lanes ∧ (Ilpiac.seqMark m lp).sync = m.sync ∧ (Ilpiac.seqMark m lp).time = m.time ∧ (Ilpiac.seqMark m lp).record
      = m.record ∧ (Ilpiac.seqMark m lp).power = m.power ∧ (Ilpiac.seqMark m lp).boot = m.boot := by
  unfold Ilpiac.seqMark; (try dsimp only); (repeat' split) <;> simp

@[simp] theorem Ilpiac.stall_frame (m : Ilpiac) (c : Nat) :
    (Ilpiac.stall m c).clk = m.clk ∧ (Ilpiac.stall m c).free = m.free ∧ (Ilpiac.stall m c).ctl = m.ctl ∧ (Ilpiac.stall m c).flt = m.flt ∧
      (Ilpiac.stall m c).twin = m.twin ∧ (Ilpiac.stall m c).sw = m.sw ∧ (Ilpiac.stall m c).coll = m.coll ∧ (Ilpiac.stall m c).trellis = m.trellis ∧
      (Ilpiac.stall m c).hbm = m.hbm ∧ (Ilpiac.stall m c).groups = m.groups ∧ (Ilpiac.stall m c).lanes = m.lanes ∧ (Ilpiac.stall m c).links = m.links
      ∧ (Ilpiac.stall m c).sync = m.sync ∧ (Ilpiac.stall m c).time = m.time ∧ (Ilpiac.stall m c).record = m.record ∧ (Ilpiac.stall m c).power =
      m.power ∧ (Ilpiac.stall m c).boot = m.boot := by
  unfold Ilpiac.stall; (try dsimp only); (repeat' split) <;> simp

@[simp] theorem Ilpiac.due_frame (m : Ilpiac) (r : CplRec) :
    (Ilpiac.due m r).clk = m.clk ∧ (Ilpiac.due m r).free = m.free ∧ (Ilpiac.due m r).flt = m.flt ∧ (Ilpiac.due m r).twin = m.twin ∧ (Ilpiac.due m
      r).sw = m.sw ∧ (Ilpiac.due m r).coll = m.coll ∧ (Ilpiac.due m r).trellis = m.trellis ∧ (Ilpiac.due m r).hbm = m.hbm ∧ (Ilpiac.due m r).groups =
      m.groups ∧ (Ilpiac.due m r).lanes = m.lanes ∧ (Ilpiac.due m r).links = m.links ∧ (Ilpiac.due m r).sync = m.sync ∧ (Ilpiac.due m r).time = m.time
      ∧ (Ilpiac.due m r).record = m.record ∧ (Ilpiac.due m r).power = m.power ∧ (Ilpiac.due m r).boot = m.boot := by
  unfold Ilpiac.due; (try dsimp only); (repeat' split) <;> simp

@[simp] theorem Ilpiac.complete_frame (m : Ilpiac) (ring num : Nat) (ws : List Word) (status : Nat) (i : CplInfo) (coll : Option CollId) :
    (Ilpiac.complete m ring num ws status i coll).clk = m.clk ∧ (Ilpiac.complete m ring num ws status i coll).free = m.free ∧ (Ilpiac.complete m ring
      num ws status i coll).flt = m.flt ∧ (Ilpiac.complete m ring num ws status i coll).twin = m.twin ∧ (Ilpiac.complete m ring num ws status i
      coll).sw = m.sw ∧ (Ilpiac.complete m ring num ws status i coll).coll = m.coll ∧ (Ilpiac.complete m ring num ws status i coll).trellis =
      m.trellis ∧ (Ilpiac.complete m ring num ws status i coll).hbm = m.hbm ∧ (Ilpiac.complete m ring num ws status i coll).groups = m.groups ∧
      (Ilpiac.complete m ring num ws status i coll).lanes = m.lanes ∧ (Ilpiac.complete m ring num ws status i coll).links = m.links ∧ (Ilpiac.complete
      m ring num ws status i coll).sync = m.sync ∧ (Ilpiac.complete m ring num ws status i coll).time = m.time ∧ (Ilpiac.complete m ring num ws status
      i coll).record = m.record ∧ (Ilpiac.complete m ring num ws status i coll).power = m.power ∧ (Ilpiac.complete m ring num ws status i coll).boot =
      m.boot := by
  unfold Ilpiac.complete; (try dsimp only); (repeat' split) <;> simp

@[simp] theorem Ilpiac.countOut_frame (m : Ilpiac) (ch : Nat) :
    (Ilpiac.countOut m ch).clk = m.clk ∧ (Ilpiac.countOut m ch).free = m.free ∧ (Ilpiac.countOut m ch).ctl = m.ctl ∧ (Ilpiac.countOut m ch).flt =
      m.flt ∧ (Ilpiac.countOut m ch).twin = m.twin ∧ (Ilpiac.countOut m ch).sw = m.sw ∧ (Ilpiac.countOut m ch).coll = m.coll ∧ (Ilpiac.countOut m
      ch).trellis = m.trellis ∧ (Ilpiac.countOut m ch).hbm = m.hbm ∧ (Ilpiac.countOut m ch).groups = m.groups ∧ (Ilpiac.countOut m ch).lanes = m.lanes
      ∧ (Ilpiac.countOut m ch).links = m.links ∧ (Ilpiac.countOut m ch).sync = m.sync ∧ (Ilpiac.countOut m ch).time = m.time ∧ (Ilpiac.countOut m
      ch).record = m.record ∧ (Ilpiac.countOut m ch).power = m.power ∧ (Ilpiac.countOut m ch).boot = m.boot := by
  unfold Ilpiac.countOut; (try dsimp only); (repeat' split) <;> simp

@[simp] theorem Ilpiac.enq_frame (m : Ilpiac) (port id : Nat) :
    (Ilpiac.enq m port id).clk = m.clk ∧ (Ilpiac.enq m port id).free = m.free ∧ (Ilpiac.enq m port id).twin = m.twin ∧ (Ilpiac.enq m port id).coll =
      m.coll ∧ (Ilpiac.enq m port id).trellis = m.trellis ∧ (Ilpiac.enq m port id).hbm = m.hbm ∧ (Ilpiac.enq m port id).groups = m.groups ∧
      (Ilpiac.enq m port id).lanes = m.lanes ∧ (Ilpiac.enq m port id).links = m.links ∧ (Ilpiac.enq m port id).sync = m.sync ∧ (Ilpiac.enq m port
      id).time = m.time ∧ (Ilpiac.enq m port id).record = m.record ∧ (Ilpiac.enq m port id).boot = m.boot := by
  unfold Ilpiac.enq; (try dsimp only); (repeat' split) <;> simp

@[simp] theorem Ilpiac.setWaits_frame (m : Ilpiac) (l : List SyncWaitE) :
    (Ilpiac.setWaits m l).clk = m.clk ∧ (Ilpiac.setWaits m l).free = m.free ∧ (Ilpiac.setWaits m l).ctl = m.ctl ∧ (Ilpiac.setWaits m l).flt = m.flt ∧
      (Ilpiac.setWaits m l).twin = m.twin ∧ (Ilpiac.setWaits m l).sw = m.sw ∧ (Ilpiac.setWaits m l).coll = m.coll ∧ (Ilpiac.setWaits m l).trellis =
      m.trellis ∧ (Ilpiac.setWaits m l).hbm = m.hbm ∧ (Ilpiac.setWaits m l).groups = m.groups ∧ (Ilpiac.setWaits m l).lanes = m.lanes ∧
      (Ilpiac.setWaits m l).links = m.links ∧ (Ilpiac.setWaits m l).time = m.time ∧ (Ilpiac.setWaits m l).record = m.record ∧ (Ilpiac.setWaits m
      l).power = m.power ∧ (Ilpiac.setWaits m l).boot = m.boot := by
  unfold Ilpiac.setWaits; (try dsimp only); (repeat' split) <;> simp

@[simp] theorem Ilpiac.setCval_frame (m : Ilpiac) (n v : Nat) :
    (Ilpiac.setCval m n v).regs = m.regs ∧ (Ilpiac.setCval m n v).clk = m.clk ∧ (Ilpiac.setCval m n v).free = m.free ∧ (Ilpiac.setCval m n v).ctl =
      m.ctl ∧ (Ilpiac.setCval m n v).flt = m.flt ∧ (Ilpiac.setCval m n v).twin = m.twin ∧ (Ilpiac.setCval m n v).sw = m.sw ∧ (Ilpiac.setCval m n
      v).coll = m.coll ∧ (Ilpiac.setCval m n v).trellis = m.trellis ∧ (Ilpiac.setCval m n v).hbm = m.hbm ∧ (Ilpiac.setCval m n v).groups = m.groups ∧
      (Ilpiac.setCval m n v).lanes = m.lanes ∧ (Ilpiac.setCval m n v).links = m.links ∧ (Ilpiac.setCval m n v).time = m.time ∧ (Ilpiac.setCval m n
      v).record = m.record ∧ (Ilpiac.setCval m n v).power = m.power ∧ (Ilpiac.setCval m n v).boot = m.boot := by
  unfold Ilpiac.setCval; (try dsimp only); (repeat' split) <;> simp

@[simp] theorem Ilpiac.emit_frame (m : Ilpiac) (port : Nat) (p : Packet) (a : Area) (ingress : Nat) :
    (Ilpiac.emit m port p a ingress).clk = m.clk ∧ (Ilpiac.emit m port p a ingress).free = m.free ∧ (Ilpiac.emit m port p a ingress).twin = m.twin ∧
      (Ilpiac.emit m port p a ingress).coll = m.coll ∧ (Ilpiac.emit m port p a ingress).trellis = m.trellis ∧ (Ilpiac.emit m port p a ingress).hbm =
      m.hbm ∧ (Ilpiac.emit m port p a ingress).groups = m.groups ∧ (Ilpiac.emit m port p a ingress).lanes = m.lanes ∧ (Ilpiac.emit m port p a
      ingress).links = m.links ∧ (Ilpiac.emit m port p a ingress).sync = m.sync ∧ (Ilpiac.emit m port p a ingress).time = m.time ∧ (Ilpiac.emit m port
      p a ingress).record = m.record ∧ (Ilpiac.emit m port p a ingress).boot = m.boot := by
  unfold Ilpiac.emit; (try dsimp only); (repeat' split) <;> simp

@[simp] theorem Ilpiac.syncAnswer_frame (m : Ilpiac) (port tc tag result n value : Nat) :
    (Ilpiac.syncAnswer m port tc tag result n value).clk = m.clk ∧ (Ilpiac.syncAnswer m port tc tag result n value).free = m.free ∧ (Ilpiac.syncAnswer
      m port tc tag result n value).twin = m.twin ∧ (Ilpiac.syncAnswer m port tc tag result n value).coll = m.coll ∧ (Ilpiac.syncAnswer m port tc tag
      result n value).trellis = m.trellis ∧ (Ilpiac.syncAnswer m port tc tag result n value).hbm = m.hbm ∧ (Ilpiac.syncAnswer m port tc tag result n
      value).groups = m.groups ∧ (Ilpiac.syncAnswer m port tc tag result n value).lanes = m.lanes ∧ (Ilpiac.syncAnswer m port tc tag result n
      value).links = m.links ∧ (Ilpiac.syncAnswer m port tc tag result n value).sync = m.sync ∧ (Ilpiac.syncAnswer m port tc tag result n value).time
      = m.time ∧ (Ilpiac.syncAnswer m port tc tag result n value).record = m.record ∧ (Ilpiac.syncAnswer m port tc tag result n value).boot = m.boot
      := by
  (repeat' apply And.intro) <;> (unfold Ilpiac.syncAnswer; (try extract_lets); (repeat' split) <;> simp +zetaDelta -implicitDefEqProofs)

@[simp] theorem Ilpiac.endWait_frame (m : Ilpiac) (w : SyncWaitE) (final value status result : Nat) :
    (Ilpiac.endWait m w final value status result).clk = m.clk ∧ (Ilpiac.endWait m w final value status result).free = m.free ∧ (Ilpiac.endWait m w
      final value status result).twin = m.twin ∧ (Ilpiac.endWait m w final value status result).coll = m.coll ∧ (Ilpiac.endWait m w final value status
      result).trellis = m.trellis ∧ (Ilpiac.endWait m w final value status result).hbm = m.hbm ∧ (Ilpiac.endWait m w final value status result).groups
      = m.groups ∧ (Ilpiac.endWait m w final value status result).lanes = m.lanes ∧ (Ilpiac.endWait m w final value status result).links = m.links ∧
      (Ilpiac.endWait m w final value status result).sync = m.sync ∧ (Ilpiac.endWait m w final value status result).time = m.time ∧ (Ilpiac.endWait m
      w final value status result).record = m.record ∧ (Ilpiac.endWait m w final value status result).boot = m.boot := by
  (repeat' apply And.intro) <;> (unfold Ilpiac.endWait; (try extract_lets); (repeat' split) <;> simp +zetaDelta -implicitDefEqProofs)

@[simp] theorem Ilpiac.releaseWaits_frame (m : Ilpiac) (n : Nat) :
    (Ilpiac.releaseWaits m n).clk = m.clk ∧ (Ilpiac.releaseWaits m n).free = m.free ∧ (Ilpiac.releaseWaits m n).twin = m.twin ∧ (Ilpiac.releaseWaits m
      n).coll = m.coll ∧ (Ilpiac.releaseWaits m n).trellis = m.trellis ∧ (Ilpiac.releaseWaits m n).hbm = m.hbm ∧ (Ilpiac.releaseWaits m n).groups =
      m.groups ∧ (Ilpiac.releaseWaits m n).lanes = m.lanes ∧ (Ilpiac.releaseWaits m n).links = m.links ∧ (Ilpiac.releaseWaits m n).time = m.time ∧
      (Ilpiac.releaseWaits m n).record = m.record ∧ (Ilpiac.releaseWaits m n).boot = m.boot := by
  unfold Ilpiac.releaseWaits; (try dsimp only); (repeat' split) <;> simp

@[simp] theorem Ilpiac.setPoison_frame (m : Ilpiac) (cw : Nat) (b : Bool) :
    (Ilpiac.setPoison m cw b).regs = m.regs ∧ (Ilpiac.setPoison m cw b).clk = m.clk ∧ (Ilpiac.setPoison m cw b).free = m.free ∧ (Ilpiac.setPoison m cw
      b).ctl = m.ctl ∧ (Ilpiac.setPoison m cw b).flt = m.flt ∧ (Ilpiac.setPoison m cw b).twin = m.twin ∧ (Ilpiac.setPoison m cw b).sw = m.sw ∧
      (Ilpiac.setPoison m cw b).coll = m.coll ∧ (Ilpiac.setPoison m cw b).trellis = m.trellis ∧ (Ilpiac.setPoison m cw b).groups = m.groups ∧
      (Ilpiac.setPoison m cw b).lanes = m.lanes ∧ (Ilpiac.setPoison m cw b).links = m.links ∧ (Ilpiac.setPoison m cw b).sync = m.sync ∧
      (Ilpiac.setPoison m cw b).time = m.time ∧ (Ilpiac.setPoison m cw b).record = m.record ∧ (Ilpiac.setPoison m cw b).power = m.power ∧
      (Ilpiac.setPoison m cw b).boot = m.boot := by
  unfold Ilpiac.setPoison; (try dsimp only); (repeat' split) <;> simp

@[simp] theorem Ilpiac.outNow_frame (m : Ilpiac) (ch : Nat) :
    (Ilpiac.outNow m ch).clk = m.clk ∧ (Ilpiac.outNow m ch).free = m.free ∧ (Ilpiac.outNow m ch).ctl = m.ctl ∧ (Ilpiac.outNow m ch).flt = m.flt ∧
      (Ilpiac.outNow m ch).twin = m.twin ∧ (Ilpiac.outNow m ch).sw = m.sw ∧ (Ilpiac.outNow m ch).coll = m.coll ∧ (Ilpiac.outNow m ch).trellis =
      m.trellis ∧ (Ilpiac.outNow m ch).hbm = m.hbm ∧ (Ilpiac.outNow m ch).groups = m.groups ∧ (Ilpiac.outNow m ch).lanes = m.lanes ∧ (Ilpiac.outNow m
      ch).links = m.links ∧ (Ilpiac.outNow m ch).sync = m.sync ∧ (Ilpiac.outNow m ch).time = m.time ∧ (Ilpiac.outNow m ch).record = m.record ∧
      (Ilpiac.outNow m ch).power = m.power ∧ (Ilpiac.outNow m ch).boot = m.boot := by
  unfold Ilpiac.outNow; (try dsimp only); (repeat' split) <;> simp

@[simp] theorem Ilpiac.setData_frame (m : Ilpiac) (cw : Nat) (d : List Byte) :
    (Ilpiac.setData m cw d).regs = m.regs ∧ (Ilpiac.setData m cw d).clk = m.clk ∧ (Ilpiac.setData m cw d).free = m.free ∧ (Ilpiac.setData m cw d).ctl
      = m.ctl ∧ (Ilpiac.setData m cw d).flt = m.flt ∧ (Ilpiac.setData m cw d).twin = m.twin ∧ (Ilpiac.setData m cw d).sw = m.sw ∧ (Ilpiac.setData m cw
      d).coll = m.coll ∧ (Ilpiac.setData m cw d).trellis = m.trellis ∧ (Ilpiac.setData m cw d).groups = m.groups ∧ (Ilpiac.setData m cw d).lanes =
      m.lanes ∧ (Ilpiac.setData m cw d).links = m.links ∧ (Ilpiac.setData m cw d).sync = m.sync ∧ (Ilpiac.setData m cw d).time = m.time ∧
      (Ilpiac.setData m cw d).record = m.record ∧ (Ilpiac.setData m cw d).power = m.power ∧ (Ilpiac.setData m cw d).boot = m.boot := by
  unfold Ilpiac.setData; (try dsimp only); (repeat' split) <;> simp

@[simp] theorem Ilpiac.journal_frame (m : Ilpiac) (r : JRec) :
    (Ilpiac.journal m r).clk = m.clk ∧ (Ilpiac.journal m r).free = m.free ∧ (Ilpiac.journal m r).ctl = m.ctl ∧ (Ilpiac.journal m r).flt = m.flt ∧
      (Ilpiac.journal m r).twin = m.twin ∧ (Ilpiac.journal m r).sw = m.sw ∧ (Ilpiac.journal m r).coll = m.coll ∧ (Ilpiac.journal m r).trellis =
      m.trellis ∧ (Ilpiac.journal m r).hbm = m.hbm ∧ (Ilpiac.journal m r).groups = m.groups ∧ (Ilpiac.journal m r).lanes = m.lanes ∧ (Ilpiac.journal m
      r).links = m.links ∧ (Ilpiac.journal m r).sync = m.sync ∧ (Ilpiac.journal m r).time = m.time ∧ (Ilpiac.journal m r).boot = m.boot := by
  unfold Ilpiac.journal; (try dsimp only); (repeat' split) <;> simp

@[simp] theorem Ilpiac.draw_frame (m : Ilpiac) :
    (Ilpiac.draw m).2.regs = m.regs ∧ (Ilpiac.draw m).2.clk = m.clk ∧ (Ilpiac.draw m).2.ctl = m.ctl ∧ (Ilpiac.draw m).2.flt = m.flt ∧ (Ilpiac.draw
      m).2.twin = m.twin ∧ (Ilpiac.draw m).2.sw = m.sw ∧ (Ilpiac.draw m).2.coll = m.coll ∧ (Ilpiac.draw m).2.trellis = m.trellis ∧ (Ilpiac.draw
      m).2.hbm = m.hbm ∧ (Ilpiac.draw m).2.groups = m.groups ∧ (Ilpiac.draw m).2.lanes = m.lanes ∧ (Ilpiac.draw m).2.links = m.links ∧ (Ilpiac.draw
      m).2.sync = m.sync ∧ (Ilpiac.draw m).2.time = m.time ∧ (Ilpiac.draw m).2.record = m.record ∧ (Ilpiac.draw m).2.power = m.power ∧ (Ilpiac.draw
      m).2.boot = m.boot := by
  unfold Ilpiac.draw; (try dsimp only); (repeat' split) <;> simp

@[simp] theorem Ilpiac.recordOut_frame (m : Ilpiac) (ch cause : Nat) :
    (Ilpiac.recordOut m ch cause).clk = m.clk ∧ (Ilpiac.recordOut m ch cause).ctl = m.ctl ∧ (Ilpiac.recordOut m ch cause).flt = m.flt ∧
      (Ilpiac.recordOut m ch cause).twin = m.twin ∧ (Ilpiac.recordOut m ch cause).sw = m.sw ∧ (Ilpiac.recordOut m ch cause).coll = m.coll ∧
      (Ilpiac.recordOut m ch cause).trellis = m.trellis ∧ (Ilpiac.recordOut m ch cause).hbm = m.hbm ∧ (Ilpiac.recordOut m ch cause).groups = m.groups
      ∧ (Ilpiac.recordOut m ch cause).lanes = m.lanes ∧ (Ilpiac.recordOut m ch cause).links = m.links ∧ (Ilpiac.recordOut m ch cause).sync = m.sync ∧
      (Ilpiac.recordOut m ch cause).time = m.time ∧ (Ilpiac.recordOut m ch cause).boot = m.boot := by
  unfold Ilpiac.recordOut; (try dsimp only); (repeat' split) <;> simp

@[simp] theorem Ilpiac.migrationEnd_frame (m : Ilpiac) (g : Migration) :
    (Ilpiac.migrationEnd m g).clk = m.clk ∧ (Ilpiac.migrationEnd m g).free = m.free ∧ (Ilpiac.migrationEnd m g).ctl = m.ctl ∧ (Ilpiac.migrationEnd m
      g).flt = m.flt ∧ (Ilpiac.migrationEnd m g).twin = m.twin ∧ (Ilpiac.migrationEnd m g).sw = m.sw ∧ (Ilpiac.migrationEnd m g).coll = m.coll ∧
      (Ilpiac.migrationEnd m g).trellis = m.trellis ∧ (Ilpiac.migrationEnd m g).groups = m.groups ∧ (Ilpiac.migrationEnd m g).lanes = m.lanes ∧
      (Ilpiac.migrationEnd m g).links = m.links ∧ (Ilpiac.migrationEnd m g).sync = m.sync ∧ (Ilpiac.migrationEnd m g).time = m.time ∧
      (Ilpiac.migrationEnd m g).record = m.record ∧ (Ilpiac.migrationEnd m g).power = m.power ∧ (Ilpiac.migrationEnd m g).boot = m.boot := by
  unfold Ilpiac.migrationEnd; (try dsimp only); (repeat' split) <;> simp

@[simp] theorem Ilpiac.inject_frame (m : Ilpiac) (cw : Nat) :
    (Ilpiac.inject m cw).clk = m.clk ∧ (Ilpiac.inject m cw).ctl = m.ctl ∧ (Ilpiac.inject m cw).flt = m.flt ∧ (Ilpiac.inject m cw).twin = m.twin ∧
      (Ilpiac.inject m cw).sw = m.sw ∧ (Ilpiac.inject m cw).coll = m.coll ∧ (Ilpiac.inject m cw).trellis = m.trellis ∧ (Ilpiac.inject m cw).groups =
      m.groups ∧ (Ilpiac.inject m cw).lanes = m.lanes ∧ (Ilpiac.inject m cw).links = m.links ∧ (Ilpiac.inject m cw).sync = m.sync ∧ (Ilpiac.inject m
      cw).time = m.time ∧ (Ilpiac.inject m cw).record = m.record ∧ (Ilpiac.inject m cw).power = m.power ∧ (Ilpiac.inject m cw).boot = m.boot := by
  unfold Ilpiac.inject; (try dsimp only); (repeat' split) <;> simp

@[simp] theorem Ilpiac.cwWrite_frame (m : Ilpiac) (cw : Nat) (d : List Byte) (poison : Bool) :
    (Ilpiac.cwWrite m cw d poison).clk = m.clk ∧ (Ilpiac.cwWrite m cw d poison).ctl = m.ctl ∧ (Ilpiac.cwWrite m cw d poison).flt = m.flt ∧
      (Ilpiac.cwWrite m cw d poison).twin = m.twin ∧ (Ilpiac.cwWrite m cw d poison).sw = m.sw ∧ (Ilpiac.cwWrite m cw d poison).coll = m.coll ∧
      (Ilpiac.cwWrite m cw d poison).trellis = m.trellis ∧ (Ilpiac.cwWrite m cw d poison).groups = m.groups ∧ (Ilpiac.cwWrite m cw d poison).lanes =
      m.lanes ∧ (Ilpiac.cwWrite m cw d poison).links = m.links ∧ (Ilpiac.cwWrite m cw d poison).sync = m.sync ∧ (Ilpiac.cwWrite m cw d poison).time =
      m.time ∧ (Ilpiac.cwWrite m cw d poison).record = m.record ∧ (Ilpiac.cwWrite m cw d poison).power = m.power ∧ (Ilpiac.cwWrite m cw d poison).boot
      = m.boot := by
  unfold Ilpiac.cwWrite; (try dsimp only); (repeat' split) <;> simp

@[simp] theorem Ilpiac.lostUnit_frame (m : Ilpiac) (a : Nat) :
    (Ilpiac.lostUnit m a).regs = m.regs ∧ (Ilpiac.lostUnit m a).clk = m.clk ∧ (Ilpiac.lostUnit m a).free = m.free ∧ (Ilpiac.lostUnit m a).ctl = m.ctl
      ∧ (Ilpiac.lostUnit m a).flt = m.flt ∧ (Ilpiac.lostUnit m a).twin = m.twin ∧ (Ilpiac.lostUnit m a).sw = m.sw ∧ (Ilpiac.lostUnit m a).coll =
      m.coll ∧ (Ilpiac.lostUnit m a).trellis = m.trellis ∧ (Ilpiac.lostUnit m a).hbm = m.hbm ∧ (Ilpiac.lostUnit m a).lanes = m.lanes ∧
      (Ilpiac.lostUnit m a).links = m.links ∧ (Ilpiac.lostUnit m a).sync = m.sync ∧ (Ilpiac.lostUnit m a).time = m.time ∧ (Ilpiac.lostUnit m a).record
      = m.record ∧ (Ilpiac.lostUnit m a).power = m.power ∧ (Ilpiac.lostUnit m a).boot = m.boot := by
  unfold Ilpiac.lostUnit; (try dsimp only); (repeat' split) <;> simp

@[simp] theorem Ilpiac.wakeStack_frame (m : Ilpiac) (ch : Nat) :
    (Ilpiac.wakeStack m ch).clk = m.clk ∧ (Ilpiac.wakeStack m ch).free = m.free ∧ (Ilpiac.wakeStack m ch).ctl = m.ctl ∧ (Ilpiac.wakeStack m ch).flt =
      m.flt ∧ (Ilpiac.wakeStack m ch).twin = m.twin ∧ (Ilpiac.wakeStack m ch).sw = m.sw ∧ (Ilpiac.wakeStack m ch).coll = m.coll ∧ (Ilpiac.wakeStack m
      ch).trellis = m.trellis ∧ (Ilpiac.wakeStack m ch).hbm = m.hbm ∧ (Ilpiac.wakeStack m ch).groups = m.groups ∧ (Ilpiac.wakeStack m ch).lanes =
      m.lanes ∧ (Ilpiac.wakeStack m ch).links = m.links ∧ (Ilpiac.wakeStack m ch).sync = m.sync ∧ (Ilpiac.wakeStack m ch).time = m.time ∧
      (Ilpiac.wakeStack m ch).record = m.record ∧ (Ilpiac.wakeStack m ch).power = m.power ∧ (Ilpiac.wakeStack m ch).boot = m.boot := by
  unfold Ilpiac.wakeStack; (try dsimp only); (repeat' split) <;> simp

@[simp] theorem Ilpiac.boardStore_frame (m : Ilpiac) (addr : Nat) (d : List Byte) :
    (Ilpiac.boardStore m addr d).2.clk = m.clk ∧ (Ilpiac.boardStore m addr d).2.free = m.free ∧ (Ilpiac.boardStore m addr d).2.twin = m.twin ∧
      (Ilpiac.boardStore m addr d).2.sw = m.sw ∧ (Ilpiac.boardStore m addr d).2.coll = m.coll ∧ (Ilpiac.boardStore m addr d).2.trellis = m.trellis ∧
      (Ilpiac.boardStore m addr d).2.hbm = m.hbm ∧ (Ilpiac.boardStore m addr d).2.groups = m.groups ∧ (Ilpiac.boardStore m addr d).2.lanes = m.lanes ∧
      (Ilpiac.boardStore m addr d).2.links = m.links ∧ (Ilpiac.boardStore m addr d).2.sync = m.sync ∧ (Ilpiac.boardStore m addr d).2.time = m.time ∧
      (Ilpiac.boardStore m addr d).2.record = m.record ∧ (Ilpiac.boardStore m addr d).2.boot = m.boot := by
  unfold Ilpiac.boardStore; (try dsimp only); (repeat' split) <;> simp

@[simp] theorem Ilpiac.plw_frame (m : Ilpiac) (lp : Nat) (f : Fld) (v : Nat) :
    (Ilpiac.plw m lp f v).clk = m.clk ∧ (Ilpiac.plw m lp f v).free = m.free ∧ (Ilpiac.plw m lp f v).ctl = m.ctl ∧ (Ilpiac.plw m lp f v).flt = m.flt ∧
      (Ilpiac.plw m lp f v).twin = m.twin ∧ (Ilpiac.plw m lp f v).sw = m.sw ∧ (Ilpiac.plw m lp f v).coll = m.coll ∧ (Ilpiac.plw m lp f v).trellis =
      m.trellis ∧ (Ilpiac.plw m lp f v).hbm = m.hbm ∧ (Ilpiac.plw m lp f v).groups = m.groups ∧ (Ilpiac.plw m lp f v).lanes = m.lanes ∧ (Ilpiac.plw m
      lp f v).links = m.links ∧ (Ilpiac.plw m lp f v).sync = m.sync ∧ (Ilpiac.plw m lp f v).time = m.time ∧ (Ilpiac.plw m lp f v).record = m.record ∧
      (Ilpiac.plw m lp f v).power = m.power ∧ (Ilpiac.plw m lp f v).boot = m.boot := by
  unfold Ilpiac.plw; (try dsimp only); (repeat' split) <;> simp

@[simp] theorem Ilpiac.wrapCnt_frame (m : Ilpiac) (b : Blk) (n : Nat) (f : Fld) (k : Nat) (j : Nat) :
    (Ilpiac.wrapCnt m b n f k j).clk = m.clk ∧ (Ilpiac.wrapCnt m b n f k j).free = m.free ∧ (Ilpiac.wrapCnt m b n f k j).ctl = m.ctl ∧ (Ilpiac.wrapCnt
      m b n f k j).flt = m.flt ∧ (Ilpiac.wrapCnt m b n f k j).twin = m.twin ∧ (Ilpiac.wrapCnt m b n f k j).sw = m.sw ∧ (Ilpiac.wrapCnt m b n f k
      j).coll = m.coll ∧ (Ilpiac.wrapCnt m b n f k j).trellis = m.trellis ∧ (Ilpiac.wrapCnt m b n f k j).hbm = m.hbm ∧ (Ilpiac.wrapCnt m b n f k
      j).groups = m.groups ∧ (Ilpiac.wrapCnt m b n f k j).lanes = m.lanes ∧ (Ilpiac.wrapCnt m b n f k j).links = m.links ∧ (Ilpiac.wrapCnt m b n f k
      j).sync = m.sync ∧ (Ilpiac.wrapCnt m b n f k j).time = m.time ∧ (Ilpiac.wrapCnt m b n f k j).record = m.record ∧ (Ilpiac.wrapCnt m b n f k
      j).power = m.power ∧ (Ilpiac.wrapCnt m b n f k j).boot = m.boot := by
  unfold Ilpiac.wrapCnt; (try dsimp only); (repeat' split) <;> simp

@[simp] theorem Ilpiac.noteRefusals_frame (m : Ilpiac) (l : List (Nat × Nat × Bool)) :
    (Ilpiac.noteRefusals m l).clk = m.clk ∧ (Ilpiac.noteRefusals m l).free = m.free ∧ (Ilpiac.noteRefusals m l).ctl = m.ctl ∧ (Ilpiac.noteRefusals m
      l).flt = m.flt ∧ (Ilpiac.noteRefusals m l).twin = m.twin ∧ (Ilpiac.noteRefusals m l).sw = m.sw ∧ (Ilpiac.noteRefusals m l).coll = m.coll ∧
      (Ilpiac.noteRefusals m l).trellis = m.trellis ∧ (Ilpiac.noteRefusals m l).hbm = m.hbm ∧ (Ilpiac.noteRefusals m l).groups = m.groups ∧
      (Ilpiac.noteRefusals m l).lanes = m.lanes ∧ (Ilpiac.noteRefusals m l).links = m.links ∧ (Ilpiac.noteRefusals m l).sync = m.sync ∧
      (Ilpiac.noteRefusals m l).time = m.time ∧ (Ilpiac.noteRefusals m l).record = m.record ∧ (Ilpiac.noteRefusals m l).power = m.power ∧
      (Ilpiac.noteRefusals m l).boot = m.boot := by
  unfold Ilpiac.noteRefusals; (try dsimp only); (repeat' split) <;> simp

@[simp] theorem Ilpiac.setEngState_frame (m : Ilpiac) (e s : Nat) :
    (Ilpiac.setEngState m e s).clk = m.clk ∧ (Ilpiac.setEngState m e s).free = m.free ∧ (Ilpiac.setEngState m e s).ctl = m.ctl ∧ (Ilpiac.setEngState m
      e s).flt = m.flt ∧ (Ilpiac.setEngState m e s).twin = m.twin ∧ (Ilpiac.setEngState m e s).sw = m.sw ∧ (Ilpiac.setEngState m e s).coll = m.coll ∧
      (Ilpiac.setEngState m e s).trellis = m.trellis ∧ (Ilpiac.setEngState m e s).hbm = m.hbm ∧ (Ilpiac.setEngState m e s).groups = m.groups ∧
      (Ilpiac.setEngState m e s).lanes = m.lanes ∧ (Ilpiac.setEngState m e s).links = m.links ∧ (Ilpiac.setEngState m e s).sync = m.sync ∧
      (Ilpiac.setEngState m e s).time = m.time ∧ (Ilpiac.setEngState m e s).record = m.record ∧ (Ilpiac.setEngState m e s).power = m.power ∧
      (Ilpiac.setEngState m e s).boot = m.boot := by
  unfold Ilpiac.setEngState; (try dsimp only); (repeat' split) <;> simp

@[simp] theorem Ilpiac.announce_frame (m : Ilpiac) (lp : Nat) :
    (Ilpiac.announce m lp).regs = m.regs ∧ (Ilpiac.announce m lp).clk = m.clk ∧ (Ilpiac.announce m lp).free = m.free ∧ (Ilpiac.announce m lp).ctl =
      m.ctl ∧ (Ilpiac.announce m lp).flt = m.flt ∧ (Ilpiac.announce m lp).twin = m.twin ∧ (Ilpiac.announce m lp).sw = m.sw ∧ (Ilpiac.announce m
      lp).coll = m.coll ∧ (Ilpiac.announce m lp).trellis = m.trellis ∧ (Ilpiac.announce m lp).hbm = m.hbm ∧ (Ilpiac.announce m lp).groups = m.groups ∧
      (Ilpiac.announce m lp).lanes = m.lanes ∧ (Ilpiac.announce m lp).sync = m.sync ∧ (Ilpiac.announce m lp).time = m.time ∧ (Ilpiac.announce m
      lp).record = m.record ∧ (Ilpiac.announce m lp).power = m.power ∧ (Ilpiac.announce m lp).boot = m.boot := by
  unfold Ilpiac.announce; (try dsimp only); (repeat' split) <;> simp

@[simp] theorem Ilpiac.lw_frame (m : Ilpiac) (l : Nat) (f : Fld) (v : Nat) :
    (Ilpiac.lw m l f v).clk = m.clk ∧ (Ilpiac.lw m l f v).free = m.free ∧ (Ilpiac.lw m l f v).ctl = m.ctl ∧ (Ilpiac.lw m l f v).flt = m.flt ∧
      (Ilpiac.lw m l f v).twin = m.twin ∧ (Ilpiac.lw m l f v).sw = m.sw ∧ (Ilpiac.lw m l f v).coll = m.coll ∧ (Ilpiac.lw m l f v).trellis = m.trellis
      ∧ (Ilpiac.lw m l f v).hbm = m.hbm ∧ (Ilpiac.lw m l f v).groups = m.groups ∧ (Ilpiac.lw m l f v).lanes = m.lanes ∧ (Ilpiac.lw m l f v).links =
      m.links ∧ (Ilpiac.lw m l f v).sync = m.sync ∧ (Ilpiac.lw m l f v).time = m.time ∧ (Ilpiac.lw m l f v).record = m.record ∧ (Ilpiac.lw m l f
      v).power = m.power ∧ (Ilpiac.lw m l f v).boot = m.boot := by
  unfold Ilpiac.lw; (try dsimp only); (repeat' split) <;> simp

@[simp] theorem Ilpiac.updComm_frame (m : Ilpiac) (id : Nat) (f : Comm → Comm) :
    (Ilpiac.updComm m id f).regs = m.regs ∧ (Ilpiac.updComm m id f).clk = m.clk ∧ (Ilpiac.updComm m id f).free = m.free ∧ (Ilpiac.updComm m id f).ctl
      = m.ctl ∧ (Ilpiac.updComm m id f).flt = m.flt ∧ (Ilpiac.updComm m id f).twin = m.twin ∧ (Ilpiac.updComm m id f).sw = m.sw ∧ (Ilpiac.updComm m id
      f).trellis = m.trellis ∧ (Ilpiac.updComm m id f).hbm = m.hbm ∧ (Ilpiac.updComm m id f).groups = m.groups ∧ (Ilpiac.updComm m id f).lanes =
      m.lanes ∧ (Ilpiac.updComm m id f).links = m.links ∧ (Ilpiac.updComm m id f).sync = m.sync ∧ (Ilpiac.updComm m id f).time = m.time ∧
      (Ilpiac.updComm m id f).record = m.record ∧ (Ilpiac.updComm m id f).power = m.power ∧ (Ilpiac.updComm m id f).boot = m.boot := by
  unfold Ilpiac.updComm; (try dsimp only); (repeat' split) <;> simp

@[simp] theorem Ilpiac.datagram_frame (m : Ilpiac) (id : Nat) :
    (Ilpiac.datagram m id).clk = m.clk ∧ (Ilpiac.datagram m id).free = m.free ∧ (Ilpiac.datagram m id).twin = m.twin ∧ (Ilpiac.datagram m id).coll =
      m.coll ∧ (Ilpiac.datagram m id).trellis = m.trellis ∧ (Ilpiac.datagram m id).hbm = m.hbm ∧ (Ilpiac.datagram m id).groups = m.groups ∧
      (Ilpiac.datagram m id).lanes = m.lanes ∧ (Ilpiac.datagram m id).links = m.links ∧ (Ilpiac.datagram m id).sync = m.sync ∧ (Ilpiac.datagram m
      id).time = m.time ∧ (Ilpiac.datagram m id).record = m.record ∧ (Ilpiac.datagram m id).boot = m.boot := by
  unfold Ilpiac.datagram; (try dsimp only); (repeat' split) <;> simp

@[simp] theorem Ilpiac.done_frame (m : Ilpiac) (d : AccDesc) (status : Nat) (i : CplInfo) :
    (Ilpiac.done m d status i).clk = m.clk ∧ (Ilpiac.done m d status i).free = m.free ∧ (Ilpiac.done m d status i).flt = m.flt ∧ (Ilpiac.done m d
      status i).twin = m.twin ∧ (Ilpiac.done m d status i).sw = m.sw ∧ (Ilpiac.done m d status i).coll = m.coll ∧ (Ilpiac.done m d status i).trellis =
      m.trellis ∧ (Ilpiac.done m d status i).hbm = m.hbm ∧ (Ilpiac.done m d status i).groups = m.groups ∧ (Ilpiac.done m d status i).lanes = m.lanes ∧
      (Ilpiac.done m d status i).links = m.links ∧ (Ilpiac.done m d status i).sync = m.sync ∧ (Ilpiac.done m d status i).time = m.time ∧ (Ilpiac.done
      m d status i).record = m.record ∧ (Ilpiac.done m d status i).power = m.power ∧ (Ilpiac.done m d status i).boot = m.boot := by
  unfold Ilpiac.done; (try dsimp only); (repeat' split) <;> simp

@[simp] theorem Ilpiac.throttleBits_frame (m : Ilpiac) :
    (Ilpiac.throttleBits m).clk = m.clk ∧ (Ilpiac.throttleBits m).free = m.free ∧ (Ilpiac.throttleBits m).ctl = m.ctl ∧ (Ilpiac.throttleBits m).flt =
      m.flt ∧ (Ilpiac.throttleBits m).twin = m.twin ∧ (Ilpiac.throttleBits m).sw = m.sw ∧ (Ilpiac.throttleBits m).coll = m.coll ∧ (Ilpiac.throttleBits
      m).trellis = m.trellis ∧ (Ilpiac.throttleBits m).hbm = m.hbm ∧ (Ilpiac.throttleBits m).groups = m.groups ∧ (Ilpiac.throttleBits m).lanes =
      m.lanes ∧ (Ilpiac.throttleBits m).links = m.links ∧ (Ilpiac.throttleBits m).sync = m.sync ∧ (Ilpiac.throttleBits m).time = m.time ∧
      (Ilpiac.throttleBits m).record = m.record ∧ (Ilpiac.throttleBits m).boot = m.boot := by
  unfold Ilpiac.throttleBits; (try dsimp only); (repeat' split) <;> simp

@[simp] theorem Ilpiac.updColl_frame (m : Ilpiac) (k : CollId) (f : Coll → Coll) :
    (Ilpiac.updColl m k f).regs = m.regs ∧ (Ilpiac.updColl m k f).clk = m.clk ∧ (Ilpiac.updColl m k f).free = m.free ∧ (Ilpiac.updColl m k f).ctl =
      m.ctl ∧ (Ilpiac.updColl m k f).flt = m.flt ∧ (Ilpiac.updColl m k f).twin = m.twin ∧ (Ilpiac.updColl m k f).sw = m.sw ∧ (Ilpiac.updColl m k
      f).trellis = m.trellis ∧ (Ilpiac.updColl m k f).hbm = m.hbm ∧ (Ilpiac.updColl m k f).groups = m.groups ∧ (Ilpiac.updColl m k f).lanes = m.lanes
      ∧ (Ilpiac.updColl m k f).links = m.links ∧ (Ilpiac.updColl m k f).sync = m.sync ∧ (Ilpiac.updColl m k f).time = m.time ∧ (Ilpiac.updColl m k
      f).record = m.record ∧ (Ilpiac.updColl m k f).power = m.power ∧ (Ilpiac.updColl m k f).boot = m.boot := by
  unfold Ilpiac.updColl; (try dsimp only); (repeat' split) <;> simp

@[simp] theorem Ilpiac.failColl_frame (m : Ilpiac) (k : CollId) (status : Nat) (fault : Option (Nat × Nat)) :
    (Ilpiac.failColl m k status fault).regs = m.regs ∧ (Ilpiac.failColl m k status fault).clk = m.clk ∧ (Ilpiac.failColl m k status fault).free =
      m.free ∧ (Ilpiac.failColl m k status fault).ctl = m.ctl ∧ (Ilpiac.failColl m k status fault).flt = m.flt ∧ (Ilpiac.failColl m k status
      fault).twin = m.twin ∧ (Ilpiac.failColl m k status fault).sw = m.sw ∧ (Ilpiac.failColl m k status fault).trellis = m.trellis ∧ (Ilpiac.failColl
      m k status fault).hbm = m.hbm ∧ (Ilpiac.failColl m k status fault).groups = m.groups ∧ (Ilpiac.failColl m k status fault).lanes = m.lanes ∧
      (Ilpiac.failColl m k status fault).links = m.links ∧ (Ilpiac.failColl m k status fault).sync = m.sync ∧ (Ilpiac.failColl m k status fault).time
      = m.time ∧ (Ilpiac.failColl m k status fault).record = m.record ∧ (Ilpiac.failColl m k status fault).power = m.power ∧ (Ilpiac.failColl m k
      status fault).boot = m.boot := by
  unfold Ilpiac.failColl; (try dsimp only); (repeat' split) <;> simp

@[simp] theorem Ilpiac.sendDatagram_frame (m : Ilpiac) (p : Packet) (a : Area) :
    (Ilpiac.sendDatagram m p a).clk = m.clk ∧ (Ilpiac.sendDatagram m p a).free = m.free ∧ (Ilpiac.sendDatagram m p a).twin = m.twin ∧
      (Ilpiac.sendDatagram m p a).coll = m.coll ∧ (Ilpiac.sendDatagram m p a).trellis = m.trellis ∧ (Ilpiac.sendDatagram m p a).hbm = m.hbm ∧
      (Ilpiac.sendDatagram m p a).groups = m.groups ∧ (Ilpiac.sendDatagram m p a).lanes = m.lanes ∧ (Ilpiac.sendDatagram m p a).links = m.links ∧
      (Ilpiac.sendDatagram m p a).sync = m.sync ∧ (Ilpiac.sendDatagram m p a).time = m.time ∧ (Ilpiac.sendDatagram m p a).record = m.record ∧
      (Ilpiac.sendDatagram m p a).boot = m.boot := by
  unfold Ilpiac.sendDatagram; (try dsimp only); (repeat' split) <;> simp

@[simp] theorem Ilpiac.countHoses_frame (m : Ilpiac) :
    (Ilpiac.countHoses m).clk = m.clk ∧ (Ilpiac.countHoses m).free = m.free ∧ (Ilpiac.countHoses m).ctl = m.ctl ∧ (Ilpiac.countHoses m).flt = m.flt ∧
      (Ilpiac.countHoses m).twin = m.twin ∧ (Ilpiac.countHoses m).sw = m.sw ∧ (Ilpiac.countHoses m).coll = m.coll ∧ (Ilpiac.countHoses m).trellis =
      m.trellis ∧ (Ilpiac.countHoses m).hbm = m.hbm ∧ (Ilpiac.countHoses m).groups = m.groups ∧ (Ilpiac.countHoses m).lanes = m.lanes ∧
      (Ilpiac.countHoses m).links = m.links ∧ (Ilpiac.countHoses m).sync = m.sync ∧ (Ilpiac.countHoses m).time = m.time ∧ (Ilpiac.countHoses m).record
      = m.record ∧ (Ilpiac.countHoses m).power = m.power ∧ (Ilpiac.countHoses m).boot = m.boot := by
  unfold Ilpiac.countHoses; (try dsimp only); (repeat' split) <;> simp

@[simp] theorem Ilpiac.freeHoseEntry_frame (m : Ilpiac) (h : Nat) :
    (Ilpiac.freeHoseEntry m h).clk = m.clk ∧ (Ilpiac.freeHoseEntry m h).free = m.free ∧ (Ilpiac.freeHoseEntry m h).ctl = m.ctl ∧ (Ilpiac.freeHoseEntry
      m h).flt = m.flt ∧ (Ilpiac.freeHoseEntry m h).twin = m.twin ∧ (Ilpiac.freeHoseEntry m h).coll = m.coll ∧ (Ilpiac.freeHoseEntry m h).trellis =
      m.trellis ∧ (Ilpiac.freeHoseEntry m h).hbm = m.hbm ∧ (Ilpiac.freeHoseEntry m h).groups = m.groups ∧ (Ilpiac.freeHoseEntry m h).lanes = m.lanes ∧
      (Ilpiac.freeHoseEntry m h).links = m.links ∧ (Ilpiac.freeHoseEntry m h).sync = m.sync ∧ (Ilpiac.freeHoseEntry m h).time = m.time ∧
      (Ilpiac.freeHoseEntry m h).record = m.record ∧ (Ilpiac.freeHoseEntry m h).power = m.power ∧ (Ilpiac.freeHoseEntry m h).boot = m.boot := by
  unfold Ilpiac.freeHoseEntry; (try dsimp only); (repeat' split) <;> simp

/-! ### Descriptors -/

theorem Ilpiac.begin_frame (m : Ilpiac) (ring op : Nat) (d : AccDesc) (m0 : Ilpiac) (h : m.begin ring op = some (d, m0)) :
    m0.regs = m.regs ∧ m0.clk = m.clk ∧ m0.free = m.free ∧ m0.flt = m.flt ∧ m0.twin = m.twin ∧ m0.sw = m.sw ∧ m0.coll = m.coll ∧ m0.trellis = m.trellis ∧
      m0.hbm = m.hbm ∧ m0.groups = m.groups ∧ m0.lanes = m.lanes ∧ m0.links = m.links ∧ m0.sync = m.sync ∧ m0.time = m.time ∧ m0.record = m.record ∧
      m0.power = m.power ∧ m0.boot = m.boot := by
  unfold Ilpiac.begin at h
  (repeat' split at h) <;> simp_all <;> (obtain ⟨-, rfl⟩ := h; simp)

theorem Ilpiac.runDesc_regs (m : Ilpiac) (ring op : Nat) (f : AccDesc → Ilpiac → Ilpiac) (h : ∀ d m, (f d m).regs = m.regs) :
    (m.runDesc ring op f).regs = m.regs := by
  unfold Ilpiac.runDesc
  split
  · next d m0 hd => rw [h]; simp [Ilpiac.begin_frame m ring op d m0 hd]
  · rfl

theorem Ilpiac.runDesc_clk (m : Ilpiac) (ring op : Nat) (f : AccDesc → Ilpiac → Ilpiac) (h : ∀ d m, (f d m).clk = m.clk) :
    (m.runDesc ring op f).clk = m.clk := by
  unfold Ilpiac.runDesc
  split
  · next d m0 hd => rw [h]; simp [Ilpiac.begin_frame m ring op d m0 hd]
  · rfl

theorem Ilpiac.runDesc_free (m : Ilpiac) (ring op : Nat) (f : AccDesc → Ilpiac → Ilpiac) (h : ∀ d m, (f d m).free = m.free) :
    (m.runDesc ring op f).free = m.free := by
  unfold Ilpiac.runDesc
  split
  · next d m0 hd => rw [h]; simp [Ilpiac.begin_frame m ring op d m0 hd]
  · rfl

theorem Ilpiac.runDesc_flt (m : Ilpiac) (ring op : Nat) (f : AccDesc → Ilpiac → Ilpiac) (h : ∀ d m, (f d m).flt = m.flt) :
    (m.runDesc ring op f).flt = m.flt := by
  unfold Ilpiac.runDesc
  split
  · next d m0 hd => rw [h]; simp [Ilpiac.begin_frame m ring op d m0 hd]
  · rfl

theorem Ilpiac.runDesc_twin (m : Ilpiac) (ring op : Nat) (f : AccDesc → Ilpiac → Ilpiac) (h : ∀ d m, (f d m).twin = m.twin) :
    (m.runDesc ring op f).twin = m.twin := by
  unfold Ilpiac.runDesc
  split
  · next d m0 hd => rw [h]; simp [Ilpiac.begin_frame m ring op d m0 hd]
  · rfl

theorem Ilpiac.runDesc_sw (m : Ilpiac) (ring op : Nat) (f : AccDesc → Ilpiac → Ilpiac) (h : ∀ d m, (f d m).sw = m.sw) :
    (m.runDesc ring op f).sw = m.sw := by
  unfold Ilpiac.runDesc
  split
  · next d m0 hd => rw [h]; simp [Ilpiac.begin_frame m ring op d m0 hd]
  · rfl

theorem Ilpiac.runDesc_coll (m : Ilpiac) (ring op : Nat) (f : AccDesc → Ilpiac → Ilpiac) (h : ∀ d m, (f d m).coll = m.coll) :
    (m.runDesc ring op f).coll = m.coll := by
  unfold Ilpiac.runDesc
  split
  · next d m0 hd => rw [h]; simp [Ilpiac.begin_frame m ring op d m0 hd]
  · rfl

theorem Ilpiac.runDesc_trellis (m : Ilpiac) (ring op : Nat) (f : AccDesc → Ilpiac → Ilpiac) (h : ∀ d m, (f d m).trellis = m.trellis) :
    (m.runDesc ring op f).trellis = m.trellis := by
  unfold Ilpiac.runDesc
  split
  · next d m0 hd => rw [h]; simp [Ilpiac.begin_frame m ring op d m0 hd]
  · rfl

theorem Ilpiac.runDesc_hbm (m : Ilpiac) (ring op : Nat) (f : AccDesc → Ilpiac → Ilpiac) (h : ∀ d m, (f d m).hbm = m.hbm) :
    (m.runDesc ring op f).hbm = m.hbm := by
  unfold Ilpiac.runDesc
  split
  · next d m0 hd => rw [h]; simp [Ilpiac.begin_frame m ring op d m0 hd]
  · rfl

theorem Ilpiac.runDesc_groups (m : Ilpiac) (ring op : Nat) (f : AccDesc → Ilpiac → Ilpiac) (h : ∀ d m, (f d m).groups = m.groups) :
    (m.runDesc ring op f).groups = m.groups := by
  unfold Ilpiac.runDesc
  split
  · next d m0 hd => rw [h]; simp [Ilpiac.begin_frame m ring op d m0 hd]
  · rfl

theorem Ilpiac.runDesc_lanes (m : Ilpiac) (ring op : Nat) (f : AccDesc → Ilpiac → Ilpiac) (h : ∀ d m, (f d m).lanes = m.lanes) :
    (m.runDesc ring op f).lanes = m.lanes := by
  unfold Ilpiac.runDesc
  split
  · next d m0 hd => rw [h]; simp [Ilpiac.begin_frame m ring op d m0 hd]
  · rfl

theorem Ilpiac.runDesc_links (m : Ilpiac) (ring op : Nat) (f : AccDesc → Ilpiac → Ilpiac) (h : ∀ d m, (f d m).links = m.links) :
    (m.runDesc ring op f).links = m.links := by
  unfold Ilpiac.runDesc
  split
  · next d m0 hd => rw [h]; simp [Ilpiac.begin_frame m ring op d m0 hd]
  · rfl

theorem Ilpiac.runDesc_sync (m : Ilpiac) (ring op : Nat) (f : AccDesc → Ilpiac → Ilpiac) (h : ∀ d m, (f d m).sync = m.sync) :
    (m.runDesc ring op f).sync = m.sync := by
  unfold Ilpiac.runDesc
  split
  · next d m0 hd => rw [h]; simp [Ilpiac.begin_frame m ring op d m0 hd]
  · rfl

theorem Ilpiac.runDesc_time (m : Ilpiac) (ring op : Nat) (f : AccDesc → Ilpiac → Ilpiac) (h : ∀ d m, (f d m).time = m.time) :
    (m.runDesc ring op f).time = m.time := by
  unfold Ilpiac.runDesc
  split
  · next d m0 hd => rw [h]; simp [Ilpiac.begin_frame m ring op d m0 hd]
  · rfl

theorem Ilpiac.runDesc_record (m : Ilpiac) (ring op : Nat) (f : AccDesc → Ilpiac → Ilpiac) (h : ∀ d m, (f d m).record = m.record) :
    (m.runDesc ring op f).record = m.record := by
  unfold Ilpiac.runDesc
  split
  · next d m0 hd => rw [h]; simp [Ilpiac.begin_frame m ring op d m0 hd]
  · rfl

theorem Ilpiac.runDesc_power (m : Ilpiac) (ring op : Nat) (f : AccDesc → Ilpiac → Ilpiac) (h : ∀ d m, (f d m).power = m.power) :
    (m.runDesc ring op f).power = m.power := by
  unfold Ilpiac.runDesc
  split
  · next d m0 hd => rw [h]; simp [Ilpiac.begin_frame m ring op d m0 hd]
  · rfl

theorem Ilpiac.runDesc_boot (m : Ilpiac) (ring op : Nat) (f : AccDesc → Ilpiac → Ilpiac) (h : ∀ d m, (f d m).boot = m.boot) :
    (m.runDesc ring op f).boot = m.boot := by
  unfold Ilpiac.runDesc
  split
  · next d m0 hd => rw [h]; simp [Ilpiac.begin_frame m ring op d m0 hd]
  · rfl

/-! ### Commands -/

/-- Every command ends in a next state, and leaves the queue alone. -/
theorem exec_next (c : Instr) (s : State) : ∃ m', exec c s = .next { s with m := m' } := by
  cases c <;> exact ⟨_, rfl⟩

/-! ### The register file under the collector, the interrupts and the sideband events -/

/-- An event changes no register but IRQ_CAUSE (R476). -/
theorem Ilpiac.reg_event (m : Ilpiac) (e : Event) (k : Nat) (h : k ≠ 0x300) : (m.event e).reg k = m.reg k := by
  unfold Ilpiac.event
  simp only
  split
  · rfl
  · split <;> exact Ilpiac.reg_wr_ne _ _ _ _ _ _ _ h

/-- A sideband event changes no register but SB_EVENTS (R511). -/
theorem Ilpiac.reg_sbEvent (m : Ilpiac) (e : Nat) (k : Nat) (h : k ≠ 0x100000018) : (m.sbEvent e).reg k = m.reg k := by
  unfold Ilpiac.sbEvent
  simp only
  split
  · rfl
  · split <;> exact Ilpiac.reg_wr_ne _ _ _ _ _ _ _ h

/-! ### Messages to the companion -/

theorem Holm.fill_told (n : Nat) (h : Holm) : (Holm.fill n h).replay.map (·.msg) ++ (Holm.fill n h).waiting = h.replay.map (·.msg) ++ h.waiting := by
  induction n generalizing h with
  | zero => rfl
  | succ n ih =>
    unfold Holm.fill
    split
    · rfl
    · split
      · rw [ih]; simp [*]
      · rfl

/-- A message sent while the port is UP is told last, and is dropped otherwise (R456, R457). -/
theorem Ilpiac.send_told (m : Ilpiac) (x : HolmMsg) : (m.send x).told = if m.g F.HOLM_STATUS_STATE = holmUp then m.told ++ [x] else m.told := by
  unfold Ilpiac.send
  by_cases h : m.g F.HOLM_STATUS_STATE = holmUp
  · rw [if_pos (show m.g F.HOLM_STATUS_STATE = 2 from h), if_pos h]
    unfold Ilpiac.told
    simp only
    rw [Holm.fill_told]; simp
  · rw [if_neg (show ¬m.g F.HOLM_STATUS_STATE = 2 from h), if_neg h]

end Sys2Proof.Machine
end

