-- ==== Sys2Proof/WellFormed.lean ====
section
/-! DEFINITION. Well-formed commands: what the environment can send. Every operand lies in the range that the row's rule gives it; the
meanings take every command, well-formed or not, and the checks of the spec that the block itself makes stand in the meanings. -/

namespace Sys2Proof

/-- An offset of a 64-bit register in the register window (R14). -/
def windowOff (off : Nat) : Bool := decide (off < 2 ^ 26) && off % 8 == 0

/-- The offset of a writable sideband register (R511). -/
def sidebandOff (off : Nat) : Bool := [0x10, 0x18, 0x20, 0x28, 0x30].contains off

/-- A fabric address of 14 bits (R309). -/
def fabricAddr (a : Nat) : Bool := decide (a < 2 ^ 14)

/-- A bed index and a plane (R34, R40). -/
def bedPlane (b p : Nat) : Bool := decide (b < 64) && decide (p < 16)

/-- What a coherent read returned is whole: a multiple of `n` bytes. -/
def readOk (n : Nat) : Readback → Bool
  | some l => l.length % n == 0
  | none => true

/-- An aperture access of a size that the Holm link has, naturally aligned (R455). -/
def aperture (a n : Nat) : Bool := [4, 8, 16, 32, 64, 128, 256].contains n && a % max 1 n == 0

/-- A packet of a type whose LEN counts its parts (R307, R309). -/
def packetOk (ty : Nat) (p : Packet) : Bool :=
  p.h0.toNat % 256 == ty && p.h0.toNat / 4096 % 8192 == 8 + 8 * p.hs.length + p.body.length

/-- A collective's identity (R49). -/
def CollId.wf (c : CollId) : Bool := decide (c.comm < 2 ^ 16) && decide (c.step < 2 ^ 64) && decide (c.seq < 2 ^ 32)

/-- A context's identity (R51). -/
def CtxId.wf (x : CtxId) : Bool := x.coll.wf && decide (x.part < 2)

/-- The fields of a flit (R388, R389). -/
def Flit.wf (f : Flit) : Bool :=
  decide (f.start < 64) && decide (f.seq < 256) && decide (f.lane < 8) && decide (f.kind < 8) && f.payload.length == 640

/-- Well-formed commands. -/
def Instr.wf : Instr → Bool
  | .registerWrite sp off _ => match sp with | .window => windowOff off | .sideband => sidebandOff off
  | .lowerHalfWrite off _ => windowOff off
  | .upperHalfWrite off _ => windowOff off
  | .lowerHalfRead off => windowOff off
  | .rcRead off _ => windowOff off
  | .misalignedAccess off _ => decide (off < 2 ^ 26)
  | .placementCommit => true
  | .helloReceived _ p => packetOk 0x01 p
  | .helloPeriodExpiry => true
  | .commCreate _ l e => readOk 4 l && readOk 8 e
  | .commDestroy _ => true
  | .commQuery _ => true
  | .allReduce _ => true
  | .reduceScatter _ => true
  | .allGather _ => true
  | .broadcast _ => true
  | .reduceUpdateBcast _ => true
  | .dispatch _ => true
  | .combine _ => true
  | .memberFence _ => true
  | .memberUnfence _ => true
  | .rmQuota _ => true
  | .quotaSetAside c => decide (c < 2 ^ 16)
  | .contextAdmit q => match q with | some c => decide (c < 2 ^ 16) | none => true
  | .admissionTimeout c => c.wf
  | .contribReceived _ p => packetOk 0x08 p
  | .spillReadbackDone x l i => x.wf && decide (l ≤ 14) && decide (i < 2 ^ (14 - l))
  | .furrowGroupComplete _ b => b.all (fun x => decide (x.cell < 528) || x.cell == 0x3FF)
  | .retainSpaceFreed => true
  | .furrowRetire _ => true
  | .contextMoveDone _ => true
  | .furrowWaitTimeout c => c.wf
  | .furrowDisable _ => true
  | .furrowGated _ => true
  | .furrowEnable _ => true
  | .furrowInjectArm _ _ => true
  | .ackReceived _ p => packetOk 0x09 p
  | .retentionTimeout _ a => fabricAddr a
  | .contribDeadline c a => c.wf && fabricAddr a
  | .trunkRetentionTimeout _ => true
  | .resultMissingTimeout c a => c.wf && fabricAddr a
  | .verdictPassStart c => c.wf
  | .recordsReceived _ p => packetOk 0x63 p
  | .endSend c => c.wf
  | .collectiveComplete c => c.wf
  | .columnReceived _ p => packetOk 0x60 p
  | .tresultReceived _ p => packetOk 0x62 p
  | .tackReceived _ p => packetOk 0x61 p
  | .landedPacketRelease _ _ => true
  | .invocationStart _ => true
  | .bundleIssue _ => true
  | .streamComplete _ _ => true
  | .icacheFillDone _ => true
  | .invocationLimit _ => true
  | .phase4End c => c.wf
  | .phase4Timeout c => c.wf
  | .progLoad _ => true
  | .progLoadDone p im _ => decide (p < 2 ^ 16) && readOk 16 im
  | .progUnload _ => true
  | .progUnloadDone p => decide (p < 2 ^ 16)
  | .clearFault _ => true
  | .engineDisable _ => true
  | .engineEnable _ => true
  | .clocheGroupCreate _ l => readOk 8 l
  | .groupJoinResolve g a => decide (g < 2 ^ 16) && a.all (fun x => bedPlane x.bed x.plane)
  | .deltaReceived _ p => packetOk 0x64 p
  | .stampReceived _ p => packetOk 0x67 p
  | .ledgerWrite _ e => match e with | some l => l.length == 512 | none => true
  | .ledgerReceived _ p => packetOk 0x66 p
  | .clocheRestore _ r im a => readOk 8 r && readOk 64 im && a.all (fun x => bedPlane x.bed x.plane)
  | .stripeReceived _ p => packetOk 0x65 p
  | .restoreComplete g => decide (g < 2 ^ 16)
  | .clocheGroupDestroy _ => true
  | .clocheQuery _ => true
  | .scrubRead _ us => us.all (fun u => decide (u.symbol < 68))
  | .channelAccessTimeout _ => true
  | .channelMapout _ => true
  | .slotRemapDone x => decide (x < 768)
  | .migrationUnit x _ => decide (x < 768)
  | .channelInjectArm _ _ => true
  | .hbmStartDone l => l.all (fun c => decide (c < 768))
  | .selfRefreshEnter _ => true
  | .apertureRead a n us => aperture a n && us.all (fun u => decide (u.symbol < 68))
  | .apertureWrite a d => aperture a d.length
  | .amoReqReceived _ p => packetOk 0x10 p
  | .ptReceived _ p _ => packetOk 0x18 p
  | .relayReceived _ p _ => packetOk 0x19 p
  | .linkReceived _ p => packetOk 0x02 p
  | .linkCreditTimer _ => true
  | .landRelease _ _ => true
  | .schedulerTick => true
  | .sendOpportunity _ => true
  | .transmitComplete _ => true
  | .sieveEnable _ => true
  | .sieveConsume _ => true
  | .creditResendTimer x => x.wf
  | .trunkStateReceived _ p => packetOk 0x6E p
  | .trunkStateSend => true
  | .hoseOpen _ => true
  | .hoseSetupReceived _ p => packetOk 0x68 p
  | .hoseReplyReceived _ p => packetOk 0x69 p
  | .hoseSetupTimeout _ => true
  | .hoseClose _ => true
  | .hoseTearSend _ => true
  | .hoseTearReceived _ p => packetOk 0x6A p
  | .hoseCloseTimeout _ => true
  | .hoseOrphanTimeout _ => true
  | .hoseDataReceived _ p _ => packetOk 0x6B p
  | .hoseMarkReceived _ p => packetOk 0x6C p
  | .hoseWindowReceived _ p => packetOk 0x6D p
  | .hoseMarkTimer _ => true
  | .hoseWindowTimer _ => true
  | .laneEnable _ => true
  | .laneDisable _ => true
  | .laneSignalDetect _ => true
  | .laneCwLock _ => true
  | .laneTrainTimeout _ => true
  | .portForm _ => true
  | .flitReceived _ c => c.flit.wf
  | .controlFlitReceived _ c => decide (c.rxGood < 256) && decide (c.txSet < 256) && decide (c.newSet < 256) && decide (c.switchSeq < 256)
  | .controlFlitTimer _ => true
  | .laneSignalLoss _ => true
  | .laneMarginCheck _ _ => true
  | .laneSwitchOffTimeout _ => true
  | .laneReadd _ => true
  | .laneClearHold _ => true
  | .lightIdleEnter _ => true
  | .lightIdleBeacon _ => true
  | .lightIdleExit _ => true
  | .deepIdleEnter _ => true
  | .deepIdleWake _ => true
  | .deepCheckTimer _ => true
  | .laneInjectArm _ _ => true
  | .refSourceChange _ => true
  | .refSourceLost => true
  | .refSourceReturn _ _ => true
  | .syncSignal _ => true
  | .syncWait _ => true
  | .syncFence _ => true
  | .syncCancel _ => true
  | .syncOpReceived _ p => packetOk 0x40 p
  | .syncWaitTimeout w => match w with | .ring r => decide (r < 65536) | .member p t => decide (p < 256) && decide (t < 2 ^ 32)
  | .syncValWrite _ => true
  | .syncDeadlockDetect _ => true
  | .timeSyncTimer => true
  | .delayMeasureTimer => true
  | .timeSyncReceived _ p => packetOk 0x48 p
  | .delayReqReceived _ p _ => packetOk 0x49 p
  | .delayRspReceived _ p => packetOk 0x4A p
  | .timeApplySet => true
  | .ppsInEdge => true
  | .todInReceived t => t.length == 16
  | .ppsOutEdge => true
  | .todOutSend => true
  | .timeSourceTimeout => true
  | .noMasterTimeout => true
  | .assign r h => decide (r % 2 ^ 26 = 0) && decide (h % 2 ^ 40 = 0) && decide (r < 2 ^ 52) && decide (h < 2 ^ 52)
  | .holmAckReceived q _ => decide (q < 256)
  | .holmAckTimeout => true
  | .runStop _ => true
  | .runStopDone _ => true
  | .runStart _ => true
  | .runStartDone _ => true
  | .drDoorbell _ _ => true
  | .ringEnable _ => true
  | .ringDisable _ => true
  | .descriptorFetchDone _ f d => decide (f < 2 ^ 32) && (match d with | some l => l.all (fun x => x.length == 8) | none => true)
  | .descriptorAccept _ => true
  | .nop _ => true
  | .cplRingEnable _ => true
  | .cplRingDisable _ => true
  | .crDoorbell _ _ => true
  | .cplRecordWrite _ => true
  | .cplStallTimeout _ => true
  | .irqCoalTimeout _ => true
  | .irqSend => true
  | .irqMaskWrite _ => true
  | .faultAssert src _ _ => decide (0 < src.val)
  | .faultPairBroken src => decide (0 < src.val)
  | .faultGraceExpiry => true
  | .faultClear => true
  | .sramUeDetected _ => true
  | .internalParityError off => windowOff off
  | .faultLogRead _ => true
  | .warmReset _ => true
  | .functionReset _ => true
  | .linkReset p => decide (p < 263)
  | .heartbeatTimeout => true
  | .headlessResume => true
  | .twinDigestSend => true
  | .twinDigestReceived _ p => packetOk 0x70 p
  | .twinKeyTimeout _ => true
  | .twinEnable _ => true
  | .powerOn _ => true
  | .powerOnDone _ _ _ _ => true
  | .coldReset => true
  | .coldResetRelease _ _ _ _ => true
  | .powerLoss _ => true
  | .overVoltage _ => true
  | .overVoltageRecovery _ => true
  | .brownoutStart _ d => decide (d ≤ 16)
  | .brownoutEnd _ _ => true
  | .holdupRecheck => true
  | .holdupPeriodExpiry => true
  | .holdupMeasureDone _ _ _ => true
  | .powerLimitSample _ _ d => decide (d ≤ 16)
  | .thermalThrottle _ _ => true
  | .throttleStep t => t.length == 4
  | .thermalTrip _ _ => true
  | .hardTrip _ _ => true
  | .sbWarmRequest v => v.getLsbD 0
  | .dormantRequest v => v.getLsbD 1
  | .wakeRequest v => v.getLsbD 2
  | .sbEventsClear _ => true
  | .imageLoad _ => true
  | .imageLoadDone im _ => match im with | some l => decide (1024 ≤ l.length) | none => true
  | .stewardWatchdogExpiry => true
  | .attest _ => true
  | .certRead _ => true
  | .laneCdrLock _ => true
  | .holmAckTimer => true
  | .ppsOutPulseEnd => true
  | .warmResetDone => true
  | .functionResetDone => true
  | .i3cDynamicAddress a => decide (a < 128)
  | .vinThresholdCrossing _ => true

end Sys2Proof
end

