-- ==== Sys2Proof/Tests/Slice0.lean ====
section
/-! SUPPORT. Tests: ill-formed commands that WellFormed refuses, results that the spec's rules and worked examples give, and for every statement
with hypotheses a state and operands that meet them. -/

namespace Sys2Proof.Tests
open Sys2Proof Sys2Proof.Machine
set_option Elab.async false

/-! ### Helpers -/

/-- A block with fields of registers at fixed offsets set. -/
def glob (m : Ilpiac) (l : List (Fld × Nat)) : Ilpiac := l.foldl (fun m x => m.gw x.1 x.2) m

/-- A block with fields of the registers of a unit set. -/
def unit (m : Ilpiac) (b : Blk) (n : Nat) (l : List (Fld × Nat)) : Ilpiac := l.foldl (fun m x => m.wr b n x.1 x.2) m

/-- The state of a block with an empty queue. -/
def st (m : Ilpiac) : State := { m := m, pending := [] }

/-- The block after a command. -/
def run (c : Instr) (m : Ilpiac) : Ilpiac :=
  match exec c (st m) with
  | .next t => t.m
  | _ => m

/-- Whether a command ends in a next state. -/
def ends (c : Instr) (m : Ilpiac) : Bool :=
  match exec c (st m) with
  | .next _ => true
  | _ => false

/-- A module that is on and READY, with the Holm port UP at bases 2^26 and 2^40, every function running, bed 0 of a plot of 2 × 2 × 1 beds, and window 0 over all of
companion memory. -/
def up : Ilpiac :=
  let m := Ilpiac.reset
  let m := { m with power := { m.power with phase := .running, ready := true } }
  let m := glob m [(F.HOLM_STATUS_STATE, holmUp), (F.HOLM_BASE_REG_BASE, 1), (F.HOLM_BASE_HBM_BASE, 1), (F.BOOT_STATUS_STATE, bootReadyState),
    (F.PLACEMENT_VALID, 1), (F.PLACEMENT_PLOT_ID, 7), (F.PLACEMENT_EXTENT_NX, 2), (F.PLACEMENT_EXTENT_NY, 2), (F.PLACEMENT_EXTENT_NZ, 1),
    (F.WINDOW_BASE_VALID, 1), (F.WINDOW_BASE_READ, 1), (F.WINDOW_BASE_WRITE, 1), (F.WINDOW_LIMIT_LIMIT, 16384)]
  (List.range 5).foldl (fun m n => (m.gw (F.RUN_STATE n) runRunning).gw (F.RUN_BIT n) 1) m

/-- The block with a downlink or trunk port UP. -/
def withUp (m : Ilpiac) (p : Nat) : Ilpiac := m.pw p F.PORT_STATUS_STATE 2

/-- The block with a descriptor accepted that has not begun, of ring 0: opcode and words 1 to 7, with completion ring 0. -/
def withDesc (m : Ilpiac) (op : Nat) (ws : List Nat) : Ilpiac :=
  { m with ctl := { m.ctl with descs := m.ctl.descs ++
    [({ ring := 0, num := 0, words := (op :: ws ++ List.replicate (7 - ws.length) 0).map (BitVec.ofNat 64), started := false, due := false } : AccDesc)] } }

/-- The status of the last record that is due. -/
def lastStatus (m : Ilpiac) : Option Nat := m.ctl.cpl.getLast?.map (fun r => bits (wordAt r.words 0) 32 8)

theorem reaches {m : Ilpiac} {off : Nat}
    (h : (m.g F.HOLM_STATUS_STATE = holmUp ∧ m.ctl.resetting = false) ∧ off % 8 = 0 ∧ off < 2 ^ 26 ∧ m.responds off = true) : m.Reaches off :=
  { up := h.1.1, awake := h.1.2, aligned := h.2.1, inside := h.2.2.1, here := h.2.2.2 }

theorem linked {m : Ilpiac} (h : m.g F.HOLM_STATUS_STATE = holmUp ∧ m.ctl.resetting = false) : m.Linked := ⟨h.1, h.2⟩

theorem coherent {m : Ilpiac} {a n : Nat} {w : Bool} (h : m.inAperture a n = false ∧ m.inRegWindow a n = false ∧ m.windowOk a n w = true) : m.Coherent a n w :=
  ⟨h.1, h.2.1, h.2.2⟩

theorem admits {m : Ilpiac} {port : Nat} {p : Packet} (h : m.portFormed port = true ∧ (m.portUp port = true ∨ p.ty = 0x01) ∧ m.refuses port p = false ∧
    m.portShut port p = false ∧ (m.police port p).2 = true ∧ p.lenOk = true) : m.Admits port p :=
  ⟨h.1, h.2.1, h.2.2.1, h.2.2.2.1, h.2.2.2.2.1, h.2.2.2.2.2⟩

/-- What a packet becomes that lands: its number in the buffer, if there was room, and the block that holds it. -/
def landing (m : Ilpiac) (port : Nat) (p : Packet) : Option Nat × Ilpiac := (m.counted port p).landIn port p

theorem pair_eq {α β : Type} {x : α × β} {a : α} (h : x.1 = a) : x = (a, x.2) := Prod.ext h rfl

theorem bools {a b c : Bool} (k : (a && (!b && c)) = true) : a = true ∧ b = false ∧ c = true := by
  revert k; cases a <;> cases b <;> cases c <;> simp

theorem lands {m : Ilpiac} {port : Nat} {p : Packet} {id : Nat} (h : m.portFormed port = true ∧ (m.portUp port = true ∨ p.ty = 0x01) ∧
    m.refuses port p = false ∧ m.portShut port p = false ∧ (m.police port p).2 = true ∧ p.lenOk = true) (c : landsOn port p = true)
    (r : (landing m port p).1 = some id)
    (k : ((landing m port p).2.bufPkt id).any (fun b => b.pkt == p && (!((landing m port p).2.landAck p).2.waitsBehind port b &&
      ((landing m port p).2.landAck p).1)) = true) :
    ∃ b, m.Lands port p (landing m port p).2 id b := by
  obtain ⟨b, hb, hk⟩ := (Option.any_eq_true _ _).mp k
  have e := bools hk
  exact ⟨b, { toAdmits := admits h, credited := c, room := pair_eq r, stored := hb, same := eq_of_beq e.1, front := e.2.1, known := e.2.2 }⟩

/-- CRC-32C with its register forced at every byte, so that the kernel evaluates it in constant depth. -/
def crcLoop : List Byte → Nat → Nat
  | [], a => a
  | b :: l, a =>
    match (crcByte (BitVec.ofNat 32 a) b).toNat with
    | 0 => crcLoop l 0
    | n + 1 => crcLoop l (n + 1)

theorem crcLoop_step (b : Byte) (l : List Byte) (a : Nat) : crcLoop (b :: l) a = crcLoop l (crcByte (BitVec.ofNat 32 a) b).toNat := by
  rw [crcLoop]; cases (crcByte (BitVec.ofNat 32 a) b).toNat <;> rfl

theorem crcLoop_eq (l : List Byte) : ∀ c : BitVec 32, crcLoop l c.toNat = (l.foldl crcByte c).toNat := by
  induction l with
  | nil => intro c; rfl
  | cons b l ih => intro c; rw [crcLoop_step, List.foldl_cons, ← ih]; simp

theorem crc_loop (l : List Byte) : (crc32c l).toNat = (BitVec.ofNat 32 (crcLoop l 0xFFFFFFFF) ^^^ 0xFFFFFFFF#32).toNat := by
  have h := crcLoop_eq l 0xFFFFFFFF#32
  rw [show (0xFFFFFFFF#32).toNat = 0xFFFFFFFF from rfl] at h
  rw [h]; simp [crc32c]

theorem store_buf (m : Ilpiac) (p : Packet) (i : Nat) (l : Option (Nat × Nat)) (e : m.sw.buf = []) :
    (m.store p .land i false l).2.sw.buf = [{ id := m.sw.nextId, pkt := p, area := .land, cells := p.cells, ingress := i, refs := 0, held := false, crcBad := false, land := l, hose := none }] := by
  unfold Ilpiac.store
  simp only [Ilpiac.areaTake, e, List.nil_append]

theorem landIn_buf (n : Ilpiac) (port : Nat) (p : Packet) (e1 : n.sw.buf = []) (e2 : n.sw.nextId = 0)
    (e3 : ¬n.landCells port p.tc < (n.cls port p.tc).landUsed + p.cells) :
    (n.landIn port p).1 = some 0 ∧ (n.landIn port p).2.sw.buf =
      [{ id := 0, pkt := p, area := .land, cells := p.cells, ingress := port, refs := 0, held := false, crcBad := false, land := some (port, p.tc), hose := none }] := by
  unfold Ilpiac.landIn
  dsimp only
  rw [if_neg e3]
  refine ⟨?_, ?_⟩
  · show some (n.sw.nextId) = some 0
    rw [e2]
  · rw [store_buf _ _ _ _ (by exact e1)]
    show [_] = [_]
    rw [show (n.setCls port p.tc _).sw.nextId = n.sw.nextId from rfl, e2]

/-- The same for a long packet: the buffer was empty, so the packet that landed is the one stored, and nothing is compared. -/
theorem lands0 {m : Ilpiac} {port : Nat} {p : Packet} (h : m.portFormed port = true ∧ (m.portUp port = true ∨ p.ty = 0x01) ∧
    m.refuses port p = false ∧ m.portShut port p = false ∧ (m.police port p).2 = true ∧ p.lenOk = true) (c : landsOn port p = true)
    (e : (m.counted port p).sw.buf = [] ∧ (m.counted port p).sw.nextId = 0 ∧
      ¬(m.counted port p).landCells port p.tc < ((m.counted port p).cls port p.tc).landUsed + p.cells)
    (k : ((landing m port p).2.landAck p).1 = true) (l : (((landing m port p).2.landAck p).2.port port).landed = []) :
    ∃ b, m.Lands port p (landing m port p).2 0 b := by
  refine ⟨{ id := 0, pkt := p, area := .land, cells := p.cells, ingress := port, refs := 0, held := false, crcBad := false, land := some (port, p.tc), hose := none }, ?_⟩
  have hl := landIn_buf (m.counted port p) port p e.1 e.2.1 e.2.2
  exact { toAdmits := admits h, credited := c, room := pair_eq hl.1,
          stored := by show ((m.counted port p).landIn port p).2.bufPkt 0 = _; simp [Ilpiac.bufPkt, hl.2], same := rfl,
          front := by simp [Ilpiac.waitsBehind, l], known := k }


/-! ### Ill-formed commands, one for each check, which WellFormed refuses -/

theorem test_ill_registers : (([.registerWrite .window 4 0, .registerWrite .window 0x4000000 0, .registerWrite .sideband 0x38 0, .lowerHalfWrite
    12 0, .upperHalfWrite 0x4000000 0, .lowerHalfRead 4, .rcRead 20 true, .misalignedAccess 0x4000001 true] : List Instr).any Instr.wf) = false
    := by decide +kernel

theorem test_ill_packets : (([.columnReceived 0 (Packet.mk 0x3000#64 [] []), .tresultReceived 0 (Packet.mk 0x3000#64 [] []), .recordsReceived 0
    (Packet.mk 0x3000#64 [] []), .tackReceived 0 (Packet.mk 0x3000#64 [] []), .deltaReceived 0 (Packet.mk 0x3000#64 [] []), .stampReceived 0
    (Packet.mk 0x3000#64 [] []), .ledgerReceived 0 (Packet.mk 0x3000#64 [] []), .stripeReceived 0 (Packet.mk 0x3000#64 [] []), .helloReceived 0
    (Packet.mk 0x3000#64 [] []), .linkReceived 0 (Packet.mk 0x3000#64 [] []), .trunkStateReceived 0 (Packet.mk 0x3000#64 [] []),
    .hoseSetupReceived 0 (Packet.mk 0x3000#64 [] []), .hoseReplyReceived 0 (Packet.mk 0x3000#64 [] []), .hoseTearReceived 0 (Packet.mk 0x3000#64
    [] []), .hoseMarkReceived 0 (Packet.mk 0x3000#64 [] []), .hoseWindowReceived 0 (Packet.mk 0x3000#64 [] []), .timeSyncReceived 0 (Packet.mk
    0x3000#64 [] []), .delayRspReceived 0 (Packet.mk 0x3000#64 [] []), .contribReceived 0 (Packet.mk 0x3000#64 [] []), .ackReceived 0 (Packet.mk
    0x3000#64 [] []), .amoReqReceived 0 (Packet.mk 0x3000#64 [] []), .syncOpReceived 0 (Packet.mk 0x3000#64 [] []), .twinDigestReceived 0
    (Packet.mk 0x3000#64 [] []), .ptReceived 0 (Packet.mk 0x3000#64 [] []) true, .relayReceived 0 (Packet.mk 0x3000#64 [] []) true,
    .hoseDataReceived 0 (Packet.mk 0x3000#64 [] []) true, .delayReqReceived 0 (Packet.mk 0x3000#64 [] []) 0, .ackReceived 0 (Packet.mk 0x7009#64
    [] []), .ackReceived 0 (Packet.mk 0x8009#64 [0] []), .ackReceived 0 (Packet.mk 0x8009#64 [] [0])] : List Instr).any Instr.wf) = false := by
    decide +kernel

theorem test_ill_collectives : (([.commCreate 0 (some [0]) none, .commCreate 0 none (some [0]), .quotaSetAside 65536, .contextAdmit (some 65536),
    .admissionTimeout (CollId.mk 65536 0 0), .admissionTimeout (CollId.mk 0 (2 ^ 64) 0), .admissionTimeout (CollId.mk 0 0 (2 ^ 32)),
    .spillReadbackDone (CtxId.mk (CollId.mk 65536 0 0) 0 0) 0 0, .spillReadbackDone (CtxId.mk (CollId.mk 0 0 0) 2 0) 0 0, .spillReadbackDone
    (CtxId.mk (CollId.mk 0 0 0) 0 0) 15 0, .spillReadbackDone (CtxId.mk (CollId.mk 0 0 0) 0 0) 14 1, .furrowGroupComplete 0 [Mismatch.mk 528
    false], .furrowWaitTimeout (CollId.mk 65536 0 0), .retentionTimeout 0 16384, .contribDeadline (CollId.mk 65536 0 0) 0, .contribDeadline
    (CollId.mk 0 0 0) 16384, .resultMissingTimeout (CollId.mk 65536 0 0) 0, .resultMissingTimeout (CollId.mk 0 0 0) 16384, .verdictPassStart
    (CollId.mk 65536 0 0), .endSend (CollId.mk 65536 0 0), .collectiveComplete (CollId.mk 65536 0 0), .phase4End (CollId.mk 65536 0 0),
    .phase4Timeout (CollId.mk 65536 0 0), .creditResendTimer (CtxId.mk (CollId.mk 65536 0 0) 0 0)] : List Instr).any Instr.wf) = false := by
    decide +kernel

theorem test_ill_trellis_cloche : (([.progLoadDone 65536 none 0, .progLoadDone 0 (some [0]) 0, .progUnloadDone 65536, .clocheGroupCreate 0 (some
    [0]), .groupJoinResolve 65536 [], .groupJoinResolve 0 [JoinAnswer.mk 64 0 0 0 0 0 true true false 0], .groupJoinResolve 0 [JoinAnswer.mk 0 16
    0 0 0 0 true true false 0], .ledgerWrite 0 (some [0]), .clocheRestore 0 (some [0]) none [], .clocheRestore 0 none (some [0]) [],
    .clocheRestore 0 none none [RestoreAnswer.mk 64 0 true [] none none], .restoreComplete 65536] : List Instr).any Instr.wf) = false := by
    decide +kernel

theorem test_ill_hbm : (([.scrubRead 0 [Upset.mk 68 1], .slotRemapDone 768, .migrationUnit 768 0, .hbmStartDone [768], .apertureRead 0 3 [],
    .apertureRead 4 8 [], .apertureRead 0 8 [Upset.mk 68 1], .apertureWrite 0 [], .apertureWrite 2 [0, 0, 0, 0]] : List Instr).any Instr.wf) =
    false := by decide +kernel

theorem test_ill_lanes : (([.flitReceived 0 (Codeword.mk 0 (Flit.mk 64 0 0 0 (List.replicate 640 0))), .flitReceived 0 (Codeword.mk 0 (Flit.mk 0
    256 0 0 (List.replicate 640 0))), .flitReceived 0 (Codeword.mk 0 (Flit.mk 0 0 8 0 (List.replicate 640 0))), .flitReceived 0 (Codeword.mk 0
    (Flit.mk 0 0 0 8 (List.replicate 640 0))), .flitReceived 0 (Codeword.mk 0 (Flit.mk 0 0 0 0 [])), .controlFlitReceived 0 (Control.mk 256 0 0 0
    true), .controlFlitReceived 0 (Control.mk 0 256 0 0 true), .controlFlitReceived 0 (Control.mk 0 0 256 0 true), .controlFlitReceived 0
    (Control.mk 0 0 0 256 true)] : List Instr).any Instr.wf) = false := by decide +kernel

theorem test_ill_rest : (([.syncWaitTimeout (.ring 65536), .syncWaitTimeout (.member 256 0), .syncWaitTimeout (.member 0 (2 ^ 32)),
    .todInReceived [], .assign 1 0, .assign 0 1, .assign (2 ^ 52) 0, .assign 0 (2 ^ 52), .holmAckReceived 256 false, .descriptorFetchDone 0 (2 ^
    32) none, .descriptorFetchDone 0 0 (some [[0]]), .faultAssert 0 0 0, .faultPairBroken 0, .internalParityError 4, .linkReset 263,
    .brownoutStart 0 17, .powerLimitSample 0 0 17, .throttleStep [0], .sbWarmRequest 2, .dormantRequest 1, .wakeRequest 1, .imageLoadDone (some
    [0]) 0, .i3cDynamicAddress 128] : List Instr).any Instr.wf) = false := by decide +kernel

theorem test_well : (([.registerWrite .window 8 0, .registerWrite .sideband 0x30 0, .ackReceived 0 (Packet.mk 0x8009#64 [] []), .ackReceived 0
    (Packet.mk 0x11009#64 [0] [0]), .linkReset 262,
    .apertureRead 8 8 [], .wakeRequest 4] : List Instr).all Instr.wf) = true := by decide +kernel

theorem test_no_word_spells_a_command (nbits w : Nat) : decodeTableWord nbits w = none := rfl

theorem witness_SoundKept : State.reset.Safe ∧ ∃ t, step State.reset = .next t := ⟨⟨by decide +kernel, by decide +kernel⟩, _, rfl⟩

theorem witness_StripeRecovery :
    ([1, 2, 3] : List Byte).length = ([4, 5, 6] : List Byte).length ∧ (2 : Fin 16) ≠ 9 ∧ ([7, 8, 9] : List Byte).length = ([1, 2, 3] : List
    Byte).length ∧
      (2 : Fin 16).val ∉ ([0, 1] : List Nat) := by decide

/-! ### Registers and the sideband -/

def badDetail : Word := 0xFFFFFFFFFFFFFFFF

theorem witness_StepRunsFront : step { m := up, pending := [.holmAckTimer] } = exec .holmAckTimer (st up) := rfl

theorem witness_Settling : up.ctl.own = [] ∧ up.flt.due = [] ∧ up.coll.colls = [] ∧ up.groups = [] ∧ up.trellis.phase4 = [] := by decide +kernel

theorem witness_CommandsInOrder : 2 ≤ ({ m := up, pending := [.holmAckTimer, .irqSend] } : State).pending.length := by decide

theorem witness_OwnWritesEnd : (st up).m.ctl.own = [] ∧ ∃ t, step (st up) = .next t := ⟨rfl, _, rfl⟩

theorem witness_FieldTypes : (0 : Nat) < ({ lo := 0, w := 1, ty := .w1c } : FSpec).w := by decide

/-- The boundary offsets 0x308 (IRQ_MASK acts, so it is not plain) and 0x300 (IRQ_CAUSE). -/
theorem witness_RegisterWrite : up.Reaches 0x300 ∧ (∃ d j, Plain 0x300 d j) ∧ up.sidebandOn = true :=
  ⟨reaches (by decide +kernel), ⟨_, _, rfl, by decide +kernel, by decide⟩, by decide +kernel⟩

theorem test_irqCause_w1c : (run (.registerWrite .window 0x300 0x3) (up.gw F.IRQ_CAUSE_CAUSE 0x7)).g F.IRQ_CAUSE_CAUSE = 0x4 := by decide +kernel

theorem test_stage0 : (run (.registerWrite .sideband 0x20 badDetail) up).g F.SB_STAGE0_STAGE = 2 ^ 63 - 1 := by decide +kernel

theorem witness_WindowReads : up.Reaches 0x300 ∧ (∃ d j, Plain 0x300 d j) ∧ up.ctl.pendLo.find? (fun x => x.1 == 0x300) = none ∧
    (run (.lowerHalfWrite 0x300 3) up).ctl.pendLo.find? (fun x => x.1 == 0x300) = some (0x300, 3) ∧
    (run (.lowerHalfRead 0x300) up).ctl.latchHi.find? (fun x => x.1 == 0x300) = some (0x300, 0) ∧ up.Linked ∧ up.bootReady = true :=
  ⟨reaches (by decide +kernel), ⟨_, _, rfl, by decide +kernel, by decide⟩, by decide +kernel, by decide +kernel, by decide +kernel, linked (by decide +kernel),
    by decide +kernel⟩

theorem test_halves : (run (.upperHalfWrite 0x300 0) (run (.lowerHalfWrite 0x300 3) (up.gw F.IRQ_CAUSE_CAUSE 0x7))).g F.IRQ_CAUSE_CAUSE = 0x4 := by decide +kernel

/-- R15: a misaligned read returns all ones and asserts REG_ACCESS with the offset. -/
theorem test_misaligned : (run (.misalignedAccess 0x304 false) up).told = [.regData (List.replicate 8 0xFF)] ∧
    (run (.misalignedAccess 0x304 false) up).g F.FAULT_FIRST_SOURCE = srcRegAccess ∧
    (run (.misalignedAccess 0x304 false) up).g F.FAULT_FIRST_DETAIL = 0x304 := by decide +kernel

theorem test_rcRead : (run (.rcRead 0x300 false) up).told = [.regData (List.replicate 8 0)] := by decide +kernel

/-- A stage of bed 5 (X 1, Y 1), plane 2, feed 9, plot 3 in extents 2 × 2 × 1. -/
def staged : Ilpiac := glob up [(F.SB_STAGE0_STAGE, 5 + 2 * 2 ^ 8 + 9 * 2 ^ 16 + 3 * 2 ^ 32), (F.SB_STAGE1_EXTENT, 2 + 8 * 2 + 64)]

theorem witness_PlacementCommit : staged.sidebandOn = true ∧ staged.bootReady = true ∧ staged.commitRefusal = 0 ∧
    (staged.gw F.SB_STAGE1_EXTENT 0).commitRefusal ≠ 0 ∧ (staged.gw F.BOOT_STATUS_STATE 0).bootReady = false := by decide +kernel

theorem test_commit_refused : (run .placementCommit (staged.gw F.SB_STAGE1_EXTENT 0)).reg 0x30100 = staged.reg 0x30100 := by decide +kernel

def dormant : Ilpiac := { up with power := { up.power with dormant := true } }

theorem witness_Sideband : up.sidebandOn = true ∧ up.power.phase = .running ∧ up.ctl.resetting = false ∧ up.power.dormant = false ∧ up.coll.comms = [] ∧ up.groups = [] ∧
    dormant.power.dormant = true ∧ bits 0xA501 8 8 = 0xA5 ∧ bitOf 0xA501 0 = true ∧ bits 1 8 8 ≠ 0xA5 := by decide +kernel

theorem test_warm : (run (.sbWarmRequest 0xA501) up).ctl.resetting = true ∧ (run (.sbWarmRequest 0xA501) up).g F.RESET_STATUS_LAST = 2 := by decide +kernel
theorem test_warm_key : (run (.sbWarmRequest 0x5A01) up).g F.SB_REQUEST_RESULT = reqBadKey := by decide +kernel
theorem test_wake : (run (.wakeRequest 0xA504) dormant).g F.RESET_STATUS_LAST = 3 ∧ (run (.wakeRequest 0xA504) up).g F.SB_REQUEST_RESULT = reqRefused := by decide +kernel
theorem test_sbEvents : (run (.sbEventsClear 0x0F01) (up.gw F.SB_EVENTS_EVENTS 0x3)).g F.SB_EVENTS_EVENTS = 0x2 ∧
    (run (.sbEventsClear 0x0F01) up).g F.SB_EVENTS_MASK = 0x0F := by decide +kernel
theorem test_i3c : (run (.i3cDynamicAddress 0x2A) up).power.dynAddr = some 0x2A := by decide +kernel

/-! ### Companion control -/

/-- One message sent and not acknowledged. -/
def sent1 : Ilpiac := up.send .assignAck

theorem witness_HolmLink : up.g F.HOLM_STATUS_STATE ≠ holmOff ∧ sent1.ctl.holm.replay.findIdx? (fun f => f.seq == 0) = some 0 ∧ sent1.ctl.holm.replay ≠ [] := by
  decide +kernel

theorem test_assign : (run (.assign (2 ^ 27) (2 ^ 41)) up).regBase = 2 ^ 27 ∧ (run (.assign (2 ^ 27) (2 ^ 41)) up).hbmBase = 2 ^ 41 ∧
    (run (.assign (2 ^ 27) (2 ^ 41)) up).told = [.assignAck] := by decide +kernel
theorem test_holmAck : (run (.holmAckReceived 0 false) sent1).told = [] ∧ (run (.holmAckReceived 0 true) sent1).told = [.assignAck] ∧
    (run (.holmAckReceived 0 true) sent1).g F.HOLM_STATUS_REPLAYS = 1 := by decide +kernel
theorem test_holmAckTimer : (run .holmAckTimer up).ctl.holm.ackSent = 255 := by decide +kernel
theorem test_holmAckTimeout : (run .holmAckTimeout sent1).g F.HOLM_STATUS_STATE = holmOff ∧ (run .holmAckTimeout sent1).regBase = 0 := by decide +kernel

/-- A SYNC function with a waiter is busy. -/
def waiting1 : Ilpiac := { up with sync := { up.sync with waits := [({ counter := 0, level := true, amount := 1, who := .ring 0, group := 0, timeout := 0, num := 0, tc := 0 } : SyncWaitE)] } }

theorem witness_RunControl : up.Linked ∧ up.runState 1 = runRunning ∧ up.stopBusy 1 = false ∧ up.bootReady = true ∧ up.stopped = false ∧ up.fnPresent 4 = true ∧
    (up.gw (F.RUN_STATE 4) runStopped).fnStopped 4 = true ∧ (up.gw (F.RUN_STATE 4) runStopping).mayStop 4 = true ∧ up.startOk 1 = true ∧
    (up.gw F.RM_POLICY_SHARED_MIN 65535).startOk 1 = false := ⟨linked (by decide +kernel), by decide +kernel⟩

theorem test_runStop : (run (.runStop 4) up).runState 4 = runStopping ∧ (run (.runStop 4) up).g (F.RUN_BIT 4) = 0 := by decide +kernel
theorem test_runStart : (run (.runStart 4) ((up.gw (F.RUN_STATE 4) runStopped).gw (F.RUN_BIT 4) 0)).runState 4 = runStarting := by decide +kernel
theorem test_runStopDone : (run (.runStopDone 4) ((up.gw (F.RUN_STATE 4) runStopping).gw (F.RUN_BIT 4) 0)).runState 4 = runStopped := by decide +kernel
theorem test_runStartDone : (run (.runStartDone 1) (up.gw (F.RUN_STATE 1) runStarting)).runState 1 = runRunning ∧
    (run (.runStartDone 1) ((up.gw F.RM_POLICY_SHARED_MIN 65535).gw (F.RUN_STATE 1) runStarting)).runState 1 = runRefused := by decide +kernel

/-- Ring 0 enabled with 64 slots at 0x10000 and completion ring 0 with 64 slots at 0x20000. -/
def rings : Ilpiac :=
  unit (unit up .dring 0 [(F.DR_BASE_BASE, 0x10000), (F.DR_CTRL_LOG2_SIZE, 6), (F.DR_CTRL_ENABLE, 1), (F.DR_STATUS_STATE, drRunning)]) .cring 0
    [(F.CR_BASE_BASE, 0x20000), (F.CR_CTRL_LOG2_SIZE, 6), (F.CR_CTRL_ENABLE, 1)]

def idleRings : Ilpiac := unit (unit rings .dring 0 [(F.DR_CTRL_ENABLE, 0), (F.DR_STATUS_STATE, drStopped)]) .cring 0 [(F.CR_CTRL_ENABLE, 0)]

theorem witness_RingControl : rings.Linked ∧ rings.bootReady = true ∧ rings.drLive 0 = true ∧ rings.drSize 0 = 64 ∧ idleRings.headless = false ∧
    idleRings.dg 0 F.DR_CTRL_ENABLE = 0 ∧ idleRings.ringOk 0 = true := ⟨linked (by decide +kernel), by decide +kernel⟩

theorem test_drDoorbell : (run (.drDoorbell 0 64) rings).dg 0 F.DR_DOORBELL_PROD = 64 ∧ (run (.drDoorbell 0 65) rings).dg 0 F.DR_STATUS_ERR_CAUSE = 1 := by decide +kernel
theorem test_ringEnable : (run (.ringEnable 0) idleRings).dg 0 F.DR_STATUS_STATE = drRunning := by decide +kernel
theorem test_ringDisable : (run (.ringDisable 0) rings).dg 0 F.DR_STATUS_STATE = drStopped := by decide +kernel

/-- A NOP of completion ring 0 that asks for an interrupt, fetched at the head of ring 0. -/
def nopWords : List Word := [0x150, 0, 0, 0, 0, 0, 0, 0]
def head (ws : List Word) : Ilpiac :=
  let m := unit rings .dring 0 [(F.DR_DOORBELL_PROD, 1)]
  { m with ctl := { m.ctl with drings := [(0, ⟨[(0, ws)]⟩)] } }

theorem witness_DescriptorsTaken : (head nopWords).drLive 0 = true ∧ (head nopWords).dg 0 F.DR_STATUS_CONS ≠ (head nopWords).dg 0 F.DR_DOORBELL_PROD ∧
    (head nopWords).inAperture 0x10000 64 = false ∧ (head nopWords).inRegWindow 0x10000 64 = false ∧ (head nopWords).windowOk 0x10000 64 false = true ∧
    ((head nopWords).ringX 0).fetched.find? (fun x => x.1 == 0) = some (0, nopWords) ∧ nopWords ≠ [] ∧
    ((head []).ringX 0).fetched.find? (fun x => x.1 == 0) = some (0, []) ∧ (head []).drLive 0 = true ∧ (head []).dg 0 F.DR_STATUS_CONS ≠ (head []).dg 0 F.DR_DOORBELL_PROD ∧ (head nopWords).rd .cring (wRing nopWords) F.CR_CTRL_ENABLE = 1 ∧
    (head nopWords).holdCause 0 nopWords = none ∧ opKnown (wOp nopWords) = true ∧ opKnown (wOp [0x4F, 0, 0, 0, 0, 0, 0, 0]) = false ∧
    ((withDesc up 0x50 []).begin 0 0x50).isSome = true := by decide +kernel

theorem test_fetch : (run (.descriptorFetchDone 0 0 (some [nopWords])) (unit rings .dring 0 [(F.DR_DOORBELL_PROD, 1)])).ctl.drings = [(0, ⟨[(0, nopWords)]⟩)] ∧
    (run (.descriptorFetchDone 0 0 none) (unit rings .dring 0 [(F.DR_DOORBELL_PROD, 1)])).dg 0 F.DR_STATUS_ERR_CAUSE = 3 := by decide +kernel
theorem test_accept : (run (.descriptorAccept 0) (head nopWords)).dg 0 F.DR_STATUS_CONS = 1 ∧
    (run (.descriptorAccept 0) (head nopWords)).ctl.descs = [⟨0, 0, nopWords, false, false⟩] ∧
    lastStatus (run (.descriptorAccept 0) (head [0x4F, 0, 0, 0, 0, 0, 0, 0])) = some stBadDescriptor := by decide +kernel
theorem test_fetchAgain : (run (.descriptorFetchDone 0 1 none) (unit rings .dring 0 [(F.DR_DOORBELL_PROD, 2)])).ctl.drings = [(0, ⟨[(1, [])]⟩)] ∧
    (run (.descriptorAccept 0) (head [])).dg 0 F.DR_STATUS_CONS = 0 ∧ ((run (.descriptorAccept 0) (head [])).ringX 0).fetched = [] := by decide +kernel
theorem test_nop : lastStatus (run (.nop 0) (withDesc up 0x50 [])) = some stOk ∧ lastStatus (run (.nop 0) (withDesc up 0x50 [1])) = some stBadDescriptor := by decide +kernel

/-- A record due in completion ring 0. -/
def due1 : Ilpiac := { rings with ctl := { rings.ctl with cpl := [⟨0, [0, 0, 0, 0], true, 0, 0, none, none⟩] } }

theorem witness_CompletionRings : idleRings.Linked ∧ idleRings.bootReady = true ∧ idleRings.cg 0 F.CR_CTRL_ENABLE = 0 ∧ idleRings.cringOk 0 = true ∧
    due1.ctl.cpl.find? (fun x => x.cring == 0) = some ⟨0, [0, 0, 0, 0], true, 0, 0, none, none⟩ ∧ due1.crTakes 0 = true ∧
    due1.recordWaits ⟨0, [0, 0, 0, 0], true, 0, 0, none, none⟩ = false ∧ due1.inAperture (due1.crSlot 0) 32 = false ∧
    due1.inRegWindow (due1.crSlot 0) 32 = false ∧ due1.windowOk (due1.crSlot 0) 32 true = true ∧ (unit due1 .cring 0 [(F.CR_STATUS_STALLED, 1)]).cg 0 F.CR_STATUS_STALLED = 1 ∧
    1 ≤ (unit due1 .cring 0 [(F.CR_STATUS_PENDING, 1)]).cg 0 F.CR_STATUS_PENDING := ⟨linked (by decide +kernel), by decide +kernel⟩

theorem test_cplRing : (run (.cplRingEnable 0) idleRings).cg 0 F.CR_CTRL_ENABLE = 1 ∧ (run (.cplRingDisable 0) rings).cg 0 F.CR_CTRL_ENABLE = 0 := by decide +kernel
theorem test_crDoorbell : (run (.crDoorbell 0 (2 ^ 32 + 1)) (unit rings .cring 0 [(F.CR_STATUS_PROD, 1)])).cg 0 F.CR_STATUS_ARMED = 1 ∧
    (run (.crDoorbell 0 2) (unit rings .cring 0 [(F.CR_STATUS_PROD, 1)])).asserting srcRegAccess = true := by decide +kernel
theorem test_cplRecord : (run (.cplRecordWrite 0) due1).cg 0 F.CR_STATUS_PROD = 1 ∧ (run (.cplRecordWrite 0) due1).cg 0 F.CR_STATUS_PENDING = 1 := by decide +kernel
theorem test_cplStall : (run (.cplStallTimeout 0) (unit due1 .cring 0 [(F.CR_STATUS_STALLED, 1)])).g F.FAULT_FIRST_SOURCE = srcCplStall := by decide +kernel
theorem test_coal : (run (.irqCoalTimeout 0) (unit rings .cring 0 [(F.CR_STATUS_PENDING, 1), (F.CR_STATUS_ARMED, 1), (F.CR_CTRL_VECTOR, 9)])).ctl.irqDue = [9] := by
  decide +kernel

theorem witness_Interrupts : (up.irqDue 9).ctl.irqDue = [9] ∧ up.g F.HOLM_STATUS_STATE = holmUp := by decide +kernel
theorem test_irqSend : (run .irqSend (up.irqDue 9)).told = [.interrupt 9] := by decide +kernel
theorem test_irqMask : (run (.irqMaskWrite 0x3FE) (glob up [(F.IRQ_MASK_MASK, 0x3FF), (F.IRQ_CAUSE_CAUSE, 1)])).ctl.irqDue = [up.g F.IRQ_VECTOR_VECTOR 0] := by decide +kernel

/-! ### Faults, resets, headless operation, twin mode -/

/-- LINK latched for port 3. -/
def latched : Ilpiac := up.raise srcLink 3 0
/-- The latched source with its action. -/
def acting (a : Nat) : Ilpiac := latched.gw (F.FAULT_ACTION_OF srcLink) a

theorem witness_FaultLatch : up.g F.FAULT_FIRST_VALID = 0 ∧ (∀ a ∈ up.flt.asserts, a.latched = true ∧ a.src ≠ 1) ∧ stopSource srcThermal = true ∧
    latched.g F.FAULT_FIRST_VALID = 1 ∧ latched.g F.FAULT_FIRST_SOURCE ≠ 0x0A ∧ latched.asserting 0x0A = false ∧ bitOf (up.g F.FAULT_WIRES_BROKEN) 1 = false := by
  decide +kernel

theorem test_fault : (run (.faultAssert 9 3 5) up).g F.FAULT_FIRST_SOURCE = 9 ∧ (run (.faultAssert 9 3 5) up).g F.FAULT_FIRST_UNIT = 3 ∧
    (run (.faultAssert 9 3 5) up).g F.FAULT_FIRST_DETAIL = 5 ∧ (run (.faultAssert 10 0 0) latched).g F.FAULT_FIRST_OVERFLOW = 1 := by decide +kernel

theorem witness_FaultResponse : latched.g F.FAULT_FIRST_VALID = 1 ∧ latched.g F.FAULT_FIRST_STOPPED = 0 ∧ (acting actNone).latchedAction = actNone ∧
    (acting actFence).latchedAction = actFence ∧ (acting actReset).latchedAction = actReset ∧ (acting actStop).latchedAction = actStop ∧ latched.Linked ∧
    (∀ a ∈ latched.flt.asserts, a.latched = true) :=
  ⟨by decide +kernel, by decide +kernel, by decide +kernel, by decide +kernel, by decide +kernel, by decide +kernel, linked (by decide +kernel), by decide +kernel⟩

theorem test_grace : (run .faultGraceExpiry (acting actNone)).g F.FAULT_FIRST_VALID = 0 ∧ (run .faultGraceExpiry (acting actFence)).g F.FAULT_COUNTS_ESCALATED = 1 := by
  decide +kernel
theorem test_clear : (run .faultClear latched).g F.FAULT_FIRST_VALID = 0 := by decide +kernel
theorem test_sramUe : (run (.sramUeDetected (.packet 0)) up).g F.FAULT_FIRST_SOURCE = srcSramUe := by decide +kernel
theorem test_parity : (run (.internalParityError 0x300) up).g F.FAULT_FIRST_SOURCE = srcInternal ∧ (run (.internalParityError 0x300) up).g F.FAULT_FIRST_DETAIL = 0x300 := by
  decide +kernel

/-- FAULT_LOG_READ of one entry to 0x1000. -/
def logRead : Ilpiac := withDesc up 0x58 [2 ^ 32, 0x1000]
theorem witness_FaultLogRead : (logRead.begin 0 0x58).isSome = true ∧ logRead.addrOk 0x1000 32 true = true ∧ logRead.inAperture 0x1000 32 = false ∧
    logRead.inRegWindow 0x1000 32 = false ∧ logRead.windowOk 0x1000 32 true = true ∧ (logRead.record.entries 0 1).length ≤ 1 ∧
    (withDesc up 0x58 [0, 0x1000]).addrOk 0x1000 0 true = true := by decide +kernel
theorem test_faultLog : lastStatus (run (.faultLogRead 0) logRead) = some stOk ∧ lastStatus (run (.faultLogRead 0) (withDesc up 0x58 [0, 0x1000])) = some stBadDescriptor := by
  decide +kernel

def resetting : Ilpiac := { up with ctl := { up.ctl with resetting := true } }
theorem witness_Resets : up.Linked ∧ up.power.phase = .running ∧ bitOf 0xA520 5 = true ∧ bits 0xA520 8 8 = 0xA5 ∧ resetting.ctl.resetting = true ∧
    resetting.power.dormant = false ∧ up.fnPresent 2 = true ∧ ({ up with ctl := { up.ctl with funcReset := [0] } } : Ilpiac).ctl.funcReset ≠ [] ∧
    up.portPresent 0 = true ∧ up.portPresent 261 = true := ⟨linked (by decide +kernel), by decide +kernel⟩
theorem test_warmReset : (run (.warmReset 0xA520) up).ctl.resetting = true ∧ (run (.warmReset 0xA520) up).g F.RESET_STATUS_BY_SIDEBAND = 0 := by decide +kernel
theorem test_resetSync : (run (.functionReset 3) waiting1).sync.waits = [] ∧ (run (.functionReset 3) waiting1).g F.RESET_STATUS_FUNC_RESETS = 1 := by decide +kernel

def quietHost : Ilpiac := { glob up [(F.HB_CTRL_ENABLE, 1)] with ctl := { up.ctl with holm := { up.ctl.holm with wasUp := true } } }
def twinned : Ilpiac :=
  let m := glob (withUp up 5) [(F.TWIN_CTRL_ENABLE, 1), (F.TWIN_CTRL_PORT, 5), (F.TWIN_STATUS_STATE, twinComparing)]
  { m with twin := { own := [⟨[0x0, 1, 2], 77⟩], partner := [], unsent := [⟨[0x0, 1, 2], 77⟩] } }
def stoppedSwitch : Ilpiac := up.gw (F.RUN_STATE 0) runStopped
theorem witness_HeadlessAndTwin : quietHost.ctl.holm.wasUp = true ∧ quietHost.g F.HB_CTRL_ENABLE = 1 ∧ quietHost.g F.HEADLESS_ACTIVE = 0 ∧
    (up.gw F.HEADLESS_ACTIVE 1).g F.HEADLESS_ACTIVE = 1 ∧ stoppedSwitch.g F.TWIN_CTRL_ENABLE = 0 ∧ stoppedSwitch.fnStopped fnSwitch = true ∧
    (stoppedSwitch.gw F.TWIN_CTRL_ENABLE 1).fnStopped fnSwitch = true ∧ twinned.twinOn = true ∧ twinned.portUp 5 = true ∧ twinned.twin.unsent ≠ [] ∧
    twinned.twin.own[0]? = some ⟨[0x0, 1, 2], 77⟩ ∧ twinned.g F.TWIN_STATUS_STATE ≠ twinDiverged := by decide +kernel
theorem test_heartbeat : (run .heartbeatTimeout quietHost).g F.HEADLESS_ACTIVE = 1 ∧ (run .heartbeatTimeout quietHost).g F.HEADLESS_CAUSE = headHeartbeat := by decide +kernel
theorem test_resume : (run .headlessResume (up.gw F.HEADLESS_ACTIVE 1)).g F.HEADLESS_ACTIVE = 0 := by decide +kernel
theorem test_twinSend : (run .twinDigestSend twinned).twin.unsent = [] := by decide +kernel
theorem test_twinTimeout : (run (.twinKeyTimeout 0) twinned).g F.TWIN_STATUS_STATE = twinDiverged ∧ (run (.twinKeyTimeout 0) twinned).g F.TWIN_DIVERGE3_OWN = 77 := by decide +kernel
theorem test_twinOff : (run (.twinEnable 0) (stoppedSwitch.gw F.TWIN_CTRL_ENABLE 1)).g F.TWIN_STATUS_STATE = twinOff := by decide +kernel


/-- The worked example of spec 15: INTERNAL by queue entry 210 of D0, LINK of D17 with lane 34, and the end of the grace timer. -/
theorem test_example15 : (run (.internalParityError 0x00801A40) up).reg 0x20008 = 0x00801A400000010F ∧
    ((run (.internalParityError 0x00801A40) up).raise srcLink 17 34).reg 0x20008 = 0x00801A400000030F := by decide +kernel
theorem test_example15_grace : (run .faultGraceExpiry ((run (.internalParityError 0x00801A40) up).raise srcLink 17 34)).reg 0x20008 = 0x0000002200110309 := by decide +kernel

/-! ### Power, temperature, boot, identity -/

/-- A block whose power stage stands elsewhere. -/
def stage (p : PowerPhase) : Ilpiac := { up with power := { up.power with phase := p } }
def episode : Ilpiac := up.gw F.PWR_STATUS_EPISODE 1
def measuring : Ilpiac := { up with power := { up.power with measuring := true } }

theorem witness_PowerSequence : (stage .off).power.phase = .off ∧ up.power.phase ≠ .off ∧ up.power.phase ≠ .offOver ∧ up.g F.PWR_STATUS_EPISODE = 0 ∧
    (stage .offOver).power.phase = .offOver ∧ (stage .starting).power.phase = .starting ∧ (stage .coldHeld).power.phase = .coldHeld := by decide +kernel

theorem test_powerOn : (run (.powerOn 50000) (stage .off)).power.phase = .starting ∧ (run (.powerOn 50000) (stage .off)).g F.PWR_STATUS_VIN_MV = 50000 := by
  decide +kernel
theorem test_coldReset : (run .coldReset up).power.phase = .coldHeld ∧ (run .coldReset up).power.ready = false ∧ (run .coldReset up).g F.RESET_STATUS_LAST = 1 := by
  decide +kernel
theorem test_powerLoss : (run (.powerLoss 45999) up).power.phase = .off ∧ (run (.powerLoss 46000) up).power.phase = .running := by decide +kernel
theorem test_overVoltage : (run (.overVoltage 60500) up).power.phase = .offOver ∧ (run (.overVoltage 60499) up).power.phase = .running ∧
    (run (.overVoltageRecovery 60000) (stage .offOver)).power.phase = .starting := by decide +kernel
theorem test_crossing : (run (.vinThresholdCrossing 48500) up).g F.PWR_STATUS_VIN_MV = 48500 := by decide +kernel

theorem witness_PowerConditions : up.isOn = true ∧ up.g F.PWR_STATUS_EPISODE = 0 ∧ episode.g F.PWR_STATUS_EPISODE = 1 ∧ up.Linked ∧
    up.g F.PWR_CTRL_HOLDUP_PERIOD_H ≠ 0 ∧ measuring.power.measuring = true ∧ (46000 * 46000 - 900000000) / (5000 * (46000 - 44000)) < 2 ^ 16 ∧
    400000 / (46000 - 44000) < 2 ^ 16 ∧ (∀ g : Fin 4, up.hot g = false ∧ (tempLimits g).2.2 < 256) ∧ up.flt.asserts = [] :=
  ⟨by decide +kernel, by decide +kernel, by decide +kernel, linked (by decide +kernel), by decide +kernel⟩

theorem test_brownout : (run (.brownoutStart 47000 8) up).g F.PWR_STATUS_EPISODE = 1 ∧ (run (.brownoutStart 47000 8) up).g F.PWR_STATUS_DUTY = 7 ∧
    (run (.brownoutEnd 49000 120) episode).g F.PWR_BROWNOUT_LAST_US = 120 := by decide +kernel
theorem test_powerLimit : (run (.powerLimitSample 300 50000 12) up).g F.PWR_STATUS_PIN_W = 300 ∧
    (run (.powerLimitSample 300 50000 12) (up.gw F.PWR_CTRL_POWER_LIMIT_W 1)).g F.PWR_STATUS_LIMIT_UNMET = 1 := by decide +kernel

/-- The worked example of spec 16: from 60,000 mV to 59,750 mV is 1,600 µF and 2,160 mJ. -/
theorem test_holdup : (run (.holdupMeasureDone 60000 59750 9) measuring).g F.HOLDUP_CAP_UF = 1600 ∧
    (run (.holdupMeasureDone 60000 59750 9) measuring).g F.HOLDUP_ENERGY_MJ = 2160 ∧
    (run (.holdupMeasureDone 60000 59750 9) measuring).g F.PWR_STATUS_JOURNAL_EN = 1 ∧ (run .holdupRecheck up).power.measuring = true := by decide +kernel
theorem test_throttle : (run (.thermalThrottle 2 85) up).power.dutyTherm = 15 ∧ (run (.throttleStep [95, 0, 0, 0]) up).power.dutyTherm = 15 ∧
    (run (.throttleStep [94, 0, 0, 0]) up).power.dutyTherm = 16 := by decide +kernel
theorem test_trip : (run (.thermalTrip 0 110) up).g F.FAULT_FIRST_SOURCE = srcThermal ∧ (run (.hardTrip 3 135) up).power.phase = .hardTrip := by decide +kernel

/-- The public key of the factory record. -/
def key0 : List Byte := List.replicate 57 0

/-- An image of that kind, of 64 bytes, for variant 1 under that key. -/
def image (kind : Byte) : List Byte :=
  leBytes 4 0x59494D31 ++ leBytes 2 1 ++ [kind, 0] ++ leBytes 4 3 ++ leBytes 4 1 ++ leBytes 8 (keyId key0) ++ leBytes 4 64 ++ leBytes 4 0 ++
    leBytes 2 1 ++ List.replicate 286 0

def waitSteward : Ilpiac := up.gw F.BOOT_STATUS_STATE bootWaitSteward
def loading (kind prev : Nat) : Ilpiac := { up.gw F.BOOT_STATUS_STATE bootLoading with boot := { up.boot with load := some ⟨kind, 0, 320, prev, false⟩ } }

/-- The clauses on an accepted image have the verdict of Ed448ph, which has no body (R536): here for any verifier that accepts this image. -/
theorem judged (kind : Nat) (hk : kind = kindSteward ∨ kind = kindUcode) (img : List Byte)
    (hh : imageHeaderOk 1 kind 320 (toLen 320 img) = true) (hi : natAt (toLen 320 img) 0x10 8 = keyId key0) (hs : natAt (toLen 320 img) 0xC 4 = 1)
    (v : Config.ed448phVerify key0 (ascii "Yunate-IMG") (shake256 ((toLen 320 img).take (128 + natAt (toLen 320 img) 0x18 4)) 64)
      (bytesAt (toLen 320 img) (128 + natAt (toLen 320 img) 0x18 4) 114) = true) :
    ∃ i, (loading kind 0).judgeImage kind 320 img = (resOk, some i) := by
  have hc : (loading kind 0).copyInUse = AssemblyCopy.factory := by rcases hk with h | h <;> subst h <;> decide +kernel
  simp only [Ilpiac.judgeImage, hc]
  have e : AssemblyCopy.factory.variant = 1 ∧ AssemblyCopy.factory.minSvnSteward = 0 ∧ AssemblyCopy.factory.minSvnUcode = 0 := ⟨rfl, rfl, rfl⟩
  have k : AssemblyCopy.factory.keys.find? (fun x => keyId x == natAt (toLen 320 img) 0x10 8) = some key0 := by
    rw [hi, show AssemblyCopy.factory.keys = [key0] from rfl]; simp
  simp [e, hh, k, v, hs]

/-- A verdict of Ed448ph that accepts the image of that kind. -/
def Accepted (kind : Byte) : Prop :=
  Config.ed448phVerify key0 (ascii "Yunate-IMG") (shake256 ((toLen 320 (image kind)).take (128 + natAt (toLen 320 (image kind)) 0x18 4)) 64)
    (bytesAt (toLen 320 (image kind)) (128 + natAt (toLen 320 (image kind)) 0x18 4) 114) = true

theorem witness_Boot_steward (v : Accepted 1) : ∃ i, (loading kindSteward 0).judgeImage kindSteward 320 (image 1) = (resOk, some i) :=
  judged kindSteward (.inl rfl) _ (by decide +kernel) (by decide +kernel) (by decide +kernel) v

theorem witness_Boot_ucode (v : Accepted 2) : ∃ i, (loading kindUcode 0).judgeImage kindUcode 320 (image 2) = (resOk, some i) :=
  judged kindUcode (.inr rfl) _ (by decide +kernel) (by decide +kernel) (by decide +kernel) v

theorem witness_Boot : up.Linked ∧ bitOf 0xC 2 = true ∧ waitSteward.g F.BOOT_STATUS_STATE = bootWaitSteward ∧ (loading 1 0).boot.load = some ⟨1, 0, 320, 0, false⟩ ∧
    (loading 1 0).judgeImage 1 320 [] = (resBadHeader, none) ∧ (loading 1 0).has F.CAP_PRESENT_TRELLIS = true ∧ (loading 2 2).boot.heldCommit = false ∧
    ({ up with boot := { up.boot with watchdog := true } } : Ilpiac).boot.watchdog = true := ⟨linked (by decide +kernel), by decide +kernel⟩

theorem test_imageLoad : (run (.imageLoad 0x5) waitSteward).g F.BOOT_STATUS_STATE = bootLoading ∧ (run (.imageLoad 0x5) up).g F.BOOT_STATUS_RESULT = resOrder := by
  decide +kernel
theorem test_imageLoadDone : (run (.imageLoadDone none 7) (loading 1 0)).g F.BOOT_STATUS_RESULT = resReadFault ∧
    (run (.imageLoadDone (some []) 7) (loading 1 0)).g F.BOOT_STATUS_RESULT = resBadHeader := by decide +kernel
theorem test_watchdog : (run .stewardWatchdogExpiry { up with boot := { up.boot with watchdog := true } }).g F.FAULT_FIRST_SOURCE = srcSteward := by decide +kernel

/-- ATTEST to 0x1000 and CERT_READ of 64 bytes to 0x1000. -/
def attest1 : Ilpiac := withDesc (up.gw F.BOOT_STATUS_IDENTITY_OK 1) 0x60 [0x1000]
def cert1 : Ilpiac := withDesc up 0x61 [64 * 2 ^ 32, 0x1000]

/-- The clause with a device identity has the PUF response, which has no body (R542): here for any response. -/
theorem identified (r : List Byte) (h : Config.pufResponse [] = some r) : attest1.copyInUse.deviceKey = some (shake256 (r ++ ascii "Yunate-DEV") 57) := by
  have e : attest1.copyInUse.puf = [] := by decide +kernel
  simp [AssemblyCopy.deviceKey, e, h]

theorem witness_Identity : (attest1.begin 0 0x60).isSome = true ∧ (withDesc up 0x60 [0x1000]).g F.BOOT_STATUS_IDENTITY_OK = 0 ∧
    attest1.g F.BOOT_STATUS_IDENTITY_OK = 1 ∧ attest1.addrOk 0x1000 512 true = true ∧ attest1.inAperture 0x1000 512 = false ∧ attest1.inRegWindow 0x1000 512 = false ∧
    attest1.windowOk 0x1000 512 true = true ∧ (cert1.begin 0 0x61).isSome = true ∧ cert1.windowOk 0x1000 64 true = true ∧ cert1.addrOk 0x1000 64 true = true := by
  decide +kernel
theorem test_attest : lastStatus (run (.attest 0) (withDesc up 0x60 [0x1000])) = some stAbsentUnit := by decide +kernel
theorem test_certRead : lastStatus (run (.certRead 0) cert1) = some stOk ∧ (run (.certRead 0) cert1).told = [.cohWrite 0x1000 (List.replicate 64 0)] := by decide +kernel

/-! ### Synchronisation and time -/

/-- A ticket of amount `n` on counter 5. -/
def ticket (n : Nat) : SyncWaitE := { counter := 5, level := false, amount := n, who := .ring n, group := 0, timeout := 0, num := 0, tc := 0 }

theorem test_tickets : (serveTickets 5 [ticket 2, ticket 3, ticket 1]).1 = 0 ∧ (serveTickets 5 [ticket 2, ticket 3, ticket 1]).2.2 = [ticket 1] ∧
    (serveTickets 5 [ticket 6, ticket 1]).2.2 = [ticket 6, ticket 1] := by decide +kernel

/-- SYNC_SIGNAL of counter 5 with that operation and amount. -/
def signal (op x : Nat) : Ilpiac := withDesc up 0x48 [5 + op * 2 ^ 16, x]
theorem witness_SyncSignal : ((signal 0 7).begin 0 0x48).isSome = true ∧ ((signal 3 7).begin 0 0x48).isSome = true ∧ up.sync.waits = [] := by decide +kernel

def with5 (v : Nat) (m : Ilpiac) : Ilpiac := m.setCval 5 v
theorem test_signal : (run (.syncSignal 0) (with5 9 (signal 0 7))).cval 5 = 16 ∧ (run (.syncSignal 0) (with5 9 (signal 1 10))).cval 5 = 0 ∧
    (run (.syncSignal 0) (with5 9 (signal 1 10))).cflag F.SYNC_UNF_FLAGS 5 = true ∧ (run (.syncSignal 0) (with5 0xFFFFFFFF (signal 0 1))).cval 5 = 0xFFFFFFFF ∧
    lastStatus (run (.syncSignal 0) (signal 3 7)) = some stBadDescriptor := by decide +kernel

/-- SYNC_WAIT as a ticket of amount `x` on counter 5. -/
def wait5 (x : Nat) : Ilpiac := withDesc up 0x49 [5 + 2 ^ 16, x]
/-- SYNC_CANCEL of ring 0, from ring 1, while ring 0 waits. -/
def cancel : Ilpiac :=
  let m := run (.syncWait 0) (wait5 3)
  { m with ctl := { m.ctl with descs := m.ctl.descs ++ [({ ring := 1, num := 0, words := [0x4B, 0, 0, 0, 0, 0, 0, 0], started := false, due := false } : AccDesc)] } }
/-- A packet of a member on port 3 to bed 0. -/
def mem (ty : Nat) (hs : List Nat) : Packet := Packet.make ty 0 0 true 3 false hs []
/-- A packet of bed 1 that comes to bed 0 over a trunk. -/
def trk (ty : Nat) (hs : List Nat) : Packet := Packet.make ty 0 0 true 1 true hs []
/-- Port 3 UP, counters 0 to 99 open to members. -/
def members : Ilpiac := withUp (up.gw F.SYNC_CTRL_MEMBER_COUNT 100) 3
def syncAdd : Packet := mem 0x40 [5 + 17 * 2 ^ 32, 4]
/-- The same with the response of tag 17 kept. -/
def keptSync : Ilpiac := members.setPort 3 { members.port 3 with syncKept := [⟨17, mem 0x41 [0, 0]⟩] }
/-- A group of one ring that waits, with deadlock detection on. -/
def stuck : Ilpiac :=
  let m := (glob up [(F.SYNC_CTRL_DEADLOCK_US, 10)]).gw F.SYNC_GROUP_SIZE_SIZE 1 2
  { m with sync := { m.sync with waits := [{ ticket 3 with group := 2 }] } }

theorem witness_SyncCounters : ((wait5 3).begin 0 0x49).isSome = true ∧ 3 ≤ (with5 4 (wait5 3)).cval 5 ∧ (wait5 3).cval 5 < 3 ∧
    ((withDesc up 0x4A []).begin 0 0x4A).isSome = true ∧ (cancel.begin 1 0x4B).isSome = true ∧ (cancel.waitOf (.ring 0)).isSome = true ∧
    ((withDesc up 0x4B []).begin 0 0x4B).isSome = true ∧ up.waitOf (.ring 0) = none ∧
    (keptSync.port 3).syncKept.find? (fun k => k.tag == 17) ≠ none ∧ (landing members 3 syncAdd).2.syncBad syncAdd = false ∧ up.Linked ∧ up.bootReady = true ∧
    stuck.g F.SYNC_GROUP_SIZE_SIZE 2 = 1 ∧ stuck.g F.SYNC_CTRL_DEADLOCK_US ≠ 0 :=
  ⟨by decide +kernel, by decide +kernel, by decide +kernel, by decide +kernel, by decide +kernel, by decide +kernel, by decide +kernel, by decide +kernel,
    by decide +kernel, by decide +kernel, linked (by decide +kernel), by decide +kernel⟩

theorem witness_SyncCounters_lands : (∃ b, members.Lands 3 syncAdd (landing members 3 syncAdd).2 0 b) ∧
    ∃ b, keptSync.Lands 3 syncAdd (landing keptSync 3 syncAdd).2 0 b :=
  ⟨lands (by decide +kernel) (by decide +kernel) (by decide +kernel) (by decide +kernel),
    lands (by decide +kernel) (by decide +kernel) (by decide +kernel) (by decide +kernel)⟩

theorem test_wait : (run (.syncWait 0) (with5 4 (wait5 3))).cval 5 = 1 ∧ (run (.syncWait 0) (wait5 3)).sync.waits.length = 1 ∧
    lastStatus (run (.syncCancel 1) cancel) = some stOk ∧ (run (.syncCancel 1) cancel).sync.waits = [] ∧
    lastStatus (run (.syncFence 0) (withDesc up 0x4A [])) = some stOk := by decide +kernel
theorem test_waitTimeout :
    let m := run (.syncWait 0) (withDesc up 0x49 [5 + 2 ^ 16, 3 + 9 * 2 ^ 32])
    lastStatus (run (.syncWaitTimeout (.ring 0)) m) = some stTimeout ∧ lastStatus m = none := by decide +kernel
theorem test_syncOp : (run (.syncOpReceived 3 syncAdd) members).cval 5 = 4 ∧ (run (.syncOpReceived 3 syncAdd) keptSync).cval 5 = 0 := by decide +kernel
theorem test_syncVal : (run (.syncValWrite 77) (up.gw F.SYNC_SEL_COUNTER 6)).cval 6 = 77 := by decide +kernel
theorem test_deadlock : (run (.syncDeadlockDetect 2) stuck).cflag F.SYNC_DEADLOCK_STALLED 2 = true := by decide +kernel

/-- A module locked to trunk port 0, at 1,000,000 ns, with a link delay of 100 ns, and a TIME_SYNC of 1,000,500 ns. -/
def locked : Ilpiac :=
  let m := glob (withUp (withUp up 256) 3) [(F.REF_CTRL_SOURCE, 2), (F.TIME_STATUS_STATE, timeLocked), (F.TIME_CTRL_STEP_NS, 1000)]
  { m with time := { m.time with ns := 1000000, delays := [(256, 100 * 65536)], todSeconds := some 1, reqs := [(3, (9, (0, 0)))] } }
def timePkt : Packet := trk 0x48 [1000500, 0, 7 + 3 * 2 ^ 16 + timeMaster * 2 ^ 22]
def pulse : Ilpiac := locked.gw F.REF_CTRL_SOURCE 1
def tod : TodMsg :=
  let l := [0xA5, 0, 0, 0] ++ leBytes 8 5
  l ++ leBytes 4 (crc32c l).toNat
def delayReq : Packet := trk 0x49 [8]
def delayRsp : Packet := mem 0x4A [9 + 1000 * 2 ^ 32]

theorem witness_TimeTransfer : (locked.counted 256 timePkt).timeApplies = true ∧ (locked.counted 256 timePkt).placed = true ∧
    timePkt.f 3 0 16 = (locked.counted 256 timePkt).g F.PLACEMENT_PLOT_ID ∧ (locked.counted 256 timePkt).timeState = timeLocked ∧
    (locked.counted 256 timePkt).sourcePort = some 256 ∧ locked.time.masters = [] ∧ timePkt.f 3 22 3 ≠ timeConflict ∧
    (locked.counted 256 timePkt).delayOf 256 = some (100 * 65536) ∧ pulse.g F.REF_CTRL_SOURCE = 1 ∧ pulse.timeApplies = true ∧ pulse.time.todSeconds = some 1 ∧
    tod.length = 16 ∧ natAt tod 12 4 = (crc32c (tod.take 12)).toNat ∧ natAt tod 1 1 ≠ timeConflict ∧ natAt tod 0 1 = 0xA5 ∧ locked.running 4 = true ∧
    (locked.counted 256 delayReq).running 4 = true ∧
    (locked.counted 3 delayRsp).time.reqs.find? (fun x => x.1 == 3) = some (3, (delayRsp.f 1 0 32, (0, 0))) := by decide +kernel

theorem witness_TimeTransfer_admits : locked.Admits 256 timePkt ∧ locked.Admits 256 delayReq ∧ locked.Admits 3 delayRsp :=
  ⟨admits (by decide +kernel), admits (by decide +kernel), admits (by decide +kernel)⟩

/-- An offset of −600 ns, below STEP_NS, is slewed; with STEP_NS at 500 it steps to 1,000,600 ns. -/
theorem test_timeSync : (run (.timeSyncReceived 256 timePkt) locked).time.slew = -600 * 65536 ∧
    (run (.timeSyncReceived 256 timePkt) (locked.gw F.TIME_CTRL_STEP_NS 500)).time.ns = 1000600 := by decide +kernel
theorem test_todIn : (run (.todInReceived tod) pulse).time.todSeconds = some 5 := by decide +kernel
theorem test_pps : (run .ppsInEdge pulse).time.lastSeconds = some 1 ∧ (run .ppsInEdge pulse).g F.TIME_STATUS_STEPS = 1 := by decide +kernel
theorem test_delay : (run (.delayRspReceived 3 delayRsp) locked).delayOf 3 = some ((1000000 * 65536 - 65536) / 2) ∧
    (run (.delayReqReceived 256 delayReq 0) locked).sw.buf.map (fun b => b.pkt.ty) = [0x4A] := by decide +kernel
theorem test_timeTimers : (run .timeSyncTimer locked).time.serial = 1 ∧ (run .delayMeasureTimer locked).sw.buf.map (fun b => b.pkt.ty) = [0x49, 0x49] := by decide +kernel

def master : Ilpiac := glob up [(F.TIME_STATUS_STATE, timeMaster), (F.TIME_SET_NS_NS, 5000000000), (F.TIME_PINS_PPS_OUT_EN, 1), (F.TIME_PINS_TOD_OUT_EN, 1)]
theorem witness_TimeKeeping : up.Linked ∧ master.timeState = timeMaster ∧ up.timeState ≠ timeMaster ∧ master.g F.TIME_PINS_PPS_OUT_EN = 1 ∧
    master.g F.TIME_PINS_TOD_OUT_EN = 1 ∧ locked.running 4 = true ∧ locked.timeState = timeLocked ∧ up.placed = true ∧ up.timeState = timeUnset :=
  ⟨linked (by decide +kernel), by decide +kernel⟩
theorem test_timeSet : (run .timeApplySet master).time.ns = 5000000000 ∧ (run .timeApplySet up).time.ns = 0 := by decide +kernel
theorem test_ppsOut : (run .ppsOutEdge master).time.ppsHigh = true ∧ (run .ppsOutPulseEnd (run .ppsOutEdge master)).time.ppsHigh = false := by decide +kernel
theorem test_todOut : natAt (run .todOutSend { master with time := { master.time with ns := 5999999999 } }).time.todOut 4 8 = 6 := by decide +kernel
theorem test_timeSource : (run .timeSourceTimeout locked).timeState = timeHoldover ∧ (run .noMasterTimeout up).asserting srcTime = true := by decide +kernel

/-! ### HBM -/

/-- HBM of two slots, backed by channels 0 and 1, with channel 2 in reserve. -/
def small : Ilpiac :=
  let m := unit (glob up [(F.HBM_STATUS_LOGICAL_GIB, 2)]) .channel 1 [(F.CH_STATUS_SLOT, 1), (F.CH_CTRL_UE_LIMIT, 3)]
  { m with hbm := { m.hbm with slotmap := [some 0, some 1], reserve := [2] } }
/-- The same while slot 1 moves from channel 1 to channel 2, readable and not. -/
def moving (r : Bool) : Ilpiac := { small with hbm := { small.hbm with slotmap := [some 0, some 2], reserve := [], migrations := [⟨1, 1, r, 2, []⟩], heldSlots := [1] } }
def oneStack : Ilpiac := glob up [(F.CAP_PRESENT_HBM_STACKS, 1), (F.RUN_STATE fnHbm, runStarting)]
def upset1 : Upset := ⟨3, 0x10⟩
def upset2 : Upset := ⟨4, 0x01⟩

theorem witness_HbmChannels : small.hbmOn = true ∧ small.channelPresent 1 = true ∧ small.chState 1 = chActive ∧ small.hbm.reserve = [2] ∧
    small.rd .channel 1 F.CH_STATUS_SLOT = 1 ∧ small.backing 1 = some 1 ∧ small.migration 1 = none ∧ small.Linked ∧ small.bootReady = true ∧
    small.cwErrors (1 * 2 ^ 24 + 0) = [] ∧ Map.get (fun _ => 0) small.hbm.scrubAt 1 = 0 ∧ upset1.bits ≠ 0 ∧ upset2.bits ≠ 0 ∧ upset1.symbol % 68 ≠ upset2.symbol % 68 ∧
    small.rd .channel 1 F.CH_CTRL_CE_LIMIT ≥ 0 ∧ (unit small .channel 1 [(F.CH_CTRL_CE_LIMIT, 0)]).rd .channel 1 F.CH_CTRL_CE_LIMIT = 0 ∧
    max 1 (small.rd .channel 1 F.CH_CTRL_UE_LIMIT) > Map.get (fun _ => 0) small.hbm.ueCount 1 + 1 :=
  ⟨by decide +kernel, by decide +kernel, by decide +kernel, by decide +kernel, by decide +kernel, by decide +kernel, by decide +kernel,
    linked (by decide +kernel), by decide +kernel⟩

theorem test_mapout : (run (.channelMapout 1) small).migration 1 = some ⟨1, 1, true, 2, []⟩ ∧ (run (.channelMapout 1) small).backing 1 = some 2 := by decide +kernel
theorem test_accessTimeout : (run (.channelAccessTimeout 1) small).migration 1 = some ⟨1, 1, false, 2, []⟩ := by decide +kernel
theorem test_scrub : (run (.scrubRead 1 []) small).hbm.scrubAt = [(1, 1)] ∧ (run (.scrubRead 1 [upset1]) small).rd .channel 1 F.CH_ERRORS_CE = 1 ∧
    (run (.scrubRead 1 [upset1, upset2]) small).hbm.poison = [2 ^ 24] := by decide +kernel

theorem witness_HbmRunning : (moving true).migration 1 = some ⟨1, 1, true, 2, []⟩ ∧ (moving false).migration 1 = some ⟨1, 1, false, 2, []⟩ ∧
    (∀ i < 64, (moving true).cwErrors (1 * 2 ^ 24 + (262143 * 64 + i)) = []) ∧ 262143 < slotUnits ∧ up.Linked ∧ up.bootReady = true ∧ up.channelPresent 767 = true ∧
    up.stackPresent 11 = true ∧ (unit up .stack 11 [(F.STACK_CTRL_SELF_REFRESH, 1)]).rd .stack 11 F.STACK_CTRL_SELF_REFRESH = 1 ∧
    up.rd .stack 11 F.STACK_STATUS_STATE = 0 ∧ up.hbm.migrations = [] ∧ oneStack.runState fnHbm = runStarting ∧ (oneStack.hbmStart []).1 = true ∧
    (oneStack.hbmStart []).2.g (F.RUN_BIT fnHbm) = 1 ∧ ((oneStack.gw F.HBM_CONFIG_HEADROOM 64).hbmStart [5]).1 = false :=
  ⟨by decide +kernel, by decide +kernel, by decide +kernel, by decide, linked (by decide +kernel), by decide +kernel⟩

theorem test_migrationUnit : (run (.migrationUnit 1 5) (moving true)).migration 1 = some ⟨1, 1, true, 2, [5]⟩ := by decide +kernel
theorem test_remapDone : (run (.slotRemapDone 1) (moving true)).hbm.heldSlots = [] := by decide +kernel
theorem test_inject : (run (.channelInjectArm 1 0x04000007) small).rd .channel 1 F.CH_INJECT_ACCESS = 7 ∧
    (run (.channelInjectArm 1 0x04000007) small).rd .channel 1 F.CH_INJECT_ARM = 1 := by decide +kernel
theorem test_selfRefresh : (run (.selfRefreshEnter 11) (unit up .stack 11 [(F.STACK_CTRL_SELF_REFRESH, 1)])).rd .stack 11 F.STACK_STATUS_STATE = 1 := by decide +kernel

theorem witness_HbmLayoutSound : ∃ l, oneStack.hbmLayout (List.range 64) = some l :=
  Option.isSome_iff_exists.mp (by decide +kernel)

theorem witness_Aperture : small.apertureHere 0x40 64 = true ∧ small.hbmOn = true ∧ 0x40 + 64 ≤ small.slots * 2 ^ 30 ∧
    ((small.upset 1 []).memRead 0x40 64 ((small.upset 1 []).hintAt 0x40 false)).2.g F.HOLM_STATUS_STATE = holmUp ∧
    (small.gw (F.RUN_STATE 2) runStopped).hbmOn = false ∧ (small.gw (F.RUN_STATE 2) runStopped).apertureHere 0x40 64 = true ∧
    small.apertureHere (2 ^ 31) 64 = true ∧ small.slots * 2 ^ 30 < 2 ^ 31 + 64 ∧ small.groups = [] ∧ (small.gw F.CACHE_CTRL_ENABLE 0).cacheOn = false ∧ (small.gw F.CACHE_CTRL_ENABLE 0).readAt 1 = some 1 ∧
    small.migration (small.placeOf 1).1 = none := by decide +kernel

theorem test_aperture : (run (.apertureRead 0x40 4 []) (run (.apertureWrite 0x40 [1, 2, 3, 4]) small)).told = [.apertureData [1, 2, 3, 4] false] ∧
    (run (.apertureRead (2 ^ 31) 4 []) small).told = [.apertureData [0xFF, 0xFF, 0xFF, 0xFF] false] := by decide +kernel

/-! ### Lanes -/

/-- Lanes 6 and 7 of downlink port 3, enabled, in that state. -/
def lanes3 (state : Nat) : Ilpiac :=
  [6, 7].foldl (fun m l => unit m .lane l [(F.LANE_CTRL_ENABLE, 1), (F.LANE_STATUS_STATE, state)]) up
/-- Port 3 formed over both lanes. -/
def formed3 : Ilpiac :=
  let m := unit (withUp (lanes3 laneActive) 3) .lane 6 [(F.LANE_PORT_STATUS_TX_SET, 3), (F.LANE_PORT_STATUS_RX_SET, 3), (F.LANE_PORT_DEEP_AFTER_US, 50),
    (F.LANE_PORT_LIGHT_EN, 1)]
  m.setLink 3 { m.link 3 with formed := true, rxGood := 3, pRxGood := 3, pTxSet := 3 }
/-- Lane 6 off, disabled. -/
def off6 : Ilpiac := unit (lanes3 laneActive) .lane 6 [(F.LANE_CTRL_ENABLE, 0), (F.LANE_STATUS_STATE, 0)]
/-- Lane 6 held. -/
def held6 : Ilpiac := (unit (lanes3 laneActive) .lane 6 [(F.LANE_STATUS_STATE, laneHeld)]).setLane 6 { LaneX.init with held := true }
def sourced : Ilpiac := glob up [(F.REF_CTRL_SOURCE, 2), (F.REF_STATUS_STATE, refLocked)]
def idle3 (d : Nat) : Ilpiac := unit formed3 .lane 6 [(F.LANE_PORT_STATUS_TX_IDLE, d)]

theorem witness_LaneControl : off6.Reaches (F.LANE_CTRL_ENABLE.key .lane 6 0) ∧ off6.lg 6 F.LANE_CTRL_CLEAR_HOLD = 0 ∧ off6.lg 6 F.LANE_CTRL_ENABLE = 0 ∧
    off6.laneState 6 = laneOff ∧ (lanes3 laneActive).lg 6 F.LANE_CTRL_ENABLE = 1 ∧ (lanes3 laneActive).inSet 6 = false ∧ formed3.inSet 6 = true ∧
    (formed3.lane 6).offDue = false ∧ formed3.flaps 6 = false ∧ (held6.lane 6).held = true ∧ held6.laneState 6 = laneHeld ∧ held6.lg 6 F.LANE_CTRL_MODE = 0 ∧
    held6.laneMay 6 = true ∧ (∀ x ∈ lanesOf (lanePort 6), x ≠ 6 → (held6.lane x).held = false) ∧
    up.Reaches (F.LANE_INJECT_ARM.key .lane 575 0) ∧ sourced.Reaches 0x390000 ∧ bits 0x12 0 3 = sourced.g F.REF_CTRL_SOURCE ∧ bits 0x13 0 3 ≠ sourced.g F.REF_CTRL_SOURCE ∧
    (formed3.link 3).formed = true ∧ formed3.plg 3 F.LANE_PORT_LIGHT_EN = 1 ∧ formed3.txIdle 3 = 0 ∧ (idle3 1).txIdle 3 = 1 ∧ formed3.portUp 3 = true ∧
    formed3.plg 3 F.LANE_PORT_DEEP_AFTER_US ≠ 0 ∧ (idle3 2).txIdle 3 = 2 ∧ sourced.g F.REF_STATUS_STATE ≠ refHoldover ∧ (3000000 : Int).natAbs ≤ 3000000 :=
  ⟨reaches (by decide +kernel), by decide +kernel, by decide +kernel, by decide +kernel, by decide +kernel, by decide +kernel, by decide +kernel,
    by decide +kernel, by decide +kernel, by decide +kernel, by decide +kernel, by decide +kernel, by decide +kernel, by decide +kernel,
    reaches (by decide +kernel), reaches (by decide +kernel), by decide +kernel⟩

theorem test_laneEnable : (run (.laneEnable 6) off6).laneState 6 = laneAcquire ∧ (run (.laneDisable 6) (lanes3 laneActive)).laneState 6 = laneOff ∧
    (run (.laneDisable 6) formed3).lg 6 F.LANE_STATUS_LAST_CAUSE = causeSoftware ∧ (run (.laneClearHold 6) held6).laneState 6 = laneAcquire := by decide +kernel
theorem test_injectArm : (run (.laneInjectArm 575 0x0B) up).lg 575 F.LANE_INJECT_SYMBOLS = 2 ∧ (run (.laneInjectArm 575 0x0B) up).lg 575 F.LANE_INJECT_ARM = 0 := by
  decide +kernel
theorem test_ref : (run (.refSourceChange 0x3) sourced).g F.REF_STATUS_STATE = refAcquiring ∧ (run .refSourceLost sourced).g F.REF_STATUS_STATE = refHoldover ∧
    (run (.refSourceReturn (-1) true) sourced).g F.REF_STATUS_OFFSET_PPB = 0xFFFFFF := by decide +kernel
theorem test_light : (run (.lightIdleEnter 3) formed3).txIdle 3 = 1 ∧ (run (.lightIdleBeacon 3) (idle3 1)).seqNow 3 = 6 ∧ (run (.lightIdleExit 3) (idle3 1)).txIdle 3 = 0 := by
  decide +kernel
theorem test_deep : (run (.deepIdleEnter 3) formed3).txIdle 3 = 2 ∧ (run (.deepIdleWake 3) (idle3 2)).txIdle 3 = 0 ∧ (run (.deepCheckTimer 3) (idle3 2)).txIdle 3 = 0 := by
  decide +kernel

/-- Lanes 6 and 7 locked toward a partner that has both in its sets, the port not formed. -/
def forming3 : Ilpiac := (lanes3 laneLocked).setLink 3 { LinkX.init with pRxGood := 3, pTxSet := 3, rxGood := 3 }
def holmLanes : Ilpiac :=
  let m := (List.range 16).foldl (fun m i => unit m .lane (560 + i) [(F.LANE_CTRL_ENABLE, 1), (F.LANE_STATUS_STATE, laneLocked)]) up
  m.setLink holmPort { LinkX.init with pRxGood := 0xFFFF, pTxSet := 0xFFFF, rxGood := 0xFFFF }

theorem witness_LaneBringUp : (lanes3 laneAcquire).laneState 6 = laneAcquire ∧
    (unit (lanes3 laneAcquire) .lane 6 [(F.LANE_STATUS_SIGNAL, 1)]).lg 6 F.LANE_STATUS_SIGNAL = 1 ∧ (lanes3 laneAdapt).laneState 6 = laneAdapt ∧
    (unit (lanes3 laneAdapt) .lane 6 [(F.LANE_STATUS_CDR_LOCK, 1)]).lg 6 F.LANE_STATUS_CDR_LOCK = 1 ∧ (forming3.link 3).formed = false ∧
    (∃ l ∈ lanesOf 3, forming3.laneState l = laneLocked) ∧ forming3.minLanes 3 ≤ popCount (forming3.wantSet 3) 16 ∧
    forming3.minLanes 3 ≤ popCount (ofBitIdx (bitIdx (forming3.link 3).pTxSet (laneCount 3))) 16 ∧
    popCount ((lanes3 laneLocked).wantSet 3) 16 < (lanes3 laneLocked).minLanes 3 ∧ holmLanes.minLanes holmPort ≤ popCount (holmLanes.wantSet holmPort) 16 := by
  decide +kernel

theorem test_bringUp : (run (.laneSignalDetect 6) (lanes3 laneAcquire)).lg 6 F.LANE_STATUS_SIGNAL = 1 ∧
    (run (.laneCdrLock 6) (unit (lanes3 laneAcquire) .lane 6 [(F.LANE_STATUS_SIGNAL, 1)])).laneState 6 = laneAdapt ∧
    (run (.laneTrainTimeout 6) (unit (lanes3 laneAdapt) .lane 6 [(F.LANE_STATUS_SIGNAL, 1)])).lg 6 F.LANE_STATUS_TRAIN_RETRIES = 1 := by decide +kernel
theorem test_form : (run (.portForm 3) forming3).portState 3 = 1 ∧ (run (.portForm 3) forming3).txSet 3 = 3 ∧
    (run (.portForm ⟨holmPort, by decide⟩) holmLanes).g F.HOLM_STATUS_STATE = holmUnassigned := by decide +kernel

/-- A correct DATA flit of an idle pattern and a CONTROL flit, next on lane 6. -/
def flit (kind : Nat) : Codeword := ⟨2, ⟨0, 0, 0, kind, List.replicate 204 0⟩⟩

theorem witness_Flits : (lanes3 laneAcquire).laneReceives 6 = false ∧ (lanes3 laneLocked).laneReceives 6 = true ∧ ((lanes3 laneLocked).link 3).formed = false ∧
    ((lanes3 laneLocked).link 3).txSwitch = none ∧ formed3.laneReceives 6 = true ∧ (formed3.link 3).formed = true ∧ (formed3.link 3).txSwitch = none ∧
    (formed3.link 3).rxSwitch = none ∧ (formed3.link 3).reorder = [] ∧ formed3.laneOfFlit 3 (formed3.link 3).expect = some (laneIdx 6) ∧
    (flit 4).flit.seq = (formed3.link 3).expect % 256 ∧ (flit 4).flit.lane = laneIdx 6 % 8 ∧ (flit 4).symErrors ≤ 15 ∧ (formed3.link 3).skip = none ∧
    (PktStream.data { asm := [], skip := none, out := [], lost := [] } (flit 0).flit).lost = [] ∧
    (formed3.setLink 3 { formed3.link 3 with txSwitch := some ⟨1, 5⟩ }).seqNow 3 < 5 ∧
    0 ≤ (formed3.setLink 3 { formed3.link 3 with txSwitch := some ⟨1, 0⟩ }).seqNow 3 ∧ lanePort 6 ≠ holmPort := by decide +kernel

theorem test_control : ((run (.controlFlitReceived 6 ⟨1, 2, 0, 0, false⟩) (lanes3 laneLocked)).link 3).pTxSet = 2 ∧
    (run (.controlFlitTimer 3) (formed3.setLink 3 { formed3.link 3 with txSwitch := some ⟨1, 0⟩ })).txSet 3 = 1 := by decide +kernel

theorem witness_LaneLoss : formed3.laneUsed 6 causeSignal = true ∧ formed3.rxIdle 3 ≠ 2 ∧ formed3.txIdle 3 ≠ 2 ∧ formed3.flaps 6 = false ∧ formed3.lg 6 F.LANE_CTRL_ENABLE = 1 ∧
    formed3.lg 6 F.LANE_CTRL_MODE = 0 ∧ formed3.laneMay 6 = true ∧ (formed3.lane 6).held = false ∧
    (formed3.setLane 6 { LaneX.init with removals := List.replicate 20 0 }).flaps 6 = true ∧
    (unit formed3 .lane 6 [(F.LANE_PORT_MARGIN_SYMBOLS, 4)]).plg 3 F.LANE_PORT_MARGIN_SYMBOLS = 4 ∧
    (off6.setLane 6 { LaneX.init with offDue := true }).lg 6 F.LANE_CTRL_ENABLE = 0 ∧ ((off6.setLane 6 { LaneX.init with offDue := true }).lane 6).offDue = true ∧
    (unit formed3 .lane 7 [(F.LANE_STATUS_STATE, laneLocked)]).laneServes 7 = true := by decide +kernel

theorem test_laneLoss : (run (.laneSignalLoss 6) formed3).lg 6 F.LANE_STATUS_LAST_CAUSE = causeSignal ∧ (run (.laneSignalLoss 6) formed3).laneState 6 = laneAcquire ∧
    (run (.laneMarginCheck 6 5) (unit formed3 .lane 6 [(F.LANE_PORT_MARGIN_SYMBOLS, 4)])).lg 6 F.LANE_STATUS_LAST_CAUSE = causeMargin := by decide +kernel
theorem test_switchOff : (run (.laneSwitchOffTimeout 6) (off6.setLane 6 { LaneX.init with offDue := true })).laneState 6 = laneOff := by decide +kernel
theorem test_readd :
    bitOf ((run (.laneReadd 7) ((unit formed3 .lane 7 [(F.LANE_STATUS_STATE, laneLocked)]).setLink 3 { formed3.link 3 with rxGood := 1 })).link 3).rxGood 1 = true := by
  decide +kernel

/-! ### Communicators and collectives -/

/-- COMM_CREATE of communicator 5 with two members listed at 0x1000. -/
def create : Ilpiac := withDesc up 0x01 [5 + 2 * 2 ^ 16, 0x1000]
/-- A descriptor of ring 0 with those words. -/
def desc (ws : List Nat) : AccDesc := { ring := 0, num := 0, words := (ws ++ List.replicate (8 - ws.length) 0).map (BitVec.ofNat 64), started := false, due := false }
/-- Communicator 5 of the members on ports 2 and 3 of bed 0. -/
def comm5 : Comm := newComm (desc [0x01, 5 + 2 * 2 ^ 16, 0x1000]) [2, 3] [] 0
def held5 : Ilpiac := { withUp (withUp up 2) 3 with coll := { up.coll with comms := [comm5] } }
/-- ALL_REDUCE of communicator 5, STEP 1, SEQ 2, of one chunk position in FP32. -/
def reduce : List Nat := [5 + 5 * 2 ^ 16 + 5 * 2 ^ 20, 1, 2 + 2 ^ 32]
def reducing : Ilpiac := withDesc held5 0x10 reduce
def accepted5 : Ilpiac := run (.allReduce 0) reducing
def admitted5 : Ilpiac := run (.contextAdmit none) accepted5
def k5 : CollId := ⟨5, 1, 2⟩
def x5 : CtxId := ⟨k5, 0, 0⟩
/-- The open collective with something of it changed. -/
def coll5 (f : Coll → Coll) (m : Ilpiac) : Ilpiac := { m with coll := { m.coll with colls := m.coll.colls.map f } }
def ctx5 (f : Ctx → Ctx) (m : Ilpiac) : Ilpiac := { m with coll := { m.coll with ctxs := m.coll.ctxs.map f } }

def destroy : Ilpiac := withDesc held5 0x02 [5]
def query : Ilpiac := withDesc held5 0x03 [5, 0x2000]
def fence (b : Nat) : Ilpiac := (withDesc held5 0x20 [3]).pw 3 F.PORT_STATUS_FENCED b
def unfence : Ilpiac := withDesc held5 0x21 [3]
/-- RM_QUOTA of 8 slots, with `n` set aside. -/
def quota (n : Nat) : Ilpiac :=
  let m := withDesc held5 0x28 [5 + 8 * 2 ^ 16]
  { m with coll := { m.coll with comms := [{ comm5 with quotaSet := n }] } }
/-- Its increase waits while all has been set aside. -/
def quotaDue : Ilpiac :=
  let m := quota 8
  { m with coll := { m.coll with comms := [{ comm5 with quotaSet := 8, quotaWait := some (8, (0, 0)) }] } }

theorem witness_CommunicatorControl_create : (create.begin 0 0x01).isSome = true ∧ create.placed = true ∧ create.Coherent 0x1000 4 false ∧ create.comm 5 = none ∧
    5 ∉ create.coll.dying ∧ create.freeContexts ≠ 0 ∧ ascending (halfwords 2 [2, 0, 3, 0]) = true ∧ create.has F.CAP_PRESENT_TRUNK = true ∧
    (∀ a ∈ halfwords 2 [2, 0, 3, 0], create.bedInside (a / 256) = true ∧ a / 256 < 64 ∧ a % 256 < create.downlinks ∧ a / 256 = create.bed) ∧
    create.twinOn = false ∧ ((withDesc held5 0x01 [5 + 2 * 2 ^ 16, 0x1000]).comm 5).isSome = true ∧ (create.gw F.PLACEMENT_VALID 0).placed = false :=
  ⟨by decide +kernel, by decide +kernel, coherent (by decide +kernel), by decide +kernel⟩

theorem witness_CommunicatorControl : (destroy.begin 0 0x02).isSome = true ∧ destroy.comm 5 = some comm5 ∧ (withDesc up 0x02 [5]).comm 5 = none ∧
    destroy.coll.colls = [] ∧ comm5.quotaWait = none ∧ (query.begin 0 0x03).isSome = true ∧ query.Coherent 0x2000 256 true ∧ query.g F.HOLM_STATUS_STATE = holmUp ∧
    comm5.cnt.hist.length = 16 ∧ ((fence 0).begin 0 0x20).isSome = true ∧ (fence 0).portPresent 3 = true ∧ (fence 0).portFenced 3 = false ∧ (fence 1).portFenced 3 = true ∧
    (unfence.begin 0 0x21).isSome = true ∧ unfence.portUp 3 = true ∧ unfence.collsWith 3 = [] ∧ (withDesc up 0x21 [3]).portUp 3 = false ∧
    ((quota 0).begin 0 0x28).isSome = true ∧ (quota 0).comm 5 = some { comm5 with quotaSet := 0 } ∧ 4 + max (levelsOf ((quota 0).locals comm5).length) 1 ≤ 8 ∧
    8 ≤ 32768 - (quota 0).g F.RM_POLICY_SHARED_MIN ∧ (quota 8).comm 5 = some { comm5 with quotaSet := 8 } ∧ quotaDue.comm 5 ≠ none ∧
    quotaDue.ctl.descs.find? (fun x => x.ring == 0 && x.num == 0) ≠ none :=
  ⟨by decide +kernel, by decide +kernel, by decide +kernel, by decide +kernel, by decide +kernel, by decide +kernel, coherent (by decide +kernel), by decide +kernel⟩

theorem test_create : lastStatus (run (.commCreate 0 (some [2, 0, 3, 0]) none) create) = some stOk ∧
    lastStatus (run (.commCreate 0 (some [3, 0, 2, 0]) none) create) = some stBadDescriptor ∧
    lastStatus (run (.commCreate 0 (some [2, 0, 3, 0]) none) (create.gw F.PLACEMENT_VALID 0)) = some stUnplaced := by decide +kernel
theorem test_destroy : (run (.commDestroy 0) destroy).coll.dying = [5] ∧ lastStatus (run (.commDestroy 0) (withDesc up 0x02 [5])) = some stUnknownComm := by decide +kernel
theorem test_query : lastStatus (run (.commQuery 0) query) = some stOk ∧ (run (.commQuery 0) query).told.length = 4 := by decide +kernel
theorem test_memberFence : (run (.memberFence 0) (fence 0)).portFenced 3 = true ∧ (run (.memberUnfence 0) (unfence.pw 3 F.PORT_STATUS_FENCED 1)).portFenced 3 = false := by
  decide +kernel
theorem test_quota : ((run (.rmQuota 0) (quota 8)).comm 5).map (·.quota) = some 8 ∧ ((run (.quotaSetAside 5) quotaDue).comm 5).map (·.quota) = some 8 := by decide +kernel

theorem witness_CollectiveAccept : (reducing.begin 0 0x10).isSome = true ∧ reducing.placed = true ∧ (reducing.gw F.PLACEMENT_VALID 0).placed = false ∧
    (withDesc up 0x10 reduce).comm 5 = none ∧ reducing.comm 5 = some comm5 ∧ reducing.collOf k5 = none ∧ k5 ∉ reducing.coll.past ∧
    reducing.collCodes comm5 (Coll.fresh k5 (desc (0x10 :: reduce)).words 0 0 0) = [] ∧
    reducing.collCodes comm5 (Coll.fresh k5 (desc (0x10 :: [5 + 5 * 2 ^ 16, 1, 2 + 2 ^ 32])).words 0 0 0) ≠ [] := by decide +kernel

theorem test_accept_collective : accepted5.waitingCtxs = 1 ∧ (accepted5.collOf k5).map (·.delivery) = some [2, 3] ∧
    ((run (.allReduce 0) (withDesc held5 0x10 [5 + 5 * 2 ^ 16, 1, 2 + 2 ^ 32])).collOf k5).map (·.status) = some (some stBadDescriptor) := by decide +kernel
theorem test_others :
    ([(0x11, Instr.reduceScatter 0), (0x12, .allGather 0)].map (fun x => (run x.2 (withDesc held5 x.1 reduce)).coll.colls.map (·.refused))) = [[false], [false]] ∧
    ([(0x13, Instr.broadcast 0), (0x14, .reduceUpdateBcast 0), (0x18, .dispatch 0), (0x19, .combine 0)].map
      (fun x => (run x.2 (withDesc held5 x.1 reduce)).coll.colls.map (·.refused))) = [[false], [true], [true], [true]] := by decide +kernel

theorem witness_Admission : accepted5.coll.queues = [⟨none, [⟨k5, 0, 0, 1⟩], 0⟩] ∧ (accepted5.collOf k5).isSome = true ∧
    (accepted5.collOf k5).all (fun c => accepted5.admissible none c x5 && c.final.isNone && !c.started) = true ∧
    (accepted5.collOf k5).all (fun c => (accepted5.gw (F.RUN_STATE 1) runStopped).admissible none c x5) = false ∧ accepted5.anyWaits k5 = true ∧
    (∃ x ∈ (unit admitted5 .furrow 0 [(F.FURROW_STATUS_STATE, furrowRetired)]).coll.ctxs, x.id.coll = k5 ∧ x.home = some 0) ∧
    (unit admitted5 .furrow 0 [(F.FURROW_STATUS_STATE, furrowRetired)]).furrowState 0 = furrowRetired ∧
    (admitted5.collOf k5).all (fun c => c.admitted != 0 && admitted5.owes comm5 c 2) = true := by decide +kernel

theorem test_admit : admitted5.coll.ctxs.map (fun c => (c.id, c.home)) = [(x5, some 0)] ∧ (admitted5.collOf k5).map (·.admitted) = some 1 := by decide +kernel
theorem test_admissionTimeout : ((run (.admissionTimeout k5) accepted5).collOf k5).map (·.status) = some (some stTimeout) ∧
    (run (.admissionTimeout k5) accepted5).anyWaits k5 = false := by decide +kernel
theorem test_contribDeadline : ((run (.contribDeadline k5 2) admitted5).collOf k5).map (·.fault) = some (some (2, stTimeout)) := by decide +kernel
theorem test_furrowWait :
    ((run (.furrowWaitTimeout k5) (unit admitted5 .furrow 0 [(F.FURROW_STATUS_STATE, furrowRetired)])).collOf k5).map (·.status) = some (some stTimeout) := by
  decide +kernel

/-- A contribution of member 2 for position 0, of 4,096 bytes, an acknowledgement of it, and a retained result copy to member 2. -/
def contrib5 : Packet := Packet.make 0x08 0 0 true 2 false (collHdr k5 0 0 0 5 0) (List.replicate 4096 0)
def ack5 : Packet := Packet.make 0x09 0 0 true 2 false (collHdr k5 0 0 0 0 0 ++ [1]) []
def retained5 (sends : Nat) : Ilpiac :=
  { admitted5 with coll := { admitted5.coll with retained := [⟨7, k5, 0, 0, 0, mem 0x0A (collHdr k5 0 0 0 5 0 ++ [0]), 99, [⟨2, sends, false⟩]⟩] } }
def pastOnly : Ilpiac := { held5 with coll := { held5.coll with past := [k5] } }
def final5 (st : Nat) (m : Ilpiac) : Ilpiac := coll5 (fun c => { c with final := some st }) m

theorem witness_Contributions : pastOnly.Admits 2 contrib5 ∧ held5.Admits 2 contrib5 ∧ admitted5.Admits 2 contrib5 ∧ (retained5 1).Admits 2 ack5 ∧
    contrib5.coll = k5 ∧ pastOnly.coll.past = [k5] ∧ held5.coll.past = [] ∧ held5.collOf k5 = none ∧ admitted5.coll.past = [] ∧ (contribCtx contrib5).1 = x5 ∧
    (admitted5.collOf k5).all (fun c => (admitted5.ctxOf x5).any (fun cx => admitted5.treeCtx c x5 && !c.failing && c.final.isNone &&
      (admitted5.runsOf comm5 c == [⟨k5, 0, 0, 1⟩]) && (admitted5.contributors comm5 c x5).contains 2 &&
      (admitted5.leaves c x5).2.contains (admitted5.leafOf comm5 x5 2 (contribCtx contrib5).2) && cx.seen == [] &&
      contrib5.body.length == admitted5.contribLen c x5 (admitted5.leafOf comm5 x5 2 (contribCtx contrib5).2) contrib5.fmt)) = true ∧
    ack5.coll = k5 ∧ ack5.part = 0 ∧ ack5.pos = 0 ∧ ack5.count = 1 ∧ 1 ≤ (retained5 1).replayLimit (some k5) ∧ (retained5 9).replayLimit (some k5) < 9 ∧
    ((final5 0 (retained5 9)).collOf k5).all (fun c => c.final == some 0 && c.delivery == [2, 3] && !(retained5 9).resultsHere comm5 c 2) = true :=
  ⟨admits (by decide +kernel), admits (by decide +kernel), admits (by decide +kernel), admits (by decide +kernel), by decide +kernel⟩

theorem test_contrib : ((run (.contribReceived 2 contrib5) admitted5).ctxOf x5).map (·.seen) = some [0] ∧
    ((run (.contribReceived 2 contrib5) pastOnly).comm 5).map (·.cnt.duplicates) = some 1 ∧ ((run (.contribReceived 2 contrib5) held5).comm 5).map (·.cnt.stray) = some 1 := by
  decide +kernel
theorem test_ack : (run (.ackReceived 2 ack5) (retained5 1)).coll.retained = [] := by decide +kernel
theorem test_retention : (run (.retentionTimeout 7 2) (retained5 1)).coll.retained.map (·.dests) = [[⟨2, 2, false⟩]] ∧
    ((run (.retentionTimeout 7 2) (final5 0 (retained5 9))).collOf k5).map (·.delivery) = some [3] := by decide +kernel
theorem test_resultMissing : ((run (.resultMissingTimeout k5 2) (final5 0 admitted5)).collOf k5).map (·.lost) = some (some (2, stTimeout)) := by decide +kernel

def failed5 : Ilpiac := coll5 (fun c => { c with status := some stTimeout }) admitted5
def ended5 : Ilpiac := coll5 (fun c => { c with final := some 0, delivery := [] }) admitted5
theorem witness_CollectiveEnd : (admitted5.collOf k5).all (fun c => !admitted5.passReady comm5 c) = true ∧
    (failed5.collOf k5).all (fun c => failed5.passReady comm5 c) = true ∧
    ((final5 0x41 admitted5).collOf k5).all (fun c => c.final == some 0x41 &&
      (((final5 0x41 admitted5).receivers c c.delivery).filter (fun a => !c.ended.contains a && (decide (0x40 ≤ 0x41) || (final5 0x41 admitted5).resultsHere comm5 c a))) == [2, 3]) = true ∧
    1 ≤ (final5 0x41 admitted5).areaFree .retain ∧ (admitted5.collOf k5).all (fun c => !admitted5.mayComplete c) = true ∧
    (ended5.collOf k5).all (fun c => ended5.mayComplete c && !c.headless && !c.wantSum && !c.wantAmax) = true ∧ admitted5.comm k5.comm ≠ none := by decide +kernel

theorem test_verdictPass : ((run (.verdictPassStart k5) failed5).collOf k5).map (·.started) = some true ∧
    ((run (.verdictPassStart k5) admitted5).collOf k5).map (·.started) = some false := by decide +kernel
theorem test_complete : lastStatus (run (.collectiveComplete k5) ended5) = some stOk := by decide +kernel

/-- An operation of two values in furrow 0, and the same waiting for a spilled operand. -/
def node (passed : Nat) : NodeOp := ⟨0, false, 1, 0, [0], [0], passed, [], none⟩
def inFurrow (passed : Nat) : Ilpiac :=
  let m := ctx5 (fun c => { c with op := some (node passed), held := [] }) admitted5
  { m with coll := { m.coll with furrows := [(0, { FurrowX.init with queue := [x5] })] } }
def spilled (poison : Bool) : Ilpiac :=
  let m := ctx5 (fun c => { c with op := some { node 0 with waitSpill := some 0 } }) admitted5
  { m with hbm := { small.hbm with poison := if poison then [0] else [] }, regs := (m.gw F.HBM_STATUS_LOGICAL_GIB 2).regs }
def movingCtx : Ilpiac := { up with coll := { up.coll with furrows := [(0, { FurrowX.init with moving := true })] } }

theorem witness_Furrows : ((inFurrow 0).fx 0).queue = [x5] ∧ ((inFurrow 0).ctxOf x5).any (fun c => c.op == some (node 0)) = true ∧
    ((inFurrow 1).ctxOf x5).any (fun c => c.op == some (node 1)) = true ∧ (inFurrow 0).rd .furrow 0 F.FURROW_INJECT_ARM = 0 ∧
    (inFurrow 0).rd .furrow 0 F.FURROW_INJECT_STICKY = 0 ∧ 17 ∈ (inFurrow 0).cellsInUse 0 ∧ ((inFurrow 0).fx 0).fails = [] ∧
    2 ≤ (inFurrow 0).rd .furrow 0 F.FURROW_CTRL_CELL_FAIL_LIMIT ∧ ((spilled false).memRead 0 4096 hintDiscard true).1.isSome = true ∧
    ((spilled true).memRead 0 4096 hintDiscard true).1 = none ∧ up.Reaches (F.FURROW_CTRL_ENABLE.key .furrow 0 0) ∧ up.Reaches (F.FURROW_INJECT_ARM.key .furrow 0 0) ∧
    up.rd .furrow 0 F.FURROW_CTRL_RETIRE = 0 ∧ up.furrowState 0 = furrowActive ∧ furrowActive ≠ furrowRetired ∧ up.rd .furrow 0 F.FURROW_CTRL_ENABLE = 1 ∧
    (unit up .furrow 0 [(F.FURROW_CTRL_ENABLE, 0)]).rd .furrow 0 F.FURROW_CTRL_ENABLE = 0 ∧
    (unit up .furrow 0 [(F.FURROW_STATUS_STATE, furrowDraining)]).furrowState 0 = furrowDraining ∧ up.homed 0 = [] ∧ (movingCtx.fx 0).moving = true :=
  ⟨by decide +kernel, by decide +kernel, by decide +kernel, by decide +kernel, by decide +kernel, by decide +kernel, by decide +kernel, by decide +kernel,
    by decide +kernel, by decide +kernel, reaches (by decide +kernel), reaches (by decide +kernel), by decide +kernel⟩

theorem test_group : ((run (.furrowGroupComplete 0 []) (inFurrow 0)).ctxOf x5).map (fun c => c.op.map (·.passed)) = some (some 1) ∧
    (run (.furrowGroupComplete 0 [⟨17, true⟩]) (inFurrow 0)).rd .furrow 0 F.LAST_FAIL_CELL = 17 := by decide +kernel
theorem test_furrowControl : (run (.furrowRetire 63) up).furrowState 63 = furrowRetired ∧ (run (.furrowDisable 63) up).furrowState 63 = furrowDraining ∧
    (run (.furrowEnable 63) (unit up .furrow 63 [(F.FURROW_CTRL_ENABLE, 0), (F.FURROW_STATUS_STATE, furrowGated)])).furrowState 63 = furrowActive ∧
    (run (.furrowGated 63) (unit up .furrow 63 [(F.FURROW_STATUS_STATE, furrowDraining)])).furrowState 63 = furrowGated := by decide +kernel
theorem test_furrowInject : (run (.furrowInjectArm 0 0) up).rd .furrow 0 F.FURROW_INJECT_ARM = 0 ∧ ((run (.contextMoveDone 0) movingCtx).fx 0).moving = false := by decide +kernel
theorem test_spill : ((run (.spillReadbackDone x5 0 0) (spilled true)).ctxOf x5).map (·.inOrder) = some true := by decide +kernel

/-- The trunk port 0 UP, with communicator 5 of members on beds 0 and 1. -/
def trunk5 : Ilpiac :=
  let m := withUp held5 256
  { m with coll := { m.coll with comms := [{ comm5 with members := [2, 3, 258] }] } }
def tpkt (ty n : Nat) : Packet := trk ty (collHdr k5 0 0 0 5 0 ++ List.replicate n 0)
def column5 : Packet := trk 0x60 [1, 2 + 5 * 2 ^ 32, 2 ^ 28]
def open5 : Ilpiac := { trunk5 with coll := { trunk5.coll with colls := [Coll.fresh k5 (desc (0x10 :: reduce)).words 0 0 0], ctxs := admitted5.coll.ctxs } }
def past5 : Ilpiac := { trunk5 with coll := { trunk5.coll with past := [k5] } }
/-- A transfer to bed 1 in the retention buffer, sent `n` times. -/
def copy (n : Nat) : TrunkCopy := ⟨4, some k5, none, Packet.make 0x60 0 1 true 0 true (collHdr k5 0 0 0 5 0) [], 1, 0, n, none⟩
def sent (n : Nat) : Ilpiac := { open5 with coll := { open5.coll with trunk := [copy n] } }
def tack5 : Packet := trk 0x61 (tackOf (copy 1).pkt)
def waits5 : Ilpiac := { open5 with coll := { open5.coll with trunkWait := [copy 1] } }
/-- A result chunk that waits in its landing cells: its communicator is not known here. -/
def inLanding : Ilpiac := run (.tresultReceived 256 (tpkt 0x62 0)) trunk5

theorem witness_TrunkTransfers : (∃ b, past5.Lands 256 column5 (landing past5 256 column5).2 0 b) ∧ (∃ b, trunk5.Lands 256 column5 (landing trunk5 256 column5).2 0 b) ∧
    (∃ b, open5.Lands 256 column5 (landing open5 256 column5).2 0 b) ∧
    (∃ b, open5.Lands 256 (tpkt 0x63 0) (landing open5 256 (tpkt 0x63 0)).2 0 b) ∧ (sent 1).Admits 256 tack5 :=
  ⟨lands (by decide +kernel) (by decide +kernel) (by decide +kernel) (by decide +kernel), lands (by decide +kernel) (by decide +kernel) (by decide +kernel) (by decide +kernel),
    lands (by decide +kernel) (by decide +kernel) (by decide +kernel) (by decide +kernel), lands (by decide +kernel) (by decide +kernel) (by decide +kernel) (by decide +kernel),
    admits (by decide +kernel)⟩

theorem witness_TrunkTransfers_state : column5.coll = k5 ∧ column5.dstBed = trunk5.bed ∧ ((landing past5 256 column5).2.landAck column5).2.coll.past = [k5] ∧
    ((landing trunk5 256 column5).2.landAck column5).2.collOf k5 = none ∧
    (((landing open5 256 column5).2.landAck column5).2.ctxOf ⟨k5, partData, column5.f 3 0 24⟩).any (fun c => c.gotCols == []) = true ∧
    (((landing open5 256 column5).2.landAck column5).2.collOf k5).any (fun c => !c.failing && c.final.isNone && c.op == opAllReduce) = true ∧
    vrecs ((tpkt 0x63 0).f 3 8 8) (tpkt 0x63 0).body = [] ∧ tack5.dstBed = (sent 1).bed ∧
    (sent 1).coll.trunk.find? (fun t => tackNames tack5 t && t.plane == (sent 1).plane) = some (copy 1) ∧ (inLanding.port 256).landed ≠ [] ∧
    1 ≤ (sent 1).replayLimit (some k5) ∧ (sent 9).replayLimit (some k5) < 9 ∧ waits5.retainFits (copy 1).pkt = true ∧ waits5.coll.trunkWait = [copy 1] := by decide +kernel

theorem test_tack : (run (.tackReceived 256 tack5) (sent 1)).coll.trunk = [] := by decide +kernel
theorem test_trunkRetention : (run (.trunkRetentionTimeout 4) (sent 1)).coll.trunk.map (·.sends) = [2] ∧
    ((run (.trunkRetentionTimeout 4) (sent 9)).collOf k5).map (·.status) = some (some stTrunkLost) := by decide +kernel
theorem test_retainFreed : (run .retainSpaceFreed waits5).coll.trunk.map (·.bed) = [1] := by decide +kernel
theorem test_column : (run (.columnReceived 256 column5) open5).coll.colls.map (·.made) = [[(0, 0)]] := by decide +kernel

/-! ### Trellis -/

/-- A bundle of four slots, and slots of R211 to R214. -/
def bundle (t l r c : Nat) : BitVec 128 := BitVec.ofNat 128 (t + l * 2 ^ 32 + r * 2 ^ 64 + c * 2 ^ 96)
def slot (op d a b : Nat) : Nat := op * 2 ^ 26 + d * 2 ^ 21 + a * 2 ^ 16 + b * 2 ^ 11
def imm (op d a i : Nat) : Nat := op * 2 ^ 26 + d * 2 ^ 21 + a * 2 ^ 16 + i

/-- A program of these bundles, with handle 9. -/
def prog (l : List (BitVec 128)) : Program := ⟨9, l, 0, List.replicate 8 7, 0, 4096, none⟩
/-- An invocation at a bundle, in its tenth cycle, whose scalar registers 1 and 2 are written. -/
def inv (pc : Nat) (loops : List LoopFrame := []) : Inv :=
  { coll := k5, k := 0, base := 0, cycle := 10, pc := pc, notBefore := 0, tiles := [(0, []), (1, [])], scalars := [(1, 5), (2, 7), (3, 0)], lcs := [(0, 3)],
    loops := loops, pend := [], aluUntil := 0, aluWriter := 0, written := List.range 128, emitted := [], cx := [0, 0, 1, 2, 0, 0, 0, 4096, 1, 1, 1, 2, 5, 5],
    missLine := none }
/-- Engine 0 with that program and invocation. -/
def engine (l : List (BitVec 128)) (i : Inv) : Ilpiac :=
  (unit up .engine 0 [(F.TRELLIS_STATUS_STATE, engRunning)]).setEng 0 { Engine.init with prog := some (prog l), cur := some i }
/-- One bundle at address 0, and its stop. -/
def one (b : BitVec 128) (i : Inv) : Ilpiac := engine [b, 0, 0] i
def stopOf (m : Ilpiac) : Option Stop :=
  match (m.eng 0).cur, (m.eng 0).prog with
  | some i, some p => bundleStop (m.eng 0) p i (bundleAt p.bundles i.pc)
  | _, _ => none
/-- A bundle passes its checks. -/
def passes (b : BitVec 128) (i : Inv) : Bool := (stopOf (one b i)).isNone && !freezes ((one b i).eng 0) i b

def addI : BitVec 128 := bundle 0 0 0 (slot 1 4 1 2)
def endB : BitVec 128 := bundle 0 0 0 (slot 0x3F 0 0 0)
def busy4 : Stream := ⟨0, true, 0, 0, 0, 64, 0, k5, 0, false⟩
def waitB : Ilpiac :=
  let m := one (bundle 0 (slot 7 0 0 0) 0 0) (inv 0)
  m.setEng 0 { m.eng 0 with streams := [busy4] }

/-- Every clause on a bundle that issues has one here that passes its checks: the tile slot, the reduction, LDT, STT, LDC, LDU, stream in and out, EMIT, scalar
forms, LOOP, branches and JMP; and one of each of the others. -/
theorem witness_Bundles : ((one addI (inv 0)).eng 0).cur = some (inv 0) ∧ (inv 0).cycle < (one addI (inv 0)).cycleLimit 0 ∧
    [bundle (slot 1 2 0 0) 0 0 0, bundle 0 0 (slot 1 4 0 0) 0, bundle 0 (slot 1 4 0 0) 0 0, bundle 0 (slot 2 0 0 0) 0 0, bundle 0 (imm 4 4 3 0) 0 0,
      bundle 0 (imm 5 3 3 1) 0 0, bundle 0 (imm 6 3 3 1) 0 0, bundle 0 (slot 8 0 3 0) 0 0, addI, bundle 0 0 0 (imm 0x10 4 1 9), bundle 0 0 0 (slot 0x18 4 1 2),
      bundle 0 0 0 (imm 0x20 4 0 2), bundle 0 0 0 (imm 0x3A 0 0 2), bundle 0 0 0 (imm 0x30 1 2 2), bundle 0 0 0 (imm 0x31 1 2 2), bundle 0 0 0 (imm 0x39 0 0 2)].all
      (fun b => passes b (inv 0)) = true ∧
    branchTaken 0x30 5 7 = false ∧ branchTaken 0x31 5 7 = true ∧ (inv 0).loops = [] ∧ (inv 0).lc 0 ≠ 0 ∧
    passes addI (inv 0 [⟨0, 0, 3, 0⟩]) = true ∧ passes addI (inv 0 [⟨0, 0, 3, 2⟩]) = true ∧
    (stopOf (one (bundle 0 0 0 (slot 1 4 9 9)) (inv 0))).any (fun st => st.cause == causeHazard && decide (causeHazard < 8)) = true ∧
    passes endB { inv 0 with emitted := [(0, [])] } = true ∧ sOp (slotOf (bundle 0 (slot 7 0 0 0) 0 0) 1) = 7 ∧ (waitB.eng 0).onBuf (inv 0) 0 ≠ [] ∧
    16384 / 16 ∉ ((one addI (inv 16384)).eng 0).lines ∧ ({ inv 0 with notBefore := 12 } : Inv).cycle < 12 := by decide +kernel

/-- LDC of a tile of the operand image. -/
theorem witness_Bundles_ldc : bundleStop Engine.init { prog [] with opnd := List.replicate 4096 0 } (inv 0) (bundle 0 (imm 3 4 3 0) 0 0) = none := by decide +kernel

def cur0 (m : Ilpiac) : Option (Nat × Nat × Word) := (m.eng 0).cur.map (fun i => (i.pc, i.notBefore, i.u 4))
theorem test_scalar : cur0 (run (.bundleIssue 0) (one addI (inv 0))) = some (1, 11, 12) ∧
    cur0 (run (.bundleIssue 0) (one (bundle 0 0 0 (imm 0x10 4 1 0xFFFF)) (inv 0))) = some (1, 11, 4) := by decide +kernel
theorem test_branch : cur0 (run (.bundleIssue 0) (one (bundle 0 0 0 (imm 0x31 1 2 2)) (inv 0))) = some (2, 14, 0) ∧
    cur0 (run (.bundleIssue 0) (one (bundle 0 0 0 (imm 0x30 1 2 2)) (inv 0))) = some (1, 11, 0) := by decide +kernel
theorem test_loop : cur0 (run (.bundleIssue 0) (one addI (inv 0 [⟨0, 0, 3, 0⟩]))) = some (0, 11, 12) ∧
    cur0 (run (.bundleIssue 0) (one addI (inv 0 [⟨0, 0, 3, 2⟩]))) = some (1, 11, 12) := by decide +kernel
theorem test_hazard : (run (.bundleIssue 0) (one (bundle 0 0 0 (slot 1 4 9 9)) (inv 0))).rd .engine 0 F.TRELLIS_FAULT_CAUSE = causeHazard := by decide +kernel
theorem test_icacheMiss : ((run (.bundleIssue 0) (one addI (inv 16384))).eng 0).cur.map (·.missLine) = some (some 1024) := by decide +kernel
theorem test_freeze : (run (.bundleIssue 0) waitB).rd .engine 0 F.FROZEN_CYCLES_CYCLES = 1 := by decide +kernel

/-- A collective of communicator 5 that runs program 9, and the engine that is to begin an invocation for it. -/
def rub5 (fill : Bool) : Ilpiac :=
  let m := (unit held5 .engine 0 [(F.TRELLIS_STATUS_STATE, engReady)]).setEng 0
    { Engine.init with prog := some (prog [endB]), next := some ⟨k5, 0, 0, false, fill⟩ }
  { m with coll := { m.coll with colls := [Coll.fresh k5 (desc [0x14, 5 + 5 * 2 ^ 16 + 5 * 2 ^ 20, 1, 2 + 2 ^ 32]).words 0 0 0] } }
def limited : Ilpiac := one addI { inv 0 with cycle := 2 ^ 32 }
/-- A stream in of 64 bytes from HBM that is running. -/
def streaming (poison : Bool) : Ilpiac :=
  let m := { one addI (inv 0) with hbm := { small.hbm with poison := if poison then [0] else [] } }
  (m.gw F.HBM_STATUS_LOGICAL_GIB 2).setEng 0 { m.eng 0 with streams := [busy4] }
def streamOut : Ilpiac := (streaming false).setEng 0 { (streaming false).eng 0 with streams := [{ busy4 with sin := false }] }
/-- An engine that waits for line 1,024, with the bundles from 16,384 on at address 0 of HBM. -/
def filling (poison : Bool) : Ilpiac :=
  (streaming poison).setEng 0 { Engine.init with prog := some { prog [] with buffer := some 0 }, cur := some { inv 16384 with missLine := some 1024 } }
def eng0 (st en : Nat) : Ilpiac :=
  (unit up .engine 0 [(F.TRELLIS_STATUS_STATE, st), (F.TRELLIS_CTRL_ENABLE, en)]).setEng 0 { Engine.init with prog := some (prog [endB]) }

theorem witness_Engines : ((rub5 true).assign.eng 0).next = some ⟨k5, 0, 0, false, true⟩ ∧ ((rub5 true).assign.eng 0).cur = none ∧
    ((rub5 true).assign.collOf k5).isSome = true ∧ (rub5 true).assign.comm 5 = some comm5 ∧ (rub5 true).assign.engState 0 = engReady ∧
    limited.cycleLimit 0 ≤ 2 ^ 32 ∧ (streaming false).cycleLimit 0 ≠ 0 ∧ busy4.blocks busy4 = false ∧
    ((streaming false).memRead 0 64 ((streaming false).hintAt 0 false)).1.isSome = true ∧ ((streaming true).memRead 0 64 ((streaming true).hintAt 0 false)).1 = none ∧
    (streamOut.memWrite 0 ((streamOut.eng 0).buffers.read 0 64) (streamOut.hintAt 0 true) (some k5)).1 = true ∧
    ((filling false).memRead 0 256 ((filling false).hintAt 0 false)).1.isSome = true ∧ ((filling true).memRead 0 256 ((filling true).hintAt 0 false)).1 = none ∧
    up.Reaches 0x500000 ∧ up.enginePresent 0 = true ∧ (eng0 engFaulted 1).rd .engine 0 F.TRELLIS_CTRL_CLEAR_FAULT = 0 ∧ (eng0 engFaulted 1).engState 0 = engFaulted ∧
    (eng0 engReady 1).engOn 0 = true ∧ (eng0 engGated 0).engOn 0 = false :=
  ⟨by decide +kernel, by decide +kernel, by decide +kernel, by decide +kernel, by decide +kernel, by decide +kernel, by decide +kernel, by decide +kernel,
    by decide +kernel, by decide +kernel, by decide +kernel, by decide +kernel, by decide +kernel, reaches (by decide +kernel), by decide +kernel⟩

theorem test_invocation : ((run (.invocationStart 0) (rub5 true)).eng 0).cur.map (fun i => (i.coll, i.pc, i.cycle)) = some (k5, 0, 0) ∧
    (run (.invocationLimit 0) limited).rd .engine 0 F.TRELLIS_FAULT_CAUSE = causeLimit := by decide +kernel
theorem test_stream : ((run (.streamComplete 0 0) (streaming false)).eng 0).streams = [] ∧
    (run (.streamComplete 0 0) (streaming true)).rd .engine 0 F.TRELLIS_FAULT_CAUSE = causeMemory := by decide +kernel
theorem test_icacheFill : ((run (.icacheFillDone 0) (filling false)).eng 0).lines = [1024] := by decide +kernel
theorem test_engineControl : (run (.clearFault 0) (eng0 engFaulted 1)).engState 0 = engReady ∧ (run (.engineDisable 0) (eng0 engReady 1)).engState 0 = engGated ∧
    (run (.engineEnable 0) (eng0 engGated 0)).engState 0 = engReady := by decide +kernel

/-- The image of a program of one END bundle, its loading into engine 0, and its descriptor. -/
def endImage (n : Nat) : List Byte :=
  leBytes 4 0x54524C31 ++ leBytes 2 1 ++ leBytes 2 0 ++ leBytes 4 n ++ leBytes 4 0 ++ leBytes 4 0 ++ leBytes 4 0 ++ leBytes 8 64 ++
    leBytes 4 (crc32c (leBytes 16 endB.toNat)).toNat ++ List.replicate 28 0 ++ leBytes 16 endB.toNat
def loadDesc : Ilpiac := withDesc up 0x30 [9 + 2 ^ 16, 0x1000, 0x2000, 80]
def loadingProg : Ilpiac := run (.progLoad 0) loadDesc
def holding : Ilpiac := { (withDesc up 0x31 [9]) with trellis := { up.trellis with engines := [(0, { Engine.init with prog := some (prog [endB]) })] } }
def unloading : Ilpiac := run (.progUnload 0) holding
def phase4 (todo : List Nat) (fail : Nat) : Ilpiac := { open5 with trellis := { open5.trellis with phase4 := [⟨k5, todo, fail⟩] } }

theorem witness_Programs : (loadDesc.begin 0 0x30).isSome = true ∧ ((withDesc up 0x30 [9 + 2 ^ 31]).gw F.CAP_PRESENT_TRELLIS_ENGINES 15).enginePresent 15 = false ∧
    loadDesc.has F.CAP_PRESENT_TRELLIS = true ∧ loadDesc.enginePresent 0 = true ∧ loadDesc.Coherent 0x1000 80 false ∧ loadDesc.Coherent 0x2000 32 true ∧
    loadDesc.handleHeld 9 = false ∧ (loadDesc.eng 0).prog = none ∧ loadDesc.engState 0 = engEmpty ∧ loadDesc.engOn 0 = true ∧
    loadingProg.trellis.loads = [⟨0, 0, 9, 1, 0x1000, 80, 0x2000⟩] ∧ loadingProg.ctl.descs.length = 1 ∧ loadingProg.g F.HOLM_STATUS_STATE = holmUp ∧
    verify (endImage 1) = none ∧ (endImage 1).length = 80 ∧ (imageHeader (endImage 1)).bundles ≤ 16384 ∧ (verify (endImage 0)).isSome = true ∧ (endImage 0).length = 80 ∧
    (holding.begin 0 0x31).isSome = true ∧ holding.holders 9 = [0] ∧ (withDesc up 0x31 [9]).holders 9 = [] ∧ unloading.trellis.unloads = [⟨0, 0, 9⟩] ∧
    unloading.programBusy 9 = false ∧ unloading.ctl.descs.length = 1 ∧ (phase4 [] 0x42).trellis.phase4 = [⟨k5, [], 0x42⟩] ∧
    (∀ e ∈ (phase4 [] 0x42).enginesHere, ((phase4 [] 0x42).eng e).worksFor k5 = false) ∧ (phase4 [] 0x42).coll.trunk ++ (phase4 [] 0x42).coll.trunkWait = [] :=
  ⟨by decide +kernel, by decide +kernel, by decide +kernel, by decide +kernel, coherent (by decide +kernel), coherent (by decide +kernel), by decide +kernel⟩

theorem test_progLoad : (run (.progLoadDone 9 (some (endImage 1)) 5) loadingProg).engState 0 = engReady ∧
    lastStatus (run (.progLoadDone 9 (some (endImage 1)) 5) loadingProg) = some stOk ∧
    lastStatus (run (.progLoadDone 9 (some (endImage 0)) 5) loadingProg) = some stBadDescriptor := by decide +kernel
theorem test_progUnload : (run (.progUnloadDone 9) unloading).engState 0 = engEmpty ∧ lastStatus (run (.progUnloadDone 9) unloading) = some stOk ∧
    lastStatus (run (.progUnload 0) (withDesc up 0x31 [9])) = some stBadDescriptor := by decide +kernel
theorem test_phase4 : ((run (.phase4End k5) (phase4 [] 0x42)).collOf k5).map (·.status) = some (some 0x42) ∧
    ((run (.phase4Timeout k5) (phase4 [3] 0)).collOf k5).map (·.status) = some (some stTimeout) := by decide +kernel

/-! ### Cloche groups -/

/-- Group 3 of the shards of beds 0 and 1, of 4,096 bytes, with its P piece on bed 4. -/
def group3 : Group :=
  { id := 3, q := false, k := 1, shardBytes := 4096, relay := 0, tc := 0, members := [⟨0, 0, 5, 0⟩, ⟨1, 0, 5, 0⟩], pKeep := [(4, 0)], qKeep := [], sites := [], digest := 0,
    forming := none, lost := false, missM := [], missP := [], missQ := [], stamps := List.replicate 16 stampInvalid, stamp := stampInvalid, sent := 0, applied := 0,
    unsettled := 0, ledger := [], pieces := [], ledgerBuf := some 0x50000000, restore := none, ledgerWaits := [], seen := [], lostStripes := [] }
/-- The same group seen by the keeper of the P piece, which is bed 0. -/
def keeper3 : Group := { group3 with members := [⟨1, 0, 5, 0⟩, ⟨4, 0, 5, 0⟩], pKeep := [(0, 0)], pieces := [⟨0, false, [0x40000000]⟩] }

/-- A module with communicator 5, a trunk to bed 1, HBM of two slots with pools 4 and 5, and that group. -/
def base10 : Ilpiac :=
  let m := glob trunk5 [(F.HBM_STATUS_LOGICAL_GIB, 2), (F.CACHE_CTRL_ENABLE, 0)]
  let m := m.gw F.POOL_CFG_LOG2_BUF 12 4
  { m with hbm := { small.hbm with pools := [⟨4, 0x40000000, 12, 4, []⟩, ⟨5, 0x50000000, 12, 4, []⟩] } }
def grouped (g : Group) : Ilpiac := { base10 with groups := [g] }
/-- The block with a descriptor of ring 0. -/
def addDesc (m : Ilpiac) (op : Nat) (ws : List Nat) : Ilpiac := withDesc { m with ctl := { m.ctl with descs := [] } } op ws

/-- The participant list of group 3 and its creation. -/
def list3 : List Byte := leBytes 2 0 ++ leBytes 2 5 ++ List.replicate 12 0 ++ leBytes 2 1 ++ leBytes 2 5 ++ List.replicate 12 0 ++ leBytes 2 4 ++ List.replicate 14 0
def create3 : Ilpiac := addDesc base10 0x38 [3 + 2 * 2 ^ 24 + 2 ^ 32, 4096, 0x1000]
def created3 : Ilpiac := run (.clocheGroupCreate 0 (some list3)) create3
def answer (bed status : Nat) (digest : BitVec 32) : JoinAnswer := ⟨bed, 0, bed, 1, digest, status, false, true, false, 0⟩
def dig3 : BitVec 32 := BitVec.ofNat 32 ((created3.group 3).map (·.digest)).get!
def agrees3 : List JoinAnswer := [answer 1 0 dig3, answer 4 0 dig3]
/-- The group with the sites that answer. -/
def sites3 (ans : List JoinAnswer) : Group :=
  { group3 with sites := (⟨0, 0, created3.g F.PLACEMENT_FEED_ID, created3.g F.IDENTITY_VARIANT, true⟩ : Site) :: ans.map (fun a => (⟨a.bed, a.plane, a.feed, a.variant, a.answered⟩ : Site)) }
def destroy3 : Ilpiac := addDesc (grouped group3) 0x39 [3]
def query3 : Ilpiac := addDesc (grouped group3) 0x3C [3, 0x2000]

theorem witness_ClocheGroups : (create3.begin 0 0x38).isSome = true ∧ create3.placed = true ∧ (create3.gw F.PLACEMENT_VALID 0).placed = false ∧ create3.Coherent 0x1000 48 false ∧
    ((addDesc (grouped group3) 0x38 [3]).group 3).isSome = true ∧ (desc [0x38, 3 + 2 * 2 ^ 24 + 2 ^ 32, 4096, 0x1000]).groupFields create3.crossBed = true ∧
    create3.group 3 = none ∧ list3.length = 16 * 3 ∧ listOk 2 3 list3 = true ∧ create3.has F.CAP_PRESENT_CLOCHE = true ∧
    (∀ x ∈ group3.participants, create3.bedInside x.1 = true) ∧ (0, 0) ∈ group3.participants ∧ create3.placesOk group3 = true ∧
    create3.myEntry group3 = some ⟨0, 0, 5, 0⟩ ∧ (create3.comm 5).isSome = true ∧ create3.shardFits group3 ⟨0, 0, 5, 0⟩ = true ∧ create3.kept group3 = [] ∧
    (create3.poolTake 5).1.isSome = true ∧ (create3.gw F.CAP_PRESENT_CLOCHE 0).has F.CAP_PRESENT_CLOCHE = false ∧
    (created3.group 3).map (·.forming) = some (some (0, 0)) ∧ (created3.descOf (0, 0)).isSome = true ∧ created3.others group3 = [(1, 0), (4, 0)] ∧
    created3.joinStatus { sites3 agrees3 with digest := dig3.toNat } agrees3 < 0x40 ∧
    0x40 ≤ created3.joinStatus { sites3 agrees3 with digest := 1 } agrees3 ∧ (destroy3.begin 0 0x39).isSome = true ∧ destroy3.group 3 = some group3 ∧
    (addDesc base10 0x39 [3]).group 3 = none ∧ (query3.begin 0 0x3C).isSome = true ∧ query3.Coherent 0x2000 256 true ∧ group3.stamps.length = 16 :=
  ⟨by decide +kernel, by decide +kernel, by decide +kernel, coherent (by decide +kernel), by decide +kernel, by decide +kernel, by decide +kernel, by decide +kernel,
    by decide +kernel, by decide +kernel, by decide +kernel, by decide +kernel, by decide +kernel, by decide +kernel, by decide +kernel, by decide +kernel,
    by decide +kernel, by decide +kernel, by decide +kernel, by decide +kernel, by decide +kernel, by decide +kernel, by decide +kernel, by decide +kernel,
    by decide +kernel, by decide +kernel, by decide +kernel, by decide +kernel, coherent (by decide +kernel), by decide +kernel⟩

theorem test_groupCreate : created3.groups.map (fun g => (g.id, g.members.length, g.ledgerBuf)) = [(3, 2, some 0x50000000)] ∧
    lastStatus (run (.groupJoinResolve 3 agrees3) created3) = some stOk ∧
    lastStatus (run (.groupJoinResolve 3 [answer 1 stCommMismatch dig3, answer 4 0 dig3]) created3) = some stCommMismatch := by decide +kernel
theorem test_groupDestroy : (run (.clocheGroupDestroy 0) destroy3).groups = [] ∧ (run (.clocheQuery 0) query3).told.length = 4 := by decide +kernel

/-- A delta, a stamp and a ledger entry from bed 1 for position 1, and an entry whose CRC is right. -/
def delta3 : Packet := Packet.make 0x64 0 0 true 1 true [3] (List.replicate 64 9)
def stamp3 : Packet := trk 0x67 [3 + 2 ^ 16, 5]
def entry3 : List Byte := leBytes 8 5 ++ List.replicate 24 0 ++ leBytes 2 5 ++ List.replicate 2 0 ++ leBytes 4 3541457162 ++ List.replicate 472 0

theorem entry3_crc : entryCrcOk entry3 = true := by
  unfold entryCrcOk
  rw [crc_loop]
  decide +kernel

theorem ones_crc : entryCrcOk (List.replicate 512 1) = false := by
  unfold entryCrcOk
  rw [crc_loop]
  decide +kernel

def ledger3 : Packet := Packet.make 0x66 0 0 true 1 true [3 + 2 ^ 16] entry3
def write3 : Ilpiac := addDesc (grouped group3) 0x3A [3, 0x2000]

theorem witness_ClocheUpkeep_lands : (∃ b, (grouped keeper3).Lands 256 delta3 (landing (grouped keeper3) 256 delta3).2 0 b) ∧
    (∃ b, (grouped group3).Lands 256 stamp3 (landing (grouped group3) 256 stamp3).2 0 b) ∧
    ∃ b, (grouped group3).Lands 256 ledger3 (landing (grouped group3) 256 ledger3).2 0 b :=
  ⟨lands (by decide +kernel) (by decide +kernel) (by decide +kernel) (by decide +kernel), lands (by decide +kernel) (by decide +kernel) (by decide +kernel) (by decide +kernel),
    lands (by decide +kernel) (by decide +kernel) (by decide +kernel) (by decide +kernel)⟩

theorem witness_ClocheUpkeep : delta3.dstBed = (grouped keeper3).bed ∧ delta3.body.length = 64 ∧
    (landing (grouped keeper3) 256 delta3).2.group (delta3.f 1 0 16) = some keeper3 ∧ keeper3.pieces.filter (fun y => y.num == delta3.f 1 20 4) = [⟨0, false, [0x40000000]⟩] ∧
    ((landing (grouped keeper3) 256 delta3).2.memAdd 0x4 0x40000000 0 delta3.body).1.isSome = true ∧
    ((landing (grouped keeper3) 256 delta3).2.memAdd 0x4 0x40000000 0 delta3.body).2.group 3 = some keeper3 ∧
    (landing (grouped group3) 256 stamp3).2.group (stamp3.f 1 0 16) = some group3 ∧ group3.members[stamp3.f 1 16 4]? = some ⟨1, 0, 5, 0⟩ ∧
    (write3.begin 0 0x3A).isSome = true ∧ write3.Coherent 0x2000 512 false ∧ write3.myPos group3 = some 0 ∧ entry3.length = 512 ∧
    natAt entry3 0x20 2 = 5 ∧ (write3.comm 5).map (fun c => (c.seedLo, c.seedHi)) = some (0, 0) ∧ natAt entry3 8 8 = 0 ∧ natAt entry3 0x10 8 = 0 ∧
    group3.lastEntry 0 = none :=
  ⟨by decide +kernel, by decide +kernel, by decide +kernel, by decide +kernel, by decide +kernel, by decide +kernel, by decide +kernel, by decide +kernel,
    by decide +kernel, coherent (by decide +kernel), by decide +kernel⟩

theorem test_delta : ((run (.deltaReceived 256 delta3) (grouped keeper3)).group 3).map (·.applied) = some 1 ∧
    (run (.deltaReceived 256 delta3) (grouped keeper3)).hbm.data.length = 64 := by decide +kernel
theorem test_stamp : ((run (.stampReceived 256 stamp3) (grouped group3)).group 3).map (fun g => g.stamps.take 2) = some [stampInvalid, 5] := by decide +kernel
theorem test_ledger : ((run (.ledgerReceived 256 ledger3) (grouped group3)).group 3).map (fun g => g.ledger.map (·.pos)) = some [1] := by decide +kernel

/-- Group 3 with stamps and a ledger at STEP 5, a restore of its own shard, its parameter record and image. -/
def stamped3 : Group := { group3 with stamps := List.replicate 16 5, ledger := [⟨0, entry3⟩] }
def record3 : List Byte := leBytes 8 5 ++ List.replicate 24 0 ++ leBytes 8 5 ++ leBytes 2 5 ++ List.replicate 22 0
def image3 : List Byte :=
  leBytes 4 0x434C4F31 ++ leBytes 4 2566472073 ++ leBytes 8 5 ++ leBytes 8 4096 ++ List.replicate 40 0 ++ List.replicate 4096 0
def parity3 : Ilpiac := addDesc (grouped stamped3) 0x3B [3 + 2 ^ 32, 0x2000]
def fromImage3 : Ilpiac := addDesc (grouped stamped3) 0x3B [3 + 2 ^ 16, 0x2000, 0x10000]
/-- What of the shard is still to be written from the image. -/
def shard3 : List Byte := List.replicate 64 1
def target3 (image : Bool) (mask : Nat) (written : List Nat) : Group :=
  { stamped3 with restore := some ⟨true, 0, 0, image, mask, 5, written, [], if image then shard3 else []⟩ }
def restoring3 (image : Bool) (mask : Nat) (written : List Nat) : Ilpiac := addDesc (grouped (target3 image mask written)) 0x3B [3]
def stripe3 (pos : Nat) : Packet := Packet.make 0x65 0 0 true 1 true [3 + pos * 2 ^ 16] (List.replicate 4096 0)

theorem witness_ClocheRestores_lands : (∃ b, (restoring3 false 1 []).Lands 256 (stripe3 0) (landing (restoring3 false 1 []) 256 (stripe3 0)).2 0 b) ∧
    ∃ b, (grouped keeper3).Lands 256 (stripe3 1) (landing (grouped keeper3) 256 (stripe3 1)).2 0 b :=
  ⟨lands0 (by decide +kernel) (by decide +kernel) (by decide +kernel) (by decide +kernel) (by decide +kernel),
    lands0 (by decide +kernel) (by decide +kernel) (by decide +kernel) (by decide +kernel) (by decide +kernel)⟩

theorem image3_crc : natAt image3 4 4 = (crc32c (image3.drop 64)).toNat := by
  rw [crc_loop]
  decide +kernel

theorem record_agrees {m : Ilpiac} {g : Group} {e r : List Byte} {x : GMember} {cm : Comm} (he : m.myEntry g = some x) (hl : g.ledger = [⟨0, e⟩])
    (hc : entryCrcOk e = true) (hm : m.comm x.comm = some cm)
    (h : natAt e 0 8 = natAt r 0 8 ∧ natAt e 0x20 2 = x.comm ∧ natAt r 8 8 = cm.seedLo.toNat ∧ natAt r 0x10 8 = cm.seedHi.toNat ∧ natAt e 8 8 = natAt r 8 8 ∧
      natAt e 0x10 8 = natAt r 0x10 8 ∧ natAt e 0x18 8 = natAt r 0x18 8 ∧ natAt r 0x20 8 = natAt r 0 8 ∧ natAt r 0x28 2 = x.comm ∧
      (bytesAt r 0x2A 22).all (· == 0) = true) : m.recordAgrees g r [] = true := by
  obtain ⟨h1, h2, h3, h4, h5, h6, h7, h8, h9, h10⟩ := h
  simpa [Ilpiac.recordAgrees, he, hl, hc, hm, h1, h2, h3, h4, h5, h6, h7, h8, h9] using h10

theorem witness_ClocheRestores_record : parity3.recordAgrees stamped3 record3 [] = true :=
  record_agrees (x := ⟨0, 0, 5, 0⟩) (cm := { comm5 with members := [2, 3, 258] }) (by decide +kernel) rfl entry3_crc (by decide +kernel) (by decide +kernel)

theorem witness_ClocheRestores : (parity3.begin 0 0x3B).isSome = true ∧ parity3.group 3 = some stamped3 ∧ parity3.settled 3 [] = true ∧
    parity3.settled 3 [⟨1, 0, false, [], none, none⟩] = false ∧ parity3.Coherent 0x2000 64 false ∧ parity3.myPos stamped3 = some 0 ∧ bitOf 1 0 = true ∧
    stamped3.canRebuild 1 = true ∧ stamped3.canRebuild 3 = false ∧ popCount 1 16 = 1 ∧ popCount 3 16 = 2 ∧ record3.length = 64 ∧ 
    parity3.stampsAgree stamped3 1 false [] 5 = true ∧ parity3.recordAgrees stamped3 (List.replicate 64 1) [] = false ∧ (fromImage3.begin 0 0x3B).isSome = true ∧
    fromImage3.Coherent 0x10000 (64 + 4096) false ∧ image3.length = 64 + 4096 ∧ natAt image3 8 8 = natAt record3 0 8 ∧
    natAt image3 0 4 = 0x434C4F31 ∧ natAt image3 0x10 8 = 4096 ∧ (bytesAt image3 0x18 40).all (· == 0) = true ∧ fromImage3.stampsAgree stamped3 0 true [] 5 = true :=
  ⟨by decide +kernel, by decide +kernel, by decide +kernel, by decide +kernel, coherent (by decide +kernel), by decide +kernel, by decide +kernel, by decide +kernel,
    by decide +kernel, by decide +kernel, by decide +kernel, by decide +kernel, by decide +kernel, by decide +kernel, by decide +kernel,
    coherent (by decide +kernel), by decide +kernel⟩

theorem witness_ClocheRestores_ends :
    (((landing (restoring3 false 1 []) 256 (stripe3 0)).2.clocheTack (target3 false 1 []) (stripe3 0)).plainWrite 0 (List.replicate 4096 0)
      (((landing (restoring3 false 1 []) 256 (stripe3 0)).2.clocheTack (target3 false 1 []) (stripe3 0)).hintAt 0 true)).1 = true ∧
    (target3 false 1 []).stripeAt 0 0 < 1 ∧ ((restoring3 false 1 [0]).group 3).map (·.restore) = some (some ⟨true, 0, 0, false, 1, 5, [0], [], []⟩) ∧
    ((restoring3 false 1 [0]).descOf (0, 0)).isSome = true ∧ (restoring3 false 1 [0]).wanted (target3 false 1 [0]) ⟨true, 0, 0, false, 1, 5, [0], [], []⟩ ≤ 1 ∧
    ((grouped keeper3).wanted { keeper3 with restore := some ⟨true, 0, 0, false, 0, 5, [0], [], []⟩ } ⟨true, 0, 0, false, 0, 5, [0], [], []⟩) ≤ 1 ∧
    ((restoring3 true 0 []).memWrite 0 shard3 ((restoring3 true 0 []).hintAt 0 true)).1 = true ∧
    (((restoring3 true 0 []).memWrite 0 shard3 ((restoring3 true 0 []).hintAt 0 true)).2.group 3).any (fun g => g.unsettled != 0) = true ∧
    (target3 true 0 [0]).unsettled = 0 := by decide +kernel

theorem test_restore : lastStatus (run (.clocheRestore 0 (some (List.replicate 64 1)) none []) parity3) = some stStepSkew := by decide +kernel
theorem test_restoreComplete : ((run (.restoreComplete 3) (restoring3 false 1 [0])).group 3).map (·.stamp) = some 5 ∧
    lastStatus (run (.restoreComplete 3) (restoring3 false 1 [0])) = some stOk := by decide +kernel
theorem test_stripe : ((run (.stripeReceived 256 (stripe3 0)) (restoring3 false 1 [])).group 3).map (fun g => g.restore.map (·.written)) = some (some [0]) := by
  decide +kernel

/-- R241: with g = 2, position 0 has weight 1 and position 1 weight 2; two lost stripes of one byte come back. -/
theorem test_recovery : gfG 0 = 1 ∧ gfG 1 = 2 ∧
    gfScale (gfInv (gfG 0 ^^^ gfG 1)) (xorBytes (xorBytes (gfScale (gfG 0) [0x53]) (gfScale (gfG 1) [0xCA])) (gfScale (gfG 1) (xorBytes [0x53] [0xCA]))) = [0x53] := by
  decide +kernel

/-! ### Switch -/

/-- Port 3 formed and CHECKING, and the HELLO of a good member. -/
def checking (p : Nat) : Ilpiac := up.pw p F.PORT_STATUS_STATE 1
def helloM (plane : Nat) : Packet := Packet.make 0x01 0 0 true 3 false [0, plane * 2 ^ 14 + 2 ^ 24, 0x0505] []
/-- The HELLO of bed 1 over trunk port 0, in that plot. -/
def helloT (plot : Nat) : Packet :=
  trk 0x01 [plot + 2 * 2 ^ 16 + 2 * 2 ^ 19 + 2 ^ 22 + 2 ^ 25 + 2 * 2 ^ 36 + 2 ^ 38 + up.g F.IDENTITY_VARIANT * 2 ^ 48, 2 ^ 24, 0x0505]
/-- LINK from the member of port 3, and over the trunk in each direction. -/
def linkM : Packet := mem 0x02 [2 ^ 32, 0, 0, 0]
def linkT (ilp : Bool) : Packet := Packet.make 0x02 0 0 ilp 1 true [9 * 2 ^ 32, 0, 0, 0] []
/-- TRUNK_STATE of bed 1 with that serial, which reports its port 2 lost. -/
def state1 (n : Nat) : Packet := trk 0x6E [1 + 4 * 2 ^ 6 + n * 2 ^ 32]
def trunkUp : Ilpiac := withUp up 256
def known1 : Ilpiac := { trunkUp with sw := { trunkUp.sw with serials := [(1, 8)] } }

theorem witness_LinksAndMap_admits : (checking 3).Admits 3 (helloM 0) ∧ (checking 3).Admits 3 (helloM 1) ∧ (checking 256).Admits 256 (helloT 7) ∧
    (checking 256).Admits 256 (helloT 8) ∧ members.Admits 3 (helloM 0) ∧ members.Admits 3 linkM ∧ trunkUp.Admits 256 (linkT true) ∧ trunkUp.Admits 256 (linkT false) ∧
    (∃ b, trunkUp.Lands 256 (state1 9) (landing trunkUp 256 (state1 9)).2 0 b) ∧ ∃ b, known1.Lands 256 (state1 8) (landing known1 256 (state1 8)).2 0 b :=
  ⟨admits (by decide +kernel), admits (by decide +kernel), admits (by decide +kernel), admits (by decide +kernel), admits (by decide +kernel), admits (by decide +kernel),
    admits (by decide +kernel), admits (by decide +kernel), lands (by decide +kernel) (by decide +kernel) (by decide +kernel) (by decide +kernel),
    lands (by decide +kernel) (by decide +kernel) (by decide +kernel) (by decide +kernel)⟩

theorem witness_LinksAndMap : ((checking 3).counted 3 (helloM 0)).memberHelloOk (helloM 0) = true ∧ ((checking 3).counted 3 (helloM 1)).memberHelloOk (helloM 1) = false ∧
    ((checking 256).counted 256 (helloT 7)).trunkHelloOk 0 (helloT 7) = true ∧ ((checking 256).counted 256 (helloT 8)).trunkHelloOk 0 (helloT 8) = false ∧
    ((checking 3).counted 3 (helloM 0)).placed = true ∧ (((checking 3).gw F.PLACEMENT_VALID 0).counted 3 (helloM 0)).placed = false ∧
    ((checking 3).counted 3 (helloM 0)).ctl.funcReset = [] ∧ ((checking 3).counted 3 (helloM 0)).portUp 3 = false ∧ (members.counted 3 (helloM 0)).portUp 3 = true ∧
    (∀ q < 262, q ≠ 3 → members.portState q = 0) ∧ 2 ≤ members.areaFree .control ∧ members.sw.buf = [] ∧ up.portUp 3 = false ∧
    (state1 9).f 1 0 6 ≠ trunkUp.bed ∧ trunkUp.sw.serials = [] ∧ known1.sw.serials = [(1, 8)] ∧ newer32 8 ((state1 8).f 1 32 32) = false ∧ newer32 8 9 = true ∧
    up.placed = true ∧ up.running 0 = true ∧ trunkUp.upTrunks = [0] ∧ trunkUp.portFenced 256 = false ∧ 1 ≤ trunkUp.areaFree .shared ∧
    (up.gw F.PLACEMENT_VALID 0).placed = false := by decide +kernel

theorem test_hello : (run (.helloReceived 3 (helloM 0)) (checking 3)).portState 3 = 2 ∧ (run (.helloReceived 3 (helloM 1)) (checking 3)).portState 3 = 3 ∧
    (run (.helloReceived 3 (helloM 1)) (checking 3)).asserting srcPlacement = true ∧ (run (.helloReceived 256 (helloT 8)) (checking 256)).portState 256 = 3 := by decide +kernel
theorem test_link : ((run (.linkReceived 256 (linkT true)) trunkUp).cls 256 1).pFreed = 9 ∧ ((run (.linkReceived 256 (linkT false)) trunkUp).cls 256 1).received = 9 ∧
    ((run (.linkReceived 3 linkM) members).cls 3 1).freed = 1 := by decide +kernel
theorem test_linkTimer : (run (.linkCreditTimer 256) trunkUp).sw.buf.map (fun b => (b.pkt.ty, b.pkt.dstIlp)) = [(2, true), (2, false)] := by decide +kernel
theorem test_trunkState : (run (.trunkStateReceived 256 (state1 9)) trunkUp).lostMask 1 = 4 ∧ (run .trunkStateSend trunkUp).sw.ownSerial = 1 := by decide +kernel

/-- The contribution of the worked example of spec 09: H0 to H3, and its 17 cells. -/
def example9 : Packet :=
  Packet.make 0x08 2 5 true 0x054D false (collHdr ⟨0x0011, 81440, 0x301⟩ 0 9 0 2 0x3F400000) (List.replicate 4224 0)
theorem test_example9 : example9.h0 = 0x054D4005010A0208 ∧ example9.hs = [0x0000000000013E20, 0x0000001100000301, 0x3F40000020000009] ∧ example9.cells = 17 ∧
    example9.coll = ⟨0x0011, 81440, 0x301⟩ ∧ example9.pos = 9 ∧ example9.lenOk = true := by decide +kernel

/-- A module whose HBM has a direct area, with port 2 and 3 UP. -/
def direct : Ilpiac :=
  let m := glob (withUp (withUp up 2) 3) [(F.HBM_STATUS_LOGICAL_GIB, 2), (F.CACHE_CTRL_ENABLE, 0)]
  { m with hbm := { small.hbm with directEnd := 2 ^ 31 } }
/-- AMO_REQ of one 4-byte integer addition of 5 at address 0x100 with tag 17. -/
def amo (a : Nat) : Packet := Packet.make 0x10 0 0 true 3 false [a, 2 + 4 * 2 ^ 6 + 17 * 2 ^ 32] (leBytes 4 5)
def keptAmo : Ilpiac := direct.setPort 3 { direct.port 3 with amoKept := [⟨17, mem 0x11 [0]⟩] }
def staleAmo : Ilpiac := direct.setPort 3 { direct.port 3 with amoLatest := some 99 }
def pt (dst : Nat) : Packet := Packet.make 0x18 0 dst false 3 false [0] [1, 2, 3, 4]
/-- A module all of whose links are lost. -/
def islet : Ilpiac := (List.range 6).foldl (fun m k => m.gw F.LINK_MAP_LOST (2 ^ 64 - 1) k) direct
def full : Ilpiac := (direct.gw F.SW_BUF_STATUS_SHARED_FREE 0).gw F.SW_CLASS_CFG_GUARANTEE 0 0
def waiting11 : Ilpiac := (run (.ptReceived 3 (pt 2) true) full).gw F.SW_BUF_STATUS_SHARED_FREE 1000
def relay (plane : Nat) (body : List Byte) : Packet := Packet.make 0x19 0 0 true 0 true [plane] body

theorem witness_MemberRequests_lands : (∃ b, direct.Lands 3 (amo 0x100) (landing direct 3 (amo 0x100)).2 0 b) ∧
    (∃ b, keptAmo.Lands 3 (amo 0x100) (landing keptAmo 3 (amo 0x100)).2 0 b) ∧ (∃ b, staleAmo.Lands 3 (amo 0x100) (landing staleAmo 3 (amo 0x100)).2 0 b) ∧
    (∃ b, direct.Lands 3 (amo 0x101) (landing direct 3 (amo 0x101)).2 0 b) ∧ (∃ b, direct.Lands 3 (pt 2) (landing direct 3 (pt 2)).2 0 b) ∧
    (∃ b, full.Lands 3 (pt 2) (landing full 3 (pt 2)).2 0 b) ∧ (∃ b, direct.Lands 3 (pt 9) (landing direct 3 (pt 9)).2 0 b) ∧
    (∃ b, members.Lands 3 (relay 1 []) (landing members 3 (relay 1 [])).2 0 b) ∧
    (∃ b, (withUp (grouped group3) 3).Lands 3 (relay 0 stamp3.wire) (landing (withUp (grouped group3) 3) 3 (relay 0 stamp3.wire)).2 0 b) ∧ islet.Admits 3 (pt 300) :=
  ⟨lands (by decide +kernel) (by decide +kernel) (by decide +kernel) (by decide +kernel), lands (by decide +kernel) (by decide +kernel) (by decide +kernel) (by decide +kernel),
    lands (by decide +kernel) (by decide +kernel) (by decide +kernel) (by decide +kernel), lands (by decide +kernel) (by decide +kernel) (by decide +kernel) (by decide +kernel),
    lands (by decide +kernel) (by decide +kernel) (by decide +kernel) (by decide +kernel), lands (by decide +kernel) (by decide +kernel) (by decide +kernel) (by decide +kernel),
    lands (by decide +kernel) (by decide +kernel) (by decide +kernel) (by decide +kernel), lands (by decide +kernel) (by decide +kernel) (by decide +kernel) (by decide +kernel),
    lands (by decide +kernel) (by decide +kernel) (by decide +kernel) (by decide +kernel), admits (by decide +kernel)⟩

theorem witness_MemberRequests : (keptAmo.port 3).amoKept.find? (fun k => k.tag == (amo 0x100).f 2 32 32) ≠ none ∧ (direct.port 3).amoKept = [] ∧
    16 < tagBelow ((staleAmo.port 3).amoLatest.getD 17) 17 ∧ (landing direct 3 (amo 0x101)).2.amoBad (amo 0x101) = true ∧
    (landing direct 3 (amo 0x100)).2.amoBad (amo 0x100) = false ∧ ((landing direct 3 (amo 0x100)).2.memAdd 2 0x100 0 (amo 0x100).body).1.isSome = true ∧
    (pt 2).dstBed = (landing direct 3 (pt 2)).2.bed ∧ (landing direct 3 (pt 2)).2.portUp 2 = true ∧ (landing direct 3 (pt 2)).2.portFenced 2 = false ∧
    (landing direct 3 (pt 2)).2.running 0 = true ∧ 1 ≤ (landing direct 3 (pt 2)).2.g F.SW_BUF_STATUS_SHARED_FREE ∧
    ((landing full 3 (pt 2)).2.sharedRoom 0 1).isNone = true ∧ (landing direct 3 (pt 9)).2.portUp 9 = false ∧ (relay 1 []).f 1 0 4 ≠ (landing members 3 (relay 1 [])).2.plane ∧
    Packet.parse stamp3.wire = some stamp3 ∧ ((islet.police 3 (pt 300)).1.crcDiscard 3 (pt 300)).ptPort (pt 300) = none ∧ (waiting11.port 3).landed = [0] ∧
    (waiting11.bufPkt 0).any (fun b => (waiting11.moveOn 3 0 b.pkt).any (fun m => (m.port 3).landed == [0])) = true := by decide +kernel

theorem test_amo : (run (.amoReqReceived 3 (amo 0x100)) direct).hbm.data = [(0x100, 5)] ∧ (run (.amoReqReceived 3 (amo 0x100)) keptAmo).hbm.data = [] ∧
    ((run (.amoReqReceived 3 (amo 0x100)) direct).port 3).amoKept.map (·.tag) = [17] := by decide +kernel
theorem test_pt : (run (.ptReceived 3 (pt 2) true) direct).sw.buf.map (fun b => (b.refs, b.area == .shared)) = [(1, true)] ∧
    (run (.ptReceived 3 (pt 300) false) islet).pg 3 F.PORT_ERRORS_CRC_DISCARDS = 1 := by decide +kernel
theorem test_relay : ((run (.relayReceived 3 (relay 0 stamp3.wire) true) (withUp (grouped group3) 3)).group 3).map (fun g => g.stamps.take 2) = some [stampInvalid, 5] := by
  decide +kernel
theorem test_landRelease : ((run (.landRelease 3 0) waiting11).port 3).landed = [] := by decide +kernel

def queued11 : Ilpiac := run (.ptReceived 3 (pt 2) true) direct
def sending11 : Ilpiac := run (.sendOpportunity 2) queued11
def solo : Ilpiac := run (.contextAdmit none) (run (.allReduce 0) { reducing with coll := { reducing.coll with comms := [{ comm5 with members := [2] }] } })

theorem witness_SwitchService : (sending11.port 2).tx.isSome = true ∧ (queued11.port 2).tx = none ∧ queued11.txOff 2 = false ∧ queued11.pg 2 F.PORT_SHAPE_RATE = 0 ∧
    direct.eligQ 2 = [] ∧ (queued11.selectQ 2).any (fun k => (queued11.queue k).any (fun e => (queued11.bufPkt e.id).isSome)) = true ∧ Ilpiac.reset.tickPorts = [] ∧
    members.tickPorts = [3] ∧ (members.qw (3 * 1024) F.Q_SHAPE_RATE 5).shaped 3 = [3 * 1024] ∧ members.policers 3 = [] ∧ members.shaped 3 = [] ∧
    (members.pw 3 F.POL_CFG_MODE 1 4).policers 3 = [4] ∧ up.Reaches 0x280100 ∧ up.Reaches 0x280120 ∧ up.g F.SIEVE_CTRL_ENABLE = 0 ∧ (solo.collOf k5).isSome = true ∧
    (solo.collOf k5).all (fun c => !c.failing && !c.committed && solo.contributors { comm5 with members := [2] } c x5 == [2] &&
      solo.leafOf { comm5 with members := [2] } x5 2 0 == 0) = true ∧ (solo.ctxOf x5).any (fun c => c.seen == []) = true ∧ solo.portUp 2 = true ∧
    (∀ b ∈ solo.sw.buf, b.id < solo.sw.nextId) ∧ (coll5 (fun c => { c with status := some stTimeout }) solo).coll.colls.all (·.failing) = true :=
  ⟨by decide +kernel, by decide +kernel, by decide +kernel, by decide +kernel, by decide +kernel, by decide +kernel, by decide +kernel, by decide +kernel,
    by decide +kernel, by decide +kernel, by decide +kernel, by decide +kernel, reaches (by decide +kernel), reaches (by decide +kernel), by decide +kernel⟩

theorem test_send : (sending11.port 2).tx.map (·.pkt.ty) = some 0x18 ∧ (run (.transmitComplete 2) sending11).pg 2 F.PORT_TRAFFIC_TX_PACKETS = 1 ∧
    (run (.transmitComplete 2) sending11).sw.buf = [] := by decide +kernel
theorem test_sieve : (run (.sieveEnable (1 + 7 * 2 ^ 32)) up).g F.SIEVE_CTRL_THRESHOLD = 7 ∧ (run (.sieveConsume 3) up).g F.SIEVE_CONS_CONS = 3 := by decide +kernel
theorem test_creditResend : (run (.creditResendTimer x5) solo).sw.buf.length = solo.sw.buf.length + 1 := by decide +kernel

/-- R348: a queue of weight 2 that serves 1,024 bytes from virtual time 0. -/
theorem test_finishTag : finishTag 0 1024 2 = finishTag 0 512 1 := by decide +kernel

theorem witness_StripeRecovery_adder : (0x2 : Nat) ∈ [0x2, 0x3, 0x4, 0x5, 0x8, 0x9] ∧ ([1, 2, 3, 4] : List Byte).length = ([0, 0, 0, 0] : List Byte).length := by decide

/-! ### Routing and hoses -/

/-- HOSE_OPEN of hose 7 for communicator 5 to bed 1 over trunk port 0, of class 3, with a window of 100 cells. -/
def open7 (hops : Nat) : Ilpiac := withDesc (withUp up 256) 0x40 [7 + 5 * 2 ^ 16 + 2 ^ 32 + 3 * 2 ^ 38 + 100 * 2 ^ 48, hops]
/-- Hose 7 with that role, state and hidden part, on a module with its trunk ports 0 and 2 UP. -/
def hose7 (role state : Nat) (x : HoseX := HoseX.init) : Ilpiac :=
  (unit (withUp (withUp up 256) 258) .hose 7 [(F.HOSE_CFG_ROLE, role), (F.HOSE_STATE_STATE, state), (F.HOSE_STATE_WINDOW_CELLS, 100), (F.HOSE_CFG_OUT_PORT, 2),
    (F.HOSE_CFG_DST_BED, 1), (F.HOSE_CFG_NEXT_LABEL, 33)]).setHx 7 x
/-- HOSE_SETUP of label 9 and setup identifier 77 with its position on the path, and the path goes over port 2. -/
def setup (hop hops dst : Nat) : Packet := trk 0x68 [9 + hop * 2 ^ 12 + 100 * 2 ^ 32 + hops * 2 ^ 48, 2 + dst * 2 ^ 24 + 77 * 2 ^ 32]
/-- HOSE_REPLY for hose 7 with that result, next label 33 and setup identifier 77. -/
def reply (r : Nat) : Packet := trk 0x69 [33 + 7 * 2 ^ 12 + r * 2 ^ 24 + 77 * 2 ^ 32]
def xDesc : HoseX := { HoseX.init with setupId := 77, desc := some (0, 0), prevPort := 0 }
def setup7 (role : Nat) : Ilpiac := withDesc (hose7 role hoseSetup xDesc) 0x40 [7]
def torn7 : Ilpiac := withDesc { trunkUp with sw := { trunkUp.sw with closes := [(7, (77, (0, 0)))] } } 0x41 [7]
def cut : Ilpiac := (trunkUp.gw F.LINK_MAP_LOST (2 ^ 64 - 1) 2).gw F.LINK_MAP_LOST (2 ^ 64 - 1) 3
def crowded : Ilpiac := trunkUp.gw F.SW_BUF_STATUS_SHARED_FREE 0

theorem witness_HoseSetup_open : ((open7 1).begin 0 0x40).isSome = true ∧ ((open7 1).gw F.PLACEMENT_VALID 0).placed = false ∧ (open7 1).placed = true ∧
    (open7 1).has F.CAP_PRESENT_TRUNK = true ∧ (open7 1).hg 7 F.HOSE_CFG_ROLE = roleFree ∧ (open7 1).pathOk 0 1 1 = true ∧ (open7 2).pathOk 0 2 1 = false ∧
    (open7 1).hosesUsed = [] ∧ (open7 1).portLost 0 0 = false ∧ ((open7 1).gw F.LINK_MAP_LOST (2 ^ 64 - 1) 0).portLost 0 0 = true := by decide +kernel

theorem witness_HoseSetup_lands : (∃ b, trunkUp.Lands 256 (setup 2 1 0) (landing trunkUp 256 (setup 2 1 0)).2 0 b) ∧
    (∃ b, trunkUp.Lands 256 (setup 1 1 0) (landing trunkUp 256 (setup 1 1 0)).2 0 b) ∧ (∃ b, crowded.Lands 256 (setup 1 1 0) (landing crowded 256 (setup 1 1 0)).2 0 b) ∧
    (∃ b, trunkUp.Lands 256 (setup 0 1 4) (landing trunkUp 256 (setup 0 1 4)).2 0 b) ∧ (∃ b, cut.Lands 256 (setup 0 1 4) (landing cut 256 (setup 0 1 4)).2 0 b) ∧
    (∃ b, torn7.Lands 256 (reply 5) (landing torn7 256 (reply 5)).2 0 b) ∧
    (∃ b, (setup7 roleSource).Lands 256 (reply 0) (landing (setup7 roleSource) 256 (reply 0)).2 0 b) ∧
    (∃ b, (setup7 roleTransit).Lands 256 (reply 1) (landing (setup7 roleTransit) 256 (reply 1)).2 0 b) :=
  ⟨lands (by decide +kernel) (by decide +kernel) (by decide +kernel) (by decide +kernel), lands (by decide +kernel) (by decide +kernel) (by decide +kernel) (by decide +kernel),
    lands (by decide +kernel) (by decide +kernel) (by decide +kernel) (by decide +kernel), lands (by decide +kernel) (by decide +kernel) (by decide +kernel) (by decide +kernel),
    lands (by decide +kernel) (by decide +kernel) (by decide +kernel) (by decide +kernel), lands (by decide +kernel) (by decide +kernel) (by decide +kernel) (by decide +kernel),
    lands (by decide +kernel) (by decide +kernel) (by decide +kernel) (by decide +kernel), lands (by decide +kernel) (by decide +kernel) (by decide +kernel) (by decide +kernel)⟩

theorem witness_HoseSetup : (landing trunkUp 256 (setup 1 1 0)).2.freeHose = some 0 ∧ (landing trunkUp 256 (setup 1 1 0)).2.mayAside 100 = true ∧
    (landing crowded 256 (setup 1 1 0)).2.mayAside 100 = false ∧ pathHop ((setup 0 1 4).f 2 0 24) 0 = 2 ∧ 2 ≤ (landing trunkUp 256 (setup 0 1 4)).2.extent 1 ∧
    (landing trunkUp 256 (setup 0 1 4)).2.portLost 0 2 = false ∧ (landing cut 256 (setup 0 1 4)).2.portLost 0 2 = true ∧ (setup 1 1 0).f 2 24 6 = trunkUp.bed ∧
    ((landing torn7 256 (reply 5)).2.sw.closes.find? (fun c => c.2.1 == (reply 5).f 1 32 32)).isSome = true ∧ torn7.ctl.descs.length = 1 ∧
    ((landing (setup7 roleSource) 256 (reply 0)).2.hx 7) = xDesc ∧ (landing (setup7 roleSource) 256 (reply 0)).2.hg 7 F.HOSE_STATE_STATE = hoseSetup ∧
    (landing (setup7 roleSource) 256 (reply 0)).2.hg 7 F.HOSE_CFG_ROLE = roleSource ∧ (setup7 roleTransit).hg 7 F.HOSE_CFG_ROLE = roleTransit ∧ xDesc.waiting = [] ∧
    (setup7 roleSource).ctl.descs.length = 1 := by decide +kernel

/-- A table without a FREE entry. -/
theorem witness_HoseSetup_taken (m : Ilpiac) (h : ∀ k < 4096, m.hg k F.HOSE_CFG_ROLE ≠ roleFree) : m.freeHose = none := by
  have go : ∀ n, n ≤ 4096 → firstBelow n (fun k => m.hg k F.HOSE_CFG_ROLE == roleFree) = none := by
    intro n hn
    by_contra hc
    obtain ⟨k, hk⟩ := Option.ne_none_iff_exists'.mp hc
    simp only [firstBelow] at hk
    have hm := List.find?_some hk
    have hl := List.mem_of_find?_eq_some hk
    exact h k (by have := List.mem_range.mp hl; omega) (by simpa using hm)
  exact go 4096 (le_refl _)

theorem test_hoseOpen : (run (.hoseOpen 0) (open7 1)).hg 7 F.HOSE_CFG_ROLE = roleSource ∧ (run (.hoseOpen 0) (open7 1)).hg 7 F.HOSE_STATE_STATE = hoseSetup ∧
    lastStatus (run (.hoseOpen 0) (open7 2)) = some stBadDescriptor := by decide +kernel
theorem test_setup : (run (.hoseSetupReceived 256 (setup 1 1 0)) trunkUp).hg 0 F.HOSE_CFG_ROLE = roleSink ∧
    (run (.hoseSetupReceived 256 (setup 0 1 4)) trunkUp).hg 0 F.HOSE_CFG_ROLE = roleTransit ∧
    (run (.hoseSetupReceived 256 (setup 1 1 0)) crowded).hg 0 F.HOSE_CFG_ROLE = roleFree := by decide +kernel
theorem test_reply : lastStatus (run (.hoseReplyReceived 256 (reply 0)) (setup7 roleSource)) = some stOk ∧
    lastStatus (run (.hoseReplyReceived 256 (reply 1)) (setup7 roleSource)) = some stNoResources ∧
    (run (.hoseReplyReceived 256 (reply 0)) (setup7 roleTransit)).hg 7 F.HOSE_STATE_STATE = hoseActive := by decide +kernel
theorem test_setupTimeout : lastStatus (run (.hoseSetupTimeout 7) (setup7 roleSource)) = some stTrunkLost ∧
    (run (.hoseSetupTimeout 7) (setup7 roleTransit)).hg 7 F.HOSE_CFG_ROLE = roleFree := by decide +kernel

def source7 : Ilpiac := withDesc (hose7 roleSource hoseActive { xDesc with desc := none }) 0x41 [7]
def closing7 : Ilpiac := hose7 roleSource hoseTearing { xDesc with closing := true }
def stopped7 : Ilpiac := hose7 roleSource hoseActive HoseX.init |>.wr .hose 7 F.HOSE_WIN_SENT 100
def fwd (ty : Nat) (l : List Nat) : Packet := trk ty (7 :: l)
def mark7 (n : Nat) : Packet := trk 0x6C [7 + n * 2 ^ 32]
def window7 (src : Nat) : Packet := Packet.make 0x6D 0 0 true src true [7 + 12 * 2 ^ 32] []
def darkOut : Ilpiac := (hose7 roleTransit hoseActive).pw 258 F.PORT_STATUS_STATE 1

theorem witness_HoseTraffic : (source7.begin 0 0x41).isSome = true ∧ ((withDesc up 0x41 [7]).begin 0 0x41).isSome = true ∧ up.hg 7 F.HOSE_CFG_ROLE ≠ roleSource ∧
    source7.hg 7 F.HOSE_STATE_STATE ≠ hoseSetup ∧ (source7.hx 7).closing = false ∧ (closing7.hx 7).closing = true ∧ (closing7.hx 7).desc = some (0, 0) ∧
    torn7.sw.closes = [(7, (77, (0, 0)))] ∧ torn7.ctl.descs.length = 1 ∧ (hose7 roleSink hoseActive).hg 7 F.HOSE_CFG_ROLE = roleSink ∧
    source7.hoseOut 7 + 1 ≤ source7.hg 7 F.HOSE_STATE_WINDOW_CELLS ∧ stopped7.hg 7 F.HOSE_STATE_WINDOW_CELLS < stopped7.hoseOut 7 + 1 ∧
    ((hose7 roleTransit hoseActive).counted 256 (fwd 0x6A [])).hg 7 F.HOSE_CFG_ROLE = roleTransit ∧
    ((hose7 roleTransit hoseActive).counted 256 (fwd 0x6B [])).portUp (256 + 2) = true ∧ ((hose7 roleTransit hoseActive).counted 256 (fwd 0x6B [])).running 0 = true ∧
    ((hose7 roleTransit hoseActive).counted 256 (fwd 0x6B [])).hg 7 F.HOSE_CFG_OUT_PORT = 2 ∧ (darkOut.counted 256 (fwd 0x6B [])).portUp (256 + 2) = false ∧
    ((hose7 roleTransit hoseActive).counted 256 (fwd 0x6B [])).portFenced 258 = false ∧ ((hose7 roleTransit hoseActive).counted 256 (fwd 0x6B [])).sw.buf = [] ∧
    (window7 1).f 1 0 12 = 7 ∧ (landing source7 256 (window7 1)).2.hg 7 F.HOSE_CFG_ROLE = roleSource ∧ (landing source7 256 (window7 1)).2.hg 7 F.HOSE_CFG_DST_BED = (window7 1).srcBed ∧
    (landing trunkUp 256 (window7 1)).2.hg 7 F.HOSE_CFG_ROLE ≠ roleSource := by decide +kernel

theorem witness_HoseTraffic_admits : (hose7 roleTransit hoseActive).Admits 256 (fwd 0x6A []) ∧ (hose7 roleSink hoseActive).Admits 256 (fwd 0x6A []) ∧
    (hose7 roleTransit hoseActive).Admits 256 (fwd 0x6B []) ∧ darkOut.Admits 256 (fwd 0x6B []) ∧ (hose7 roleSink hoseActive).Admits 256 (fwd 0x6B []) ∧
    (hose7 roleTransit hoseActive).Admits 256 (mark7 5) ∧ darkOut.Admits 256 (mark7 5) ∧ (hose7 roleSink hoseActive).Admits 256 (mark7 5) ∧
    (∃ b, source7.Lands 256 (window7 1) (landing source7 256 (window7 1)).2 0 b) ∧ ∃ b, trunkUp.Lands 256 (window7 1) (landing trunkUp 256 (window7 1)).2 0 b :=
  ⟨admits (by decide +kernel), admits (by decide +kernel), admits (by decide +kernel), admits (by decide +kernel), admits (by decide +kernel), admits (by decide +kernel),
    admits (by decide +kernel), admits (by decide +kernel), lands (by decide +kernel) (by decide +kernel) (by decide +kernel) (by decide +kernel),
    lands (by decide +kernel) (by decide +kernel) (by decide +kernel) (by decide +kernel)⟩

theorem test_hoseClose : (run (.hoseClose 0) source7).hg 7 F.HOSE_STATE_STATE = hoseTearing ∧ lastStatus (run (.hoseClose 0) (withDesc up 0x41 [7])) = some stBadDescriptor ∧
    (run (.hoseTearSend 7) closing7).sw.closes = [(7, (77, (0, 0)))] ∧ lastStatus (run (.hoseCloseTimeout 7) torn7) = some stTrunkLost := by decide +kernel
theorem test_orphan : (run (.hoseOrphanTimeout 7) (hose7 roleSink hoseActive)).hg 7 F.HOSE_CFG_ROLE = roleFree ∧
    (run (.hoseTearReceived 256 (fwd 0x6A [])) (hose7 roleTransit hoseActive)).hg 7 F.HOSE_CFG_ROLE = roleFree := by decide +kernel
theorem test_hoseData : (run (.hoseDataReceived 256 (fwd 0x6B []) true) (hose7 roleSink hoseActive)).hg 7 F.HOSE_WIN_SENT = 1 ∧
    (run (.hoseDataReceived 256 (fwd 0x6B []) true) darkOut).hg 7 F.HOSE_COUNTS_DISCARDS = 1 ∧
    (run (.hoseDataReceived 256 (fwd 0x6B []) true) (hose7 roleTransit hoseActive)).sw.buf.map (fun b => b.pkt.f 1 0 12) = [33] := by decide +kernel
theorem test_hoseMark : (run (.hoseMarkTimer 7) source7).hg 7 F.HOSE_WIN_SENT = 1 ∧ (run (.hoseMarkTimer 7) stopped7).hg 7 F.HOSE_WIN_SENT = 100 ∧
    (run (.hoseMarkReceived 256 (mark7 5)) (hose7 roleSink hoseActive)).hg 7 F.HOSE_WIN_CONSUMED = 5 := by decide +kernel
theorem test_hoseWindow : (run (.hoseWindowReceived 256 (window7 1)) source7).hg 7 F.HOSE_WIN_CONSUMED = 12 ∧
    ((run (.hoseWindowTimer 7) (hose7 roleSink hoseActive)).hx 7).reported = 0 := by decide +kernel

theorem witness_RoutesArrive : (∀ d < 3, 1 ≤ up.extent d ∧ up.extent d ≤ 4 ∧ coord 0 d < up.extent d ∧ coord 5 d < up.extent d) ∧
    (up.routeVia 0 5 0 [0, 1, 2]).isSome = true ∧ up.reg F.LINK_MAP_LOST.off = 0 := by decide +kernel
/-- Two hops lead from bed 0 to bed 5 in a plot of 2 × 2 × 1 beds. -/
theorem test_route : up.follow 5 0 2 0 = 5 := by decide +kernel


end Sys2Proof.Tests
end

section
/-! The bits of a field (spec 00: R18, R19): what a write leaves in a field of each access type. -/

namespace Sys2Proof.Machine

/-! ### Bits of a field -/

theorem bitOf_eq_testBit (x i : Nat) : bitOf x i = x.testBit i := by
  rw [bitOf, Nat.testBit_eq_decide_div_mod_eq]; rfl

theorem testBit_bits (x lo w i : Nat) : (bits x lo w).testBit i = (decide (i < w) && x.testBit (lo + i)) := by
  rw [bits, Nat.testBit_mod_two_pow, Nat.testBit_div_two_pow, Nat.add_comm]

/-- Within a field, a bit of the field is the bit of the word. -/
theorem bitOf_bits {i w : Nat} (x lo : Nat) (h : i < w) : bitOf (bits x lo w) i = bitOf x (lo + i) := by
  simp [bitOf_eq_testBit, testBit_bits, h]

theorem bitOf_land (x y i : Nat) : bitOf (Nat.land x y) i = (bitOf x i && bitOf y i) := by
  simp only [bitOf_eq_testBit]; exact Nat.testBit_and x y i

theorem bitOf_lor (x y i : Nat) : bitOf (Nat.lor x y) i = (bitOf x i || bitOf y i) := by
  simp only [bitOf_eq_testBit]; exact Nat.testBit_or x y i

/-- The complement of a field within its width. -/
theorem bitOf_complement {w i k : Nat} (hk : k < 2 ^ w) (h : i < w) : bitOf (2 ^ w - 1 - k) i = !bitOf k i := by
  rw [show 2 ^ w - 1 - k = 2 ^ w - (k + 1) by omega, bitOf_eq_testBit, bitOf_eq_testBit, Nat.testBit_two_pow_sub_succ hk]
  simp [h]

theorem land_add_ldiff (a b : Nat) : (a &&& b) + Nat.ldiff a b = a := by
  induction a using Nat.binaryRec generalizing b with
  | zero => exact Nat.eq_of_testBit_eq fun i => by simp [Nat.testBit_ldiff]
  | bit u n ih =>
    obtain ⟨v, k, rfl⟩ : ∃ v k, b = Nat.bit v k := ⟨_, _, (Nat.bit_bodd_div2 b).symm⟩
    have := ih k
    rw [Nat.land_bit, Nat.ldiff_bit]
    cases u <;> cases v <;> simp [Nat.bit_val] <;> omega

/-- Taking away bits that are set clears exactly those. -/
theorem bitOf_sub_land (x y i : Nat) : bitOf (x - Nat.land x y) i = (bitOf x i && !bitOf y i) := by
  have h : x - Nat.land x y = Nat.ldiff x y := by
    have := land_add_ldiff x y
    change x - (x &&& y) = _
    omega
  rw [h, bitOf_eq_testBit, bitOf_eq_testBit, bitOf_eq_testBit, Nat.testBit_ldiff]

/-- Two fields of one width differ where some bit of theirs differs. -/
theorem ne_iff_bitOf_ne {w x y : Nat} (hx : x < 2 ^ w) (hy : y < 2 ^ w) : x ≠ y ↔ ∃ n < w, bitOf x n ≠ bitOf y n := by
  constructor
  · intro hne
    obtain ⟨n, hn⟩ := Nat.exists_testBit_ne_of_ne hne
    refine ⟨n, ?_, by simpa [bitOf_eq_testBit] using hn⟩
    by_contra hge
    have hpow : 2 ^ w ≤ 2 ^ n := Nat.pow_le_pow_right (by decide) (by omega)
    exact hn (by rw [Nat.testBit_lt_two_pow (by omega), Nat.testBit_lt_two_pow (by omega)])
  · rintro ⟨n, -, hn⟩ rfl
    exact hn rfl

/-- A field with the bits of the mask taken from the value written. -/
def FSpec.taken (f : FSpec) (old v mask : Nat) : Nat :=
  Nat.lor (Nat.land (bits old f.lo f.w) (2 ^ f.w - 1 - bits mask f.lo f.w)) (Nat.land (bits v f.lo f.w) (bits mask f.lo f.w))

theorem FSpec.written_rw {f : FSpec} {stopped : Bool} (old v mask : Nat) (h : f.ty = .rw ∨ f.ty = .rws ∧ stopped = true) :
    f.written stopped old v mask = (f.taken old v mask, false) := by
  rcases h with h | ⟨h, rfl⟩ <;> simp [FSpec.written, FSpec.taken, h]

theorem FSpec.written_rws_running {f : FSpec} (old v mask : Nat) (h : f.ty = .rws) :
    f.written false old v mask = (bits old f.lo f.w, f.taken old v mask != bits old f.lo f.w) := by
  simp [FSpec.written, FSpec.taken, h]

theorem FSpec.bitOf_taken (f : FSpec) (old v mask : Nat) {i : Nat} (h : i < f.w) :
    bitOf (f.taken old v mask) i = if bitOf mask (f.lo + i) then bitOf v (f.lo + i) else bitOf old (f.lo + i) := by
  rw [FSpec.taken, bitOf_lor, bitOf_land, bitOf_land, bitOf_complement (bits_lt mask f.lo f.w) h, bitOf_bits _ _ h, bitOf_bits _ _ h,
    bitOf_bits _ _ h]
  cases bitOf mask (f.lo + i) <;> simp

theorem FSpec.taken_lt (f : FSpec) (old v mask : Nat) : f.taken old v mask < 2 ^ f.w :=
  Nat.or_lt_two_pow (Nat.lt_of_le_of_lt Nat.and_le_left (bits_lt old f.lo f.w)) (Nat.lt_of_le_of_lt Nat.and_le_left (bits_lt v f.lo f.w))

/-- A write would change a field exactly where it writes a bit with another value. -/
theorem FSpec.taken_ne_iff (f : FSpec) (old v mask : Nat) :
    f.taken old v mask ≠ bits old f.lo f.w ↔ ∃ n < f.w, bitOf mask (f.lo + n) = true ∧ bitOf v (f.lo + n) ≠ bitOf old (f.lo + n) := by
  rw [ne_iff_bitOf_ne (f.taken_lt old v mask) (bits_lt old f.lo f.w)]
  refine exists_congr fun n => and_congr_right fun hn => ?_
  rw [f.bitOf_taken old v mask hn, bitOf_bits _ _ hn]
  cases bitOf mask (f.lo + n) <;> simp

theorem FSpec.written_kept {f : FSpec} (stopped : Bool) (old v mask : Nat) (h : f.ty = .ro ∨ f.ty = .rc) :
    f.written stopped old v mask = (bits old f.lo f.w, false) := by
  rcases h with h | h <;> simp [FSpec.written, h]

theorem FSpec.written_w1c {f : FSpec} (stopped : Bool) (old v mask : Nat) (h : f.ty = .w1c) :
    f.written stopped old v mask =
      (bits old f.lo f.w - Nat.land (bits old f.lo f.w) (Nat.land (bits v f.lo f.w) (bits mask f.lo f.w)), false) := by
  simp [FSpec.written, h]

theorem FSpec.written_w1s {f : FSpec} (stopped : Bool) (old v mask : Nat) (h : f.ty = .w1s) :
    f.written stopped old v mask = (Nat.lor (bits old f.lo f.w) (Nat.land (bits v f.lo f.w) (bits mask f.lo f.w)), false) := by
  simp [FSpec.written, h]

/-- No field refuses a write but an RWS field of a running owner. -/
theorem FSpec.written_taken_whole {f : FSpec} {stopped : Bool} (old v mask : Nat) (h : ¬(f.ty = .rws ∧ stopped = false)) :
    (f.written stopped old v mask).2 = false := by
  cases hty : f.ty <;> cases stopped <;> simp_all [FSpec.written]

end Sys2Proof.Machine

open Sys2Proof.Machine

/-- Settles O8, type by type from what `FSpec.written` answers for each. -/
theorem fieldTypes : Obligations.FieldTypes := by
  unfold Obligations.FieldTypes
  intro f stopped old v mask i hi
  refine ⟨fun h => ?_, fun h => ?_, fun h => ?_, fun h => ?_, ?_, FSpec.written_taken_whole old v mask⟩
  · rw [FSpec.written_kept stopped old v mask h, bitOf_bits _ _ hi]
  · rw [FSpec.written_rw old v mask h, f.bitOf_taken old v mask hi]
  · rw [FSpec.written_w1c stopped old v mask h, bitOf_sub_land, bitOf_land, bitOf_bits _ _ hi, bitOf_bits _ _ hi, bitOf_bits _ _ hi,
      Bool.and_comm (bitOf v _)]
  · rw [FSpec.written_w1s stopped old v mask h, bitOf_lor, bitOf_land, bitOf_bits _ _ hi, bitOf_bits _ _ hi, bitOf_bits _ _ hi,
      Bool.and_comm (bitOf v _)]
  · rintro ⟨hty, rfl⟩
    rw [FSpec.written_rws_running old v mask hty]
    exact ⟨bitOf_bits _ _ hi, bne_iff_ne.trans (f.taken_ne_iff old v mask)⟩

end

section
/-! The state after reset, a step with an empty queue, and a block in which nothing waits (spec 00, log entry 3). -/

namespace Sys2Proof.Machine

theorem Ilpiac.timeTick_clk (m : Ilpiac) : m.timeTick.clk = m.clk := by
  unfold Ilpiac.timeTick
  simp only
  split <;> rfl

theorem Ilpiac.laneStates_clk (m : Ilpiac) (lp : Nat) : (m.laneStates lp).clk = m.clk := by
  refine Ilpiac.over_clk _ _ _ fun m l => ?_
  simp only
  split
  · simp
  · split <;> simp

theorem Ilpiac.applyTx_clk (m : Ilpiac) (lp : Nat) : (m.applyTx lp).clk = m.clk := by
  unfold Ilpiac.applyTx
  split
  · rfl
  · simp [Ilpiac.laneStates_clk]

theorem Ilpiac.txDue_clk (m : Ilpiac) (lp : Nat) : (m.txDue lp).clk = m.clk := by
  unfold Ilpiac.txDue
  split
  · split
    · exact Ilpiac.applyTx_clk _ _
    · rfl
  · rfl

/-- A furrow cycle counts once: fabric time and the set changes that fall due leave the cycle count alone. -/
theorem Ilpiac.tick_clk (m : Ilpiac) : m.tick.clk = m.clk + 1 := by
  rw [Ilpiac.tick, Ilpiac.over_clk _ _ _ Ilpiac.txDue_clk, Ilpiac.timeTick_clk]

theorem Ilpiac.quiet_of_idle {m : Ilpiac} (hown : m.ctl.own = []) (hdue : m.flt.due = []) (hcolls : m.coll.colls = []) (hgroups : m.groups = [])
    (hphase4 : m.trellis.phase4 = []) : m.quiet = true := by
  simp [Ilpiac.quiet, hown, hdue, hcolls, hgroups, hphase4]

end Sys2Proof.Machine

open Sys2Proof.Machine

/-- Settles O7: the reset block lists three registers, in rising order and none at its reset value, and no byte of HBM. -/
theorem resetOwn : Obligations.ResetOwn := ⟨rfl, rfl, ⟨by decide, rfl⟩⟩

/-- Settles O2: `Ilpiac.tick` counts one cycle, and a block in which nothing waits is quiet, so that settling leaves it alone. -/
theorem settling : Obligations.Settling :=
  ⟨fun m => ⟨m.tick, rfl, rfl, m.tick_clk⟩,
   fun _ hown hdue hcolls hgroups hphase4 => Ilpiac.settle_quiet (Ilpiac.quiet_of_idle hown hdue hcolls hgroups hphase4)⟩

end

section
/-! Every operation of the block keeps the register file and the contents of HBM in canonical form (spec R14, R275): a rule per operation,
in the order of the model, each a chain of the rules of the operations it is composed of. Only `setReg`, `setData`, `hbmStart` and the resets
write registers or HBM contents themselves. Where an operation matches on what another one computes, the blocks in between are made opaque
first (`clear_value`, or a function behind an equation): else the kernel evaluates that computation to compare two forms of the match. -/

namespace Sys2Proof.Machine

variable {m m' : Ilpiac}

/-! ### How the rules are put together -/

/-- A block that agrees in its registers and its memory system is as canonical. -/
theorem Ilpiac.Canon.beside {clk free ctl flt twin sw coll trellis groups lanes links sync time record power boot} (h : m.Canon) :
    Ilpiac.Canon ⟨m.regs, clk, free, ctl, flt, twin, sw, coll, trellis, m.hbm, groups, lanes, links, sync, time, record, power, boot⟩ :=
  ⟨h.regs, h.mem⟩

/-- A block that agrees in its registers and in the contents of HBM is as canonical. -/
theorem Ilpiac.Canon.besideData {clk free ctl flt twin sw coll trellis groups lanes links sync time record power boot poison errors slotmap
      reserve migrations ceSeen ueCount lines pools directEnd lastStart heldSlots scrubAt} (h : m.Canon) :
    Ilpiac.Canon ⟨m.regs, clk, free, ctl, flt, twin, sw, coll, trellis,
      ⟨m.hbm.data, poison, errors, slotmap, reserve, migrations, ceSeen, ueCount, lines, pools, directEnd, lastStart, heldSlots, scrubAt⟩,
      groups, lanes, links, sync, time, record, power, boot⟩ :=
  ⟨h.regs, h.mem⟩

theorem Ilpiac.Canon.ite {c : Prop} [Decidable c] (h : m.Canon) (h' : m'.Canon) :
    Ilpiac.Canon (if c then m else m') := by split <;> assumption

theorem Ilpiac.Canon.ifThen {c : Prop} [Decidable c] (h : m.Canon) (hf : m.Canon → m'.Canon) :
    Ilpiac.Canon (if c then m' else m) := ite (hf h) h

theorem Ilpiac.Canon.ifElse {c : Prop} [Decidable c] (h : m.Canon) (hf : m.Canon → m'.Canon) :
    Ilpiac.Canon (if c then m else m') := ite h (hf h)

theorem Ilpiac.Canon.of_snd {α : Type} {p : α × Ilpiac} {a : α} (h : Ilpiac.Canon p.2) (e : p = (a, m')) :
    m'.Canon := by rw [e] at h; exact h

theorem Ilpiac.Canon.foldl {α : Type} {f : Ilpiac → α → Ilpiac} {l : List α} (h : m.Canon)
      (hf : ∀ m a, m.Canon → (f m a).Canon) :
    Ilpiac.Canon (l.foldl f m) := by
  induction l generalizing m with
  | nil => exact h
  | cons a l ih => exact ih (hf m a h)

theorem Ilpiac.Canon.mk_snd {α : Type} {a : α} (h : m.Canon) : Ilpiac.Canon (a, m).2 := h

theorem Ilpiac.Canon.congr_snd {α : Type} {p q : α × Ilpiac} (h : Ilpiac.Canon q.2) (e : p = q) :
    Ilpiac.Canon p.2 := e ▸ h

theorem Ilpiac.Canon.foldl_snd {α β : Type} {p : α × Ilpiac} {f : α × Ilpiac → β → α × Ilpiac} {l : List β}
      (h : p.2.Canon) (hf : ∀ p b, Ilpiac.Canon p.2 → Ilpiac.Canon (f p b).2) :
    Ilpiac.Canon (l.foldl f p).2 := by
  induction l generalizing p with
  | nil => exact h
  | cons b l ih => exact ih (hf p b h)

theorem Ilpiac.canon_reset : Ilpiac.reset.Canon := ⟨by decide, rfl⟩

theorem Ilpiac.Canon.getD {o : Option Ilpiac} (h : m.Canon) (ho : ∀ m', o = some m' → m'.Canon) :
    (o.getD m).Canon := by
  cases o with
  | none => exact h
  | some m' => exact ho m' rfl

/-! ### Registers, events, faults and completions -/

theorem Ilpiac.Canon.setReg {k : Nat} {v : Word} (h : m.Canon) : (m.setReg k v).Canon := Ilpiac.canon_setReg k v h

theorem Ilpiac.Canon.wr {b : Blk} {n : Nat} {f : Fld} {v j : Nat} (h : m.Canon) : (m.wr b n f v j).Canon :=
  h.setReg

theorem Ilpiac.Canon.gw {f : Fld} {v j : Nat} (h : m.Canon) : (m.gw f v j).Canon :=
  h.wr

theorem Ilpiac.Canon.cnt {b : Blk} {n : Nat} {f : Fld} {k j : Nat} (h : m.Canon) : (m.cnt b n f k j).Canon :=
  h.wr

theorem Ilpiac.Canon.gcnt {f : Fld} {k j : Nat} (h : m.Canon) : (m.gcnt f k j).Canon :=
  h.cnt

theorem Ilpiac.Canon.wrapCnt {b : Blk} {n : Nat} {f : Fld} {k j : Nat} (h : m.Canon) : (m.wrapCnt b n f k j).Canon :=
  h.wr

theorem Ilpiac.Canon.pw {p : Nat} {f : Fld} {v j : Nat} (h : m.Canon) : (m.pw p f v j).Canon :=
  h.wr

theorem Ilpiac.Canon.pcnt {p : Nat} {f : Fld} {k j : Nat} (h : m.Canon) : (m.pcnt p f k j).Canon :=
  h.cnt

theorem Ilpiac.Canon.over {α : Type} {l : List α} {f : Ilpiac → α → Ilpiac} (h : m.Canon)
      (hf : ∀ m a, m.Canon → (f m a).Canon) :
    Ilpiac.Canon (m.over l f) := h.foldl hf

theorem Ilpiac.Canon.draw (h : m.Canon) : m.draw.2.Canon :=
  h.beside

theorem Ilpiac.Canon.send {x : HolmMsg} (h : m.Canon) : (m.send x).Canon :=
  ite h.beside h

theorem Ilpiac.Canon.irqDue {vector : Nat} (h : m.Canon) : (m.irqDue vector).Canon :=
  h.beside

theorem Ilpiac.Canon.event {e : Event} (h : m.Canon) : (m.event e).Canon :=
  ite h (ite h.gw h.gw.irqDue)

theorem Ilpiac.Canon.sbEvent {e : Nat} (h : m.Canon) : (m.sbEvent e).Canon :=
  ite h (ite h.gw h.gw.beside)

theorem Ilpiac.Canon.markLatched {a : Assertion} (h : m.Canon) : (m.markLatched a).Canon :=
  h.beside

theorem Ilpiac.Canon.addAssert {a : Assertion} (h : m.Canon) : (m.addAssert a).Canon :=
  h.beside

theorem Ilpiac.Canon.firstFault {a : Assertion} (h : m.Canon) : (m.firstFault a).Canon :=
  h.gw.gw.gw.gw.gw.gw.gw

theorem Ilpiac.Canon.dueAtOnce {src : Nat} (h : m.Canon) : (m.dueAtOnce src).Canon :=
  ite h.beside h

theorem Ilpiac.Canon.latch {a : Assertion} (h : m.Canon) : (m.latch a).Canon :=
  h.markLatched.firstFault.gcnt.event.sbEvent.dueAtOnce

theorem Ilpiac.Canon.latchNext (h : m.Canon) : m.latchNext.Canon := by
  unfold Ilpiac.latchNext
  split
  · exact ite h.latch h
  · exact h

theorem Ilpiac.Canon.raise {src unit detail : Nat} {wire : Bool} (h : m.Canon) :
    (m.raise src unit detail wire).Canon := by
  unfold Ilpiac.raise
  dsimp only
  split
  · exact h
  · split
    · exact h.addAssert
    · split
      · exact h.addAssert.latch
      · exact ite (ite h.addAssert h.addAssert.gw) h.addAssert.latchNext

theorem Ilpiac.Canon.release {src : Nat} {p : Nat → Bool} (h : m.Canon) : (m.release src p).Canon :=
  h.beside

theorem Ilpiac.Canon.regAccess {off : Nat} (h : m.Canon) : (m.regAccess off).Canon :=
  h.raise

theorem Ilpiac.Canon.stall {c : Nat} (h : m.Canon) : (m.stall c).Canon :=
  h.wr

theorem Ilpiac.Canon.due {r : CplRec} (h : m.Canon) : (m.due r).Canon :=
  h.beside.stall

theorem Ilpiac.Canon.complete {ring num : Nat} {ws : List Word} {status : Nat} {i : CplInfo} {coll : Option CollId}
      (h : m.Canon) :
    (m.complete ring num ws status i coll).Canon :=
  h.due

theorem Ilpiac.Canon.begin {ring op : Nat} {d : AccDesc} (h : m.Canon) (e : m.begin ring op = some (d, m')) :
    m'.Canon := by
  unfold Ilpiac.begin at e
  split at e
  · cases e
  · split at e
    · cases e
      exact h.beside
    · cases e

theorem Ilpiac.Canon.runDesc {ring op : Nat} {f : AccDesc → Ilpiac → Ilpiac} (h : m.Canon)
      (hf : ∀ d m, m.Canon → (f d m).Canon) :
    (m.runDesc ring op f).Canon := by
  unfold Ilpiac.runDesc
  split
  · exact hf _ _ (h.begin ‹_›)
  · exact h

theorem Ilpiac.Canon.done {d : AccDesc} {status : Nat} {i : CplInfo} (h : m.Canon) : (m.done d status i).Canon :=
  h.complete

theorem Ilpiac.Canon.boardWrite {addr : Nat} {d : List Byte} (h : m.Canon) : (m.boardWrite addr d).Canon := by
  unfold Ilpiac.boardWrite
  split
  · exact h.beside
  · exact ite h.regAccess (h.over (fun _ _ h => h.send))

theorem Ilpiac.Canon.noteRefusals {l : List (Nat × Nat × Bool)} (h : m.Canon) : (m.noteRefusals l).Canon :=
  h.gcnt

theorem Ilpiac.Canon.windowRefusal (h : m.Canon) : m.windowRefusal.Canon :=
  h.gcnt

/-! ### Codewords, lines, channels and pools of the HBM -/

theorem Ilpiac.Canon.journal {r : JRec} (h : m.Canon) : (m.journal r).Canon := by
  unfold Ilpiac.journal
  split
  · exact h.beside
  · exact ite h.beside h.beside.gcnt

theorem Ilpiac.Canon.journalCommit (h : m.Canon) : m.journalCommit.Canon :=
  h.beside

theorem Ilpiac.Canon.countOut {ch : Nat} (h : m.Canon) : (m.countOut ch).Canon :=
  h.wr

theorem Ilpiac.Canon.outNow {ch : Nat} (h : m.Canon) : (m.outNow ch).Canon :=
  h.wr.wr.wr.countOut

theorem Ilpiac.Canon.recordOut {ch cause : Nat} (h : m.Canon) : (m.recordOut ch cause).Canon :=
  h.draw.journal.journal

theorem Ilpiac.Canon.lostUnit {a : Nat} (h : m.Canon) : (m.lostUnit a).Canon :=
  h.beside

theorem Ilpiac.Canon.migrate {slot source : Nat} {readable : Bool} {q : Nat} (h : m.Canon) :
    (m.migrate slot source readable q).Canon :=
  h.besideData.wr.wr.wr.gw

theorem Ilpiac.Canon.unback {slot : Nat} (h : m.Canon) : (m.unback slot).Canon :=
  h.besideData.gw.raise

theorem Ilpiac.Canon.mapOut {ch cause : Nat} (h : m.Canon) : (m.mapOut ch cause).Canon := by
  unfold Ilpiac.mapOut
  extract_lets +onlyGivenNames readable
  split
  · exact h
  · split
    · exact ite h h.besideData
    · extract_lets +onlyGivenNames m1 m2 m3
      have h3 : m3.Canon := h.wr.recordOut.gw
      clear_value m3
      split
      · exact h3.besideData.outNow.gw
      · extract_lets +onlyGivenNames slot
        split
        · exact h3.outNow
        · extract_lets +onlyGivenNames old
          clear_value old
          rcases m3.hbm.reserve with _ | ⟨q, l⟩
          · refine unback (outNow ?_)
            cases old with
            | some g => exact h3.outNow
            | none => exact h3
          · cases old with
            | some g => exact h3.outNow.migrate
            | none => exact h3.wr.wr.migrate

theorem Ilpiac.Canon.failChannel {ch cause : Nat} (h : m.Canon) : (m.failChannel ch cause).Canon :=
  ite h.mapOut h

theorem Ilpiac.Canon.setErrors {cw : Nat} {l : List (Nat × Nat)} (h : m.Canon) : (m.setErrors cw l).Canon :=
  h.besideData

theorem Ilpiac.Canon.setPoison {cw : Nat} {b : Bool} (h : m.Canon) : (m.setPoison cw b).Canon :=
  h.besideData

theorem Ilpiac.Canon.setData {cw : Nat} {d : List Byte} (h : m.Canon) :
    (m.setData cw d).Canon := ⟨h.regs, Memory.wf_write _ _ h.mem⟩

theorem Ilpiac.Canon.upset {cw : Nat} {us : List Upset} (h : m.Canon) : (m.upset cw us).Canon :=
  h.setErrors

theorem Ilpiac.Canon.countCe {cw sym : Nat} (h : m.Canon) : (m.countCe cw sym).Canon := by
  unfold Ilpiac.countCe
  dsimp only
  split
  · exact h.cnt.wr.wr.wr.wr.besideData.failChannel
  · exact h.cnt.wr.wr.wr.wr.besideData

theorem Ilpiac.Canon.countUe {cw : Nat} (h : m.Canon) : (m.countUe cw).Canon := by
  unfold Ilpiac.countUe
  dsimp only
  split
  · split
    · exact h.cnt.wr.wr.wr.wr.raise.besideData.failChannel
    · exact h.cnt.wr.wr.wr.wr.raise.besideData
  · split
    · exact h.cnt.wr.wr.wr.wr.besideData.failChannel
    · exact h.cnt.wr.wr.wr.wr.besideData

theorem Ilpiac.Canon.cwRead {cw : Nat} (h : m.Canon) : (m.cwRead cw).2.Canon := by
  unfold Ilpiac.cwRead
  dsimp only
  split
  · exact h
  · exact h.setErrors.countCe
  · exact h.setData.setErrors.setPoison.countUe
  · split
    · exact h.setData.setErrors.setPoison.countUe
    · exact (ite h.setData.setErrors.setPoison h.setData.setErrors).countCe

theorem Ilpiac.Canon.inject {cw : Nat} (h : m.Canon) : (m.inject cw).Canon :=
  ite (ite h.wr.draw.setErrors h.wr.draw.setErrors) h

theorem Ilpiac.Canon.cwWrite {cw : Nat} {d : List Byte} {poison : Bool} (h : m.Canon) :
    (m.cwWrite cw d poison).Canon :=
  h.setData.setErrors.setPoison.inject

theorem Ilpiac.Canon.wakeStack {ch : Nat} (h : m.Canon) : (m.wakeStack ch).Canon :=
  ite h.wr h

theorem Ilpiac.Canon.migrationEnd {g : Migration} (h : m.Canon) : (m.migrationEnd g).Canon :=
  ite h h.besideData.outNow

theorem Ilpiac.Canon.copyUnit {slot unit : Nat} (h : m.Canon) : (m.copyUnit slot unit).Canon := by
  unfold Ilpiac.copyUnit
  split
  · exact h
  · split
    · exact h
    · extract_lets +onlyGivenNames m1 m2 m3
      have h2 : m2.Canon := by
        refine (h.ifThen fun h => h.wakeStack).wakeStack.over fun _ _ h => ?_
        dsimp only
        split
        · split
          · exact h.cwRead.of_snd ‹_› |>.cwWrite
          · exact h.cwRead.of_snd ‹_› |>.cwWrite.lostUnit
        · exact h.cwWrite
      have h3 : m3.Canon := h2.ifElse fun h => h.lostUnit
      clear_value m3
      split
      · exact h3
      · exact ite h3 h3.besideData.wr.migrationEnd

theorem Ilpiac.Canon.lineRead {line : Nat} (h : m.Canon) : (m.lineRead line).2.Canon := by
  unfold Ilpiac.lineRead
  split
  · exact h
  · exact h.wakeStack.cwRead

theorem Ilpiac.Canon.writeAt {line : Nat} (h : m.Canon) : (m.writeAt line).2.Canon := by
  unfold Ilpiac.writeAt
  dsimp only
  split
  · exact h
  · split
    · exact h.copyUnit
    · exact h.copyUnit.wakeStack

theorem Ilpiac.Canon.lineWrite {line : Nat} {full need : Bool} {f : List Byte → List Byte} (h : m.Canon) :
    (m.lineWrite line full need f).2.Canon := by
  unfold Ilpiac.lineWrite
  split
  · exact h.writeAt.of_snd ‹_›
  · split
    · exact h.writeAt.of_snd ‹_› |>.cwWrite
    · split
      · exact h.writeAt.of_snd ‹_› |>.cwRead.of_snd ‹_› |>.cwWrite
      · split
        · exact h.writeAt.of_snd ‹_› |>.cwRead.of_snd ‹_› |>.cwWrite
        · exact h.writeAt.of_snd ‹_› |>.cwRead.of_snd ‹_›

theorem Ilpiac.Canon.setLines {l : List CacheLine} (h : m.Canon) : (m.setLines l).Canon :=
  h.besideData

theorem Ilpiac.Canon.dropLine {line : Nat} (h : m.Canon) : (m.dropLine line).Canon :=
  h.setLines

theorem Ilpiac.Canon.writeBack {c : CacheLine} (h : m.Canon) : (m.writeBack c).Canon :=
  ite h.lineWrite h

theorem Ilpiac.Canon.evictLine {line : Nat} (h : m.Canon) : (m.evictLine line).Canon := by
  unfold Ilpiac.evictLine
  split
  · exact h
  · exact h.dropLine.writeBack

theorem Ilpiac.Canon.allocate {line : Nat} {d : List Byte} {modified keep : Bool} (h : m.Canon) :
    (m.allocate line d modified keep).Canon := by
  unfold Ilpiac.allocate
  dsimp only
  refine setLines ?_
  split
  · exact h.evictLine
  · exact h

theorem Ilpiac.Canon.touch {c : CacheLine} (h : m.Canon) : (m.touch c).Canon :=
  h.dropLine.setLines

theorem Ilpiac.Canon.readLine {line hint : Nat} {spill : Bool} (h : m.Canon) :
    (m.readLine line hint spill).2.Canon := by
  unfold Ilpiac.readLine
  have hr := (h.gcnt (f := F.CACHE_COUNTS_MISSES) (k := 1) (j := 0)).lineRead (line := line)
  generalize ((m.gcnt F.CACHE_COUNTS_MISSES 1).lineRead line) = r at hr ⊢
  split
  · exact h.lineRead
  · cases m.cached line with
    | some c =>
      dsimp only
      split
      · exact ite h.gcnt.dropLine h.gcnt.evictLine
      · split
        · exact h.gcnt
        · exact h.gcnt.touch
    | none =>
      obtain ⟨_ | d, m'⟩ := r
      · exact hr
      · exact ite hr.allocate hr

theorem Ilpiac.Canon.writeLine {line off : Nat} {d : List Byte} {hint : Nat} {through : Bool} (h : m.Canon) :
    (m.writeLine line off d hint through).2.Canon := by
  unfold Ilpiac.writeLine
  extract_lets +onlyGivenNames full put
  have hm := h.gcnt (f := F.CACHE_COUNTS_MISSES) (k := 1) (j := 0)
  generalize m.gcnt F.CACHE_COUNTS_MISSES 1 = m2 at hm ⊢
  have hr := hm.lineRead (line := line)
  split
  · exact h.lineWrite
  · cases m.cached line with
    | some c =>
      dsimp only
      split
      · exact h.gcnt.dropLine.lineWrite.mk_snd
      · split
        · exact ite h.gcnt.lineWrite.touch h.gcnt.lineWrite.dropLine
        · exact h.gcnt.touch
    | none =>
      dsimp only
      generalize m2.lineRead line = r at hr ⊢
      split
      · split
        · exact hm.lineWrite.allocate
        · exact hm.lineWrite
      · split
        · exact hm
        · split
          · exact hm.allocate
          · obtain ⟨_ | d, m'⟩ := r
            · exact hr
            · exact hr.allocate

theorem Ilpiac.Canon.flushCache (h : m.Canon) : m.flushCache.Canon :=
  h.over (fun _ _ h => h.writeBack) |>.setLines

theorem Ilpiac.Canon.memRead {a n hint : Nat} {spill : Bool} (h : m.Canon) : (m.memRead a n hint spill).2.Canon := by
  unfold Ilpiac.memRead
  refine foldl_snd h fun acc x h => ?_
  have hr := h.readLine (line := x.1) (hint := hint) (spill := spill)
  generalize acc.2.readLine x.1 hint spill = r at hr ⊢
  obtain ⟨_ | d, m'⟩ := r
  · exact hr
  · exact hr

theorem Ilpiac.Canon.adder {op a : Nat} {coef : Byte} {src : List Byte} (h : m.Canon) :
    (m.adder op a coef src).2.2.Canon := by
  unfold Ilpiac.adder
  dsimp only
  split
  · split
    · exact h.evictLine.lineRead.of_snd ‹_›
    · exact h.evictLine.lineRead.of_snd ‹_›
  · split
    · exact h.evictLine.lineWrite
    · exact h.evictLine.lineWrite

theorem Ilpiac.Canon.poolStat {i : Nat} (h : m.Canon) : (m.poolStat i).Canon := by
  unfold Ilpiac.poolStat
  split
  · exact h
  · exact ite h.gw.gw h.gw

theorem Ilpiac.Canon.pool0Stat (h : m.Canon) : m.pool0Stat.Canon :=
  ite h.gw.gw h.gw

theorem Ilpiac.Canon.poolRefuse {i : Nat} (h : m.Canon) : (m.poolRefuse i).Canon :=
  h.gcnt

theorem Ilpiac.Canon.poolTakeHere {i a : Nat} (h : m.Canon) (e : m.poolTakeHere i = some (a, m')) : m'.Canon := by
  unfold Ilpiac.poolTakeHere at e
  split at e
  · cases e
  · split at e
    · cases e
    · cases e
      exact h.besideData.poolStat

theorem Ilpiac.Canon.poolTake {i : Nat} (h : m.Canon) : (m.poolTake i).2.Canon := by
  unfold Ilpiac.poolTake
  split
  · exact h.poolRefuse
  · split
    · exact h.poolTakeHere ‹_›
    · split
      · exact h.poolTakeHere ‹_›
      · exact h.poolRefuse

theorem Ilpiac.Canon.spillTake (h : m.Canon) : m.spillTake.2.Canon := by
  unfold Ilpiac.spillTake
  dsimp only
  split
  · exact h
  · split
    · exact h.poolRefuse
    · split
      · exact h.poolTakeHere ‹_›
      · exact h.poolRefuse

theorem Ilpiac.Canon.poolGive {a : Nat} (h : m.Canon) : (m.poolGive a).Canon := by
  unfold Ilpiac.poolGive
  split
  · exact h
  · exact h.besideData.poolStat

theorem Ilpiac.Canon.poolTakeN {i n : Nat} (h : m.Canon) : (m.poolTakeN i n).2.Canon := by
  induction n generalizing m with
  | zero => exact h
  | succ n ih =>
    unfold Ilpiac.poolTakeN
    split
    · exact h.poolTake.of_snd ‹_›
    · have ht := ih (h.poolTake.of_snd ‹_›)
      split
      · exact ht.of_snd ‹_›
      · exact ht.of_snd ‹_› |>.poolGive

theorem Ilpiac.Canon.startChannels {good reserve failed : List Nat} {slotmap : List (Option Nat)} (h : m.Canon) :
    (m.startChannels good reserve failed slotmap).Canon :=
  h.over (fun _ _ h => ite h.wr.wr.wr.wr h.wr.wr.wr.wr) |>.over fun _ _ h => h.wr.countOut

theorem Ilpiac.Canon.hbmStart {failed : List Nat} (h : m.Canon) : (m.hbmStart failed).2.Canon := by
  obtain ⟨layout, hlayout⟩ : ∃ f, f = @Ilpiac.hbmLayout := ⟨_, rfl⟩
  generalize hf : @Ilpiac.hbmStart = f
  delta Ilpiac.hbmStart at hf
  subst hf
  rw [← hlayout]
  beta_reduce
  extract_lets +onlyGivenNames train bad good m1 m2 m3
  have h1 : m1.Canon := ite h.journal.gw h
  have h3 : m3.Canon := (h1.over fun _ _ h => h.recordOut).gw
  clear_value m3
  split
  · exact h3.startChannels.gw.gw.mk_snd
  · refine gw (gw (Canon.over ?_ (fun _ _ h => h.gw.gw)))
    refine release (gw (gw (gw (gw (gw (startChannels ?_))))))
    refine ⟨h3.regs, ?_⟩
    show Memory.wf (if _ then m3.hbm.data else []) = true
    split
    · exact h3.mem
    · rfl

theorem Ilpiac.Canon.hbmStop (h : m.Canon) : m.hbmStop.Canon :=
  h.flushCache.gw

theorem Ilpiac.Canon.scrubRead {ch : Nat} {us : List Upset} (h : m.Canon) : (m.scrubRead ch us).Canon :=
  ite h h.wakeStack.upset.cwRead.besideData

theorem Ilpiac.Canon.remapDone {slot : Nat} (h : m.Canon) : (m.remapDone slot).Canon :=
  h.besideData

theorem Ilpiac.Canon.selfRefresh {s : Nat} (h : m.Canon) : (m.selfRefresh s).Canon :=
  ite h.wr h

/-! ### Packet areas, queues and ports of the switch -/

theorem Ilpiac.Canon.setPort {p : Nat} {x : PortX} (h : m.Canon) : (m.setPort p x).Canon :=
  h.beside

theorem Ilpiac.Canon.setCls {p c : Nat} {x : ClassX} (h : m.Canon) : (m.setCls p c x).Canon :=
  h.setPort

theorem Ilpiac.Canon.setQueue {k : Nat} {l : List QEnt} (h : m.Canon) : (m.setQueue k l).Canon :=
  h.beside

theorem Ilpiac.Canon.setQx {k : Nat} {x : QueueX} (h : m.Canon) : (m.setQx k x).Canon :=
  h.beside

theorem Ilpiac.Canon.qw {k : Nat} {f : Fld} {v : Nat} (h : m.Canon) : (m.qw k f v).Canon :=
  h.wr

theorem Ilpiac.Canon.setPortState {p st : Nat} (h : m.Canon) : (m.setPortState p st).Canon :=
  ite h h.pw.gw.event

theorem Ilpiac.Canon.sieveLevel (h : m.Canon) : m.sieveLevel.Canon :=
  ite h.event h

theorem Ilpiac.Canon.capture {ev port : Nat} {p : Packet} (h : m.Canon) : (m.capture ev port p).Canon := by
  unfold Ilpiac.capture
  split
  · exact h
  · split
    · exact h.beside
    · dsimp only
      split
      · exact h.beside.gcnt
      · split
        · exact h.beside.gcnt.windowRefusal
        · exact h.beside.boardWrite.gw.gcnt.sieveLevel

theorem Ilpiac.Canon.misaddressed {port : Nat} {p : Packet} (h : m.Canon) : (m.misaddressed port p).Canon :=
  h.pcnt.capture

theorem Ilpiac.Canon.crcDiscard {port : Nat} {p : Packet} (h : m.Canon) : (m.crcDiscard port p).Canon :=
  h.pcnt.capture

theorem Ilpiac.Canon.recount (h : m.Canon) : m.recount.Canon :=
  h.gw

theorem Ilpiac.Canon.areaTake {a : Area} {tc n : Nat} (h : m.Canon) : (m.areaTake a tc n).Canon := by
  unfold Ilpiac.areaTake
  split
  · exact h.beside
  · exact h.gw
  · exact h.gw
  · exact h.gw.recount
  · exact h
  · exact h

theorem Ilpiac.Canon.areaGive {a : Area} {tc n : Nat} (h : m.Canon) : (m.areaGive a tc n).Canon := by
  unfold Ilpiac.areaGive
  split
  · exact h.beside
  · exact h.gw
  · exact h.gw
  · exact h.gw.recount
  · exact h
  · exact h

theorem Ilpiac.Canon.setBuf {id : Nat} {f : BufPkt → BufPkt} (h : m.Canon) : (m.setBuf id f).Canon :=
  h.beside

theorem Ilpiac.Canon.store {p : Packet} {a : Area} {ingress : Nat} {held : Bool} {land : Option (Nat × Nat)}
      {hose : Option Nat} {crcBad : Bool} (h : m.Canon) :
    (m.store p a ingress held land hose crcBad).2.Canon :=
  h.areaTake.beside

theorem Ilpiac.Canon.landFree {b : BufPkt} (h : m.Canon) : (m.landFree b).Canon := by
  unfold Ilpiac.landFree
  split
  · exact h
  · exact h.setCls

theorem Ilpiac.Canon.reap {id : Nat} (h : m.Canon) : (m.reap id).Canon := by
  unfold Ilpiac.reap
  split
  · exact h
  · exact ite h.beside.landFree.areaGive h

theorem Ilpiac.Canon.unhold {id : Nat} (h : m.Canon) : (m.unhold id).Canon :=
  h.setBuf.reap

theorem Ilpiac.Canon.unref {id : Nat} (h : m.Canon) : (m.unref id).Canon :=
  h.setBuf.reap

theorem Ilpiac.Canon.moveArea {id : Nat} {a : Area} (h : m.Canon) : (m.moveArea id a).Canon := by
  unfold Ilpiac.moveArea
  split
  · exact h
  · exact h.areaGive.landFree.areaTake.setBuf

theorem Ilpiac.Canon.wake {p : Nat} {before : List Nat} (h : m.Canon) : (m.wake p before).Canon :=
  h.over (fun _ _ h => h.qw) |>.over fun _ _ h => h.setCls

theorem Ilpiac.Canon.waking {p : Nat} {f : Ilpiac → Ilpiac} (h : m.Canon) (hf : ∀ m, m.Canon → (f m).Canon) :
    (m.waking p f).Canon := (hf m h).wake

theorem Ilpiac.Canon.qstat {k : Nat} (h : m.Canon) : (m.qstat k).Canon :=
  h.qw.qw.qw.qw.qw.qw

theorem Ilpiac.Canon.enqAt {port q id : Nat} (h : m.Canon) : (m.enqAt port q id).Canon := by
  unfold Ilpiac.enqAt
  split
  · exact h
  · split
    · exact (ite h.capture h).reap
    · exact h.waking fun _ h => h.setBuf.setQueue.beside.qstat

theorem Ilpiac.Canon.enq {port id : Nat} (h : m.Canon) : (m.enq port id).Canon := by
  unfold Ilpiac.enq
  split
  · exact h
  · exact h.enqAt

theorem Ilpiac.Canon.dropFrom {k : Nat} {p : QEnt → Bool} {ev : Option Nat} (h : m.Canon) :
    (m.dropFrom k p ev).Canon := by
  unfold Ilpiac.dropFrom
  refine ifElse (h.setQueue.over fun _ _ h => ?_) fun h => h.qstat
  split
  · exact h
  · refine unref ?_
    split
    · exact h.capture
    · exact h

theorem Ilpiac.Canon.emit {port : Nat} {p : Packet} {a : Area} {ingress : Nat} (h : m.Canon) :
    (m.emit port p a ingress).Canon :=
  ite h h.store.enq.reap

theorem Ilpiac.Canon.sharedRoom {c n : Nat} (h : m.Canon) (e : m.sharedRoom c n = some m') : m'.Canon := by
  unfold Ilpiac.sharedRoom at e
  split at e
  · cases e
    exact h
  · dsimp only at e
    split at e
    · cases e
    · cases e
      exact h.over fun _ _ h => h.dropFrom.gcnt

theorem Ilpiac.Canon.toShared {id port : Nat} (h : m.Canon) (e : m.toShared id port = some m') : m'.Canon := by
  unfold Ilpiac.toShared at e
  split at e
  · cases e
  · split at e
    · cases e
    · cases e
      exact h.sharedRoom ‹_› |>.moveArea.enq.reap

theorem Ilpiac.Canon.emitShared {port : Nat} {p : Packet} (h : m.Canon) : (m.emitShared port p).Canon := by
  unfold Ilpiac.emitShared
  split
  · exact h
  · exact h.sharedRoom ‹_› |>.store.enq.reap

theorem Ilpiac.Canon.sojourn {k ns : Nat} (h : m.Canon) : (m.sojourn k ns).Canon :=
  ite h.qw.pw.pw.gw.event h.qw.pw

theorem Ilpiac.Canon.spendTokens {k size : Nat} (h : m.Canon) : (m.spendTokens k size).Canon :=
  ite (ite h h.setQx) (ite h h.setQx).setPort

theorem Ilpiac.Canon.spendCredit {port : Nat} {p : Packet} (h : m.Canon) : (m.spendCredit port p).Canon :=
  ite h.setCls h

theorem Ilpiac.Canon.depart {port : Nat} {p : Packet} (h : m.Canon) : (m.depart port p).2.Canon := by
  unfold Ilpiac.depart
  split
  · exact h
  · split
    · exact h.beside
    · exact h

theorem Ilpiac.Canon.serve {k : Nat} (h : m.Canon) : (m.serve k).Canon := by
  unfold Ilpiac.serve
  split
  · exact h
  · split
    · exact h.setQueue
    · dsimp only
      refine setPort (depart (qstat (sojourn (ite ?_ ?_))))
      · exact h.setQueue.spendTokens.spendCredit.setCls
      · exact h.setQueue.spendTokens.spendCredit.pw.setQx.setCls.ifThen (fun h => h.qw) |>.ifThen fun h => h.setCls

theorem Ilpiac.Canon.sendOpportunity {p : Nat} (h : m.Canon) : (m.sendOpportunity p).Canon := by
  unfold Ilpiac.sendOpportunity
  split
  · exact h
  · split
    · exact h.serve
    · exact h

theorem Ilpiac.Canon.transmitComplete {p : Nat} (h : m.Canon) : (m.transmitComplete p).Canon := by
  unfold Ilpiac.transmitComplete
  split
  · exact h
  · exact (ite h.setPort.wrapCnt.pcnt h.setPort.wrapCnt).capture.unref

theorem Ilpiac.Canon.stompTx {p : Nat} (h : m.Canon) : (m.stompTx p).Canon := by
  unfold Ilpiac.stompTx
  split
  · exact h
  · exact h.setPort

theorem Ilpiac.Canon.fenceQueues {p : Nat} (h : m.Canon) : (m.fenceQueues p).Canon := by
  unfold Ilpiac.fenceQueues
  dsimp only
  split
  · exact h.pw.over (fun _ _ h => h.dropFrom) |>.ifElse fun h => h.stompTx
  · exact h.pw.over fun _ _ h => h.dropFrom

theorem Ilpiac.Canon.flushPort {p : Nat} (h : m.Canon) : (m.flushPort p).Canon := by
  unfold Ilpiac.flushPort
  dsimp only
  split
  · refine h.over (fun _ _ h => ?_) |>.over (fun _ _ h => h.dropFrom) |>.setPort.unref
    split
    · exact h
    · split
      · exact h.cnt
      · exact h.pcnt
  · refine h.over (fun _ _ h => ?_) |>.over fun _ _ h => h.dropFrom
    split
    · exact h
    · split
      · exact h.cnt
      · exact h.pcnt

theorem Ilpiac.Canon.setPolx {p i : Nat} {x : PolX} (h : m.Canon) : (m.setPolx p i x).Canon :=
  h.setPort

theorem Ilpiac.Canon.tickPort {p : Nat} (h : m.Canon) : (m.tickPort p).Canon :=
  h.waking fun _ h => h.over (fun _ _ h => h.setQx.qstat) |>.ifElse (fun h => h.setPort) |>.over fun _ _ h => h.setPolx

theorem Ilpiac.Canon.queueShaped {k was : Nat} (h : m.Canon) : (m.queueShaped k was).Canon :=
  h.waking fun _ h => h.setQx.qstat

theorem Ilpiac.Canon.portShaped {p was : Nat} (h : m.Canon) : (m.portShaped p was).Canon :=
  h.waking fun _ h => h.setPort

theorem Ilpiac.Canon.policerFull {p i : Nat} (h : m.Canon) : (m.policerFull p i).Canon :=
  ite h.setPolx h.setPolx

theorem Ilpiac.Canon.police1 {p i k size : Nat} (h : m.Canon) : (m.police1 p i k size).1.Canon := by
  unfold Ilpiac.police1
  dsimp only
  split
  · exact h
  · exact ite h.setPolx.pcnt (ite h.setPolx.pcnt h.setPolx.pcnt)

theorem Ilpiac.Canon.police {p : Nat} {k : Packet} (h : m.Canon) : (m.police p k).1.Canon := by
  unfold Ilpiac.police
  split
  · exact h
  · dsimp only
    split
    · exact h.police1.police1
    · exact h.police1

/-! ### Relays, trunks and hoses -/

theorem Ilpiac.Canon.setMask {bed mask : Nat} (h : m.Canon) : (m.setMask bed mask).Canon :=
  ite h (h.over (fun _ _ h => h.gw)).gw.gw

theorem Ilpiac.Canon.datagram {id : Nat} (h : m.Canon) : (m.datagram id).Canon := by
  unfold Ilpiac.datagram
  split
  · exact h
  · split
    · exact h.enq
    · exact h.gcnt

theorem Ilpiac.Canon.sendDatagram {p : Packet} {a : Area} (h : m.Canon) : (m.sendDatagram p a).Canon :=
  ite h h.store.datagram.reap

theorem Ilpiac.Canon.sendOn {k : Nat} {p : Packet} (h : m.Canon) : (m.sendOn k p).Canon :=
  h.emit

theorem Ilpiac.Canon.setHx {x1 : Nat} {x : HoseX} (h : m.Canon) : (m.setHx x1 x).Canon :=
  h.beside

theorem Ilpiac.Canon.hw {x1 : Nat} {f : Fld} {v : Nat} (h : m.Canon) : (m.hw x1 f v).Canon :=
  h.wr

theorem Ilpiac.Canon.countHoses (h : m.Canon) : m.countHoses.Canon :=
  h.gw

theorem Ilpiac.Canon.takeHose {x1 role tc dstBed out comm qoff hops path window : Nat} {x : HoseX} (h : m.Canon) :
    (m.takeHose x1 role tc dstBed out comm qoff hops path window x).Canon :=
  h.hw.hw.hw.hw.hw.hw.hw.hw.hw.hw.hw.hw.hw.hw.hw.hw.setHx.countHoses.recount

theorem Ilpiac.Canon.freeHoseEntry {x1 : Nat} (h : m.Canon) : (m.freeHoseEntry x1).Canon :=
  h.beside.setReg.setReg.setReg.setHx.countHoses.recount

theorem Ilpiac.Canon.hoseForward {x1 : Nat} {p : Packet} {ingress : Nat} {crcBad : Bool} (h : m.Canon) :
    (m.hoseForward x1 p ingress crcBad).Canon :=
  ite h.cnt h.store.enqAt.reap.wrapCnt

theorem Ilpiac.Canon.hoseInject {x1 : Nat} {p : Packet} (h : m.Canon) : (m.hoseInject x1 p).Canon :=
  h.hw.hoseForward

theorem Ilpiac.Canon.hosePump {x n : Nat} (h : m.Canon) : (m.hosePump x n).Canon := by
  induction n generalizing m with
  | zero => exact h
  | succ n ih =>
    unfold Ilpiac.hosePump
    split
    · exact h
    · split
      · exact ih h.setHx.hoseInject
      · exact h

theorem Ilpiac.Canon.pumpHose {x1 : Nat} (h : m.Canon) : (m.pumpHose x1).Canon :=
  h.hosePump

theorem Ilpiac.Canon.hoseSpill {x1 : Nat} (h : m.Canon) : (m.hoseSpill x1).Canon := by
  unfold Ilpiac.hoseSpill
  dsimp only
  refine h.setHx.over fun _ _ h => ?_
  split
  · exact h.datagram
  · exact h.sendDatagram

theorem Ilpiac.Canon.sendTrunk {p : Packet} {buf : Option Nat} {a : Area} (h : m.Canon) :
    (m.sendTrunk p buf a).Canon := by
  unfold Ilpiac.sendTrunk
  split
  · exact h.setHx.pumpHose
  · split
    · exact h.datagram
    · exact h.sendDatagram

theorem Ilpiac.Canon.newSetup {x1 : Nat} (h : m.Canon) : (m.newSetup x1).2.Canon :=
  h.beside

theorem Ilpiac.Canon.startSetup {x1 : Nat} (h : m.Canon) : (m.startSetup x1).Canon :=
  h.newSetup.setHx.sendOn

theorem Ilpiac.Canon.hoseOpen {d : AccDesc} (h : m.Canon) : (m.hoseOpen d).Canon := by
  unfold Ilpiac.hoseOpen
  dsimp only
  split
  · exact h.done
  · exact ite h.done (ite h.done (ite h.done h.takeHose.startSetup))

theorem Ilpiac.Canon.hoseDone {desc : Option (Nat × Nat)} {status : Nat} (h : m.Canon) :
    (m.hoseDone desc status).Canon := by
  unfold Ilpiac.hoseDone
  split
  · exact h
  · split
    · exact h.done
    · exact h

theorem Ilpiac.Canon.setupFailed {x1 status : Nat} (h : m.Canon) : (m.setupFailed x1 status).Canon :=
  ite h.hw.hoseSpill h.hoseSpill.freeHoseEntry.hoseDone

theorem Ilpiac.Canon.hoseSetupRx {port : Nat} {p : Packet} (h : m.Canon) : (m.hoseSetupRx port p).Canon := by
  unfold Ilpiac.hoseSetupRx
  dsimp only
  split
  · split
    · exact h.sendOn
    · split
      · exact h.sendOn
      · exact ite h.sendOn (ite h.sendOn h.takeHose.hw.sendOn)
  · split
    · exact h.sendOn
    · split
      · exact h.sendOn
      · exact ite h.sendOn (ite h.sendOn h.takeHose.sendOn)

theorem Ilpiac.Canon.hoseReplyRx {p : Packet} (h : m.Canon) : (m.hoseReplyRx p).Canon := by
  unfold Ilpiac.hoseReplyRx
  dsimp only
  split
  · split
    · exact h
    · exact h.beside.hoseDone
  · split
    · exact h
    · split
      · exact ite h.hw.hw.setHx.hoseDone.pumpHose h.hw.hw.sendOn
      · exact ite h.setupFailed h.freeHoseEntry.sendOn

theorem Ilpiac.Canon.hoseSetupTimeout {x1 : Nat} (h : m.Canon) : (m.hoseSetupTimeout x1).Canon :=
  ite h (ite h.setupFailed (ite h.freeHoseEntry h))

theorem Ilpiac.Canon.hoseClose {d : AccDesc} (h : m.Canon) : (m.hoseClose d).Canon :=
  ite h.done (ite h.done h.hw.setHx.hoseSpill)

theorem Ilpiac.Canon.hoseTearSend {x1 : Nat} (h : m.Canon) : (m.hoseTearSend x1).Canon := by
  unfold Ilpiac.hoseTearSend
  dsimp only
  split
  · split
    · exact h
    · exact h.hoseForward.freeHoseEntry.beside
  · exact h

theorem Ilpiac.Canon.hoseCloseTimeout {x1 : Nat} (h : m.Canon) : (m.hoseCloseTimeout x1).Canon := by
  unfold Ilpiac.hoseCloseTimeout
  split
  · exact h
  · exact h.beside.hoseDone

theorem Ilpiac.Canon.hoseTearRx {p : Packet} {port : Nat} (h : m.Canon) : (m.hoseTearRx p port).Canon :=
  ite h.hoseForward.freeHoseEntry (ite h.freeHoseEntry.sendDatagram h)

theorem Ilpiac.Canon.hoseOrphan {x1 : Nat} (h : m.Canon) : (m.hoseOrphan x1).Canon :=
  ite h.freeHoseEntry h

theorem Ilpiac.Canon.sinkConsume {x1 n : Nat} (h : m.Canon) : (m.sinkConsume x1 n).Canon :=
  h.hw

theorem Ilpiac.Canon.hoseMarkRx {p : Packet} {port : Nat} (h : m.Canon) : (m.hoseMarkRx p port).Canon :=
  ite h.hoseForward (ite h.hw.sinkConsume.hw.sinkConsume.wrapCnt h)

theorem Ilpiac.Canon.hoseWindowRx {p : Packet} (h : m.Canon) : (m.hoseWindowRx p).Canon :=
  ite h.hw.pumpHose h

theorem Ilpiac.Canon.hoseMarkSend {x1 : Nat} (h : m.Canon) : (m.hoseMarkSend x1).Canon :=
  ite h.hoseInject h

theorem Ilpiac.Canon.hoseWindowSend {x1 : Nat} (h : m.Canon) : (m.hoseWindowSend x1).Canon :=
  ite h.setHx.sendDatagram h

theorem Ilpiac.Canon.reroute {x : Nat} (h : m.Canon) : (m.reroute x).Canon := by
  obtain ⟨newPath, hpath⟩ : ∃ f, f = @Ilpiac.newPath := ⟨_, rfl⟩
  generalize hf : @Ilpiac.reroute = f
  delta Ilpiac.reroute at hf
  subst hf
  rw [← hpath]
  dsimp only
  split
  · exact h.hw.gcnt.cnt.setHx.hoseForward.setupFailed
  · exact h.hw.gcnt.cnt.setHx.hoseForward.setupFailed
  · exact h.hw.gcnt.cnt.setHx.hoseForward.hw.hw.hw.setReg.startSetup

theorem Ilpiac.Canon.checkHoses (h : m.Canon) : m.checkHoses.Canon :=
  ite (h.over (fun _ _ h => ite h.reroute h)) h

theorem Ilpiac.Canon.ownTrunks (h : m.Canon) : m.ownTrunks.Canon :=
  h.setMask.checkHoses

theorem Ilpiac.Canon.trunkStateSend (h : m.Canon) : m.trunkStateSend.Canon :=
  ite (h.beside.over (fun _ _ h => h.sendOn)) h

theorem Ilpiac.Canon.trunkStateRx {port : Nat} {p : Packet} (h : m.Canon) : (m.trunkStateRx port p).Canon :=
  ite (h.beside.setMask.over (fun _ _ h => h.sendOn)).checkHoses h

/-! ### Twins -/

theorem Ilpiac.Canon.diverge {key : List Word} {own partner : Nat} (h : m.Canon) :
    (m.diverge key own partner).Canon :=
  ite h h.gw.gw.gw.gw.gw.gw.gw.gw.gw.raise

theorem Ilpiac.Canon.compareTwin {key : List Word} {own partner : Nat} (h : m.Canon) :
    (m.compareTwin key own partner).Canon :=
  ite h.gw h.gw.diverge

theorem Ilpiac.Canon.twinOwn {ty : Nat} {hs : List Nat} {body : List Byte} (h : m.Canon) :
    (m.twinOwn ty hs body).Canon := by
  unfold Ilpiac.twinOwn
  split
  · exact h
  · dsimp only
    split
    · exact h.beside.compareTwin
    · exact h.beside

theorem Ilpiac.Canon.twinPartner {r : TwinRec} (h : m.Canon) : (m.twinPartner r).Canon := by
  unfold Ilpiac.twinPartner
  split
  · exact h.beside.compareTwin
  · exact h.beside

theorem Ilpiac.Canon.twinTimeout {n : Nat} (h : m.Canon) : (m.twinTimeout n).Canon := by
  unfold Ilpiac.twinTimeout
  split
  · exact h
  · split
    · exact h
    · exact ite h.beside.diverge h.beside.diverge

/-! ### Communicators and retained copies -/

theorem Ilpiac.Canon.updComm {id : Nat} {f : Comm → Comm} (h : m.Canon) : (m.updComm id f).Canon :=
  h.beside

theorem Ilpiac.Canon.updColl {k : CollId} {f : Coll → Coll} (h : m.Canon) : (m.updColl k f).Canon :=
  h.beside

theorem Ilpiac.Canon.updCtx {x : CtxId} {f : Ctx → Ctx} (h : m.Canon) : (m.updCtx x f).Canon :=
  h.beside

theorem Ilpiac.Canon.count {comm : Nat} {f : CommCounts → CommCounts} (h : m.Canon) : (m.count comm f).Canon :=
  h.updComm

theorem Ilpiac.Canon.setInfo {k : CollId} {b : Nat} (h : m.Canon) : (m.setInfo k b).Canon :=
  h.updColl

theorem Ilpiac.Canon.dstOf {dests : List Nat} (h : m.Canon) : (m.dstOf dests).2.Canon := by
  unfold Ilpiac.dstOf
  split
  · exact h
  · exact h.draw

theorem Ilpiac.Canon.retainSweep (h : m.Canon) : m.retainSweep.Canon :=
  h.beside.over fun _ _ h => h.unhold

theorem Ilpiac.Canon.retainCopy {k : CollId} {part expert index : Nat} {p : Packet} {dests : List Nat} (h : m.Canon) :
    (m.retainCopy k part expert index p dests).Canon :=
  h.store.beside.over (fun _ _ h => h.enq) |>.retainSweep

theorem Ilpiac.Canon.relayTo {relay plane : Nat} {p : Packet} (h : m.Canon) : (m.relayTo relay plane p).Canon :=
  h.emitShared

theorem Ilpiac.Canon.sendCopy {t : TrunkCopy} (h : m.Canon) : (m.sendCopy t).Canon := by
  unfold Ilpiac.sendCopy
  dsimp only
  split
  · exact ite (ite h.setInfo h).sendTrunk (ite h.setInfo h).relayTo
  · exact ite h.sendTrunk h.relayTo

theorem Ilpiac.Canon.startCopy {t : TrunkCopy} (h : m.Canon) (e : m.startCopy t = some m') : m'.Canon := by
  unfold Ilpiac.startCopy at e
  split at e
  · cases e
    exact h.store.beside.sendCopy
  · cases e

theorem Ilpiac.Canon.drainTrunk {n : Nat} (h : m.Canon) : (m.drainTrunk n).Canon := by
  induction n generalizing m with
  | zero => exact h
  | succ n ih =>
    unfold Ilpiac.drainTrunk
    split
    · exact h
    · split
      · exact h
      · exact ih (h.startCopy ‹_›).beside

theorem Ilpiac.Canon.transfer {p : Packet} {bed plane : Nat} {k : Option CollId} {group : Option Nat}
      {writer : Option CollId} (h : m.Canon) :
    (m.transfer p bed plane k group writer).Canon :=
  h.beside.drainTrunk

theorem Ilpiac.Canon.transferColl {k : CollId} {ty bed : Nat} {hs : List Nat} {body : List Byte} (h : m.Canon) :
    (m.transferColl k ty bed hs body).Canon :=
  h.transfer

theorem Ilpiac.Canon.releaseCopy {id : Nat} (h : m.Canon) : (m.releaseCopy id).Canon :=
  h.beside.unhold

theorem Ilpiac.Canon.tack {p : Packet} {plane : Nat} {group : Option Nat} (h : m.Canon) :
    (m.tack p plane group).Canon :=
  ite h.sendDatagram h.relayTo

theorem Ilpiac.Canon.unqueue {k : CollId} (h : m.Canon) : (m.unqueue k).Canon :=
  h.beside

theorem Ilpiac.Canon.failColl {k : CollId} {status : Nat} {fault : Option (Nat × Nat)} (h : m.Canon) :
    (m.failColl k status fault).Canon := by
  unfold Ilpiac.failColl
  split
  · exact h
  · exact ite h h.updColl.unqueue

theorem Ilpiac.Canon.dropDest {addr : Nat} {p : Retained → Bool} (h : m.Canon) : (m.dropDest addr p).Canon :=
  h.beside.retainSweep

theorem Ilpiac.Canon.undeliver {k : CollId} {addr status : Nat} (h : m.Canon) :
    (m.undeliver k addr status).Canon := by
  unfold Ilpiac.undeliver
  split
  · exact h
  · exact ite h.updColl.dropDest h

theorem Ilpiac.Canon.memberLost {k : CollId} {addr status : Nat} (h : m.Canon) :
    (m.memberLost k addr status).Canon := by
  unfold Ilpiac.memberLost
  split
  · exact h
  · exact ite h.undeliver h.failColl

theorem Ilpiac.Canon.countReplay {k : CollId} (h : m.Canon) : (m.countReplay k).Canon :=
  h.count.setInfo

theorem Ilpiac.Canon.retentionTimeout {id addr : Nat} (h : m.Canon) : (m.retentionTimeout id addr).Canon := by
  unfold Ilpiac.retentionTimeout
  split
  · exact h
  · split
    · exact h
    · exact ite h.beside.enq.countReplay h.memberLost.dropDest

theorem Ilpiac.Canon.ackRx {port : Nat} {p : Packet} (h : m.Canon) : (m.ackRx port p).Canon :=
  h.beside.retainSweep

/-! ### Cloche shards and deltas -/

theorem Ilpiac.Canon.updGroup {id : Nat} {f : Group → Group} (h : m.Canon) : (m.updGroup id f).Canon :=
  h.beside

theorem Ilpiac.Canon.clocheSend {g : Group} {ty : Nat} {dest : Nat × Nat} {hs : List Nat} {body : List Byte}
      {by_ : Option CollId} (h : m.Canon) :
    (m.clocheSend g ty dest hs body by_).Canon :=
  h.transfer

theorem Ilpiac.Canon.sendDelta {g : Group} {pos j off : Nat} {keeper : Option (Nat × Nat)} {missing : Bool}
      {d : List Byte} {by_ : Option CollId} (h : m.Canon) :
    (m.sendDelta g pos j off keeper missing d by_).Canon := by
  unfold Ilpiac.sendDelta
  split
  · exact h
  · exact ite h h.updGroup.clocheSend

theorem Ilpiac.Canon.formDelta {gid o : Nat} {old new : List Byte} {by_ : Option CollId} (h : m.Canon) :
    (m.formDelta gid o old new by_).Canon := by
  unfold Ilpiac.formDelta
  dsimp only
  split
  · exact h
  · split
    · exact h
    · exact ite h (ite h.sendDelta.sendDelta h.sendDelta)

theorem Ilpiac.Canon.loseStripe {gid s : Nat} (h : m.Canon) : (m.loseStripe gid s).Canon :=
  h.updGroup

theorem Ilpiac.Canon.setStamp {gid v : Nat} (h : m.Canon) : (m.setStamp gid v).Canon := by
  unfold Ilpiac.setStamp
  split
  · exact h
  · split
    · exact h
    · exact ite h (h.updGroup.over (fun _ _ h => h.clocheSend))

theorem Ilpiac.Canon.afterWrite {sh : Option (Group × Nat)} {w : Wrote} {by_ : Option CollId} (h : m.Canon) :
    (m.afterWrite sh w by_).Canon := by
  unfold Ilpiac.afterWrite
  split
  · exact h
  · split
    · exact h
    · dsimp only
      refine setStamp ?_
      split
      · exact h.formDelta
      · exact h.loseStripe

theorem Ilpiac.Canon.memWrite {a : Nat} {d : List Byte} {hint : Nat} {by_ : Option CollId} (h : m.Canon) :
    (m.memWrite a d hint by_).2.Canon := h.foldl_snd (p := (true, m)) fun _ _ h => h.writeLine.afterWrite

theorem Ilpiac.Canon.memAdd {op a : Nat} {coef : Byte} {src : List Byte} (h : m.Canon) :
    (m.memAdd op a coef src).2.Canon := by
  unfold Ilpiac.memAdd
  dsimp only
  split
  · exact h.adder
  · exact h.adder.afterWrite

theorem Ilpiac.Canon.plainWrite {a : Nat} {d : List Byte} {hint : Nat} (h : m.Canon) :
    (m.plainWrite a d hint).2.Canon := h.foldl_snd (p := (true, m)) fun _ _ h => h.writeLine

theorem Ilpiac.Canon.zeroRange {a n : Nat} (h : m.Canon) : (m.zeroRange a n).Canon :=
  h.over fun _ _ h => h.plainWrite

theorem Ilpiac.Canon.foldDelta {g : Group} {p : Piece} {pos off : Nat} {d : List Byte} (h : m.Canon) :
    (m.foldDelta g p pos off d).Canon := by
  unfold Ilpiac.foldDelta
  dsimp only
  split
  · exact h.memAdd.updGroup
  · exact h.memAdd.loseStripe

theorem Ilpiac.Canon.recordMissing {gid : Nat} {x : Nat × Nat} (h : m.Canon) : (m.recordMissing gid x).Canon := by
  unfold Ilpiac.recordMissing
  split
  · exact h
  · exact h.beside.over (fun _ _ h => h.releaseCopy) |>.updGroup

theorem Ilpiac.Canon.settleDelta {gid : Nat} (h : m.Canon) : (m.settleDelta gid).Canon :=
  h.updGroup

theorem Ilpiac.Canon.stampShards {comm v : Nat} (h : m.Canon) : (m.stampShards comm v).Canon :=
  h.over fun _ _ h => h.setStamp

/-! ### Furrows, cells and combining -/

theorem Ilpiac.Canon.updRouting {k : CollId} {seq : Nat} {f : Routing → Routing} (h : m.Canon) :
    (m.updRouting k seq f).Canon :=
  h.updComm

theorem Ilpiac.Canon.quotaFlow (h : m.Canon) : m.quotaFlow.Canon := by
  unfold Ilpiac.quotaFlow
  dsimp only
  refine h.over (fun _ _ h => ?_) |>.over fun _ _ h => ?_
  · split
    · exact h
    · exact ite h h.updComm
  · split
    · exact h
    · split
      · exact h
      · exact h.updComm

theorem Ilpiac.Canon.rmStat (h : m.Canon) : m.rmStat.Canon :=
  h.pool0Stat.gw.gw.gw

theorem Ilpiac.Canon.setFx {f : Nat} {x : FurrowX} (h : m.Canon) : (m.setFx f x).Canon :=
  h.beside

theorem Ilpiac.Canon.furrowCount {f : Nat} (h : m.Canon) : (m.furrowCount f).Canon :=
  h.wr

theorem Ilpiac.Canon.issue {x : CtxId} (h : m.Canon) : (m.issue x).Canon := by
  unfold Ilpiac.issue
  split
  · exact h
  · exact ite h h.setFx

theorem Ilpiac.Canon.unissue {x : CtxId} (h : m.Canon) : (m.unissue x).Canon := by
  unfold Ilpiac.unissue
  split
  · exact h
  · exact h.setFx

theorem Ilpiac.Canon.retireFurrow {f : Nat} (h : m.Canon) : (m.retireFurrow f).Canon :=
  ite h h.wr.gw.setFx.raise

theorem Ilpiac.Canon.moveContexts {f : Nat} (h : m.Canon) : (m.moveContexts f).Canon := by
  unfold Ilpiac.moveContexts
  dsimp only
  split
  · refine h.over (fun _ _ h => ?_) |>.furrowCount.setFx
    split
    · exact h
    · split
      · exact h.unissue.updCtx.furrowCount.ifElse fun h => h.issue
      · exact h.unissue.updCtx.furrowCount
  · refine h.over (fun _ _ h => ?_) |>.furrowCount
    split
    · exact h
    · split
      · exact h.unissue.updCtx.furrowCount.ifElse fun h => h.issue
      · exact h.unissue.updCtx.furrowCount

theorem Ilpiac.Canon.retireCell {f cell : Nat} (h : m.Canon) : (m.retireCell f cell).Canon := by
  unfold Ilpiac.retireCell
  dsimp only
  split
  · exact h.wr.setFx.wr
  · exact h.wr.retireFurrow
  · exact h.wr

theorem Ilpiac.Canon.recordFail {f store : Nat} {b : Mismatch} (h : m.Canon) : (m.recordFail f store b).Canon :=
  h.cnt.wr.wr.wr.wr

theorem Ilpiac.Canon.freeContrib {b : Contrib} (h : m.Canon) : (m.freeContrib b).Canon :=
  h.unhold

theorem Ilpiac.Canon.noteRun {x : CtxId} {sats : Nat} {nf : Bool} (h : m.Canon) : (m.noteRun x sats nf).Canon := by
  unfold Ilpiac.noteRun
  dsimp only
  split
  · exact (ite h.updCtx.updColl h.updCtx.updColl.setInfo).setInfo
  · exact ite h.updCtx.updColl h.updCtx.updColl.setInfo

theorem Ilpiac.Canon.noteSide {k : CollId} {pos : Nat} {vals : List F32} (h : m.Canon) :
    (m.noteSide k pos vals).Canon :=
  h.updColl

theorem Ilpiac.Canon.noteSideVals {k : CollId} {key : Nat} {vals : List F32} (h : m.Canon) :
    (m.noteSideVals k key vals).Canon :=
  h.updColl

theorem Ilpiac.Canon.giveLocal {k : CollId} {r : ResChunk} {dests : List Nat}
      (h : m.Canon) (e : m.giveLocal k r dests = some m') :
    m'.Canon := by
  unfold Ilpiac.giveLocal at e
  split at e
  · cases e
    exact h
  · dsimp only at e
    split at e
    · cases e
      exact h
    · split at e
      · cases e
        exact h.dstOf.retainCopy
      · cases e

theorem Ilpiac.Canon.sendResult {k : CollId} {r : ResChunk} {dests : List Nat}
      (h : m.Canon) (e : m.sendResult k r dests = some m') :
    m'.Canon := by
  unfold Ilpiac.sendResult at e
  dsimp only at e
  split at e
  · cases e
  · cases e
    exact h.giveLocal ‹_› |>.over fun _ _ h => h.transferColl

theorem Ilpiac.Canon.deliver {k : CollId} {r : ResChunk} {dests : List Nat} (h : m.Canon) :
    (m.deliver k r dests).Canon := by
  unfold Ilpiac.deliver
  extract_lets +onlyGivenNames m1 hs m2 m3
  have h3 : m3.Canon := h.updColl.ifThen (fun h => h.twinOwn) |>.ifThen fun h => h.twinOwn
  clear_value m3
  split
  · exact h3
  · dsimp only
    split
    · exact h3.beside
    · split
      · exact h3.sendResult ‹_›
      · exact h3.beside

theorem Ilpiac.Canon.drainHeld (h : m.Canon) : m.drainHeld.Canon := by
  unfold Ilpiac.drainHeld
  refine h.over fun _ _ h => ?_
  split
  · exact h.beside
  · split
    · exact h
    · split
      · exact h.sendResult ‹_› |>.beside
      · exact h

theorem Ilpiac.Canon.emitChunks {x : CtxId} (h : m.Canon) : (m.emitChunks x).Canon := by
  unfold Ilpiac.emitChunks
  split
  · dsimp only
    refine h.over fun _ _ h => ?_
    split
    · exact h
    · split
      · exact h
      · split
        · exact h
        · exact h.updCtx.noteRun.deliver
  · exact h

theorem Ilpiac.Canon.emitTokens {x : CtxId} (h : m.Canon) : (m.emitTokens x).Canon := by
  unfold Ilpiac.emitTokens
  split
  · split
    · exact h
    · exact h.over fun _ _ h => ite h h.updColl.noteRun.deliver
  · exact h

theorem Ilpiac.Canon.residualFor {comm tensor k node col : Nat} {r : Residual}
      (h : m.Canon) (e : m.residualFor comm tensor k node col = some (r, m')) :
    m'.Canon := by
  unfold Ilpiac.residualFor at e
  have hp := h.poolTake (i := 2)
  generalize m.poolTake 2 = p at hp e
  split at e
  · cases e
    exact h
  · obtain ⟨_ | a, m1⟩ := p
    · cases e
    · dsimp only at e
      have hw := hp.memWrite (a := a) (d := List.replicate 4096 0) (hint := hintNormal) (by_ := none)
      generalize m1.memWrite a (List.replicate 4096 0) hintNormal = w at hw e
      split at e
      · cases e
        exact hw.updComm
      · cases e

theorem Ilpiac.Canon.addResidual {a : Nat} {v : List F32} (h : m.Canon) : (m.addResidual a v).2.Canon := by
  unfold Ilpiac.addResidual
  refine foldl_snd h fun acc i h => ?_
  dsimp only
  split
  · exact h.memAdd
  · exact h.memAdd

theorem Ilpiac.Canon.columnBody {x : CtxId} {x2 q : Nat} {v : List F32} (h : m.Canon) :
    (m.columnBody x x2 q v).2.Canon := by
  unfold Ilpiac.columnBody
  split
  · exact h
  · split
    · exact h
    · dsimp only
      split
      · exact h
      · split
        · exact h
        · split
          · exact h.residualFor ‹_› |>.addResidual.of_snd ‹_›
          · split
            · exact h.residualFor ‹_› |>.addResidual.of_snd ‹_› |>.memWrite.updComm
            · exact h.residualFor ‹_› |>.addResidual.of_snd ‹_› |>.memWrite.updComm

theorem Ilpiac.Canon.dropSpills {x : CtxId} (h : m.Canon) : (m.dropSpills x).Canon := by
  unfold Ilpiac.dropSpills
  split
  · exact h
  · exact h.over fun _ _ h => h.poolGive

theorem Ilpiac.Canon.restart {x : CtxId} (h : m.Canon) : (m.restart x).Canon :=
  h.dropSpills.unissue.updCtx.gcnt

theorem Ilpiac.Canon.hold {x : CtxId} {L j : Nat} {v : List F32} (h : m.Canon) : (m.hold x L j v).Canon := by
  unfold Ilpiac.hold
  split
  · exact h
  · dsimp only
    split
    · exact h.updCtx
    · split
      · exact h.spillTake.of_snd ‹_› |>.restart
      · split
        · exact h.spillTake.of_snd ‹_› |>.memWrite.updCtx.gcnt.setInfo
        · exact h.spillTake.of_snd ‹_› |>.memWrite.poolGive.restart

theorem Ilpiac.Canon.resultColumn {x : CtxId} {q : Nat} {v : List F32} (h : m.Canon) :
    (m.resultColumn x q v).Canon := by
  unfold Ilpiac.resultColumn
  split
  · exact h
  · extract_lets +onlyGivenNames m1
    have h1 : m1.Canon := h.updCtx
    clear_value m1
    split
    · exact h1
    · extract_lets +onlyGivenNames whole vals m2 m3
      have h2 : m2.Canon := by
        refine ite h1 (ite ?_ h1.noteSide)
        split
        · exact h1.noteSideVals
        · exact h1
      have h3 : m3.Canon := h2.ifThen fun h => h.updColl
      exact ite h3 (ite h3.emitTokens h3.emitChunks)

theorem Ilpiac.Canon.trunkClimb {x : CtxId} {q : Nat} {v : List F32} {n i : Nat} (h : m.Canon) :
    (m.trunkClimb x q v n i).Canon := by
  induction n generalizing i with
  | zero => exact h.resultColumn
  | succ n ih =>
    unfold Ilpiac.trunkClimb
    split
    · exact h
    · split
      · exact h.resultColumn
      · dsimp only
        split
        · exact ih
        · split
          · exact h
          · split
            · split
              · exact h.columnBody.of_snd ‹_› |>.failColl
              · exact h.columnBody.of_snd ‹_› |>.updCtx.twinOwn.transferColl
            · split
              · exact h.updCtx.updCtx.issue
              · exact h.updCtx

theorem Ilpiac.Canon.rootDone {x : CtxId} {q : Nat} {v : List F32} (h : m.Canon) : (m.rootDone x q v).Canon := by
  unfold Ilpiac.rootDone
  split
  · exact h
  · dsimp only
    split
    · split
      · split
        · exact h.updCtx.over (fun _ _ h => h.freeContrib) |>.trunkClimb
        · exact h.updCtx.over (fun _ _ h => h.freeContrib) |>.resultColumn
      · exact h.updCtx.over (fun _ _ h => h.freeContrib) |>.resultColumn
    · split
      · split
        · exact h.updCtx.over (fun _ _ h => h.freeContrib) |>.trunkClimb
        · exact h.updCtx.over (fun _ _ h => h.freeContrib) |>.resultColumn
      · exact h.updCtx.over (fun _ _ h => h.freeContrib) |>.resultColumn

theorem Ilpiac.Canon.climb {x : CtxId} {present : List Nat} {d q : Nat} {v : List F32} {n L j : Nat} (h : m.Canon) :
    (m.climb x present d q v n L j).Canon := by
  induction n generalizing L j with
  | zero => exact h.rootDone
  | succ n ih =>
    unfold Ilpiac.climb
    split
    · exact h.rootDone
    · dsimp only
      split
      · exact ih
      · split
        · exact h.hold
        · exact ite h.updCtx h.updCtx.issue

theorem Ilpiac.Canon.enterLeaf {x : CtxId} {c : Coll} {b : Contrib} {q : Nat} (h : m.Canon) :
    (m.enterLeaf x c b q).Canon :=
  h.noteRun.climb

theorem Ilpiac.Canon.pump {x : CtxId} {n : Nat} (h : m.Canon) : (m.pump x n).Canon := by
  induction n generalizing m with
  | zero => exact h
  | succ n ih =>
    unfold Ilpiac.pump
    split
    · split
      · exact h
      · split
        · exact h.updCtx.issue
        · dsimp only
          split
          · exact h
          · split
            · exact ih h.rootDone
            · split
              · split
                · exact h
                · split
                  · exact h
                  · exact ih h.updCtx.enterLeaf
              · split
                · exact h
                · split
                  · exact h
                  · exact ih h.updCtx.enterLeaf
    · exact h

theorem Ilpiac.Canon.pumpAll {x : CtxId} (h : m.Canon) : (m.pumpAll x).Canon := by
  unfold Ilpiac.pumpAll
  split
  · exact h.pump
  · exact h

theorem Ilpiac.Canon.opDone {x : CtxId} (h : m.Canon) : (m.opDone x).Canon := by
  unfold Ilpiac.opDone
  split
  · split
    · exact h
    · exact (ite h.unissue.updCtx.noteRun.updCtx.trunkClimb h.unissue.updCtx.noteRun.climb).pumpAll
  · exact h

theorem Ilpiac.Canon.injected {f : Nat} (h : m.Canon) : (m.injected f).2.Canon := by
  unfold Ilpiac.injected
  dsimp only
  split
  · exact h.wr
  · exact h

theorem Ilpiac.Canon.groupComplete {f : Nat} {bad : List Mismatch} (h : m.Canon) : (m.groupComplete f bad).Canon := by
  unfold Ilpiac.groupComplete
  split
  · exact h
  · split
    · exact h.setFx
    · split
      · exact h.setFx
      · dsimp only
        split
        · exact ite h.wrapCnt.injected.updCtx h.wrapCnt.injected.opDone
        · exact h.wrapCnt.injected.over (fun _ _ h => h.recordFail)
            |>.setInfo.setFx.updCtx.over fun _ _ h => h.retireCell

theorem Ilpiac.Canon.spillBack {x : CtxId} (h : m.Canon) : (m.spillBack x).Canon := by
  unfold Ilpiac.spillBack
  split
  · exact h
  · split
    · exact h
    · split
      · exact h
      · split
        · exact h.memRead.of_snd ‹_› |>.restart.pumpAll
        · exact h.memRead.of_snd ‹_› |>.updCtx.poolGive.issue

theorem Ilpiac.Canon.freeCtx {x : CtxId} (h : m.Canon) : (m.freeCtx x).Canon := by
  unfold Ilpiac.freeCtx
  split
  · exact h
  · dsimp only
    refine (quotaFlow ?_).rmStat
    split
    · exact h.dropSpills.unissue.over (fun _ _ h => h.freeContrib) |>.areaGive.beside.furrowCount
    · exact h.dropSpills.unissue.over (fun _ _ h => h.freeContrib) |>.areaGive.beside

theorem Ilpiac.Canon.sweepCtxs {k : CollId} (h : m.Canon) : (m.sweepCtxs k).Canon := by
  unfold Ilpiac.sweepCtxs
  refine h.over fun _ _ h => ?_
  split
  · exact ite h.freeCtx h
  · exact h

/-! ### Admission -/

theorem Ilpiac.Canon.enqueueRuns {pool : Option Nat} {runs : List AdmRun} (h : m.Canon) :
    (m.enqueueRuns pool runs).Canon :=
  ite h h.beside.rmStat

theorem Ilpiac.Canon.collAccept {d : AccDesc} (h : m.Canon) : (m.collAccept d).Canon := by
  unfold Ilpiac.collAccept
  dsimp only
  split
  · exact h.done
  · split
    · exact h.done
    · split
      · exact h.done
      · split
        · split
          · split
            · exact (ite h.noteRefusals h).beside.updComm
            · exact (ite h.noteRefusals h).beside
          · split
            · exact (ite h.noteRefusals h).beside.updComm
            · exact (ite h.noteRefusals h).beside
        · exact (ite h.noteRefusals h).beside.ifThen (fun h => h.updComm) |>.ifThen (fun h => h.updComm)
            |>.enqueueRuns

theorem Ilpiac.Canon.sendCredit {x : CtxId} {addr : Nat} (h : m.Canon) : (m.sendCredit x addr).Canon :=
  h.emit

theorem Ilpiac.Canon.sendCredits {x : CtxId} (h : m.Canon) : (m.sendCredits x).Canon := by
  unfold Ilpiac.sendCredits
  split
  · exact h.over (fun _ _ h => h.sendCredit) |>.updCtx
  · exact h

theorem Ilpiac.Canon.creditResend {x : CtxId} (h : m.Canon) : (m.creditResend x).Canon := by
  unfold Ilpiac.creditResend
  split
  · exact ite h h.sendCredits
  · exact h

theorem Ilpiac.Canon.popHead {pool : Option Nat} (h : m.Canon) : (m.popHead pool).Canon :=
  h.beside

theorem Ilpiac.Canon.noteWait {k : CollId} {cycles : Nat} (h : m.Canon) : (m.noteWait k cycles).Canon :=
  ite h.count.setInfo h.count

theorem Ilpiac.Canon.noteAccepted {x : CtxId} (h : m.Canon) : (m.noteAccepted x).Canon := by
  unfold Ilpiac.noteAccepted
  split
  · exact ite h.updColl h
  · exact h

theorem Ilpiac.Canon.admitCtx {pool : Option Nat} (h : m.Canon) : (m.admitCtx pool).Canon := by
  unfold Ilpiac.admitCtx
  split
  · exact h
  · split
    · exact h
    · dsimp only
      split
      · exact h.popHead
      · split
        · exact h
        · refine (rmStat ?_).noteAccepted.sendCredits.pumpAll
          split
          · exact h.popHead.noteWait.areaTake.beside.updColl.furrowCount
          · exact h.popHead.noteWait.areaTake.beside.updColl

theorem Ilpiac.Canon.movePool {id : Nat} {pool : Option Nat} (h : m.Canon) : (m.movePool id pool).Canon :=
  h.beside.enqueueRuns

theorem Ilpiac.Canon.applyQuota {id slots : Nat} (h : m.Canon) : (m.applyQuota id slots).Canon :=
  h.updComm.quotaFlow.movePool.rmStat

theorem Ilpiac.Canon.rmQuota {d : AccDesc} (h : m.Canon) : (m.rmQuota d).Canon := by
  unfold Ilpiac.rmQuota
  dsimp only
  split
  · exact h.done
  · split
    · exact h.done
    · split
      · exact h.done
      · exact ite h.done (ite h.applyQuota.done h.updComm.quotaFlow.rmStat)

theorem Ilpiac.Canon.quotaSetAside {id : Nat} (h : m.Canon) : (m.quotaSetAside id).Canon := by
  unfold Ilpiac.quotaSetAside
  split
  · exact h
  · split
    · exact h
    · split
      · exact h
      · dsimp only
        split
        · exact h.applyQuota.done
        · exact h.applyQuota

/-! ### Contributions and results -/

theorem Ilpiac.Canon.sendCounts {k : CollId} (h : m.Canon) : (m.sendCounts k).Canon := by
  unfold Ilpiac.sendCounts
  split
  · split
    · exact h
    · exact h.over fun _ _ h => h.over fun _ _ h => ite h h.updColl.transferColl
  · exact h

theorem Ilpiac.Canon.sendMaps {k : CollId} {cm : Comm} {r : Routing} (h : m.Canon) : (m.sendMaps k cm r).Canon :=
  h.over fun _ _ h => ite h (ite h.updRouting (h.over (fun _ _ h => h.transferColl)))

theorem Ilpiac.Canon.sendMasks {k : CollId} {cm : Comm} {r : Routing} (h : m.Canon) : (m.sendMasks k cm r).Canon :=
  h.over fun _ _ h => h.over fun _ _ h => h.deliver

theorem Ilpiac.Canon.dispatchGo {k : CollId} (h : m.Canon) : (m.dispatchGo k).Canon := by
  unfold Ilpiac.dispatchGo
  split
  · split
    · exact h
    · exact ite h (ite h.updColl h.updColl.setInfo.count).sendMaps.sendMasks
  · exact h

theorem Ilpiac.Canon.sendRowMaps {k : CollId} (h : m.Canon) : (m.sendRowMaps k).Canon := by
  unfold Ilpiac.sendRowMaps
  split
  · split
    · exact h
    · split
      · exact h
      · exact h.over fun _ _ h => h.over fun _ _ h => ite h (ite h h.updColl.deliver)
  · exact h

theorem Ilpiac.Canon.copyChunk {cm : Comm} {c : Coll} {x : CtxId} {mi : Nat} {b : Contrib} (h : m.Canon) :
    (m.copyChunk cm c x mi b).Canon :=
  h.noteRun.noteSide.updColl.over fun _ _ h => h.deliver

theorem Ilpiac.Canon.sendToken {k : CollId} {cm : Comm} {c : Coll} {r : Routing} {leaf mi t : Nat} (h : m.Canon) :
    (m.sendToken k cm c r leaf mi t).Canon := by
  unfold Ilpiac.sendToken
  split
  · exact h
  · dsimp only
    refine h.updColl.over fun _ _ h => ?_
    split
    · exact h
    · exact h.over (fun _ _ h => h.noteRun) |>.noteSideVals.over fun _ _ h => h.deliver

theorem Ilpiac.Canon.sendRows {k : CollId} (h : m.Canon) : (m.sendRows k).Canon := by
  unfold Ilpiac.sendRows
  split
  · split
    · exact h
    · exact ite h (h.over (fun _ _ h => h.over fun _ _ h => ite h h.sendToken))
  · exact h

theorem Ilpiac.Canon.routeChunk {k : CollId} {cm : Comm} {c : Coll} {mi chunk : Nat} {payload : List Byte}
      (h : m.Canon) :
    (m.routeChunk k cm c mi chunk payload).Canon := by
  unfold Ilpiac.routeChunk
  exact ite h.updRouting h.updRouting.updColl.setInfo.count

theorem Ilpiac.Canon.dispatchFlow {k : CollId} (h : m.Canon) : (m.dispatchFlow k).Canon := by
  unfold Ilpiac.dispatchFlow
  split
  · split
    · exact h
    · exact (ite h.updRouting h).sendCounts.dispatchGo.sendRowMaps.sendRows
  · exact h

theorem Ilpiac.Canon.combineLeaf {c : Coll} {cm : Comm} {r : Routing} {src token slot seg : Nat} {b : Contrib}
      (h : m.Canon) (e : m.combineLeaf c cm r src token slot seg b = some m') :
    m'.Canon := by
  unfold Ilpiac.combineLeaf at e
  dsimp only at e
  split at e
  · split at e
    · cases e
    · cases e
      exact h.unhold
  · split at e
    · cases e
      exact h.unhold
    · cases e
      exact h.areaGive.updCtx.noteAccepted.pumpAll

theorem Ilpiac.Canon.forwardRow {c : Coll} {cm : Comm} {r : Routing} {x : CtxId} (h : m.Canon) :
    (m.forwardRow c cm r x).Canon := by
  unfold Ilpiac.forwardRow
  split
  · dsimp only
    refine h.over fun _ _ h => ?_
    split
    · split
      · exact h.combineLeaf ‹_› |>.updCtx
      · exact h
    · exact h.transferColl.updCtx.unhold
  · exact h

theorem Ilpiac.Canon.combineFlow {k : CollId} (h : m.Canon) : (m.combineFlow k).Canon := by
  unfold Ilpiac.combineFlow
  split
  · split
    · exact h
    · exact h.over fun _ _ h => h.forwardRow
  · exact h

theorem Ilpiac.Canon.sendCack {p : Packet} {addr : Nat} (h : m.Canon) : (m.sendCack p addr).Canon :=
  h.emit

theorem Ilpiac.Canon.dupContrib {p : Packet} {addr : Nat} (h : m.Canon) : (m.dupContrib p addr).Canon :=
  h.sendCack.count

theorem Ilpiac.Canon.strayContrib {p : Packet} (h : m.Canon) : (m.strayContrib p).Canon :=
  h.count

theorem Ilpiac.Canon.acceptContrib {cm : Comm} {c : Coll} {x : CtxId} {leaf addr port : Nat} {p : Packet}
      (h : m.Canon) :
    (m.acceptContrib cm c x leaf addr port p).Canon := by
  unfold Ilpiac.acceptContrib
  dsimp only
  split
  · exact h.sendCack.updColl.updCtx.areaGive.store.updCtx.updCtx.noteAccepted.pumpAll
  · split
    · exact h.sendCack.updColl.updCtx.areaGive.routeChunk.noteAccepted
    · split
      · exact h.sendCack.updColl.updCtx.areaGive.copyChunk.noteAccepted
      · exact h.sendCack.updColl.updCtx.areaGive.store.updCtx.noteAccepted

theorem Ilpiac.Canon.contribRx {port : Nat} {p : Packet} (h : m.Canon) : (m.contribRx port p).Canon := by
  unfold Ilpiac.contribRx
  dsimp only
  split
  · exact h
  · split
    · exact h.dupContrib
    · split
      · exact h.strayContrib
      · split
        · exact ite h.strayContrib (ite h h.dupContrib)
        · split
          · exact h.strayContrib
          · exact ite h.dupContrib (ite h (ite h.misaddressed h.acceptContrib))

theorem Ilpiac.Canon.markDone {k : CollId} (h : m.Canon) : (m.markDone k).Canon := by
  unfold Ilpiac.markDone
  split
  · exact h.over fun _ _ h => ite h.updCtx h
  · exact h

theorem Ilpiac.Canon.flow {k : CollId} (h : m.Canon) : (m.flow k).Canon := by
  unfold Ilpiac.flow
  split
  · exact h
  · split
    · exact h.markDone.sweepCtxs
    · exact (ite h.dispatchFlow (ite h.combineFlow h)).markDone.sweepCtxs

/-! ### Counters and waits -/

theorem Ilpiac.Canon.setCval {n v : Nat} (h : m.Canon) : (m.setCval n v).Canon :=
  h.beside

theorem Ilpiac.Canon.saturate {f : Fld} {n : Nat} (h : m.Canon) : (m.saturate f n).Canon :=
  h.gw.gcnt

theorem Ilpiac.Canon.counterOp {n op x : Nat} (h : m.Canon) : (m.counterOp n op x).1.Canon := by
  unfold Ilpiac.counterOp
  dsimp only
  split
  · split
    · exact h.setCval
    · exact h.setCval.saturate
  · split
    · split
      · exact h.setCval
      · exact h.setCval.saturate
    · exact h.setCval

theorem Ilpiac.Canon.setWaits {l : List SyncWaitE} (h : m.Canon) : (m.setWaits l).Canon :=
  h.beside.gw

theorem Ilpiac.Canon.syncAnswer {port tc tag result n value : Nat} (h : m.Canon) :
    (m.syncAnswer port tc tag result n value).Canon :=
  h.setPort.emit

theorem Ilpiac.Canon.endWait {w : SyncWaitE} {final value status result : Nat} (h : m.Canon) :
    (m.endWait w final value status result).Canon := by
  unfold Ilpiac.endWait
  split
  · split
    · exact h.complete
    · exact h
  · exact h.syncAnswer

theorem Ilpiac.Canon.releaseWaits {n : Nat} (h : m.Canon) : (m.releaseWaits n).Canon :=
  h.setCval.setWaits.over fun _ _ h => h.endWait

theorem Ilpiac.Canon.holdWait {w : SyncWaitE} (h : m.Canon) : (m.holdWait w).Canon :=
  h.setWaits.releaseWaits

theorem Ilpiac.Canon.removeWait {w : SyncWaitE} (h : m.Canon) : (m.removeWait w).Canon :=
  h.setWaits.releaseWaits

theorem Ilpiac.Canon.dropMemberWaits {port : Nat} (h : m.Canon) : (m.dropMemberWaits port).Canon :=
  ite h (h.setWaits.over (fun _ _ h => h.releaseWaits))

theorem Ilpiac.Canon.syncWaitTimeout {who : Waiter} (h : m.Canon) : (m.syncWaitTimeout who).Canon := by
  unfold Ilpiac.syncWaitTimeout
  split
  · exact h
  · exact ite h h.removeWait.endWait

theorem Ilpiac.Canon.syncSignal {d : AccDesc} (h : m.Canon) : (m.syncSignal d).Canon :=
  ite h.done h.counterOp.releaseWaits.done

theorem Ilpiac.Canon.syncWait {d : AccDesc} (h : m.Canon) : (m.syncWait d).Canon :=
  ite h.done h.holdWait

theorem Ilpiac.Canon.syncFence {d : AccDesc} (h : m.Canon) : (m.syncFence d).Canon :=
  ite h.done h.done

theorem Ilpiac.Canon.syncCancel {d : AccDesc} (h : m.Canon) : (m.syncCancel d).Canon := by
  unfold Ilpiac.syncCancel
  split
  · exact h.done
  · split
    · exact h.done
    · exact h.removeWait.endWait.done

theorem Ilpiac.Canon.syncOp {port : Nat} {p : Packet} (h : m.Canon) : (m.syncOp port p).Canon := by
  unfold Ilpiac.syncOp
  dsimp only
  split
  · exact h.emit
  · split
    · exact h
    · split
      · exact h.emit
      · split
        · exact h.setPort.syncAnswer
        · split
          · exact h.setPort.holdWait
          · exact ite h.setPort.syncAnswer h.setPort.counterOp.releaseWaits.syncAnswer

theorem Ilpiac.Canon.syncValWrite {v : Nat} (h : m.Canon) : (m.syncValWrite v).Canon :=
  h.counterOp.releaseWaits

theorem Ilpiac.Canon.syncDeadlock {g : Nat} (h : m.Canon) : (m.syncDeadlock g).Canon :=
  ite h h.gw.event

/-! ### Verdicts, records and the end of a collective -/

theorem Ilpiac.Canon.boardRead {addr len : Nat} {rb : Readback} (h : m.Canon) :
    (m.boardRead addr len rb).2.Canon := by
  unfold Ilpiac.boardRead
  split
  · exact h.memRead
  · split
    · exact h.regAccess
    · split
      · exact h
      · exact h.windowRefusal

theorem Ilpiac.Canon.boardStore {addr : Nat} {d : List Byte} (h : m.Canon) : (m.boardStore addr d).2.Canon := by
  unfold Ilpiac.boardStore
  split
  · exact h.boardWrite
  · exact h.windowRefusal

theorem Ilpiac.Canon.sendList {k : CollId} {kind nb : Nat} {l : List VRec} (h : m.Canon) :
    (m.sendList k kind nb l).Canon :=
  ite h h.transferColl

theorem Ilpiac.Canon.sendRecords {k : CollId} (h : m.Canon) : (m.sendRecords k).Canon := by
  unfold Ilpiac.sendRecords
  split
  · dsimp only
    refine Canon.over ?_ fun _ _ h => h.updColl.sendList
    split
    · exact h.over (fun _ _ h => ite h h.updColl.sendList) |>.updColl.sendList
    · exact h.over fun _ _ h => ite h h.updColl.sendList
  · exact h

theorem Ilpiac.Canon.sendPhase3 {k : CollId} (h : m.Canon) : (m.sendPhase3 k).Canon := by
  unfold Ilpiac.sendPhase3
  split
  · exact h.over fun _ _ h => ite h h.updColl.sendList
  · exact h

theorem Ilpiac.Canon.phase3 {k : CollId} (h : m.Canon) : (m.phase3 k).Canon := by
  unfold Ilpiac.phase3
  split
  · split
    · exact h
    · dsimp only
      split
      · exact (ite h h.updColl).sendPhase3
      · split
        · exact (ite h h.updColl).sendPhase3
        · exact (ite h h.updColl).sendPhase3.updColl.beside
  · exact h

theorem Ilpiac.Canon.noteLateness {c : Coll} (h : m.Canon) : (m.noteLateness c).Canon := by
  unfold Ilpiac.noteLateness
  split
  · exact h
  · exact h.count

theorem Ilpiac.Canon.freeCtxs {k : CollId} (h : m.Canon) : (m.freeCtxs k).Canon :=
  h.over fun _ _ h => h.freeCtx

theorem Ilpiac.Canon.flipResidual {k : CollId} {r : Residual} (h : m.Canon) : (m.flipResidual k r).Canon := by
  unfold Ilpiac.flipResidual
  split
  · exact h
  · exact (ite h h.memWrite).updComm

theorem Ilpiac.Canon.flipResiduals {k : CollId} {ok : Bool} (h : m.Canon) : (m.flipResiduals k ok).Canon :=
  ite (h.over (fun _ _ h => h.flipResidual)) h.updComm

theorem Ilpiac.Canon.endColl {k : CollId} {st info : Nat} {fault : Option (Nat × Nat)} (h : m.Canon) :
    (m.endColl k st info fault).Canon := by
  unfold Ilpiac.endColl
  split
  · exact h
  · dsimp only
    refine drainHeld (rmStat (ite ?_ (freeCtxs (beside ?_))))
    · exact h.updColl.unqueue.count.flipResiduals.ifThen (fun h => h.stampShards) |>.ifThen fun h => h.updRouting
    · exact h.updColl.unqueue.count.flipResiduals.ifThen (fun h => h.updComm) |>.ifThen fun h => h.updComm

theorem Ilpiac.Canon.commit {k : CollId} (h : m.Canon) : (m.commit k).Canon := by
  unfold Ilpiac.commit
  split
  · exact ite h.noteLateness.endColl (ite h.updComm h).noteLateness.endColl
  · exact h

theorem Ilpiac.Canon.commits {comm : Nat} (h : m.Canon) : (m.commits comm).Canon := by
  refine foldl_snd (p := (true, m)) h fun a k h => ?_
  split
  · exact h.commit
  · exact h

theorem Ilpiac.Canon.passStart {k : CollId} (h : m.Canon) : (m.passStart k).Canon := by
  unfold Ilpiac.passStart
  split
  · exact ite h h.updColl.sendRecords.commits
  · exact h

theorem Ilpiac.Canon.collStep {k : CollId} (h : m.Canon) : (m.collStep k).Canon :=
  h.flow.phase3.flow

theorem Ilpiac.Canon.collAll (h : m.Canon) : m.collAll.Canon :=
  h.over fun _ _ h => h.collStep

theorem Ilpiac.Canon.sendEnds {k : CollId} (h : m.Canon) : (m.sendEnds k).Canon := by
  unfold Ilpiac.sendEnds
  split
  · split
    · exact h
    · exact ite h (ite h.dstOf.updColl.retainCopy h)
  · exact h

theorem Ilpiac.Canon.closeColl {k : CollId} (h : m.Canon) : (m.closeColl k).Canon := by
  unfold Ilpiac.closeColl
  split
  · exact h
  · exact ite h.freeCtxs.beside.updComm h.freeCtxs.beside

theorem Ilpiac.Canon.recordColl {c : Coll} (h : m.Canon) : (m.recordColl c).Canon :=
  ite h.closeColl h.complete

theorem Ilpiac.Canon.collComplete {k : CollId} (h : m.Canon) : (m.collComplete k).Canon := by
  unfold Ilpiac.collComplete
  split
  · exact ite h (ite h.boardStore h).recordColl
  · exact h

theorem Ilpiac.Canon.contribDeadline {k : CollId} {addr : Nat} (h : m.Canon) : (m.contribDeadline k addr).Canon := by
  unfold Ilpiac.contribDeadline
  split
  · exact ite h h.failColl
  · exact h

theorem Ilpiac.Canon.admissionTimeout {k : CollId} (h : m.Canon) : (m.admissionTimeout k).Canon :=
  ite h.setInfo.failColl.unqueue h

theorem Ilpiac.Canon.furrowTimeout {k : CollId} (h : m.Canon) : (m.furrowTimeout k).Canon :=
  ite h.failColl h

theorem Ilpiac.Canon.resultMissing {k : CollId} {addr : Nat} (h : m.Canon) : (m.resultMissing k addr).Canon := by
  unfold Ilpiac.resultMissing
  split
  · split
    · exact ite h.undeliver h
    · exact h
  · exact h

theorem Ilpiac.Canon.fenceMember {port : Nat} (h : m.Canon) : (m.fenceMember port).Canon :=
  ite h (h.fenceQueues.dropMemberWaits.over (fun _ _ h => h.memberLost)).dropDest

theorem Ilpiac.Canon.fenceCheck {d : AccDesc} {f : Nat → Ilpiac → Ilpiac} (h : m.Canon)
      (hf : ∀ a m, m.Canon → (f a m).Canon) :
    (m.fenceCheck d f).Canon := by
  unfold Ilpiac.fenceCheck
  dsimp only
  split
  · exact h.done
  · split
    · exact h.done
    · split
      · exact h.done
      · exact hf _ _ h

theorem Ilpiac.Canon.memberFence {d : AccDesc} (h : m.Canon) : (m.memberFence d).Canon :=
  h.fenceCheck fun _ _ h => h.fenceMember.done

theorem Ilpiac.Canon.memberUnfence {d : AccDesc} (h : m.Canon) : (m.memberUnfence d).Canon :=
  h.fenceCheck fun _ _ h => ite h.pw.done h.done

theorem Ilpiac.Canon.commCreate {d : AccDesc} {listRb expRb : Readback} (h : m.Canon) :
    (m.commCreate d listRb expRb).Canon := by
  unfold Ilpiac.commCreate
  extract_lets +onlyGivenNames i n e la ea rns fields
  split
  · exact h.done
  · split
    · exact h.noteRefusals.done
    · extract_lets +onlyGivenNames lr er m1
      have h1 : m1.Canon := by
        unfold m1 er
        split
        · exact h.boardRead.mk_snd
        · exact h.boardRead.boardRead
      clear_value m1
      generalize lr.1 = lb, er.1 = eb
      rcases lb with _ | lb
      · exact h1.done
      · rcases eb with _ | eb
        · exact h1.done
        · dsimp only
          split
          · exact h1.done
          · split
            · exact h1.done
            · split
              · exact h1.done
              · split
                · exact h1.done
                · split
                  · exact h1.done
                  · split
                    · exact h1.done
                    · split
                      · exact h1.done
                      · exact h1.beside.done

theorem Ilpiac.Canon.commCheck {d : AccDesc} {ok : Bool} {f : Comm → Ilpiac → Ilpiac} (h : m.Canon)
      (hf : ∀ c m, m.Canon → (f c m).Canon) :
    (m.commCheck d ok f).Canon := by
  unfold Ilpiac.commCheck
  dsimp only
  split
  · exact h.done
  · split
    · exact h.done
    · split
      · exact h.done
      · exact hf _ _ h

theorem Ilpiac.Canon.abortColl {k : CollId} (h : m.Canon) : (m.abortColl k).Canon := by
  unfold Ilpiac.abortColl
  split
  · exact h
  · extract_lets +onlyGivenNames m1 _coll m2 gone m3 ret _coll m4 m5 m6 _trellis m7
    have h1 : m1.Canon := ite (h.over fun _ _ h => h.undeliver) h.endColl
    clear_value m1
    have h7 : m7.Canon := h1.beside.over (fun _ _ h => h.releaseCopy) |>.beside.over (fun _ _ h => h.unhold) |>.freeCtxs.beside
    clear_value m7
    refine ite h7 ?_
    split
    · exact h7.recordColl
    · exact h7

theorem Ilpiac.Canon.dropComm {cm : Comm} (h : m.Canon) : (m.dropComm cm).Canon := by
  unfold Ilpiac.dropComm
  dsimp only
  refine (Canon.over ?_ (fun _ _ h => h.poolGive)).stampShards.beside.quotaFlow.rmStat
  split
  · split
    · exact h.over (fun _ _ h => h.abortColl) |>.done
    · exact h.over fun _ _ h => h.abortColl
  · exact h.over fun _ _ h => h.abortColl

theorem Ilpiac.Canon.commDestroy {d : AccDesc} (h : m.Canon) : (m.commDestroy d).Canon :=
  h.commCheck fun _ _ h => h.dropComm.beside.due

theorem Ilpiac.Canon.commQuery {d : AccDesc} (h : m.Canon) : (m.commQuery d).Canon :=
  (ite h.noteRefusals h).commCheck fun _ _ h => (ite h.boardWrite.count h.boardWrite).done

theorem Ilpiac.Canon.tackRx {p : Packet} {plane : Nat} (h : m.Canon) : (m.tackRx p plane).Canon := by
  unfold Ilpiac.tackRx
  split
  · exact h
  · dsimp only
    split
    · exact ite h.releaseCopy.settleDelta h.releaseCopy
    · exact h.releaseCopy

theorem Ilpiac.Canon.trunkTimeout {id : Nat} (h : m.Canon) : (m.trunkTimeout id).Canon := by
  unfold Ilpiac.trunkTimeout
  split
  · exact h
  · split
    · dsimp only
      split
      · exact h.beside.sendCopy.countReplay
      · exact h.beside.sendCopy
    · dsimp only
      split
      · split
        · exact h.releaseCopy
        · split
          · exact h.releaseCopy
          · exact ite (ite h.releaseCopy.endColl h.releaseCopy) h.releaseCopy.failColl
      · exact h.releaseCopy.recordMissing
      · exact h.releaseCopy

theorem Ilpiac.Canon.answerUnknown {p : Packet} (h : m.Canon) : (m.answerUnknown p).Canon :=
  h.sendList

theorem Ilpiac.Canon.columnTry {p : Packet} (h : m.Canon) (e : m.columnTry p = some m') : m'.Canon := by
  unfold Ilpiac.columnTry at e
  dsimp only at e
  split at e
  · cases e
    exact h
  · split at e
    · cases e
    · split at e
      · cases e
        exact h
      · split at e
        · split at e
          · cases e
          · cases e
            exact h
        · split at e
          · cases e
            exact h
          · cases e
            exact h.noteRun.updCtx.trunkClimb.pumpAll

theorem Ilpiac.Canon.tresultTry {p : Packet} {id : Nat} (h : m.Canon) (e : m.tresultTry p id = some m') :
    m'.Canon := by
  unfold Ilpiac.tresultTry at e
  extract_lets +onlyGivenNames k at e
  split at e
  · cases e
    exact h
  · split at e
    · extract_lets +onlyGivenNames bad at e
      clear_value bad
      split at e
      · cases e
        exact h
      · split at e
        · split at e
          · cases e
            exact h
          · extract_lets +onlyGivenNames ent at e
            clear_value ent
            cases ent with
            | none =>
              cases e
              exact h
            | some ent =>
              dsimp only at e
              split at e
              · split at e
                · cases e
                · cases e
                  exact h
              · exact h.moveArea.setBuf.combineLeaf e
        · extract_lets +onlyGivenNames res at e
          split at e
          · cases e
            exact h
          · split at e
            · cases e
            · obtain ⟨m1, hs, rfl⟩ := Option.map_eq_some_iff.mp e
              exact h.sendResult hs |>.updColl
    · cases e

theorem Ilpiac.Canon.verdictRx {k : CollId} {src : Nat} {l : List VRec} (h : m.Canon) : (m.verdictRx k src l).Canon := by
  unfold Ilpiac.verdictRx
  split
  · split
    · exact h
    · split
      · dsimp only
        refine commits (ifThen ?_ fun h => h.over fun _ _ h => h.sendList)
        exact h.updColl.beside.over fun _ _ h => h.releaseCopy
      · dsimp only
        exact (ite (ite h.updColl.setInfo h.updColl).unqueue h.updColl).sendRecords.commits
  · exact h

theorem Ilpiac.Canon.joinHeadless {k : CollId} (h : m.Canon) : (m.joinHeadless k).Canon := by
  unfold Ilpiac.joinHeadless
  split
  · exact h
  · exact h.beside.updComm

theorem Ilpiac.Canon.recordsTry {p : Packet} (h : m.Canon) (e : m.recordsTry p = some m') : m'.Canon := by
  unfold Ilpiac.recordsTry at e
  dsimp only at e
  split at e
  · cases e
    exact h
  · split at e
    · split at e
      · cases e
        exact h.joinHeadless.verdictRx
      · cases e
    · split at e
      · cases e
        exact h.verdictRx
      · split at e
        · cases e
          exact h
        · split at e
          · cases e
            exact h.updColl.collStep
          · split at e
            · cases e
              exact h.updRouting.collStep
            · split at e
              · cases e
                exact h.updRouting.collStep
              · cases e
                exact h

/-! ### Cloche groups, ledger and restore -/

theorem Ilpiac.Canon.giveGroup {g : Group} (h : m.Canon) : (m.giveGroup g).Canon := by
  unfold Ilpiac.giveGroup
  dsimp only
  split
  · exact h.over (fun _ _ h => h.poolGive) |>.poolGive
  · exact h.over fun _ _ h => h.poolGive

theorem Ilpiac.Canon.takePieces {n : Nat} {l : List (Nat × Bool)} (h : m.Canon) : (m.takePieces n l).2.Canon := by
  induction l generalizing m with
  | nil => exact h
  | cons p l ih =>
    unfold Ilpiac.takePieces
    split
    · exact h.poolTakeN.of_snd ‹_›
    · have ht := ih (h.poolTakeN.of_snd ‹_›)
      split
      · exact ht.of_snd ‹_›
      · exact ht.of_snd ‹_› |>.over fun _ _ h => h.poolGive

theorem Ilpiac.Canon.groupCreate {d : AccDesc} {listRb : Readback} (h : m.Canon) :
    (m.groupCreate d listRb).Canon := by
  unfold Ilpiac.groupCreate
  extract_lets +onlyGivenNames i n k total la
  split
  · exact h.done
  · extract_lets +onlyGivenNames fields m1
    have h1 : m1.Canon := h.noteRefusals
    clear_value m1
    split
    · exact h1.done
    · split
      · next m2 hb => exact (h1.boardRead.of_snd hb).done
      · next l m2 hb =>
        have h2 : m2.Canon := h1.boardRead.of_snd hb
        clear hb
        extract_lets +onlyGivenNames digest g here
        clear_value g here
        split
        · exact h2.done
        · split
          · exact h2.done
          · split
            · exact h2.done
            · extract_lets +onlyGivenNames mine
              split
              · exact h2.done
              · split
                · exact h2.done
                · extract_lets +onlyGivenNames t
                  have ht : t.2.Canon := h2.takePieces
                  clear_value t
                  split
                  · exact ht.done
                  · split
                    · next hp => exact ((ht.poolTake.of_snd hp).over fun _ _ h => h.poolGive).done
                    · next hp => exact (ht.poolTake.of_snd hp).beside

theorem Ilpiac.Canon.doneAt {x : Nat × Nat} {st : Nat} {i : CplInfo} (h : m.Canon) : (m.doneAt x st i).Canon := by
  unfold Ilpiac.doneAt
  split
  · exact h.done
  · exact h

theorem Ilpiac.Canon.zeroOwn {g : Group} (h : m.Canon) : (m.zeroOwn g).Canon := by
  unfold Ilpiac.zeroOwn
  dsimp only
  refine Canon.over ?_ fun _ _ h => h.zeroRange
  split
  · exact h.zeroRange
  · exact h

theorem Ilpiac.Canon.groupJoin {gid : Nat} {ans : List JoinAnswer} (h : m.Canon) : (m.groupJoin gid ans).Canon := by
  unfold Ilpiac.groupJoin
  split
  · exact h
  · split
    · exact h
    · exact ite h.giveGroup.beside.doneAt h.zeroOwn.updGroup.doneAt

theorem Ilpiac.Canon.clocheTack {g : Group} {p : Packet} (h : m.Canon) : (m.clocheTack g p).Canon :=
  h.tack

theorem Ilpiac.Canon.deltaRx {p : Packet} (h : m.Canon) : (m.deltaRx p).Canon := by
  unfold Ilpiac.deltaRx
  split
  · exact h
  · dsimp only
    split
    · exact h
    · exact (ite (ite h.draw h) ((ite h.draw h).over (fun _ _ h => h.foldDelta)).updGroup).clocheTack

theorem Ilpiac.Canon.stampRx {p : Packet} (h : m.Canon) : (m.stampRx p).Canon := by
  unfold Ilpiac.stampRx
  split
  · exact h
  · dsimp only
    split
    · exact h
    · exact (ite (ite h.updGroup h.updGroup.updGroup) h.updGroup.updGroup).clocheTack

theorem Ilpiac.Canon.ledgerCopy {gid pos : Nat} {e : List Byte} (h : m.Canon) : (m.ledgerCopy gid pos e).Canon := by
  unfold Ilpiac.ledgerCopy
  split
  · exact h
  · exact h.updGroup.over fun _ _ h => h.clocheSend

theorem Ilpiac.Canon.ledgerFlow {gid : Nat} (h : m.Canon) : (m.ledgerFlow gid).Canon := by
  unfold Ilpiac.ledgerFlow
  split
  · exact h
  · dsimp only
    split
    · exact ite h (h.over (fun _ _ h => h.ledgerCopy.updGroup))
    · exact (ite h (h.over (fun _ _ h => h.ledgerCopy.updGroup))).over fun _ _ h => h.updGroup.doneAt

theorem Ilpiac.Canon.ledgerWrite {d : AccDesc} {entry : Readback} (h : m.Canon) : (m.ledgerWrite d entry).Canon := by
  unfold Ilpiac.ledgerWrite
  extract_lets +onlyGivenNames gid a i fields
  split
  · exact h.done
  · split
    · exact h.done
    · extract_lets +onlyGivenNames m1
      have h1 : m1.Canon := h.noteRefusals
      clear_value m1
      split
      · exact h1.done
      · split
        · split
          · exact h1.done
          · split
            · next hb => exact (h1.boardRead.of_snd hb).done
            · next hb =>
              have h2 := h1.boardRead.of_snd hb
              clear hb
              exact ite h2.done (ite h2.updGroup h2.updGroup.ledgerCopy).ledgerFlow
        · exact h1.done

theorem Ilpiac.Canon.ledgerRx {p : Packet} (h : m.Canon) : (m.ledgerRx p).Canon := by
  unfold Ilpiac.ledgerRx
  split
  · exact h
  · exact ite h h.updGroup.clocheTack

theorem Ilpiac.Canon.endRestore {gid st : Nat} (h : m.Canon) : (m.endRestore gid st).Canon := by
  unfold Ilpiac.endRestore
  split
  · exact h
  · split
    · exact h
    · exact ite h.updGroup.doneAt.ledgerFlow h.updGroup

theorem Ilpiac.Canon.restoreBegin {d : AccDesc} {recRb imgRb : Readback} {ans : List RestoreAnswer} (h : m.Canon) :
    (m.restoreBegin d recRb imgRb ans).Canon := by
  unfold Ilpiac.restoreBegin
  extract_lets +onlyGivenNames gid image mask ra ia i
  split
  · exact h.done
  · split
    · exact h.done
    · split
      · exact h.done
      · extract_lets +onlyGivenNames own role fields m1 running
        have h1 : m1.Canon := h.noteRefusals
        clear_value m1
        refine ite h1.done (ite h1.done (ite h1.done ?_))
        split
        · next hb => exact (h1.boardRead.of_snd hb).done
        · next hb =>
          have h2 := h1.boardRead.of_snd hb
          clear hb
          extract_lets +onlyGivenNames step i' start ok
          refine ite (ite h2.updGroup h2.done) ?_
          split
          · next hb => exact (h2.boardRead.of_snd hb).done
          · next hb =>
            have h3 := h2.boardRead.of_snd hb
            clear hb
            exact ite h3.done (ite h3.updGroup h3.done)

theorem Ilpiac.Canon.pieceStripe {p : Piece} {off : Nat} (h : m.Canon) : (m.pieceStripe p off).2.Canon :=
  h.memRead

theorem Ilpiac.Canon.sendStripe {g : Group} {pos j off : Nat} {d : List Byte} (h : m.Canon) :
    (m.sendStripe g pos j off d).Canon := by
  unfold Ilpiac.sendStripe
  split
  · exact h.clocheSend
  · exact h

theorem Ilpiac.Canon.solve {gid : Nat} {x : Rebuild} (h : m.Canon) : (m.solve gid x).Canon := by
  unfold Ilpiac.solve
  split
  · exact h
  · dsimp only
    split
    · exact h
    · split
      · split
        · exact h.pieceStripe.of_snd ‹_› |>.sendStripe
        · exact h.pieceStripe.of_snd ‹_› |>.loseStripe
      · split
        · exact h
        · split
          · exact h.pieceStripe.of_snd ‹_› |>.sendStripe
          · exact h.pieceStripe.of_snd ‹_› |>.loseStripe
      · split
        · exact h.pieceStripe.of_snd ‹_› |>.ifElse fun h => h.clocheSend
        · exact h.pieceStripe.of_snd ‹_›
      · exact h

theorem Ilpiac.Canon.solveTwo {g : Group} {x : Rebuild} {qxy : List Byte} (h : m.Canon) :
    (m.solveTwo g x qxy).Canon := by
  unfold Ilpiac.solveTwo
  dsimp only
  split
  · split
    · exact h.pieceStripe.of_snd ‹_› |>.sendStripe.sendStripe
    · exact h.pieceStripe.of_snd ‹_› |>.loseStripe
  · exact h

theorem Ilpiac.Canon.stripeRx {p : Packet} (h : m.Canon) : (m.stripeRx p).Canon := by
  unfold Ilpiac.stripeRx
  split
  · exact h
  · extract_lets +onlyGivenNames pos j off s m1 target
    have h1 : m1.Canon := h.clocheTack
    clear_value m1 target
    refine ite h (ite ?_ (ite h1 (ite h1.solveTwo ?_)))
    · split
      · exact ite h1.plainWrite.updGroup h1.plainWrite
      · exact h1
    · exact ite (ite h1.updGroup (h1.updGroup.over fun _ _ h => ite h.plainWrite.updGroup h.plainWrite)) h1.updGroup.solve

theorem Ilpiac.Canon.zeroResiduals {comm step : Nat} (h : m.Canon) : (m.zeroResiduals comm step).Canon := by
  unfold Ilpiac.zeroResiduals
  split
  · exact h
  · exact h.over (fun _ _ h => h.memWrite) |>.updComm

theorem Ilpiac.Canon.shardRestored {g : Group} {comm step : Nat} (h : m.Canon) :
    (m.shardRestored g comm step).Canon :=
  h.zeroResiduals.updGroup.over (fun _ _ h => h.clocheSend) |>.updComm.endRestore

theorem Ilpiac.Canon.restoreComplete {gid : Nat} (h : m.Canon) : (m.restoreComplete gid).Canon := by
  unfold Ilpiac.restoreComplete
  split
  · exact h
  · split
    · exact h
    · split
      · exact h
      · split
        · split
          · exact h
          · dsimp only
            split
            · split
              · exact h.memWrite.endRestore
              · split
                · exact ite h.memWrite.updGroup.shardRestored h.memWrite.updGroup
                · exact h.memWrite.updGroup
            · exact ite h.shardRestored h
        · split
          · exact h
          · split
            · exact h.updGroup.endRestore
            · split
              · exact h.shardRestored
              · exact h

theorem Ilpiac.Canon.restoreLoss {gid : Nat} (h : m.Canon) : (m.restoreLoss gid).Canon := by
  unfold Ilpiac.restoreLoss
  split
  · exact ite h.endRestore (ite h.endRestore h)
  · exact h

theorem Ilpiac.Canon.clocheFlow (h : m.Canon) : m.clocheFlow.Canon :=
  h.over fun _ _ h => h.restoreLoss.ledgerFlow

theorem Ilpiac.Canon.groupDestroy {d : AccDesc} (h : m.Canon) : (m.groupDestroy d).Canon := by
  unfold Ilpiac.groupDestroy
  dsimp only
  split
  · exact h.done
  · split
    · exact h.done
    · split
      · exact h.done
      · split
        · exact h.done
        · refine (giveGroup ?_).beside.done
          split
          · refine doneAt ?_
            split
            · exact h.endRestore.over fun _ _ h => h.doneAt
            · exact h.endRestore
          · split
            · exact h.endRestore.over fun _ _ h => h.doneAt
            · exact h.endRestore

theorem Ilpiac.Canon.clocheQuery {d : AccDesc} (h : m.Canon) : (m.clocheQuery d).Canon := by
  unfold Ilpiac.clocheQuery
  dsimp only
  split
  · exact h.done
  · split
    · exact h.done
    · split
      · exact h.noteRefusals.done
      · exact ite h.noteRefusals.done h.noteRefusals.boardWrite.done

/-! ### The companion -/

theorem Ilpiac.Canon.stopRing {r : Nat} (h : m.Canon) : (m.stopRing r).Canon :=
  h.wr.wr.wr.beside

theorem Ilpiac.Canon.enterHeadless {cause : Nat} (h : m.Canon) : (m.enterHeadless cause).Canon := by
  unfold Ilpiac.enterHeadless
  split
  · exact h
  · dsimp only
    exact h.gw.gw.over (fun _ _ h => h.stopRing) |>.beside.over (fun _ _ h => h.stall) |>.sbEvent.raise

theorem Ilpiac.Canon.resume (h : m.Canon) : m.resume.Canon :=
  ite h (h.gw.beside.over (fun _ _ h => h.stall)).release

theorem Ilpiac.Canon.heartbeatTimeout (h : m.Canon) : m.heartbeatTimeout.Canon :=
  ite h.enterHeadless h

theorem Ilpiac.Canon.holmDown (h : m.Canon) : m.holmDown.Canon := by
  unfold Ilpiac.holmDown
  split
  · exact h
  · exact h.gw.gw.gw.beside.ifThen fun h => h.enterHeadless

theorem Ilpiac.Canon.holmStart (h : m.Canon) : m.holmStart.Canon :=
  h.gw.beside

theorem Ilpiac.Canon.assignBases {reg hbm : Nat} (h : m.Canon) : (m.assignBases reg hbm).Canon :=
  ite h h.gw.gw.gw.beside.send

theorem Ilpiac.Canon.holmAck {seq : Nat} {lost : Bool} (h : m.Canon) : (m.holmAck seq lost).Canon := by
  unfold Ilpiac.holmAck
  dsimp only
  split
  · exact h
  · exact ite h.beside.gcnt h.beside

/-! ### Time -/

theorem Ilpiac.Canon.timeTick (h : m.Canon) : m.timeTick.Canon :=
  ite h.beside h.beside

theorem Ilpiac.Canon.setTimeState {st : Nat} (h : m.Canon) : (m.setTimeState st).Canon := by
  unfold Ilpiac.setTimeState
  dsimp only
  split
  · exact h
  · split
    · exact (ite h.gw.event.release h.gw.event).raise
    · exact ite h.gw.event.release h.gw.event

theorem Ilpiac.Canon.timeSource {commit : Bool} (h : m.Canon) : (m.timeSource commit).Canon := by
  unfold Ilpiac.timeSource
  refine ite h (ite h ?_)
  extract_lets +onlyGivenNames _time m1
  have h1 : m1.Canon := ite h.beside h
  clear_value m1
  exact ite h1.beside.setTimeState.gw
    (ite h1.beside.setTimeState (ite h1.beside.setTimeState h1.beside.setTimeState))

theorem Ilpiac.Canon.sourceSeen (h : m.Canon) : m.sourceSeen.Canon :=
  ite h.beside.setTimeState h

theorem Ilpiac.Canon.correct {o : Int} (h : m.Canon) : (m.correct o).Canon := by
  unfold Ilpiac.correct
  extract_lets +onlyGivenNames m1 _time _time m2
  have h2 : m2.Canon := ite h.sourceSeen.gw.beside.gcnt h.sourceSeen.gw.beside
  clear_value m2
  exact h2.beside.ifThen fun h => h.setTimeState

theorem Ilpiac.Canon.timeSyncTimer (h : m.Canon) : m.timeSyncTimer.Canon :=
  ite h (h.beside.over (fun _ _ h => h.emit))

theorem Ilpiac.Canon.delayMeasure (h : m.Canon) : m.delayMeasure.Canon :=
  ite h (h.beside.over (fun _ _ h => h.emit))

theorem Ilpiac.Canon.delayReqRx {port : Nat} {p : Packet} {turnaround : Nat} (h : m.Canon) :
    (m.delayReqRx port p turnaround).Canon :=
  ite h h.emit

theorem Ilpiac.Canon.delayRspRx {port : Nat} {p : Packet} (h : m.Canon) : (m.delayRspRx port p).Canon := by
  unfold Ilpiac.delayRspRx
  split
  · exact h
  · exact ite h (ite h.beside.gw h.beside)

theorem Ilpiac.Canon.timeSyncRx {port : Nat} {p : Packet} (h : m.Canon) : (m.timeSyncRx port p).Canon := by
  unfold Ilpiac.timeSyncRx
  extract_lets +onlyGivenNames bed master ms
  clear_value ms
  dsimp only
  refine ite h (ite h.beside.setTimeState (ite h.beside (ite ?_ h.beside.gw)))
  split
  · exact h.beside.gw.sourceSeen.correct
  · exact h.beside.gw.sourceSeen

theorem Ilpiac.Canon.applySet (h : m.Canon) : m.applySet.Canon :=
  ite h.beside h

theorem Ilpiac.Canon.todIn {msg : List Byte} (h : m.Canon) : (m.todIn msg).Canon :=
  ite h (ite h.beside.setTimeState h.beside)

theorem Ilpiac.Canon.ppsIn (h : m.Canon) : m.ppsIn.Canon := by
  unfold Ilpiac.ppsIn
  split
  · exact h
  · split
    · exact h
    · exact ite h.beside h.beside.correct

theorem Ilpiac.Canon.ppsOut (h : m.Canon) : m.ppsOut.Canon :=
  ite h.beside h

theorem Ilpiac.Canon.ppsOutEnd (h : m.Canon) : m.ppsOutEnd.Canon :=
  h.beside

theorem Ilpiac.Canon.todOut (h : m.Canon) : m.todOut.Canon :=
  ite h h.beside

theorem Ilpiac.Canon.timeSourceLost (h : m.Canon) : m.timeSourceLost.Canon :=
  ite h.setTimeState h

theorem Ilpiac.Canon.noMaster (h : m.Canon) : m.noMaster.Canon :=
  ite h.raise h

theorem Ilpiac.Canon.resetTime (h : m.Canon) : m.resetTime.Canon :=
  ite h h.beside.setTimeState

theorem Ilpiac.Canon.refSource (h : m.Canon) : m.refSource.Canon :=
  (ite h.gw.gw.gw h.gw).release.timeSource

theorem Ilpiac.Canon.refLost (h : m.Canon) : m.refLost.Canon :=
  ite h h.gw.gw.raise

theorem Ilpiac.Canon.refReturn {offsetPpb : Int} {spread : Bool} (h : m.Canon) :
    (m.refReturn offsetPpb spread).Canon :=
  ite h h.gw.gw.gw.release

/-! ### HELLO and members -/

theorem Ilpiac.Canon.sendHello {port : Nat} (h : m.Canon) : (m.sendHello port).Canon :=
  ite h.emit h

theorem Ilpiac.Canon.helloAll (h : m.Canon) : m.helloAll.Canon :=
  h.over fun _ _ h => h.sendHello

theorem Ilpiac.Canon.sendLink {port : Nat} (h : m.Canon) : (m.sendLink port).Canon :=
  ite h (ite h.emit.emit h.emit)

theorem Ilpiac.Canon.helloPeriod (h : m.Canon) : m.helloPeriod.Canon :=
  h.over fun _ _ h => h.sendHello.sendLink

theorem Ilpiac.Canon.linkCounts {port : Nat} (h : m.Canon) : (m.linkCounts port).Canon :=
  h.beside.over fun _ _ h => h.setCls

theorem Ilpiac.Canon.partnerLand {port : Nat} {p : Packet} (h : m.Canon) : (m.partnerLand port p).Canon :=
  h.waking fun _ h => h.over fun _ _ h => h.setCls

theorem Ilpiac.Canon.portFaultsEnd {port : Nat} (h : m.Canon) : (m.portFaultsEnd port).Canon :=
  h.release.release

theorem Ilpiac.Canon.portPasses {port : Nat} {p : Packet} (h : m.Canon) : (m.portPasses port p).Canon := by
  unfold Ilpiac.portPasses
  split
  · exact h.partnerLand
  · dsimp only
    split
    · exact h.linkCounts.setPortState.portFaultsEnd.partnerLand.ownTrunks
    · split
      · exact h.linkCounts.setPortState.portFaultsEnd.partnerLand.gw
      · exact h.linkCounts.setPortState.portFaultsEnd.partnerLand

theorem Ilpiac.Canon.holdPort {port : Nat} (h : m.Canon) : (m.holdPort port).Canon := by
  unfold Ilpiac.holdPort
  dsimp only
  split
  · exact h.setPortState.flushPort.ownTrunks
  · exact ite h.setPortState.flushPort.gw h.setPortState.flushPort

theorem Ilpiac.Canon.trunkHello {k : Nat} {p : Packet} (h : m.Canon) : (m.trunkHello k p).Canon :=
  ite h (ite h.portPasses h.gw.holdPort.raise)

theorem Ilpiac.Canon.memberHello {port : Nat} {p : Packet} (h : m.Canon) : (m.memberHello port p).Canon := by
  unfold Ilpiac.memberHello
  split
  · exact h
  · exact ite h.portPasses (ite h.gcnt h.gcnt.fenceMember).holdPort.raise

theorem Ilpiac.Canon.helloRx {port : Nat} {p : Packet} (h : m.Canon) : (m.helloRx port p).Canon :=
  ite h (ite h.pw.pw.trunkHello h.pw.pw.memberHello)

/-! ### Lanes and links -/

theorem Ilpiac.Canon.setLane {l : Nat} {x : LaneX} (h : m.Canon) : (m.setLane l x).Canon :=
  h.beside

theorem Ilpiac.Canon.setLink {lp : Nat} {x : LinkX} (h : m.Canon) : (m.setLink lp x).Canon :=
  h.beside

theorem Ilpiac.Canon.lw {l : Nat} {f : Fld} {v : Nat} (h : m.Canon) : (m.lw l f v).Canon :=
  h.wr

theorem Ilpiac.Canon.plw {lp : Nat} {f : Fld} {v : Nat} (h : m.Canon) : (m.plw lp f v).Canon :=
  h.wr

theorem Ilpiac.Canon.laneStates {lp : Nat} (h : m.Canon) : (m.laneStates lp).Canon :=
  h.over fun _ _ h => ite h.lw (ite h.lw h)

theorem Ilpiac.Canon.laneBlind {l st : Nat} (h : m.Canon) : (m.laneBlind l st).Canon :=
  h.lw.lw.lw.lw.setLink.setLane

theorem Ilpiac.Canon.testLane {l : Nat} (h : m.Canon) : (m.testLane l).Canon :=
  h.lw

theorem Ilpiac.Canon.startLane {l : Nat} (h : m.Canon) : (m.startLane l).Canon := by
  unfold Ilpiac.startLane
  split
  · exact h.laneBlind.lw
  · exact ite h.laneBlind.testLane (ite h.laneBlind h.laneBlind)

theorem Ilpiac.Canon.signalDetect {l : Nat} (h : m.Canon) : (m.signalDetect l).Canon :=
  ite h.lw (ite (ite h.lw.draw.lw h.lw) h)

theorem Ilpiac.Canon.cdrLock {l : Nat} (h : m.Canon) : (m.cdrLock l).Canon :=
  ite h.lw.lw h

theorem Ilpiac.Canon.adapt {l : Nat} (h : m.Canon) : (m.adapt l).Canon :=
  ite h.draw.lw.draw.draw.draw.lw.lw.lw h.draw.lw

theorem Ilpiac.Canon.cwLock {l : Nat} (h : m.Canon) : (m.cwLock l).Canon :=
  ite (h.lw.lw.adapt.ifElse (fun h => h.setLink)) h

theorem Ilpiac.Canon.trainTimeout {l : Nat} (h : m.Canon) : (m.trainTimeout l).Canon :=
  ite h.cnt.lw.lw h

theorem Ilpiac.Canon.seqMark {lp : Nat} (h : m.Canon) : (m.seqMark lp).Canon :=
  h.setLink

theorem Ilpiac.Canon.portDown {lp : Nat} {lane : Option Nat} (h : m.Canon) : (m.portDown lp lane).Canon := by
  unfold Ilpiac.portDown
  extract_lets +onlyGivenNames k _src m1 m2 m3 up m4 m5
  have h3 : m3.Canon := h.setLink.plw.laneStates
  clear_value m3
  have h5 : m5.Canon := by
    have h4 : m4.Canon := h3.setPortState.flushPort
    unfold m5
    split
    · exact h4.ifThen fun h => h.raise
    · exact h4
  clear_value m5
  exact ite h3.holmDown (ite h5.ownTrunks (ite (ite h5.gw h5) (ite h5.fenceMember h5)))

theorem Ilpiac.Canon.checkMin {lp lane : Nat} (h : m.Canon) : (m.checkMin lp lane).Canon :=
  ite h.portDown h

theorem Ilpiac.Canon.announce {lp : Nat} (h : m.Canon) : (m.announce lp).Canon :=
  ite h.setLink h

theorem Ilpiac.Canon.applyTx {lp : Nat} (h : m.Canon) : (m.applyTx lp).Canon := by
  unfold Ilpiac.applyTx
  split
  · exact h
  · exact h.seqMark.setLink.plw.laneStates.announce

theorem Ilpiac.Canon.txDue {lp : Nat} (h : m.Canon) : (m.txDue lp).Canon := by
  unfold Ilpiac.txDue
  split
  · exact ite h.applyTx h
  · exact h

theorem Ilpiac.Canon.dropGood {l : Nat} (h : m.Canon) : (m.dropGood l).Canon :=
  h.setLink

theorem Ilpiac.Canon.laneGone {l cause : Nat} (h : m.Canon) : (m.laneGone l cause).Canon := by
  unfold Ilpiac.laneGone
  dsimp only
  split
  · exact h.cnt.lw.setLane.dropGood.laneBlind.raise
  · split
    · exact h.cnt.lw.setLane
    · exact ite h.cnt.lw.setLane.dropGood.setLane h.cnt.lw.setLane.startLane

theorem Ilpiac.Canon.laneFail {l cause : Nat} (h : m.Canon) : (m.laneFail l cause).Canon :=
  ite h h.laneGone.checkMin.announce

theorem Ilpiac.Canon.portForm {lp : Nat} (h : m.Canon) : (m.portForm lp).Canon := by
  unfold Ilpiac.portForm
  dsimp only
  split
  · exact h
  · split
    · exact h.plw.plw
    · split
      · exact h.plw.plw.setLink.laneStates.holmStart
      · exact h.plw.plw.setLink.laneStates.setPort.dropMemberWaits.setPortState.sendHello

theorem Ilpiac.Canon.settleFlit {lp n : Nat} {f : Option Flit} (h : m.Canon) : (m.settleFlit lp n f).2.Canon := by
  unfold Ilpiac.settleFlit
  dsimp only
  refine Canon.over ?_ fun _ _ h => ite h.pcnt h.crcDiscard
  split
  · exact ite h.setLink.setLink.plw.laneStates h.setLink
  · exact h.setLink

theorem Ilpiac.Canon.fecCount {l : Nat} {bad : Bool} {n : Nat} (h : m.Canon) : (m.fecCount l bad n).Canon := by
  unfold Ilpiac.fecCount
  dsimp only
  split
  · exact ite h.cnt.setLane.laneFail h.cnt.setLane
  · exact ite h.cnt.setLane.laneFail h.cnt.setLane

theorem Ilpiac.Canon.setRxIdle {lp v : Nat} (h : m.Canon) : (m.setRxIdle lp v).Canon :=
  ite h (h.plw.over (fun _ _ h => ite h.lw (ite h.lw h)))

theorem Ilpiac.Canon.controlRx {lp : Nat} {c : Control} (h : m.Canon) : (m.controlRx lp c).Canon := by
  unfold Ilpiac.controlRx
  dsimp only
  split
  · exact h.txDue.setLink
  · exact (ite (ite h.txDue.setLink.setLink h.txDue.setLink.setLink.plw) h.txDue.setLink.setLink.plw).laneStates.over
      (fun _ _ h => h.laneFail) |>.checkMin.announce

theorem Ilpiac.Canon.controlFlit {l : Nat} {c : Control} (h : m.Canon) : (m.controlFlit l c).2.Canon := by
  unfold Ilpiac.controlFlit
  dsimp only
  split
  · exact h
  · dsimp only
    refine controlRx ?_
    split
    · split
      · exact h.settleFlit
      · exact h
    · exact h

theorem Ilpiac.Canon.flitRx {l : Nat} {cw : Codeword} (h : m.Canon) : (m.flitRx l cw).2.Canon := by
  unfold Ilpiac.flitRx
  extract_lets +onlyGivenNames lp f
  split
  · exact h
  · extract_lets +onlyGivenNames bad k d n r m1 m2
    have hr : r.2.Canon := by
      unfold r
      split
      · exact h
      · split
        · split
          · exact h.settleFlit
          · exact h
        · split
          · exact h.settleFlit
          · exact h
    clear_value r
    have h1 : m1.Canon := hr.txDue.adapt.fecCount
    clear_value m1
    have h2 : m2.Canon := by
      unfold m2
      split
      · exact h1
      · split
        · exact h1.setRxIdle
        · split
          · exact h1.setRxIdle
          · exact ite h1.setRxIdle h1
    exact ite h2.controlRx h2

theorem Ilpiac.Canon.signalLoss {l : Nat} (h : m.Canon) : (m.signalLoss l).Canon := by
  unfold Ilpiac.signalLoss
  dsimp only
  split
  · exact h
  · exact ite h.laneFail (ite h.lw.lw (ite h.startLane h))

theorem Ilpiac.Canon.marginCheck {l avg : Nat} (h : m.Canon) : (m.marginCheck l avg).Canon :=
  ite h.laneFail h

theorem Ilpiac.Canon.switchOff {l : Nat} (h : m.Canon) : (m.switchOff l).Canon :=
  ite h.applyTx.startLane h

theorem Ilpiac.Canon.readd {l : Nat} (h : m.Canon) : (m.readd l).Canon :=
  ite h.setLink.announce h

theorem Ilpiac.Canon.clearHold {l : Nat} (h : m.Canon) : (m.clearHold l).Canon := by
  unfold Ilpiac.clearHold
  split
  · exact h
  · dsimp only
    split
    · exact ite h.setLane.startLane h.setLane.startLane.release
    · exact ite h.setLane h.setLane.release

theorem Ilpiac.Canon.laneEnable {l : Nat} (h : m.Canon) : (m.laneEnable l).Canon :=
  ite h.lw.startLane h.lw

theorem Ilpiac.Canon.laneDisabled {l : Nat} (h : m.Canon) : (m.laneDisabled l).Canon :=
  ite h h.startLane

theorem Ilpiac.Canon.laneDisable {l : Nat} (h : m.Canon) : (m.laneDisable l).Canon :=
  (ite h.lw.laneFail h.lw).laneDisabled

theorem Ilpiac.Canon.controlTimer {lp : Nat} (h : m.Canon) : (m.controlTimer lp).Canon :=
  h.txDue

theorem Ilpiac.Canon.lightEnter {lp : Nat} (h : m.Canon) : (m.lightEnter lp).Canon :=
  ite h.seqMark.plw h

theorem Ilpiac.Canon.lightBeacon {lp : Nat} (h : m.Canon) : (m.lightBeacon lp).Canon :=
  ite h.setLink h

theorem Ilpiac.Canon.lightExit {lp : Nat} (h : m.Canon) : (m.lightExit lp).Canon :=
  ite h.setLink.plw h

theorem Ilpiac.Canon.deepEnter {p : Nat} (h : m.Canon) : (m.deepEnter p).Canon :=
  ite h.seqMark.plw h

theorem Ilpiac.Canon.deepWake {p : Nat} (h : m.Canon) : (m.deepWake p).Canon :=
  ite h.setLink.plw.setRxIdle h

theorem Ilpiac.Canon.injectLane {l : Nat} (h : m.Canon) : (m.injectLane l).Canon :=
  ite h.lw.cnt h.lw

theorem Ilpiac.Canon.restartLanes {lp : Nat} (h : m.Canon) : (m.restartLanes lp).Canon :=
  h.over fun _ _ h => h.startLane

theorem Ilpiac.Canon.lanePower {lp : Nat} (h : m.Canon) : (m.lanePower lp).Canon := by
  unfold Ilpiac.lanePower
  dsimp only
  split
  · exact h
  · exact (ite h (ite h.portDown h)).over fun _ _ h => h.startLane

theorem Ilpiac.Canon.lanePowerAll (h : m.Canon) : m.lanePowerAll.Canon :=
  h.over fun _ _ h => h.lanePower

/-! ### Engines and programs -/

theorem Ilpiac.Canon.setEng {e : Nat} {x : Engine} (h : m.Canon) : (m.setEng e x).Canon :=
  h.beside

theorem Ilpiac.Canon.updEng {e : Nat} {f : Engine → Engine} (h : m.Canon) : (m.updEng e f).Canon :=
  h.setEng

theorem Ilpiac.Canon.setEngState {e s : Nat} (h : m.Canon) : (m.setEngState e s).Canon :=
  h.wr

theorem Ilpiac.Canon.updPhase4 {k : CollId} {f : Phase4 → Phase4} (h : m.Canon) : (m.updPhase4 k f).Canon :=
  h.beside

theorem Ilpiac.Canon.giveInv {e : Nat} {coll : CollId} {k : Nat} (h : m.Canon) : (m.giveInv e coll k).Canon :=
  h.updEng

theorem Ilpiac.Canon.assignOne {coll : CollId} {n : Nat} (h : m.Canon) : (m.assignOne coll n).Canon := by
  induction n generalizing m with
  | zero => exact h
  | succ n ih =>
    unfold Ilpiac.assignOne
    split
    · split
      · exact h
      · split
        · exact h
        · exact ih h.updPhase4.giveInv
    · exact h

theorem Ilpiac.Canon.startFill {e : Nat} (h : m.Canon) : (m.startFill e).Canon := by
  unfold Ilpiac.startFill
  dsimp only
  split
  · split
    · exact ite h (ite h.setEng (ite h h.setEng))
    · exact h
  · exact h

theorem Ilpiac.Canon.assign (h : m.Canon) : m.assign.Canon :=
  h.over (fun _ _ h => h.assignOne) |>.over fun _ _ h => h.startFill

theorem Ilpiac.Canon.takeBack {e : Nat} (h : m.Canon) : (m.takeBack e).Canon := by
  unfold Ilpiac.takeBack
  split
  · exact h
  · exact h.updEng.updPhase4

theorem Ilpiac.Canon.stopPhase4 {k : CollId} (h : m.Canon) : (m.stopPhase4 k).Canon := by
  unfold Ilpiac.stopPhase4
  dsimp only
  refine h.updPhase4.over fun _ _ h => ?_
  split
  · exact ite h.updEng h
  · exact h

theorem Ilpiac.Canon.invocationStart {e : Nat} (h : m.Canon) : (m.invocationStart e).Canon := by
  unfold Ilpiac.invocationStart
  dsimp only
  split
  · split
    · exact ite h.assign h.assign.setEng.setEngState.wr.wr.assign
    · exact h.assign
  · exact h.assign

theorem Ilpiac.Canon.failPhase4 {k : CollId} {st : Nat} (h : m.Canon) : (m.failPhase4 k st).Canon :=
  h.updPhase4.stopPhase4

theorem Ilpiac.Canon.recordEngineFault {e bundle : Nat} {s : Stop} (h : m.Canon) :
    (m.recordEngineFault e bundle s).Canon := by
  unfold Ilpiac.recordEngineFault
  dsimp only
  split
  · exact h.wr.wr.wr.wr
  · exact h.wr.wr.wr.wr.wr.wr.wr.wr.wr.wr.wr

theorem Ilpiac.Canon.stopEngine {e bundle : Nat} {s : Stop} {also : Option CollId} (h : m.Canon) :
    (m.stopEngine e bundle s also).Canon := by
  unfold Ilpiac.stopEngine
  dsimp only
  refine (raise ?_).assign
  split
  · refine failPhase4 ?_
    split
    · exact h.takeBack.updEng.setEngState.ifElse (fun h => h.recordEngineFault) |>.failPhase4
    · exact h.takeBack.updEng.setEngState.ifElse fun h => h.recordEngineFault
  · split
    · exact h.takeBack.updEng.setEngState.ifElse (fun h => h.recordEngineFault) |>.failPhase4
    · exact h.takeBack.updEng.setEngState.ifElse fun h => h.recordEngineFault

theorem Ilpiac.Canon.emitUpdate {i : Inv} (h : m.Canon) : (m.emitUpdate i).Canon := by
  unfold Ilpiac.emitUpdate
  split
  · exact ite h h.updCtx.noteRun.noteSide.deliver
  · exact h

theorem Ilpiac.Canon.invocationEnd {e : Nat} (h : m.Canon) : (m.invocationEnd e).Canon :=
  (ite h.updEng.wrapCnt h.updEng.wrapCnt.takeBack).setEngState.assign

theorem Ilpiac.Canon.frozen {e : Nat} (h : m.Canon) : (m.frozen e).Canon :=
  h.wrapCnt

theorem Ilpiac.Canon.issueBundle {e : Nat} {p : Program} {old : Inv} {bd : BitVec 128} (h : m.Canon) :
    (m.issueBundle e p old bd).Canon := by
  unfold Ilpiac.issueBundle
  dsimp only
  split
  · exact (ite h.setEng.noteRun.emitUpdate h.setEng.noteRun).invocationEnd
  · exact ite h.setEng.noteRun.emitUpdate h.setEng.noteRun

theorem Ilpiac.Canon.bundleIssue {e : Nat} (h : m.Canon) : (m.bundleIssue e).Canon := by
  unfold Ilpiac.bundleIssue
  dsimp only
  split
  · exact ite h.frozen h
  · exact h
  · split
    · exact h.frozen
    · split
      · exact h.stopEngine
      · split
        · exact h.wrapCnt.setEng
        · split
          · split
            · split
              · exact h.setEng.frozen
              · split
                · exact h.wrapCnt.stopEngine
                · exact h.wrapCnt.setEng.issueBundle
            · exact h.setEng.frozen.wrapCnt
          · split
            · exact h.frozen
            · split
              · exact h.wrapCnt.stopEngine
              · exact h.wrapCnt.issueBundle

theorem Ilpiac.Canon.icacheFill {e : Nat} (h : m.Canon) : (m.icacheFill e).Canon := by
  unfold Ilpiac.icacheFill
  dsimp only
  split
  · split
    · split
      · exact h.memRead.stopEngine
      · exact h.memRead.setEng
    · exact h
  · exact h

theorem Ilpiac.Canon.invocationLimit {e : Nat} (h : m.Canon) : (m.invocationLimit e).Canon := by
  unfold Ilpiac.invocationLimit
  split
  · exact ite h.stopEngine h
  · exact h

theorem Ilpiac.Canon.streamComplete {e n : Nat} (h : m.Canon) : (m.streamComplete e n).Canon := by
  unfold Ilpiac.streamComplete
  extract_lets +onlyGivenNames x
  clear_value x
  split
  · exact h
  · refine ite h ?_
    extract_lets +onlyGivenNames at_ pc w r m1
    have hr : r.2.Canon := by
      unfold r
      split
      · exact h.memRead
      · exact h.memWrite
    clear_value r
    have h1 : m1.Canon := hr.updEng
    split
    · exact h1.stopEngine
    · exact (h1.ifElse fun h => h.updEng).assign

theorem Ilpiac.Canon.phase4End {k : CollId} (h : m.Canon) : (m.phase4End k).Canon := by
  unfold Ilpiac.phase4End
  split
  · exact h
  · split
    · exact h
    · exact (ite h.beside h.beside.failColl).collStep

theorem Ilpiac.Canon.phase4Timeout {k : CollId} (h : m.Canon) : (m.phase4Timeout k).Canon := by
  unfold Ilpiac.phase4Timeout
  split
  · exact h
  · exact h.stopPhase4.beside.failColl.collStep

theorem Ilpiac.Canon.progReport {addr : Nat} {f : Finding} {crc bundles loadNs : Nat} (h : m.Canon) :
    (m.progReport addr f crc bundles loadNs).2.Canon :=
  h.boardStore

theorem Ilpiac.Canon.progLoad {d : AccDesc} (h : m.Canon) : (m.progLoad d).Canon := by
  unfold Ilpiac.progLoad
  dsimp only
  split
  · exact h.done
  · split
    · exact (ite h.noteRefusals.progReport h.noteRefusals).done
    · exact h.noteRefusals.over (fun _ _ h => h.setEngState) |>.beside

theorem Ilpiac.Canon.programBuffer {bundles : List (BitVec 128)} (h : m.Canon) :
    (m.programBuffer bundles).2.Canon := by
  unfold Ilpiac.programBuffer
  split
  · exact h.poolTake.of_snd ‹_›
  · dsimp only
    split
    · exact h.poolTake.of_snd ‹_› |>.memWrite
    · exact h.poolTake.of_snd ‹_› |>.memWrite.poolGive

theorem Ilpiac.Canon.giveBack {o : Option Nat} (h : m.Canon) :
    Ilpiac.Canon (match o with | some a => m.poolGive a | none => m) := by
  cases o with
  | some a => exact h.poolGive
  | none => exact h

theorem Ilpiac.Canon.progLoadDone {program : Nat} {image : Readback} {loadNs : Nat} (h : m.Canon) :
    (m.progLoadDone program image loadNs).Canon := by
  unfold Ilpiac.progLoadDone
  split
  · next l d _ _ =>
    extract_lets +onlyGivenNames es _src m1 back rd
    have hrd : rd.2.Canon := boardRead (m := m1) h.beside
    have hback : ∀ m : Ilpiac, m.Canon → (back m).Canon := fun m h => h.over fun _ _ h => h.setEngState
    clear_value rd back
    split
    · exact (hback _ hrd).progReport.done
    · extract_lets +onlyGivenNames m2 hd report
      have hreport : ∀ (m : Ilpiac) (f : Finding), m.Canon → (report m f).2.Canon := fun m f h => h.progReport.congr_snd rfl
      have h2 : m2.Canon := hrd
      clear_value m2 report
      split
      · exact (hreport _ _ (hback _ h2)).done
      · extract_lets +onlyGivenNames bs big buf
        have hbuf : buf.2.Canon := by
          unfold buf
          split
          · exact h2.programBuffer
          · exact h2
        clear_value buf
        split
        · exact (hreport _ _ (hback _ hbuf)).done
        · extract_lets +onlyGivenNames p r
          have hr : r.2.Canon := (hreport _ _ hbuf).congr_snd rfl
          clear_value r
          split
          · exact (hback _ hr.giveBack).done
          · exact hr.over (fun _ _ h => h.setEng.wr.setEngState) |>.done.assign
  · exact h

theorem Ilpiac.Canon.progUnload {d : AccDesc} (h : m.Canon) : (m.progUnload d).Canon :=
  ite h.done (ite h.done h.beside)

theorem Ilpiac.Canon.emptyEngines {x1 : Nat} (h : m.Canon) : (m.emptyEngines x1).Canon := by
  unfold Ilpiac.emptyEngines
  dsimp only
  refine Canon.over ?_ fun _ _ h => h.setEng.wr.setEngState
  split
  · exact h.poolGive
  · exact h

theorem Ilpiac.Canon.progUnloadDone {program : Nat} (h : m.Canon) : (m.progUnloadDone program).Canon := by
  unfold Ilpiac.progUnloadDone
  split
  · exact h
  · split
    · exact h
    · dsimp only
      split
      · exact h.beside.emptyEngines.done
      · exact h.beside.emptyEngines

theorem Ilpiac.Canon.clearEngineFault {e : Nat} (h : m.Canon) : (m.clearEngineFault e).Canon := by
  unfold Ilpiac.clearEngineFault
  extract_lets w m1 m2
  have h2 : m2.Canon := release (h.foldl fun _ _ h => h.wr)
  exact ite h2.setEngState.assign h2

theorem Ilpiac.Canon.disableEngine {e : Nat} (h : m.Canon) : (m.disableEngine e).Canon :=
  (ite h.wr.takeBack.setEngState h.wr.takeBack).assign

theorem Ilpiac.Canon.enableEngine {e : Nat} (h : m.Canon) : (m.enableEngine e).Canon :=
  (ite h.wr.setEngState h.wr).assign

/-! ### Rings, descriptors and records -/

theorem Ilpiac.Canon.setRun {n st : Nat} (h : m.Canon) : (m.setRun n st).Canon :=
  ite h.gw.gw h.gw

theorem Ilpiac.Canon.runRefusal {f : Fld} {n cause : Nat} (h : m.Canon) : (m.runRefusal f n cause).Canon :=
  h.gw.gw

theorem Ilpiac.Canon.beginStop {n : Nat} (h : m.Canon) : (m.beginStop n).Canon :=
  ite h.runRefusal.event h.setRun

theorem Ilpiac.Canon.runStop {n : Nat} (h : m.Canon) : (m.runStop n).Canon :=
  ite h.gw.beginStop h.gw

theorem Ilpiac.Canon.runStart {n : Nat} (h : m.Canon) : (m.runStart n).Canon :=
  ite h (ite h.gw.setRun h.gw)

theorem Ilpiac.Canon.runStopDone {n : Nat} (h : m.Canon) : (m.runStopDone n).Canon := by
  unfold Ilpiac.runStopDone
  split
  · exact h
  · dsimp only
    split
    · exact h.hbmStop.setRun.event.ifThen fun h => h.setRun
    · exact ite h.setRun.event.setRun h.setRun.event

theorem Ilpiac.Canon.endStart {n : Nat} {ok : Bool} (h : m.Canon) : (m.endStart n ok).Canon := by
  unfold Ilpiac.endStart
  dsimp only
  split
  · exact ite h.setRun.event.beginStop h.setRun.event
  · exact h.setRun.runRefusal.event.ifThen fun h => h.beginStop

theorem Ilpiac.Canon.startEffect {n : Nat} {ok : Bool} (h : m.Canon) : (m.startEffect n ok).Canon := by
  unfold Ilpiac.startEffect
  split
  · exact ite h.gw.recount.helloAll h.gw
  · exact ite h.timeSource (ite h.rmStat h)

theorem Ilpiac.Canon.hbmStartDone {failed : List Nat} (h : m.Canon) : (m.hbmStartDone failed).Canon :=
  ite h h.hbmStart.endStart

theorem Ilpiac.Canon.runStartDone {n : Nat} (h : m.Canon) : (m.runStartDone n).Canon :=
  ite h (ite h.hbmStartDone h.endStart.startEffect)

theorem Ilpiac.Canon.setRingX {r : Nat} {x : RingX} (h : m.Canon) : (m.setRingX r x).Canon :=
  h.beside

theorem Ilpiac.Canon.dw {r : Nat} {f : Fld} {v : Nat} (h : m.Canon) : (m.dw r f v).Canon :=
  h.wr

theorem Ilpiac.Canon.ringError {r cause : Nat} (h : m.Canon) : (m.ringError r cause).Canon :=
  h.dw.dw.dw.gw.gw.gw.event

theorem Ilpiac.Canon.fetchRead {r n : Nat} (h : m.Canon) : (m.fetchRead r n).Canon :=
  ite h.send h

theorem Ilpiac.Canon.drDoorbell {r v : Nat} (h : m.Canon) : (m.drDoorbell r v).Canon :=
  ite h (ite (h.dw.over (fun _ _ h => h.fetchRead)) h.ringError)

theorem Ilpiac.Canon.ringEnable {r : Nat} (h : m.Canon) : (m.ringEnable r).Canon :=
  ite h (ite h.regAccess h.dw.dw.dw.dw.dw.dw.setRingX)

theorem Ilpiac.Canon.ringDisable {r : Nat} (h : m.Canon) : (m.ringDisable r).Canon :=
  h.stopRing

theorem Ilpiac.Canon.fetchOne {r n : Nat} {ws : Option (List Word)} (h : m.Canon) : (m.fetchOne r n ws).2.Canon := by
  unfold Ilpiac.fetchOne
  dsimp only
  split
  · exact h.boardRead
  · split
    · exact h.regAccess
    · split
      · exact h
      · exact h.windowRefusal

theorem Ilpiac.Canon.fetchFailed {r n : Nat} (h : m.Canon) : (m.fetchFailed r n).Canon :=
  ite h.ringError (ite h h.setRingX)

theorem Ilpiac.Canon.fetchDone {r first : Nat} {data : Option (List (List Word))} (h : m.Canon) :
    (m.fetchDone r first data).Canon := by
  unfold Ilpiac.fetchDone
  split
  · exact h
  · dsimp only
    refine h.over fun _ _ h => ?_
    split
    · exact h
    · split
      · exact h.fetchOne.setRingX
      · exact h.fetchOne.fetchFailed

theorem Ilpiac.Canon.fetchAgain {r n : Nat} (h : m.Canon) : (m.fetchAgain r n).Canon :=
  h.setRingX.fetchRead

theorem Ilpiac.Canon.acceptDesc {r : Nat} (h : m.Canon) : (m.acceptDesc r).Canon := by
  unfold Ilpiac.acceptDesc
  dsimp only
  split
  · exact h
  · split
    · exact h
    · split
      · exact h.fetchAgain
      · split
        · exact h.ringError
        · split
          · exact h.dw.dw
          · split
            · exact h.setRingX.dw.dw.dw.beside
            · exact h.setRingX.dw.dw.dw.beside.done

theorem Ilpiac.Canon.nop {d : AccDesc} (h : m.Canon) : (m.nop d).Canon :=
  h.done

theorem Ilpiac.Canon.cw {c : Nat} {f : Fld} {v : Nat} (h : m.Canon) : (m.cw c f v).Canon :=
  h.wr

theorem Ilpiac.Canon.ringIrq {c : Nat} (h : m.Canon) : (m.ringIrq c).Canon :=
  h.irqDue.cw.cw.beside

theorem Ilpiac.Canon.irqCheck {c : Nat} (h : m.Canon) : (m.irqCheck c).Canon :=
  ite h.ringIrq h

theorem Ilpiac.Canon.coalTimeout {c : Nat} (h : m.Canon) : (m.coalTimeout c).Canon :=
  ite h h.beside.irqCheck

theorem Ilpiac.Canon.restall {c : Nat} (h : m.Canon) : (m.restall c).Canon :=
  ite h.stall.release h.stall

theorem Ilpiac.Canon.cringEnable {c : Nat} (h : m.Canon) : (m.cringEnable c).Canon := by
  unfold Ilpiac.cringEnable
  split
  · exact h
  · exact ite h.regAccess h.cw.cw.cw.cw.beside.irqCheck.restall

theorem Ilpiac.Canon.cringDisable {c : Nat} (h : m.Canon) : (m.cringDisable c).Canon :=
  h.cw.restall

theorem Ilpiac.Canon.crDoorbell {c v : Nat} (h : m.Canon) : (m.crDoorbell c v).Canon := by
  unfold Ilpiac.crDoorbell
  dsimp only
  split
  · exact (ite h.regAccess h.cw.restall).cw.irqCheck
  · exact ite h.regAccess h.cw.restall

theorem Ilpiac.Canon.recordWritten {r : CplRec} (h : m.Canon) : (m.recordWritten r).Canon := by
  unfold Ilpiac.recordWritten
  dsimp only
  split
  · refine beside ?_
    split
    · exact h.beside.closeColl
    · exact h.beside
  · split
    · exact h.beside.closeColl
    · exact h.beside

theorem Ilpiac.Canon.recordWrite {c : Nat} (h : m.Canon) : (m.recordWrite c).Canon := by
  unfold Ilpiac.recordWrite
  split
  · exact h
  · dsimp only
    split
    · exact h
    · split
      · exact h.windowRefusal.cw
      · split
        · exact h
        · exact (ite h.boardWrite.cw.cw h.boardWrite.cw).recordWritten.restall.irqCheck

theorem Ilpiac.Canon.stallTimeout {c : Nat} (h : m.Canon) : (m.stallTimeout c).Canon :=
  ite h.event.raise h

theorem Ilpiac.Canon.irqSend (h : m.Canon) : m.irqSend.Canon := by
  unfold Ilpiac.irqSend
  split
  · exact h
  · exact ite h.beside.send h

theorem Ilpiac.Canon.maskWrite {v : Nat} (h : m.Canon) : (m.maskWrite v).Canon :=
  h.gw.over fun _ _ h => h.irqDue

theorem Ilpiac.Canon.holmAckTimer (h : m.Canon) : m.holmAckTimer.Canon :=
  ite h h.beside

theorem Ilpiac.Canon.holmAckTimeout (h : m.Canon) : m.holmAckTimeout.Canon :=
  ite h.portDown h

/-! ### Fault actions and function resets -/

theorem Ilpiac.Canon.rehome (h : m.Canon) : m.rehome.Canon :=
  h.over fun _ _ h => h.moveContexts

theorem Ilpiac.Canon.enableFurrow {f : Nat} (h : m.Canon) : (m.enableFurrow f).Canon :=
  ite h (ite h.wr h.wr.wr.rehome)

theorem Ilpiac.Canon.disableFurrow {f : Nat} (h : m.Canon) : (m.disableFurrow f).Canon :=
  ite h (ite h.wr.wr h.wr)

theorem Ilpiac.Canon.gateFurrow {f : Nat} (h : m.Canon) : (m.gateFurrow f).Canon :=
  ite h.wr h

theorem Ilpiac.Canon.retireWrite {f : Nat} (h : m.Canon) : (m.retireWrite f).Canon :=
  ite h h.wr.retireFurrow

theorem Ilpiac.Canon.moveDone {f : Nat} (h : m.Canon) : (m.moveDone f).Canon :=
  ite h.moveContexts h

theorem Ilpiac.Canon.addFence {src : Nat} {t : FenceTarget} (h : m.Canon) : (m.addFence src t).Canon :=
  h.beside

theorem Ilpiac.Canon.endFences {t : FenceTarget} (h : m.Canon) : (m.endFences t).Canon :=
  h.beside

theorem Ilpiac.Canon.fencePort {p : Nat} (h : m.Canon) : (m.fencePort p).Canon :=
  ite h (ite (ite h.setPort.holdPort h.setPort) h.fenceMember)

theorem Ilpiac.Canon.fenceChannel {c : Nat} (h : m.Canon) : (m.fenceChannel c).Canon :=
  h.failChannel

theorem Ilpiac.Canon.takeFence {src : Nat} {x2 : FaultTarget} (h : m.Canon) : (m.takeFence src x2).Canon := by
  unfold Ilpiac.takeFence
  split
  · exact h
  · exact ite h.addFence h
  · exact h.fencePort
  · exact h.disableFurrow
  · exact h.disableEngine
  · exact h.fenceChannel
  · exact ite h.addFence.dw.dw h.addFence
  · exact h.addFence.stall

theorem Ilpiac.Canon.statusResetIn {p : Nat → Bool} (h : m.Canon) : (m.statusResetIn p).Canon :=
  h.over fun _ _ h => h.setReg

theorem Ilpiac.Canon.abortHoses (h : m.Canon) : m.abortHoses.Canon :=
  h.over fun _ _ h => h.hoseDone

theorem Ilpiac.Canon.abortGroups (h : m.Canon) : m.abortGroups.Canon := by
  unfold Ilpiac.abortGroups
  dsimp only
  refine h.over (fun _ _ h => ?_) |>.beside
  split
  · exact h
  · refine (endRestore ?_).over (fun _ _ h => h.doneAt) |>.updGroup
    split
    · exact h.doneAt
    · exact h

theorem Ilpiac.Canon.resetSwitch (h : m.Canon) : m.resetSwitch.Canon :=
  h.over (fun _ _ h => h.dropComm) |>.over (fun _ _ h => h.updEng)
    |>.abortHoses.abortGroups.beside.over (fun _ _ h => h.setPort) |>.over (fun _ _ h => h.setFx)
    |>.over (fun _ _ h => h.furrowCount) |>.statusResetIn.over (fun _ _ h => h.pw.pw)
    |>.ownTrunks.recount.rmStat

theorem Ilpiac.Canon.resetAdmission (h : m.Canon) : m.resetAdmission.Canon :=
  h.over (fun _ _ h => h.unqueue.failColl) |>.statusResetIn.rmStat

theorem Ilpiac.Canon.resetHbm (h : m.Canon) : m.resetHbm.Canon :=
  ite h (h.hbmStop.statusResetIn.over (fun _ _ h => h.gw)).setRun.event.setRun

theorem Ilpiac.Canon.resetSync (h : m.Canon) : m.resetSync.Canon := by
  unfold Ilpiac.resetSync
  dsimp only
  refine h.over (fun _ _ h => ?_) |>.statusResetIn.setWaits
  split
  · exact h.doneAt
  · exact h

theorem Ilpiac.Canon.functionReset {n : Nat} (h : m.Canon) : (m.functionReset n).Canon := by
  unfold Ilpiac.functionReset
  have hm := (h.endFences (t := .function n)).gcnt (f := F.RESET_STATUS_FUNC_RESETS) (k := 1) (j := 0)
  generalize (m.endFences (.function n)).gcnt F.RESET_STATUS_FUNC_RESETS 1 = m1 at hm ⊢
  exact ite hm.resetSwitch <| ite hm.resetAdmission <| ite hm.resetHbm <|
    ite hm.resetSync <| ite hm.resetTime hm

theorem Ilpiac.Canon.functionResetDone (h : m.Canon) : m.functionResetDone.Canon :=
  ite h h.beside.helloAll

theorem Ilpiac.Canon.linkRestart {p : Nat} (h : m.Canon) : (m.linkRestart p).Canon :=
  (ite h (ite h h.fenceMember)).portDown.setPort.statusResetIn.pw.ifThen (fun h => h.gw.ownTrunks)
    |>.restartLanes

theorem Ilpiac.Canon.linkReset {p : Nat} (h : m.Canon) : (m.linkReset p).Canon :=
  ite h h.gcnt.linkRestart

theorem Ilpiac.Canon.resetFurrow {f : Nat} (h : m.Canon) : (m.resetFurrow f).Canon :=
  ite h (ite h.moveContexts h.wr.moveContexts.enableFurrow)

theorem Ilpiac.Canon.takeReset {t : FaultTarget} (h : m.Canon) : (m.takeReset t).Canon := by
  cases t with
  | none => exact h
  | fn n => exact h.functionReset
  | port p => exact h.linkReset
  | furrow f => exact h.resetFurrow
  | engine e => exact h.clearEngineFault
  | channel c => exact h.fenceChannel
  | dring r => exact h.stopRing.endFences
  | cring c => exact h.cringDisable.endFences.restall

theorem Ilpiac.Canon.stopFunctions (h : m.Canon) : m.stopFunctions.Canon :=
  (ite h.hbmStop h).over fun _ _ h => ite h h.setRun.event

theorem Ilpiac.Canon.refreshAll (h : m.Canon) : m.refreshAll.Canon :=
  h.over fun _ _ h => h.wr

theorem Ilpiac.Canon.stop (h : m.Canon) : m.stop.Canon :=
  h.stopFunctions.refreshAll.gw.gw.beside.lanePowerAll

theorem Ilpiac.Canon.logLatch {action : Nat} (h : m.Canon) : (m.logLatch action).Canon :=
  h.journal

theorem Ilpiac.Canon.freeLatch (h : m.Canon) : m.freeLatch.Canon :=
  h.beside.gw.latchNext

theorem Ilpiac.Canon.graceExpiry (h : m.Canon) : m.graceExpiry.Canon := by
  unfold Ilpiac.graceExpiry
  split
  · exact h
  · dsimp only
    split
    · exact (ite h.beside h.beside.gcnt).stop
    · split
      · exact (ite h.beside h.beside.gcnt).logLatch.freeLatch.takeFence
      · split
        · exact (ite h.beside h.beside.gcnt).logLatch.freeLatch.takeReset
        · exact (ite h.beside h.beside.gcnt).logLatch.freeLatch

theorem Ilpiac.Canon.dueActions {n : Nat} (h : m.Canon) : (Ilpiac.dueActions n m).Canon := by
  induction n generalizing m with
  | zero => exact h
  | succ n ih =>
    unfold Ilpiac.dueActions
    split
    · exact h
    · exact ih (ite h.beside.graceExpiry h.beside)

theorem Ilpiac.Canon.faultClear (h : m.Canon) : m.faultClear.Canon :=
  ite h h.logLatch.beside.freeLatch

theorem Ilpiac.Canon.pairBroken {s : Nat} (h : m.Canon) : (m.pairBroken s).Canon :=
  ite h (ite h.gw.draw.raise h.gw.raise)

theorem Ilpiac.Canon.parityError {off : Nat} (h : m.Canon) : (m.parityError off).Canon :=
  h.raise

theorem Ilpiac.Canon.memoryFault {k : CollId} (h : m.Canon) : (m.memoryFault k).Canon := by
  unfold Ilpiac.memoryFault
  split
  · exact ite h h.failColl.collStep
  · exact h

theorem Ilpiac.Canon.retainedLost {id : Nat} (h : m.Canon) : (m.retainedLost id).Canon := by
  unfold Ilpiac.retainedLost
  split
  · exact h
  · dsimp only
    split
    · split
      · exact h.beside.unhold.over (fun _ _ h => h.undeliver) |>.collStep
      · exact h.beside.unhold.memoryFault
    · exact h.beside.unhold

theorem Ilpiac.Canon.trunkCopyLost {id : Nat} (h : m.Canon) : (m.trunkCopyLost id).Canon := by
  unfold Ilpiac.trunkCopyLost
  split
  · exact h
  · dsimp only
    split
    · exact h.releaseCopy.memoryFault
    · exact h.releaseCopy.recordMissing.clocheFlow
    · exact h.releaseCopy

theorem Ilpiac.Canon.dropPacket {id : Nat} (h : m.Canon) : (m.dropPacket id).Canon :=
  h.over (fun _ _ h => h.dropFrom) |>.over (fun _ _ h => h.setPort) |>.setBuf.reap

theorem Ilpiac.Canon.packetLost {id : Nat} (h : m.Canon) : (m.packetLost id).Canon := by
  unfold Ilpiac.packetLost
  split
  · exact h
  · split
    · exact h.retainedLost
    · split
      · exact h.updCtx.dropPacket
      · exact ite h.dropPacket.memoryFault h.dropPacket

theorem Ilpiac.Canon.sramUe {a : SramArea} (h : m.Canon) : (m.sramUe a).Canon := by
  unfold Ilpiac.sramUe
  dsimp only
  refine raise ?_
  split
  · exact h.packetLost
  · exact h.retainedLost
  · exact h.trunkCopyLost
  · exact h.restart.pumpAll
  · exact h.memoryFault

theorem Ilpiac.Canon.faultLogRead {d : AccDesc} (h : m.Canon) : (m.faultLogRead d).Canon := by
  unfold Ilpiac.faultLogRead
  dsimp only
  split
  · exact ite h.noteRefusals.done h.noteRefusals.boardStore.done
  · exact ite h.done h.boardStore.done

theorem Ilpiac.Canon.twinSend (h : m.Canon) : m.twinSend.Canon :=
  ite h h.beside.emit

theorem Ilpiac.Canon.twinRx {p : Packet} (h : m.Canon) : (m.twinRx p).Canon :=
  h.over fun _ _ h => h.twinPartner

theorem Ilpiac.Canon.twinEnabled {old : Nat} (h : m.Canon) : (m.twinEnabled old).Canon := by
  unfold Ilpiac.twinEnabled
  dsimp only
  split
  · split
    · exact h.beside
    · split
      · exact h.beside.gw.release.setPortState.sendHello
      · exact h.beside.gw.release
  · exact h.beside.gw.release

/-! ### Boot and images -/

theorem Ilpiac.Canon.placementLinks (h : m.Canon) : m.placementLinks.Canon :=
  h.gw.over (fun _ _ h => ite h.gw.setPortState.release h.gw) |>.lanePowerAll.timeSource.ownTrunks.helloAll

theorem Ilpiac.Canon.commitNow (h : m.Canon) : m.commitNow.Canon :=
  ite h.gw.event.sbEvent h.setReg.setReg.gw.event.sbEvent.placementLinks

theorem Ilpiac.Canon.placementCommit (h : m.Canon) : m.placementCommit.Canon :=
  ite h.commitNow h.beside

theorem Ilpiac.Canon.imageLoad (h : m.Canon) : m.imageLoad.Canon :=
  ite h.gw.beside h.gw

theorem Ilpiac.Canon.reportImage {kind : Nat} {i : Image} (h : m.Canon) : (m.reportImage kind i).Canon :=
  h.over (fun _ _ h => h.gw) |>.gw.gw.gw

theorem Ilpiac.Canon.bootReached (h : m.Canon) : m.bootReached.Canon :=
  ite h.gw.beside.commitNow h.gw

theorem Ilpiac.Canon.takeImage {kind : Nat} {i : Image} (h : m.Canon) : (m.takeImage kind i).Canon := by
  unfold Ilpiac.takeImage
  dsimp only
  split
  · split
    · exact h.reportImage.beside.gw
    · exact h.reportImage.beside.bootReached
  · exact h.reportImage.beside.bootReached

theorem Ilpiac.Canon.imageLoadDone {img : ImageBytes} {us : Nat} (h : m.Canon) : (m.imageLoadDone img us).Canon := by
  unfold Ilpiac.imageLoadDone
  split
  · exact h
  · dsimp only
    split
    · exact h.beside.gw.gw.gw
    · exact h.beside.gw.gw.gw.takeImage

theorem Ilpiac.Canon.watchdogExpiry (h : m.Canon) : m.watchdogExpiry.Canon :=
  ite h.raise h

theorem Ilpiac.Canon.readAssembly (h : m.Canon) : m.readAssembly.Canon := by
  unfold Ilpiac.readAssembly
  split
  · exact h.over (fun _ _ h => h.setReg) |>.gw.gw
  · dsimp only
    split
    · exact h.over (fun _ _ h => h.setReg) |>.over (fun _ _ h => h.setReg) |>.gw
    · exact h.over (fun _ _ h => h.setReg) |>.over (fun _ _ h => h.setReg) |>.gw.gw.gw

theorem Ilpiac.Canon.attest {d : AccDesc} (h : m.Canon) : (m.attest d).Canon := by
  unfold Ilpiac.attest
  extract_lets +onlyGivenNames a fields m1
  have h1 : m1.Canon := ite h.noteRefusals h
  clear_value m1
  refine ite h1.done (ite h1.done ?_)
  split
  · exact h1.done
  · exact h1.boardStore.done

theorem Ilpiac.Canon.certRead {d : AccDesc} (h : m.Canon) : (m.certRead d).Canon := by
  unfold Ilpiac.certRead
  dsimp only
  split
  · exact ite h.noteRefusals.done h.noteRefusals.boardStore.done
  · exact ite h.done h.boardStore.done

/-! ### Warm reset -/

theorem Ilpiac.Canon.warmState (h : m.Canon) : m.warmState.Canon := by
  unfold Ilpiac.warmState
  extract_lets +onlyGivenNames m1 m2 old formed st
  have h2 : m2.Canon := h.ifThen (fun h => h.logLatch) |>.ifThen fun h => h.hbmStop
  clear_value m2 old formed st
  refine ownTrunks (gw (gw (gw (Canon.over ?_ fun _ _ h => h.pw))))
  refine Canon.over (Canon.over (Canon.over (gw ?_) fun _ _ h => h.setFx) fun _ _ h => h.wr.wr) fun _ _ h => h.wr
  exact ⟨Map.wf_filter _ _ h2.regs, h2.mem⟩

theorem Ilpiac.Canon.resetStatus {last : Nat} {bySb : Bool} {cause : Nat} (h : m.Canon) :
    (m.resetStatus last bySb cause).Canon :=
  h.gw.gw.gw

theorem Ilpiac.Canon.warmBegin {last : Nat} {bySb : Bool} (h : m.Canon) : (m.warmBegin last bySb).Canon :=
  h.warmState.resetStatus.gw.latchNext.beside

theorem Ilpiac.Canon.warmReset (h : m.Canon) : m.warmReset.Canon :=
  ite h.warmBegin h

theorem Ilpiac.Canon.requestResult {r : Nat} (h : m.Canon) : (m.requestResult r).Canon :=
  h.gw.sbEvent

theorem Ilpiac.Canon.warmDone (h : m.Canon) : m.warmDone.Canon := by
  unfold Ilpiac.warmDone
  dsimp only
  split
  · exact h
  · refine ite (h.beside.gw.ifThen fun h => h.requestResult) (helloAll (lanePowerAll ?_))
    exact (h.beside.gw.ifThen fun h => h.requestResult).beside.ifElse fun h => h.sbEvent

theorem Ilpiac.Canon.enterDormant (h : m.Canon) : m.enterDormant.Canon :=
  h.warmState.beside.lanePowerAll.holmDown.gw.setReg.requestResult

theorem Ilpiac.Canon.sbWarm (h : m.Canon) : m.sbWarm.Canon :=
  h.beside.warmBegin

theorem Ilpiac.Canon.sbDormant (h : m.Canon) : m.sbDormant.Canon :=
  ite h.requestResult h.enterDormant

theorem Ilpiac.Canon.sbWake (h : m.Canon) : m.sbWake.Canon :=
  ite h.requestResult h.beside.warmBegin

theorem Ilpiac.Canon.sbRequest {v : Nat} (h : m.Canon) : (m.sbRequest v).Canon := by
  unfold Ilpiac.sbRequest
  split
  · exact h
  · split
    · exact h.requestResult
    · exact ite h.requestResult (ite h.sbWarm (ite h.sbDormant h.sbWake))

theorem Ilpiac.Canon.recordRegs {r : ModuleRecord} (h : m.Canon) : Ilpiac.Canon (ModuleRecord.regs r m) := by
  unfold ModuleRecord.regs
  split
  · exact h.over fun _ _ h => h.setReg
  · exact h.over fun _ _ h => h.setReg

theorem Ilpiac.Canon.blank {phase : PowerPhase} {island : Bool} :
    (m.blank phase island).Canon := Ilpiac.canon_reset.beside.recordRegs

/-! ### Power -/

theorem Ilpiac.Canon.dutyStat (h : m.Canon) : m.dutyStat.Canon :=
  h.gw.gw

theorem Ilpiac.Canon.setBrown {d : Nat} (h : m.Canon) : (m.setBrown d).Canon :=
  h.beside.dutyStat

theorem Ilpiac.Canon.setLimit {d : Nat} (h : m.Canon) : (m.setLimit d).Canon :=
  h.beside.dutyStat

theorem Ilpiac.Canon.setTherm {d : Nat} (h : m.Canon) : (m.setTherm d).Canon :=
  h.beside.dutyStat

theorem Ilpiac.Canon.vin {mv : Nat} (h : m.Canon) : (m.vin mv).Canon :=
  ite h.gw.gw h.gw

theorem Ilpiac.Canon.episode (h : m.Canon) : m.episode.Canon :=
  (ite h.gw.gcnt.gw h.gw.gcnt).beside.sbEvent.raise

theorem Ilpiac.Canon.brownoutStart {mv duty : Nat} (h : m.Canon) : (m.brownoutStart mv duty).Canon :=
  ite h (ite h h.episode).vin.setBrown

theorem Ilpiac.Canon.brownoutEnd {mv us : Nat} (h : m.Canon) : (m.brownoutEnd mv us).Canon := by
  unfold Ilpiac.brownoutEnd
  split
  · exact h
  · exact h.vin.gw.gw.ifThen (fun h => h.gw) |>.setBrown.release.beside

theorem Ilpiac.Canon.judgeEnergy {enough : Bool} {mj : Nat} (h : m.Canon) : (m.judgeEnergy enough mj).Canon :=
  ite h.gw.journalCommit.release h.gw.raise

theorem Ilpiac.Canon.reportBank {c e esr : Nat} (h : m.Canon) : (m.reportBank c e esr).Canon :=
  h.gw.gw.gw.gw.sbEvent

theorem Ilpiac.Canon.fits16 {x : Option Nat} (h : m.Canon) : (m.fits16 x).2.Canon := by
  unfold Ilpiac.fits16
  split
  · split
    · exact h
    · exact h.draw
  · exact h.draw

theorem Ilpiac.Canon.measured {v0 v1 esr : Nat} (h : m.Canon) : (m.measured v0 v1 esr).Canon :=
  ite h.fits16.fits16.reportBank.judgeEnergy h.fits16.fits16.reportBank.judgeEnergy

theorem Ilpiac.Canon.measureDone {v0 v1 esr : Nat} (h : m.Canon) : (m.measureDone v0 v1 esr).Canon :=
  ite h h.beside.measured

theorem Ilpiac.Canon.measureStart (h : m.Canon) : m.measureStart.Canon :=
  ite h.beside h

theorem Ilpiac.Canon.periodExpiry (h : m.Canon) : m.periodExpiry.Canon :=
  ite h h.measureStart

theorem Ilpiac.Canon.powerOn {mv : Nat} (h : m.Canon) : (m.powerOn mv).Canon := by
  unfold Ilpiac.powerOn
  split
  · exact blank.vin
  · exact h.vin
  · exact h

theorem Ilpiac.Canon.powerUp {mv v0 v1 esr : Nat} (h : m.Canon) : (m.powerUp mv v0 v1 esr).Canon :=
  h.readAssembly.beside.gw.ifThen (fun h => h.episode) |>.vin.measured.sbEvent.lanePowerAll

theorem Ilpiac.Canon.powerOnDone {mv v0 v1 esr : Nat} (h : m.Canon) : (m.powerOnDone mv v0 v1 esr).Canon :=
  ite h.resetStatus.powerUp h

theorem Ilpiac.Canon.coldReset (h : m.Canon) : m.coldReset.Canon := by
  unfold Ilpiac.coldReset
  split
  · exact h
  · exact h
  · exact blank.resetStatus

theorem Ilpiac.Canon.coldRelease {mv v0 v1 esr : Nat} (h : m.Canon) : (m.coldRelease mv v0 v1 esr).Canon :=
  ite h.powerUp h

theorem Ilpiac.Canon.turnOff {phase : PowerPhase} (h : m.Canon) : (m.turnOff phase).Canon := by
  unfold Ilpiac.turnOff
  split
  · exact h
  · exact h
  · exact blank

theorem Ilpiac.Canon.powerLoss (h : m.Canon) : m.powerLoss.Canon :=
  h.turnOff

theorem Ilpiac.Canon.overVoltage (h : m.Canon) : m.overVoltage.Canon :=
  h.turnOff

theorem Ilpiac.Canon.recovery {mv : Nat} (h : m.Canon) : (m.recovery mv).Canon := ite blank.vin h

theorem Ilpiac.Canon.crossing {mv : Nat} (h : m.Canon) : (m.crossing mv).Canon := by
  unfold Ilpiac.crossing
  split
  · exact h
  · exact ite blank h
  · exact h.vin

theorem Ilpiac.Canon.powerSample {watts mv duty : Nat} (h : m.Canon) : (m.powerSample watts mv duty).Canon :=
  ite h (h.vin.gw.gw.setLimit.ifThen (fun h => h.setBrown))

theorem Ilpiac.Canon.limitWritten (h : m.Canon) : m.limitWritten.Canon :=
  ite h.gw.setLimit h

theorem Ilpiac.Canon.setTemp {g c : Nat} (h : m.Canon) : (m.setTemp g c).Canon :=
  h.gw

theorem Ilpiac.Canon.throttleBits (h : m.Canon) : m.throttleBits.Canon :=
  ite h.gw.sbEvent h.gw

theorem Ilpiac.Canon.throttleDuty (h : m.Canon) : m.throttleDuty.Canon := by
  unfold Ilpiac.throttleDuty
  split
  · exact h.beside.setTherm
  · split
    · exact ite h.beside.setTherm h.beside
    · exact h.beside

theorem Ilpiac.Canon.thermalThrottle {g c : Nat} (h : m.Canon) : (m.thermalThrottle g c).Canon := by
  unfold Ilpiac.thermalThrottle
  split
  · exact h
  · exact ite h.setTemp.throttleBits.beside.setTherm h.setTemp.throttleBits

theorem Ilpiac.Canon.throttleStep {temps : List Nat} (h : m.Canon) : (m.throttleStep temps).Canon := by
  unfold Ilpiac.throttleStep
  split
  · exact h
  · dsimp only
    exact h.over (fun _ _ h => h.setTemp) |>.over (fun _ _ h => ite h.wr h) |>.gw.throttleBits.throttleDuty

theorem Ilpiac.Canon.thermalTrip {g c : Nat} (h : m.Canon) : (m.thermalTrip g c).Canon :=
  ite h h.setTemp.throttleBits.raise

theorem Ilpiac.Canon.hardTrip {g c : Nat} (h : m.Canon) : (m.hardTrip g c).Canon := by
  unfold Ilpiac.hardTrip
  split
  · exact h
  · exact h.setTemp.over (fun _ _ h => h.setRun) |>.beside.gw.lanePowerAll.holmDown

theorem Ilpiac.Canon.sbEventsWrite {v : Nat} (h : m.Canon) : (m.sbEventsWrite v).Canon :=
  h.gw.gw

theorem Ilpiac.Canon.dynamicAddress {a : Nat} (h : m.Canon) : (m.dynamicAddress a).Canon :=
  ite h.beside h

/-! ### The register window -/

theorem Ilpiac.Canon.softMapout {c : Nat} (h : m.Canon) : (m.softMapout c).Canon :=
  ite h.wr.failChannel h

theorem Ilpiac.Canon.softMapouts (h : m.Canon) : m.softMapouts.Canon :=
  h.over fun _ _ h => h.softMapout

theorem Ilpiac.Canon.globEffect {k old : Nat} (h : m.Canon) : (m.globEffect k old).Canon := by
  unfold Ilpiac.globEffect
  split
  · exact ite h.limitWritten.gw.measureStart h.limitWritten
  · split
    · exact ite h h.twinEnabled
    · split
      · exact ite h.gw.applySet h
      · split
        · exact ite h.gw.imageLoad h
        · split
          · exact ite h.beside.gw h
          · split
            · exact ite h.checkHoses h
            · exact ite (ite h h.refSource) h

theorem Ilpiac.Canon.unitEffect {b : Blk} {n off old : Nat} (h : m.Canon) : (m.unitEffect b n off old).Canon := by
  unfold Ilpiac.unitEffect
  split
  · exact ite h.portShaped (ite (ite h h.policerFull) h)
  · exact ite h.portShaped (ite (ite h h.policerFull) h)
  · exact ite h.queueShaped h
  · exact ite h.queueShaped h
  · split
    · dsimp only
      split
      · exact ite h.lw.clearHold (ite h.lw.clearHold.laneEnable h.lw.clearHold.laneDisable)
      · exact ite h (ite h.laneEnable h.laneDisable)
    · exact ite (ite h.injectLane h) h
  · split
    · dsimp only
      split
      · exact ite h.retireWrite (ite h.retireWrite.enableFurrow h.retireWrite.disableFurrow)
      · exact ite h (ite h.enableFurrow h.disableFurrow)
    · exact h
  · split
    · dsimp only
      split
      · exact ite h.wr.clearEngineFault h
      · split
        · exact ite h.enableEngine.wr.clearEngineFault h.enableEngine
        · exact ite h.disableEngine.wr.clearEngineFault h.disableEngine
    · exact h
  · exact ite h.softMapout (ite h.release h)
  · exact h

theorem Ilpiac.Canon.resetCtrl {v : Nat} (h : m.Canon) : (m.resetCtrl v).Canon := by
  unfold Ilpiac.resetCtrl
  split
  · exact h.warmReset
  · dsimp only
    split
    · exact h.over (fun _ _ h => h.functionReset) |>.linkReset
    · exact h.over fun _ _ h => h.functionReset

theorem Ilpiac.Canon.storeReg {k v mask : Nat} (h : m.Canon) : (m.storeReg k v mask).Canon := by
  unfold Ilpiac.storeReg
  dsimp only
  split
  · exact h
  · split
    · exact h.regAccess
    · split
      · split
        · exact (ite h.regAccess h).setReg.ringEnable
        · exact (ite h.regAccess h).setReg.ringDisable
      · split
        · split
          · exact (ite h.regAccess h).setReg.cringEnable
          · exact (ite h.regAccess h).setReg.cringDisable
        · exact (ite h.regAccess h).setReg.globEffect.unitEffect

theorem Ilpiac.Canon.writeReg {k v mask : Nat} (h : m.Canon) : (m.writeReg k v mask).Canon := by
  unfold Ilpiac.writeReg
  dsimp only
  split
  · exact h.over fun _ _ h => ite h.runStart h.runStop
  · split
    · exact h.maskWrite
    · split
      · exact ite (ite h.gw h).faultClear (ite h.gw h)
      · split
        · exact ite h.resume h
        · split
          · exact h.gw.resetCtrl
          · split
            · exact ite h h.syncValWrite
            · exact ite h.drDoorbell (ite h.crDoorbell h.storeReg)

theorem Ilpiac.Canon.clearRc {k lo : Nat} (h : m.Canon) : (m.clearRc k lo).Canon := by
  unfold Ilpiac.clearRc
  split
  · exact h
  · exact ite h h.setReg

theorem Ilpiac.Canon.unlatch {k : Nat} (h : m.Canon) : (m.unlatch k).Canon :=
  h.beside

theorem Ilpiac.Canon.reply {n v : Nat} (h : m.Canon) : (m.reply n v).Canon :=
  h.send

theorem Ilpiac.Canon.read64 {k : Nat} (h : m.Canon) : (m.read64 k).Canon :=
  h.unlatch.clearRc.reply

theorem Ilpiac.Canon.readLow {k : Nat} (h : m.Canon) : (m.readLow k).Canon :=
  h.unlatch.clearRc.beside.reply

theorem Ilpiac.Canon.readHigh {k : Nat} (h : m.Canon) : (m.readHigh k).Canon := by
  unfold Ilpiac.readHigh
  split
  · exact h.unlatch.reply
  · exact h.clearRc.reply

theorem Ilpiac.Canon.unpend {k : Nat} (h : m.Canon) : (m.unpend k).Canon :=
  h.beside

theorem Ilpiac.Canon.badAccess {off : Nat} {write : Bool} {size : Nat} (h : m.Canon) :
    (m.badAccess off write size).Canon :=
  ite (ite h h.reply) (ite h.regAccess h.regAccess.reply)

theorem Ilpiac.Canon.halfWrite {k : Nat} {upper : Bool} {v : Nat} (h : m.Canon) : (m.halfWrite k upper v).Canon := by
  unfold Ilpiac.halfWrite
  dsimp only
  split
  · exact h.unlatch.beside
  · split
    · exact h.unlatch.unpend.writeReg
    · exact h.unlatch.writeReg

theorem Ilpiac.Canon.doAccess {x1 : HeldAccess} (h : m.Canon) : (m.doAccess x1).Canon := by
  unfold Ilpiac.doAccess
  split
  · exact ite h (ite h.badAccess (ite h h.unlatch.unpend.writeReg))
  · exact ite h (ite h h.unlatch.unpend.writeReg)
  · exact ite h (ite h.badAccess (ite h h.halfWrite))
  · split
    · exact h
    · split
      · exact h.badAccess
      · exact ite h.reply (ite h.read64 (ite h.readLow h.readHigh))
  · exact ite h h.badAccess

theorem Ilpiac.Canon.access {x1 : HeldAccess} (h : m.Canon) : (m.access x1).Canon :=
  ite h (ite h.beside h.doAccess)

theorem Ilpiac.Canon.fieldAccess {b : Blk} {n : Nat} {f : Fld} {v : Nat} (h : m.Canon) :
    (m.fieldAccess b n f v).Canon :=
  h.access

theorem Ilpiac.Canon.warmResetDone (h : m.Canon) : m.warmResetDone.Canon :=
  ite (h.warmDone.over (fun _ _ h => h.access)) h.warmDone

theorem Ilpiac.Canon.sbWrite {off v : Nat} (h : m.Canon) : (m.sbWrite off v).Canon := by
  unfold Ilpiac.sbWrite
  split
  · exact h
  · split
    · exact h.sbRequest
    · split
      · exact h.sbEventsWrite
      · split
        · exact h.gw
        · exact ite h.gw (ite (ite h.placementCommit h) h)

/-! ### Packets -/

theorem Ilpiac.Canon.amoReq {port : Nat} {p : Packet} (h : m.Canon) : (m.amoReq port p).Canon := by
  unfold Ilpiac.amoReq
  dsimp only
  split
  · exact h.emitShared
  · split
    · exact h.emitShared
    · split
      · exact h.setPort.emitShared
      · split
        · exact h.setPort.memAdd.of_snd ‹_› |>.emitShared
        · exact h.setPort.memAdd.of_snd ‹_› |>.setPort.emitShared

theorem Ilpiac.Canon.linkSent {port : Nat} {p : Packet} (h : m.Canon) : (m.linkSent port p).Canon :=
  h.over fun _ _ h => h.setCls

theorem Ilpiac.Canon.linkFreed {port : Nat} {p : Packet} (h : m.Canon) : (m.linkFreed port p).Canon :=
  h.waking fun _ h => h.over fun _ _ h => h.setCls

theorem Ilpiac.Canon.linkRx {port : Nat} {p : Packet} (h : m.Canon) : (m.linkRx port p).Canon :=
  ite h.linkFreed h.linkSent

theorem Ilpiac.Canon.landIn {port : Nat} {p : Packet} (h : m.Canon) : (m.landIn port p).2.Canon := by
  unfold Ilpiac.landIn
  dsimp only
  split
  · exact h.setCls
  · exact h.setCls.store

theorem Ilpiac.Canon.badCrc {port : Nat} {p : Packet} (h : m.Canon) : (m.badCrc port p).Canon := by
  unfold Ilpiac.badCrc
  dsimp only
  split
  · exact h.crcDiscard
  · split
    · exact h.crcDiscard
    · exact ite h.crcDiscard.store.enq.reap h.crcDiscard

theorem Ilpiac.Canon.ptMove {port id : Nat} {p : Packet} (h : m.Canon) (e : m.ptMove port id p = some m') :
    m'.Canon := by
  unfold Ilpiac.ptMove at e
  dsimp only at e
  split at e
  · split at e
    · cases e
      exact h.misaddressed
    · exact h.toShared e
  · split at e
    · cases e
      exact h.gcnt
    · split at e
      · cases e
        exact h.enq
      · exact h.toShared e

theorem Ilpiac.Canon.ilpMove {port id : Nat} {p : Packet} (h : m.Canon) (e : m.ilpMove port id p = some m') :
    m'.Canon := by
  unfold Ilpiac.ilpMove at e
  dsimp only at e
  split at e
  · split at e
    · exact h.columnTry e
    · cases e
      exact h
  · split at e
    · exact h.tresultTry e
    · cases e
      exact h
  · split at e
    · exact h.recordsTry e
    · cases e
      exact h
  · cases e
    exact h.deltaRx
  · cases e
    exact h.stripeRx
  · cases e
    exact h.ledgerRx
  · cases e
    exact h.stampRx
  · cases e
    exact h.hoseSetupRx
  · cases e
    exact h.hoseReplyRx
  · cases e
    exact h.hoseWindowRx
  · cases e
    exact h.trunkStateRx
  · cases e
    exact h

theorem Ilpiac.Canon.relayIn {port : Nat} {p : Packet} (h : m.Canon) : (m.relayIn port p).Canon := by
  unfold Ilpiac.relayIn
  split
  · exact h
  · split
    · exact h.crcDiscard
    · split
      · exact h.misaddressed
      · split
        · exact h.tackRx
        · exact h.getD fun _ e => h.ilpMove e

theorem Ilpiac.Canon.moveOn {port id : Nat} {p : Packet} (h : m.Canon) (e : m.moveOn port id p = some m') :
    m'.Canon := by
  unfold Ilpiac.moveOn at e
  split at e
  · exact h.ptMove e
  · split at e
    · cases e
      exact h.amoReq
    · split at e
      · cases e
        exact h.relayIn
      · split at e
        · cases e
          exact h.syncOp
        · split at e
          · exact h.ilpMove e
          · cases e
            exact h.datagram

theorem Ilpiac.Canon.movedOn {id : Nat} {b : BufPkt} (h : m.Canon) : (m.movedOn id b).Canon := by
  unfold Ilpiac.movedOn
  dsimp only
  refine reap ?_
  split
  · exact ite h.sinkConsume h
  · exact h

theorem Ilpiac.Canon.landAck {p : Packet} (h : m.Canon) : (m.landAck p).2.Canon := by
  unfold Ilpiac.landAck
  split
  · split
    · exact h.tack
    · exact h.answerUnknown
  · exact h

theorem Ilpiac.Canon.landed {port id : Nat} (h : m.Canon) : (m.landed port id).Canon := by
  unfold Ilpiac.landed
  split
  · exact h
  · dsimp only
    split
    · exact h.landAck.movedOn
    · split
      · exact h.landAck.setPort
      · split
        · exact h.landAck.moveOn ‹_› |>.movedOn
        · exact h.landAck.setPort

theorem Ilpiac.Canon.landRetry {port tc : Nat} {l : List Nat} {stuck : List (Option Nat)} (h : m.Canon) :
    (Ilpiac.landRetry port tc l stuck m).Canon := by
  induction l generalizing stuck m with
  | nil => exact h
  | cons id l ih =>
    unfold Ilpiac.landRetry
    split
    · exact ih h.setPort
    · split
      · exact ih h
      · split
        · exact ih (h.moveOn ‹_›).setPort.movedOn
        · exact ih h

theorem Ilpiac.Canon.landRelease {port tc : Nat} (h : m.Canon) : (m.landRelease port tc).Canon :=
  h.landRetry

theorem Ilpiac.Canon.hoseInner {port x2 : Nat} {p : Packet} (h : m.Canon) : (m.hoseInner port x2 p).Canon := by
  unfold Ilpiac.hoseInner
  split
  · exact h.crcDiscard.sinkConsume
  · exact ite h.misaddressed.sinkConsume (ite h.tackRx.sinkConsume h.store.landed)

theorem Ilpiac.Canon.hoseDataRx {port : Nat} {p : Packet} {crcOk : Bool} (h : m.Canon) :
    (m.hoseDataRx port p crcOk).Canon := by
  unfold Ilpiac.hoseDataRx
  dsimp only
  split
  · exact ite h.hoseForward (ite h.crcDiscard.hoseForward h.crcDiscard)
  · exact ite h.crcDiscard (ite h.hw.wrapCnt.hoseInner h)

theorem Ilpiac.Canon.takeNow {port : Nat} {p : Packet} {turn : Nat} (h : m.Canon) :
    (m.takeNow port p turn).Canon := by
  unfold Ilpiac.takeNow
  split
  · exact ite h h.helloRx
  · exact h.linkRx
  · exact h.contribRx
  · exact h.ackRx
  · exact h.timeSyncRx
  · exact h.delayReqRx
  · exact h.delayRspRx
  · exact ite h.tackRx (ite h h.store.datagram.reap)
  · exact h.hoseTearRx
  · exact h.hoseDataRx
  · exact h.hoseMarkRx
  · exact h.twinRx
  · exact h

theorem Ilpiac.Canon.receive {port : Nat} {p : Packet} {crcOk : Bool} {turn : Nat} (h : m.Canon) :
    (m.receive port p crcOk turn).Canon := by
  unfold Ilpiac.receive
  split
  · exact h
  · extract_lets +onlyGivenNames bad shut pol m1
    have h1 : m1.Canon := by
      unfold m1 pol
      split
      · exact h
      · exact h.police
    clear_value m1 pol
    refine ite (ite h1.crcDiscard (ite h1.hoseDataRx h1.badCrc)) ?_
    extract_lets +onlyGivenNames m2
    have h2 : m2.Canon := h1.wrapCnt.capture
    clear_value m2
    refine ite ?_ (ite h2.misaddressed (ite h2 h2.takeNow))
    dsimp only
    split
    · exact h2.landIn.pcnt.capture
    · exact ite h2.landIn.misaddressed.reap (ite h2.landIn.reap h2.landIn.landed)

theorem Ilpiac.Canon.fromFlits {port : Nat} {l : List (List Byte)} (h : m.Canon) : (m.fromFlits port l).Canon := by
  unfold Ilpiac.fromFlits
  refine h.over fun _ _ h => ?_
  split
  · exact ite h.draw.receive h.receive
  · exact ite h.crcDiscard h

theorem Ilpiac.Canon.arrive {port : Nat} {tys : List Nat} {p : Packet} {crcOk : Bool} {turn : Nat} (h : m.Canon) :
    (m.arrive port tys p crcOk turn).Canon :=
  ite h.receive h

/-! ### The clock -/

theorem Ilpiac.Canon.tick (h : m.Canon) : m.tick.Canon :=
  h.beside.timeTick.over fun _ _ h => h.txDue

/-! ### What follows a command -/

theorem Ilpiac.Canon.poisonRead {len : Nat} (h : m.Canon) : (m.poisonRead len).Canon :=
  h.gcnt.send

theorem Ilpiac.Canon.apertureRead {a len : Nat} {us : List Upset} (h : m.Canon) :
    (m.apertureRead a len us).Canon := by
  unfold Ilpiac.apertureRead
  split
  · exact h
  · split
    · exact h.poisonRead
    · split
      · exact h.send.raise
      · dsimp only
        split
        · refine (memRead ?_).of_snd ‹_› |>.send
          split
          · exact h.upset
          · exact h
        · refine (memRead ?_).of_snd ‹_› |>.poisonRead
          split
          · exact h.upset
          · exact h

theorem Ilpiac.Canon.apertureStore {a : Nat} {d : List Byte} (h : m.Canon) : (m.apertureStore a d).Canon :=
  ite h (ite h.raise (ite h.raise h.memWrite))

theorem Ilpiac.Canon.apertureWrite {a : Nat} {d : List Byte} (h : m.Canon) : (m.apertureWrite a d).Canon :=
  ite h.apertureStore h

theorem Ilpiac.Canon.ownWrites (h : m.Canon) : m.ownWrites.Canon :=
  h.beside.over fun _ _ h => h.apertureStore

theorem Ilpiac.Canon.progress (h : m.Canon) : m.progress.Canon :=
  h.ownWrites.collAll.clocheFlow.assign.dueActions.ownWrites

theorem Ilpiac.Canon.settle (h : m.Canon) : m.settle.Canon :=
  ite h h.progress

/-! ### Commands -/

theorem State.safe_of_ran {s t : State} (h : m.Canon) (e : ran s m = .next t) : t.Safe := by
  cases e
  exact h.settle

theorem execRegisterWrite_safe {s t : State} {sp : RegSpace} {off : Nat} {v : Word} (h : s.m.Canon)
    (e : execRegisterWrite sp off v s = .next t) : t.Safe := by
  refine State.safe_of_ran ?_ e
  cases sp with
  | window => exact h.access
  | sideband => exact h.sbWrite

theorem execRmQuota_safe {s t : State} {ring : Fin 65536} (h : s.m.Canon) (e : execRmQuota ring s = .next t) : t.Safe := by
  refine State.safe_of_ran ?_ e
  split
  · exact Ilpiac.Canon.ite h (h.begin ‹_›).rmQuota
  · exact h

theorem execClocheRestore_safe {s t : State} {ring : Fin 65536} {record image : Readback} {answers : List RestoreAnswer} (h : s.m.Canon)
    (e : execClocheRestore ring record image answers s = .next t) : t.Safe := by
  refine State.safe_of_ran ?_ e
  split
  · exact Ilpiac.Canon.ite (h.begin ‹_›).restoreBegin h
  · exact h

theorem execSpillReadbackDone_safe {s t : State} {x : CtxId} {level index : Nat} (h : s.m.Canon)
    (e : execSpillReadbackDone x level index s = .next t) : t.Safe := by
  refine State.safe_of_ran ?_ e
  split
  · exact Ilpiac.Canon.ite h.spillBack h
  · exact h

theorem exec_safe {c : Instr} {s t : State} (hs : s.Safe) (e : exec c s = .next t) : t.Safe := by
  have h : s.m.Canon := hs
  cases c with
  | lowerHalfWrite | upperHalfWrite | lowerHalfRead | rcRead | misalignedAccess | furrowInjectArm | channelInjectArm
  | sieveEnable | sieveConsume | laneInjectArm | refSourceChange | syncValWrite | runStop | runStart | drDoorbell
  | crDoorbell | irqMaskWrite | warmReset | functionReset | linkReset | twinEnable | imageLoad =>
    exact State.safe_of_ran h.access e
  | placementCommit | sbEventsClear => exact State.safe_of_ran h.sbWrite e
  | helloReceived | contribReceived | ackReceived | recordsReceived | columnReceived | tresultReceived | tackReceived
  | deltaReceived | stampReceived | ledgerReceived | stripeReceived | amoReqReceived | ptReceived | relayReceived
  | linkReceived | trunkStateReceived | hoseSetupReceived | hoseReplyReceived | hoseTearReceived | hoseDataReceived
  | hoseMarkReceived | hoseWindowReceived | syncOpReceived | timeSyncReceived | delayReqReceived | delayRspReceived
  | twinDigestReceived => exact State.safe_of_ran h.arrive e
  | helloPeriodExpiry => exact State.safe_of_ran h.helloPeriod e
  | commCreate => exact State.safe_of_ran (h.runDesc fun _ _ h => h.commCreate) e
  | commDestroy => exact State.safe_of_ran (h.runDesc fun _ _ h => h.commDestroy) e
  | commQuery => exact State.safe_of_ran (h.runDesc fun _ _ h => h.commQuery) e
  | allReduce | reduceScatter | allGather | broadcast | reduceUpdateBcast | dispatch | combine =>
    exact State.safe_of_ran (h.runDesc fun _ _ h => h.collAccept) e
  | memberFence => exact State.safe_of_ran (h.runDesc fun _ _ h => h.memberFence) e
  | memberUnfence => exact State.safe_of_ran (h.runDesc fun _ _ h => h.memberUnfence) e
  | quotaSetAside => exact State.safe_of_ran h.quotaSetAside e
  | contextAdmit => exact State.safe_of_ran h.admitCtx e
  | admissionTimeout => exact State.safe_of_ran h.admissionTimeout e
  | furrowGroupComplete => exact State.safe_of_ran h.groupComplete e
  | furrowRetire | furrowDisable | furrowEnable | clearFault | engineDisable | engineEnable | channelMapout
  | laneEnable | laneDisable | laneClearHold | timeApplySet | ringEnable | ringDisable | cplRingEnable | cplRingDisable
  | faultClear | headlessResume | holdupRecheck => exact State.safe_of_ran h.fieldAccess e
  | contextMoveDone => exact State.safe_of_ran h.moveDone e
  | furrowWaitTimeout => exact State.safe_of_ran h.furrowTimeout e
  | furrowGated => exact State.safe_of_ran h.gateFurrow e
  | retentionTimeout => exact State.safe_of_ran h.retentionTimeout e
  | contribDeadline => exact State.safe_of_ran h.contribDeadline e
  | trunkRetentionTimeout => exact State.safe_of_ran h.trunkTimeout e
  | resultMissingTimeout => exact State.safe_of_ran h.resultMissing e
  | verdictPassStart => exact State.safe_of_ran h.passStart e
  | endSend => exact State.safe_of_ran h.sendEnds e
  | collectiveComplete => exact State.safe_of_ran h.collComplete e
  | landedPacketRelease | landRelease => exact State.safe_of_ran h.landRelease e
  | invocationStart => exact State.safe_of_ran h.invocationStart e
  | bundleIssue => exact State.safe_of_ran h.bundleIssue e
  | streamComplete => exact State.safe_of_ran h.streamComplete e
  | icacheFillDone => exact State.safe_of_ran h.icacheFill e
  | invocationLimit => exact State.safe_of_ran h.invocationLimit e
  | phase4End => exact State.safe_of_ran h.phase4End e
  | phase4Timeout => exact State.safe_of_ran h.phase4Timeout e
  | progLoad => exact State.safe_of_ran (h.runDesc fun _ _ h => h.progLoad) e
  | progLoadDone => exact State.safe_of_ran h.progLoadDone e
  | progUnload => exact State.safe_of_ran (h.runDesc fun _ _ h => h.progUnload) e
  | progUnloadDone => exact State.safe_of_ran h.progUnloadDone e
  | clocheGroupCreate => exact State.safe_of_ran (h.runDesc fun _ _ h => h.groupCreate) e
  | groupJoinResolve => exact State.safe_of_ran h.groupJoin e
  | ledgerWrite => exact State.safe_of_ran (h.runDesc fun _ _ h => h.ledgerWrite) e
  | restoreComplete => exact State.safe_of_ran h.restoreComplete e
  | clocheGroupDestroy => exact State.safe_of_ran (h.runDesc fun _ _ h => h.groupDestroy) e
  | clocheQuery => exact State.safe_of_ran (h.runDesc fun _ _ h => h.clocheQuery) e
  | scrubRead => exact State.safe_of_ran h.scrubRead e
  | channelAccessTimeout => exact State.safe_of_ran (h.ifThen fun h => h.failChannel) e
  | slotRemapDone => exact State.safe_of_ran h.remapDone e
  | migrationUnit => exact State.safe_of_ran h.copyUnit e
  | selfRefreshEnter => exact State.safe_of_ran h.selfRefresh e
  | apertureRead => exact State.safe_of_ran h.apertureRead e
  | apertureWrite => exact State.safe_of_ran h.apertureWrite e
  | linkCreditTimer => exact State.safe_of_ran h.sendLink e
  | sendOpportunity => exact State.safe_of_ran h.sendOpportunity e
  | transmitComplete => exact State.safe_of_ran h.transmitComplete e
  | creditResendTimer => exact State.safe_of_ran h.creditResend e
  | trunkStateSend => exact State.safe_of_ran h.trunkStateSend e
  | hoseOpen => exact State.safe_of_ran (h.runDesc fun _ _ h => h.hoseOpen) e
  | hoseSetupTimeout => exact State.safe_of_ran h.hoseSetupTimeout e
  | hoseClose => exact State.safe_of_ran (h.runDesc fun _ _ h => h.hoseClose) e
  | hoseTearSend => exact State.safe_of_ran h.hoseTearSend e
  | hoseCloseTimeout => exact State.safe_of_ran h.hoseCloseTimeout e
  | hoseOrphanTimeout => exact State.safe_of_ran h.hoseOrphan e
  | hoseMarkTimer => exact State.safe_of_ran h.hoseMarkSend e
  | hoseWindowTimer => exact State.safe_of_ran h.hoseWindowSend e
  | laneSignalDetect => exact State.safe_of_ran h.signalDetect e
  | laneCwLock => exact State.safe_of_ran h.cwLock e
  | laneTrainTimeout => exact State.safe_of_ran h.trainTimeout e
  | portForm => exact State.safe_of_ran h.portForm e
  | controlFlitTimer => exact State.safe_of_ran h.controlTimer e
  | laneSignalLoss => exact State.safe_of_ran h.signalLoss e
  | laneMarginCheck => exact State.safe_of_ran h.marginCheck e
  | laneSwitchOffTimeout => exact State.safe_of_ran h.switchOff e
  | laneReadd => exact State.safe_of_ran h.readd e
  | lightIdleEnter => exact State.safe_of_ran h.lightEnter e
  | lightIdleBeacon => exact State.safe_of_ran h.lightBeacon e
  | lightIdleExit => exact State.safe_of_ran h.lightExit e
  | deepIdleEnter => exact State.safe_of_ran h.deepEnter e
  | deepIdleWake | deepCheckTimer => exact State.safe_of_ran h.deepWake e
  | refSourceLost => exact State.safe_of_ran h.refLost e
  | refSourceReturn => exact State.safe_of_ran h.refReturn e
  | syncSignal => exact State.safe_of_ran (h.runDesc fun _ _ h => h.syncSignal) e
  | syncWait => exact State.safe_of_ran (h.runDesc fun _ _ h => h.syncWait) e
  | syncFence => exact State.safe_of_ran (h.runDesc fun _ _ h => h.syncFence) e
  | syncCancel => exact State.safe_of_ran (h.runDesc fun _ _ h => h.syncCancel) e
  | syncWaitTimeout => exact State.safe_of_ran h.syncWaitTimeout e
  | syncDeadlockDetect => exact State.safe_of_ran h.syncDeadlock e
  | timeSyncTimer => exact State.safe_of_ran h.timeSyncTimer e
  | delayMeasureTimer => exact State.safe_of_ran h.delayMeasure e
  | ppsInEdge => exact State.safe_of_ran h.ppsIn e
  | todInReceived => exact State.safe_of_ran h.todIn e
  | ppsOutEdge => exact State.safe_of_ran h.ppsOut e
  | todOutSend => exact State.safe_of_ran h.todOut e
  | timeSourceTimeout => exact State.safe_of_ran h.timeSourceLost e
  | noMasterTimeout => exact State.safe_of_ran h.noMaster e
  | assign => exact State.safe_of_ran h.assignBases e
  | holmAckReceived => exact State.safe_of_ran h.holmAck e
  | holmAckTimeout => exact State.safe_of_ran h.holmAckTimeout e
  | runStopDone => exact State.safe_of_ran h.runStopDone e
  | descriptorFetchDone => exact State.safe_of_ran h.fetchDone e
  | descriptorAccept => exact State.safe_of_ran h.acceptDesc e
  | nop => exact State.safe_of_ran (h.runDesc fun _ _ h => h.nop) e
  | cplRecordWrite => exact State.safe_of_ran h.recordWrite e
  | cplStallTimeout => exact State.safe_of_ran h.stallTimeout e
  | irqCoalTimeout => exact State.safe_of_ran h.coalTimeout e
  | irqSend => exact State.safe_of_ran h.irqSend e
  | faultGraceExpiry => exact State.safe_of_ran (h.ifThen fun h => h.graceExpiry) e
  | sramUeDetected => exact State.safe_of_ran h.sramUe e
  | internalParityError => exact State.safe_of_ran h.parityError e
  | faultLogRead => exact State.safe_of_ran (h.runDesc fun _ _ h => h.faultLogRead) e
  | heartbeatTimeout => exact State.safe_of_ran h.heartbeatTimeout e
  | twinDigestSend => exact State.safe_of_ran h.twinSend e
  | twinKeyTimeout => exact State.safe_of_ran h.twinTimeout e
  | powerOn => exact State.safe_of_ran h.powerOn e
  | powerOnDone => exact State.safe_of_ran h.powerOnDone e
  | coldReset => exact State.safe_of_ran h.coldReset e
  | coldResetRelease => exact State.safe_of_ran h.coldRelease e
  | powerLoss => exact State.safe_of_ran (h.ifThen fun h => h.powerLoss) e
  | overVoltage => exact State.safe_of_ran (h.ifThen fun h => h.overVoltage) e
  | overVoltageRecovery => exact State.safe_of_ran h.recovery e
  | brownoutStart => exact State.safe_of_ran h.brownoutStart e
  | brownoutEnd => exact State.safe_of_ran h.brownoutEnd e
  | holdupPeriodExpiry => exact State.safe_of_ran h.periodExpiry e
  | holdupMeasureDone => exact State.safe_of_ran h.measureDone e
  | powerLimitSample => exact State.safe_of_ran h.powerSample e
  | thermalThrottle => exact State.safe_of_ran h.thermalThrottle e
  | throttleStep => exact State.safe_of_ran h.throttleStep e
  | thermalTrip => exact State.safe_of_ran h.thermalTrip e
  | hardTrip => exact State.safe_of_ran h.hardTrip e
  | sbWarmRequest | dormantRequest | wakeRequest => exact State.safe_of_ran (h.ifThen fun h => h.sbWrite) e
  | imageLoadDone => exact State.safe_of_ran h.imageLoadDone e
  | stewardWatchdogExpiry => exact State.safe_of_ran h.watchdogExpiry e
  | attest => exact State.safe_of_ran (h.runDesc fun _ _ h => h.attest) e
  | certRead => exact State.safe_of_ran (h.runDesc fun _ _ h => h.certRead) e
  | laneCdrLock => exact State.safe_of_ran h.cdrLock e
  | holmAckTimer => exact State.safe_of_ran h.holmAckTimer e
  | ppsOutPulseEnd => exact State.safe_of_ran h.ppsOutEnd e
  | warmResetDone => exact State.safe_of_ran h.warmResetDone e
  | functionResetDone => exact State.safe_of_ran h.functionResetDone e
  | i3cDynamicAddress => exact State.safe_of_ran h.dynamicAddress e
  | vinThresholdCrossing => exact State.safe_of_ran h.crossing e
  | registerWrite => exact execRegisterWrite_safe h e
  | rmQuota => exact execRmQuota_safe h e
  | spillReadbackDone => exact execSpillReadbackDone_safe h e
  | retainSpaceFreed => exact State.safe_of_ran h.drainTrunk.drainHeld e
  | clocheRestore => exact execClocheRestore_safe h e
  | hbmStartDone => exact State.safe_of_ran h.hbmStartDone.softMapouts e
  | schedulerTick => exact State.safe_of_ran (h.over fun _ _ h => h.tickPort) e
  | flitReceived => exact State.safe_of_ran (h.flitRx.ifElse fun h => h.fromFlits) e
  | controlFlitReceived => exact State.safe_of_ran (h.controlFlit.ifElse fun h => h.fromFlits) e
  | runStartDone => exact State.safe_of_ran h.runStartDone.softMapouts e
  | faultAssert => exact State.safe_of_ran (h.ifElse fun h => h.raise) e
  | faultPairBroken => exact State.safe_of_ran (h.ifElse fun h => h.pairBroken) e

theorem step_safe {s t : State} (hs : s.Safe) (e : step s = .next t) : t.Safe := by
  unfold step at e
  split at e
  · cases e
    exact Ilpiac.Canon.tick hs
  · next rest _ => exact exec_safe (s := { s with pending := rest }) hs e

end Sys2Proof.Machine

open Sys2Proof.Machine

/-- Settles O6: every command is a chain of operations of the block, each of which keeps the canonical form, and so is a tick. -/
theorem soundKept : Obligations.SoundKept := fun _ _ hs e => step_safe hs e

end

section
/-! What an access leaves in the block (spec 00: R15, R16, R18, R19, R549): the collector's record of a fault, a register write at a fixed offset,
the pending lower half, and the reads that clear. -/

namespace Sys2Proof.Machine

variable {m m' : Ilpiac}

/-! ### A fault is recorded -/

/-- The registers that the fault collector, the interrupts and the sideband events write when a fault is recorded (R476, R489, R511). -/
def collectorRegs : List Nat := [0x20008, 0x20010, 0x20030, 0x300, 0x100000018]

/-- `m'` is `m` with faults recorded: other registers, what waits for the companion and half accesses are as before, and no assertion is gone. -/
structure Ilpiac.Records (m m' : Ilpiac) : Prop where
  regs : ∀ k, k ∉ collectorRegs → m'.reg k = m.reg k
  pendLo : m'.ctl.pendLo = m.ctl.pendLo
  holm : m'.ctl.holm = m.ctl.holm
  asserts : ∀ a ∈ m.flt.asserts, ∃ b ∈ m'.flt.asserts, b.src = a.src ∧ b.detail = a.detail

theorem Ilpiac.Records.refl (m : Ilpiac) : m.Records m := ⟨fun _ _ => rfl, rfl, rfl, fun a ha => ⟨a, ha, rfl, rfl⟩⟩

/-- A step that writes one collector register and lets the parts other than registers be. -/
theorem Ilpiac.Records.gw {f : Fld} {v j : Nat} (h : m.Records m') (hk : f.key .glob 0 j ∈ collectorRegs) : m.Records (m'.gw f v j) :=
  ⟨fun _ hne => (Ilpiac.reg_wr_ne _ _ _ _ _ _ _ (ne_of_mem_of_not_mem hk hne).symm).trans (h.regs _ hne), h.pendLo, h.holm, h.asserts⟩

theorem Ilpiac.Records.irqDue {v : Nat} (h : m.Records m') : m.Records (m'.irqDue v) := ⟨h.regs, h.pendLo, h.holm, h.asserts⟩

theorem Ilpiac.Records.event {e : Event} (h : m.Records m') : m.Records (m'.event e) := by
  have hw {v : Nat} : m.Records (m'.gw F.IRQ_CAUSE_CAUSE v) := h.gw (by decide)
  unfold Ilpiac.event
  dsimp only
  split
  · exact h
  · split
    · exact hw
    · exact hw.irqDue

theorem Ilpiac.Records.sbEvent {e : Nat} (h : m.Records m') : m.Records (m'.sbEvent e) := by
  have hw : m.Records (m'.gw F.SB_EVENTS_EVENTS (m'.g F.SB_EVENTS_EVENTS + 2 ^ e)) := h.gw (by decide)
  unfold Ilpiac.sbEvent
  dsimp only
  split
  · exact h
  · split
    · exact hw
    · exact ⟨hw.regs, hw.pendLo, hw.holm, hw.asserts⟩

theorem Ilpiac.Records.firstFault {a : Assertion} (h : m.Records m') : m.Records (m'.firstFault a) := by
  unfold Ilpiac.firstFault
  iterate 7 refine Ilpiac.Records.gw ?_ (by decide)
  exact h

theorem mem_mapFirst {α : Type} {p : α → Bool} {f : α → α} {l : List α} {a : α} (h : a ∈ l) :
    a ∈ mapFirst p f l ∨ f a ∈ mapFirst p f l := by
  induction l with
  | nil => cases h
  | cons b l ih =>
    unfold mapFirst
    rcases List.mem_cons.mp h with rfl | h
    · split <;> simp
    · split
      · exact .inl (List.mem_cons_of_mem _ h)
      · exact (ih h).imp (List.mem_cons_of_mem _) (List.mem_cons_of_mem _)

/-- Marking assertions as latched loses none of them. -/
theorem Ilpiac.mem_marked {a b : Assertion} (h : b ∈ m.flt.asserts) : b ∈ m.marked a ∨ { b with latched := true } ∈ m.marked a := by
  unfold Ilpiac.marked
  dsimp only
  split
  · exact mem_mapFirst h
  · by_cases hs : (b.src == a.src) = true
    · exact .inr (List.mem_map.mpr ⟨b, h, if_pos hs⟩)
    · exact .inl (List.mem_map.mpr ⟨b, h, if_neg hs⟩)

theorem Ilpiac.Records.markLatched {a : Assertion} (h : m.Records m') : m.Records (m'.markLatched a) := by
  refine ⟨h.regs, h.pendLo, h.holm, fun b hb => ?_⟩
  obtain ⟨c, hc, hsrc, hdetail⟩ := h.asserts b hb
  rcases Ilpiac.mem_marked (a := a) hc with hm | hm
  · exact ⟨_, hm, hsrc, hdetail⟩
  · exact ⟨_, hm, hsrc, hdetail⟩

theorem Ilpiac.Records.dueAtOnce {src : Nat} (h : m.Records m') : m.Records (m'.dueAtOnce src) := by
  unfold Ilpiac.dueAtOnce
  split
  · exact ⟨h.regs, h.pendLo, h.holm, h.asserts⟩
  · exact h

theorem Ilpiac.Records.latch {a : Assertion} (h : m.Records m') : m.Records (m'.latch a) := by
  unfold Ilpiac.latch
  exact (h.markLatched.firstFault.gw (by decide)).event.sbEvent.dueAtOnce

theorem Ilpiac.Records.latchNext (h : m.Records m') : m.Records m'.latchNext := by
  unfold Ilpiac.latchNext
  split
  · split
    · exact h.latch
    · exact h
  · exact h

theorem Ilpiac.Records.addAssert {a : Assertion} (h : m.Records m') : m.Records (m'.addAssert a) := by
  refine ⟨h.regs, h.pendLo, h.holm, fun b hb => ?_⟩
  obtain ⟨c, hc, hsame⟩ := h.asserts b hb
  exact ⟨c, List.mem_append_left _ hc, hsame⟩

/-- A single event is recorded as an assertion of its own, whatever asserts already (R550). -/
theorem Ilpiac.records_raise (m : Ilpiac) {src : Nat} (hs : singleEvent src = true) (unit detail : Nat) :
    ∃ a : Assertion, a.src = src ∧ a.detail = detail ∧ (m.addAssert a).Records (m.raise src unit detail) := by
  let a : Assertion := ⟨src, unit, detail, false, m.flt.asserts.any (fun b => b.src == src && b.latched) && !singleEvent src⟩
  have h := Ilpiac.Records.refl (m.addAssert a)
  refine ⟨a, rfl, rfl, ?_⟩
  unfold Ilpiac.raise
  dsimp only
  rw [if_neg (by simp [hs])]
  split
  · exact h
  · split
    · exact h.latch
    · split
      · split
        · exact h
        · exact h.gw (by decide)
      · exact h.latchNext

theorem Ilpiac.records_regAccess (m : Ilpiac) (off : Nat) : m.Records (m.regAccess off) := by
  obtain ⟨a, -, -, h⟩ := m.records_raise (src := srcRegAccess) (by decide) 0 off
  exact ⟨h.regs, h.pendLo, h.holm, fun b hb => h.asserts b (List.mem_append_left _ hb)⟩

/-- A register-access fault names the offset (R15). -/
theorem Ilpiac.asserts_regAccess (m : Ilpiac) (off : Nat) : ∃ a ∈ (m.regAccess off).flt.asserts, a.src = srcRegAccess ∧ a.detail = off := by
  obtain ⟨a, hsrc, hdetail, h⟩ := m.records_raise (src := srcRegAccess) (by decide) 0 off
  obtain ⟨b, hb, hbs, hbd⟩ := h.asserts a (List.mem_append_right _ (List.mem_singleton_self a))
  exact ⟨b, hb, hbs.trans hsrc, hbd.trans hdetail⟩

theorem Ilpiac.asserting_regAccess (m : Ilpiac) (off : Nat) : (m.regAccess off).asserting srcRegAccess = true := by
  obtain ⟨a, ha, hsrc, -⟩ := m.asserts_regAccess off
  exact List.any_eq_true.mpr ⟨a, ha, beq_iff_eq.mpr hsrc⟩

/-! ### A write of a register at a fixed offset -/

/-- Whether a field refused its change makes a register-access fault (R19). -/
def Ilpiac.refusal (m : Ilpiac) (off : Nat) (refused : Bool) : Ilpiac := if refused then m.regAccess off else m

theorem Ilpiac.records_refusal (m : Ilpiac) (off : Nat) (refused : Bool) : m.Records (m.refusal off refused) := by
  unfold Ilpiac.refusal
  split
  · exact m.records_regAccess off
  · exact .refl m

/-- A register that takes any value holds its fields as written; nothing else happens but the fault of a refused field (R18, R19). -/
theorem Ilpiac.writeReg_plain {off : Nat} {d : RegDef} {j : Nat} (h : Plain off d j) (m : Ilpiac) (v mask : Nat) :
    m.writeReg off v mask =
      (m.refusal off (d.written (m.ownerStopped off) (m.reg off).toNat v mask).2).setReg off
        (BitVec.ofNat 64 (d.written (m.ownerStopped off) (m.reg off).toNat v mask).1) := by
  obtain ⟨hnamed, hfixed, hidle⟩ := h
  have hdef : regDefAt .glob (locate off).2.2 = some (d, j) := hfixed ▸ hnamed
  simp only [actingRegs, List.mem_cons, List.not_mem_nil, or_false, not_or] at hidle
  have hc (m : Ilpiac) (old x : Nat) : m.constrained off old x = x := by simp [Ilpiac.constrained, hfixed, hidle]
  have hg (m : Ilpiac) (old : Nat) : m.globEffect off old = m := by simp [Ilpiac.globEffect, hidle]
  have hu (m : Ilpiac) (n o old : Nat) : m.unitEffect .glob n o old = m := rfl
  unfold Ilpiac.writeReg
  simp only [hidle, hfixed, if_false, reduceCtorEq, false_and]
  unfold Ilpiac.storeReg
  simp only [hdef, hc, hg, hu, hfixed, reduceCtorEq, false_and, if_false]
  rfl

theorem Ilpiac.asserting_setReg (m : Ilpiac) (k src : Nat) (v : Word) : (m.setReg k v).asserting src = m.asserting src := rfl

theorem Ilpiac.reg_writeReg_plain {off : Nat} {d : RegDef} {j : Nat} (h : Plain off d j) (m : Ilpiac) (v mask : Nat) :
    (m.writeReg off v mask).reg off = BitVec.ofNat 64 (d.written (m.ownerStopped off) (m.reg off).toNat v mask).1 := by
  rw [m.writeReg_plain h, Ilpiac.reg_setReg_self]

theorem Ilpiac.pendLo_writeReg_plain {off : Nat} {d : RegDef} {j : Nat} (h : Plain off d j) (m : Ilpiac) (v mask : Nat) :
    (m.writeReg off v mask).ctl.pendLo = m.ctl.pendLo := by
  rw [m.writeReg_plain h, Ilpiac.setReg_ctl, (m.records_refusal off _).pendLo]

@[simp] theorem Ilpiac.reg_unlatch (m : Ilpiac) (off k : Nat) : (m.unlatch off).reg k = m.reg k := rfl

@[simp] theorem Ilpiac.reg_unpend (m : Ilpiac) (off k : Nat) : (m.unpend off).reg k = m.reg k := rfl

@[simp] theorem Ilpiac.ownerStopped_unlatch (m : Ilpiac) (off k : Nat) : (m.unlatch off).ownerStopped k = m.ownerStopped k := rfl

@[simp] theorem Ilpiac.ownerStopped_unpend (m : Ilpiac) (off k : Nat) : (m.unpend off).ownerStopped k = m.ownerStopped k := rfl

/-! ### Accesses that reach the block -/

theorem exec_registerWrite_window (s : State) (off : Nat) (v : Word) :
    exec (.registerWrite .window off v) s = .next { s with m := (s.m.access (.write off v)).settle } := rfl

theorem exec_registerWrite_sideband (s : State) (off : Nat) (v : Word) :
    exec (.registerWrite .sideband off v) s = .next { s with m := (s.m.sbWrite off v.toNat).settle } := rfl

theorem Ilpiac.access_linked (h : m.Linked) (a : HeldAccess) : m.access a = m.doAccess a := by
  unfold Ilpiac.access
  rw [if_neg (not_not.mpr h.up), if_neg (by simp [h.awake])]

theorem Ilpiac.access_write {off : Nat} (h : m.Reaches off) (v : Word) :
    m.access (.write off v) = ((m.unlatch off).unpend off).writeReg off v.toNat (2 ^ 64 - 1) := by
  rw [Ilpiac.access_linked h.toLinked]
  unfold Ilpiac.doAccess
  dsimp only
  rw [if_neg (Nat.not_le.mpr h.inside), if_neg (not_not.mpr h.aligned), if_neg (by simp [h.here])]

theorem Ilpiac.access_half {off : Nat} (h : m.Reaches off) (upper : Bool) (v : BitVec 32) :
    m.access (.half off upper v) = m.halfWrite off upper v.toNat := by
  rw [Ilpiac.access_linked h.toLinked]
  unfold Ilpiac.doAccess
  dsimp only
  rw [if_neg (Nat.not_le.mpr h.inside), if_neg (not_not.mpr h.aligned), if_neg (by simp [h.here])]

end Sys2Proof.Machine

open Sys2Proof.Machine

/-- Settles O9: a plain register takes its fields as written, and the staged placement the bits of its fields. -/
theorem registerWrite : Obligations.RegisterWrite := by
  unfold Obligations.RegisterWrite
  intro s v
  refine ⟨fun off d j hr hp => ?_, fun hon => ⟨?_, ?_⟩⟩
  · dsimp only
    refine ⟨_, exec_registerWrite_window s off v, ?_, fun hx k hk => ?_, fun hx => ?_⟩
    · rw [Ilpiac.access_write hr, Ilpiac.reg_writeReg_plain hp]
      simp only [Ilpiac.ownerStopped_unpend, Ilpiac.ownerStopped_unlatch, Ilpiac.reg_unpend, Ilpiac.reg_unlatch]
    · rw [Ilpiac.access_write hr, Ilpiac.writeReg_plain hp, Ilpiac.reg_setReg_ne _ _ hk]
      simp only [Ilpiac.ownerStopped_unpend, Ilpiac.ownerStopped_unlatch, Ilpiac.reg_unpend, Ilpiac.reg_unlatch]
      rw [hx, Ilpiac.refusal, if_neg Bool.false_ne_true, Ilpiac.reg_unpend, Ilpiac.reg_unlatch]
    · rw [Ilpiac.access_write hr, Ilpiac.writeReg_plain hp]
      simp only [Ilpiac.ownerStopped_unpend, Ilpiac.ownerStopped_unlatch, Ilpiac.reg_unpend, Ilpiac.reg_unlatch]
      rw [hx, Ilpiac.asserting_setReg, Ilpiac.refusal, if_pos rfl, Ilpiac.asserting_regAccess]
  · have hw : s.m.sbWrite 0x20 v.toNat = s.m.gw F.SB_STAGE0_STAGE v.toNat := by simp [Ilpiac.sbWrite, hon]
    refine ⟨_, exec_registerWrite_sideband s 0x20 v, ?_⟩
    rw [hw]
    exact ⟨Ilpiac.g_gw_self _ _ _ _ (by decide), fun k hk => Ilpiac.reg_wr_ne _ _ _ _ _ _ _ hk⟩
  · have hw : s.m.sbWrite 0x28 v.toNat = s.m.gw F.SB_STAGE1_EXTENT v.toNat := by simp [Ilpiac.sbWrite, hon]
    refine ⟨_, exec_registerWrite_sideband s 0x28 v, ?_⟩
    rw [hw]
    exact ⟨Ilpiac.g_gw_self _ _ _ _ (by decide), fun k hk => Ilpiac.reg_wr_ne _ _ _ _ _ _ _ hk⟩

end

section
/-! Half accesses, reads that clear, and misaligned accesses of the register window (spec 00: R15, R16, R18, R549). -/

namespace Sys2Proof.Machine

variable {m : Ilpiac}

/-! ### Tables searched by key -/

theorem Map.find?_erase_self {V : Type} (l : List (Nat × V)) (k : Nat) : (Map.erase l k).find? (fun x => x.1 == k) = none :=
  List.find?_eq_none.mpr fun e he => by simpa using Map.erase_ne l k e he

theorem Map.find?_erase_ne {V : Type} (l : List (Nat × V)) {j k : Nat} (h : j ≠ k) :
    (Map.erase l k).find? (fun x => x.1 == j) = l.find? (fun x => x.1 == j) := by
  rw [Map.erase, List.find?_filter]
  congr 1
  funext e
  by_cases he : e.1 = j <;> simp [he, h]

theorem Map.find?_ins_self {V : Type} {l : List (Nat × V)} {k : Nat} (v : V) (h : ∀ e ∈ l, e.1 ≠ k) :
    (Map.ins l k v).find? (fun x => x.1 == k) = some (k, v) := by
  induction l with
  | nil => simp [Map.ins]
  | cons e l ih =>
    obtain ⟨he, hl⟩ := List.forall_mem_cons.mp h
    unfold Map.ins
    split
    · simp
    · rw [List.find?_cons_of_neg (by simpa using he), ih hl]

theorem Map.find?_ins_ne {V : Type} (l : List (Nat × V)) {j k : Nat} (v : V) (h : j ≠ k) :
    (Map.ins l k v).find? (fun x => x.1 == j) = l.find? (fun x => x.1 == j) := by
  induction l with
  | nil => simp [Map.ins, h.symm]
  | cons e l ih =>
    unfold Map.ins
    split
    · rw [List.find?_cons_of_neg (by simpa using h.symm)]
    · rw [List.find?_cons, List.find?_cons, ih]

/-! ### Writes of halves (R16) -/

theorem toNat_append_halves (hi lo : BitVec 32) : (hi ++ lo).toNat = lo.toNat + hi.toNat * 2 ^ 32 := by
  rw [BitVec.toNat_append, Nat.shiftLeft_eq, Nat.add_comm, Nat.mul_comm]
  exact (Nat.two_pow_add_eq_or_of_lt lo.isLt _).symm

theorem Ilpiac.pendLo_lowerHalf (m : Ilpiac) (off v : Nat) :
    (m.halfWrite off false v).ctl.pendLo = Map.ins (Map.erase m.ctl.pendLo off) off v := rfl

/-- The upper half completes the lower half that is pending. -/
theorem Ilpiac.halfWrite_pending {off lo : Nat} (h : m.ctl.pendLo.find? (fun x => x.1 == off) = some (off, lo)) (hi : Nat) :
    m.halfWrite off true hi = ((m.unlatch off).unpend off).writeReg off (lo + hi * 2 ^ 32) (2 ^ 64 - 1) := by
  have h' : (m.unlatch off).ctl.pendLo.find? (fun x => x.1 == off) = some (off, lo) := h
  unfold Ilpiac.halfWrite
  simp only [h', Bool.not_true, Bool.false_eq_true, if_false]

theorem Ilpiac.halfWrite_alone {off : Nat} (h : m.ctl.pendLo.find? (fun x => x.1 == off) = none) (hi : Nat) :
    m.halfWrite off true hi = (m.unlatch off).writeReg off (hi * 2 ^ 32) (2 ^ 64 - 2 ^ 32) := by
  have h' : (m.unlatch off).ctl.pendLo.find? (fun x => x.1 == off) = none := h
  unfold Ilpiac.halfWrite
  simp only [h', Bool.not_true, Bool.false_eq_true, if_false]

/-- A write of the whole register leaves no half of it pending. -/
theorem Ilpiac.find?_pendLo_writeReg_unpend {off : Nat} {d : RegDef} {j : Nat} (h : Plain off d j) (m : Ilpiac) (v mask : Nat) :
    ((m.unpend off).writeReg off v mask).ctl.pendLo.find? (fun x => x.1 == off) = none := by
  rw [Ilpiac.pendLo_writeReg_plain h]
  exact Map.find?_erase_self _ _

/-! ### Fields that a read clears (R18) -/

/-- Two fields share no bit. -/
abbrev FSpec.Apart (f g : FSpec) : Prop := f.lo + f.w ≤ g.lo ∨ g.lo + g.w ≤ f.lo

/-- The fields of a register lie apart and within its 64 bits. -/
def RegDef.laid (d : RegDef) : Bool :=
  decide (d.fields.Pairwise FSpec.Apart) && d.fields.all fun f => decide (f.lo + f.w ≤ 64)

theorem RegDef.laid_iff (d : RegDef) : d.laid = true ↔ d.fields.Pairwise FSpec.Apart ∧ ∀ f ∈ d.fields, f.lo + f.w ≤ 64 := by
  simp only [RegDef.laid, Bool.and_eq_true, decide_eq_true_eq, List.all_eq_true]

theorem regDefsOf_laid (b : Blk) (off : Nat) : (regDefsOf b off).all RegDef.laid = true := by
  unfold regDefsOf
  split
  case h_13 =>
    split
    · decide
    · split <;> decide
  all_goals decide

theorem laid_of_regDefOf {k : Nat} {d : RegDef} {j : Nat} (h : regDefOf k = some (d, j)) : d.laid = true := by
  obtain ⟨e, he, heq⟩ := Option.map_eq_some_iff.mp h
  cases heq
  exact List.all_eq_true.mp (regDefsOf_laid _ _) _ (List.mem_of_find?_eq_some he)

/-- A register value with a field at 0 if reads clear it and it lies at or above bit `lo`. -/
def clearField (lo v : Nat) (f : FSpec) : Nat := if f.ty = .rc ∧ lo ≤ f.lo then setBits v f.lo f.w 0 else v

theorem bits_clearField_self (lo v : Nat) (f : FSpec) :
    bits (clearField lo v f) f.lo f.w = if f.ty = .rc ∧ lo ≤ f.lo then 0 else bits v f.lo f.w := by
  unfold clearField
  split
  · rw [bits_setBits_self, Nat.zero_mod]
  · rfl

theorem bits_clearField_apart {f g : FSpec} (h : f.Apart g) (lo v : Nat) : bits (clearField lo v g) f.lo f.w = bits v f.lo f.w := by
  unfold clearField
  split
  · rcases h with h | h
    · exact bits_setBits_below _ _ _ _ _ _ h
    · exact bits_setBits_above _ _ _ _ _ _ h
  · rfl

theorem clearField_lt {f : FSpec} (h : f.lo + f.w ≤ 64) (lo : Nat) {v : Nat} (hv : v < 2 ^ 64) : clearField lo v f < 2 ^ 64 := by
  unfold clearField
  split
  · exact setBits_lt _ _ _ _ 64 hv h
  · exact hv

/-- A register value with the read-clear fields from bit `lo` on at 0. -/
def clearFields (fs : List FSpec) (lo v : Nat) : Nat := fs.foldl (clearField lo) v

theorem bits_clearFields_apart {fs : List FSpec} {f : FSpec} (h : ∀ g ∈ fs, f.Apart g) (lo v : Nat) :
    bits (clearFields fs lo v) f.lo f.w = bits v f.lo f.w := by
  induction fs generalizing v with
  | nil => rfl
  | cons g fs ih =>
    obtain ⟨hg, hfs⟩ := List.forall_mem_cons.mp h
    exact (ih hfs _).trans (bits_clearField_apart hg lo v)

theorem bits_clearFields {fs : List FSpec} (h : fs.Pairwise FSpec.Apart) {f : FSpec} (hf : f ∈ fs) (lo v : Nat) :
    bits (clearFields fs lo v) f.lo f.w = if f.ty = .rc ∧ lo ≤ f.lo then 0 else bits v f.lo f.w := by
  induction fs generalizing v with
  | nil => cases hf
  | cons g fs ih =>
    obtain ⟨hg, hfs⟩ := List.pairwise_cons.mp h
    rcases List.mem_cons.mp hf with rfl | hf
    · exact (bits_clearFields_apart hg lo _).trans (bits_clearField_self lo v f)
    · refine (ih hfs hf _).trans ?_
      rw [bits_clearField_apart (hg f hf).symm]

theorem clearFields_lt {fs : List FSpec} (h : ∀ f ∈ fs, f.lo + f.w ≤ 64) (lo : Nat) {v : Nat} (hv : v < 2 ^ 64) :
    clearFields fs lo v < 2 ^ 64 := by
  induction fs generalizing v with
  | nil => exact hv
  | cons g fs ih =>
    obtain ⟨hg, hfs⟩ := List.forall_mem_cons.mp h
    exact ih hfs (clearField_lt hg lo hv)

theorem Ilpiac.clearRc_eq {k : Nat} {d : RegDef} {j : Nat} (h : regDefOf k = some (d, j)) (m : Ilpiac) (lo : Nat) :
    m.clearRc k lo = if clearFields d.fields lo (m.reg k).toNat = (m.reg k).toNat then m
      else m.setReg k (BitVec.ofNat 64 (clearFields d.fields lo (m.reg k).toNat)) := by
  unfold Ilpiac.clearRc
  rw [h]
  rfl

theorem Ilpiac.clearRc_ctl (m : Ilpiac) (k lo : Nat) : (m.clearRc k lo).ctl = m.ctl := by
  unfold Ilpiac.clearRc
  split
  · rfl
  · dsimp only
    split <;> rfl

theorem Ilpiac.reg_clearRc_ne (m : Ilpiac) {k j : Nat} (lo : Nat) (h : j ≠ k) : (m.clearRc k lo).reg j = m.reg j := by
  unfold Ilpiac.clearRc
  split
  · rfl
  · dsimp only
    split
    · rfl
    · exact Ilpiac.reg_setReg_ne _ _ h

theorem Ilpiac.toNat_reg_clearRc {k : Nat} {d : RegDef} {j : Nat} (h : regDefOf k = some (d, j)) (m : Ilpiac) (lo : Nat) :
    ((m.clearRc k lo).reg k).toNat = clearFields d.fields lo (m.reg k).toNat := by
  rw [m.clearRc_eq h]
  split
  · exact Eq.symm ‹_›
  · obtain ⟨-, hin⟩ := d.laid_iff.mp (laid_of_regDefOf h)
    rw [Ilpiac.reg_setReg_self, BitVec.toNat_ofNat, Nat.mod_eq_of_lt (clearFields_lt hin lo (m.reg k).isLt)]

/-- A read clears its read-clear fields and no other bit of a field. -/
theorem Ilpiac.bits_clearRc {k : Nat} {d : RegDef} {j : Nat} (h : regDefOf k = some (d, j)) (m : Ilpiac) (lo : Nat) {f : FSpec}
    (hf : f ∈ d.fields) : bits ((m.clearRc k lo).reg k).toNat f.lo f.w = if f.ty = .rc ∧ lo ≤ f.lo then 0 else bits (m.reg k).toNat f.lo f.w := by
  obtain ⟨hapart, -⟩ := d.laid_iff.mp (laid_of_regDefOf h)
  rw [m.toNat_reg_clearRc h, bits_clearFields hapart hf]

/-- HOLM_STATUS.STATE is a field that no read clears. -/
theorem holmState_field : ∃ d, regDefOf 0x210 = some (d, 0) ∧ ⟨0, 2, .ro⟩ ∈ d.fields := by
  refine ⟨_, rfl, ?_⟩
  decide

theorem Ilpiac.holmState_clearRc (m : Ilpiac) (k lo : Nat) : (m.clearRc k lo).g F.HOLM_STATUS_STATE = m.g F.HOLM_STATUS_STATE := by
  by_cases hk : k = 0x210
  · subst hk
    obtain ⟨d, hd, hf⟩ := holmState_field
    exact (m.bits_clearRc hd lo hf).trans (if_neg (by simp))
  · change bits ((m.clearRc k lo).reg 0x210).toNat 0 2 = bits (m.reg 0x210).toNat 0 2
    rw [Ilpiac.reg_clearRc_ne _ _ (Ne.symm hk)]

/-! ### Answers to the companion -/

theorem Ilpiac.regs_reply (m : Ilpiac) (n v : Nat) : (m.reply n v).regs = m.regs := (m.send_frame _).1

theorem Ilpiac.reg_reply (m : Ilpiac) (n v k : Nat) : (m.reply n v).reg k = m.reg k := by
  rw [Ilpiac.reg, Ilpiac.regs_reply, Ilpiac.reg]

theorem Ilpiac.flt_reply (m : Ilpiac) (n v : Nat) : (m.reply n v).flt = m.flt := by
  rw [Ilpiac.reply]
  simp

theorem Ilpiac.latchHi_reply (m : Ilpiac) (n v : Nat) : (m.reply n v).ctl.latchHi = m.ctl.latchHi := by
  unfold Ilpiac.reply Ilpiac.send
  split <;> rfl

theorem Ilpiac.told_reply (h : m.g F.HOLM_STATUS_STATE = holmUp) (n v : Nat) : (m.reply n v).told = m.told ++ [.regData (leBytes n v)] := by
  rw [Ilpiac.reply, Ilpiac.send_told, if_pos h]

theorem Ilpiac.told_clearRc (m : Ilpiac) (k lo : Nat) : (m.clearRc k lo).told = m.told := by
  rw [Ilpiac.told, Ilpiac.clearRc_ctl, Ilpiac.told]

/-! ### Reads (R18, R549) -/

theorem Ilpiac.doAccess_read {off size : Nat} (hin : off < 2 ^ 26) (hsize : ¬((size = 8 ∧ off % 8 ≠ 0) ∨ off % 4 ≠ 0))
    (hhere : m.responds (off / 8 * 8) = true) :
    m.doAccess (.read off size) = if size = 8 then m.read64 off else if off % 8 = 0 then m.readLow off else m.readHigh (off - 4) := by
  unfold Ilpiac.doAccess
  dsimp only
  rw [if_neg (Nat.not_le.mpr hin), if_neg hsize, if_neg (by simp [hhere])]

theorem Ilpiac.access_read64 {off : Nat} (h : m.Reaches off) : m.access (.read off 8) = m.read64 off := by
  have ha := h.aligned
  rw [Ilpiac.access_linked h.toLinked, Ilpiac.doAccess_read h.inside (by omega) (by rw [show off / 8 * 8 = off by omega]; exact h.here),
    if_pos rfl]

theorem Ilpiac.access_readLow {off : Nat} (h : m.Reaches off) : m.access (.read off 4) = m.readLow off := by
  have ha := h.aligned
  rw [Ilpiac.access_linked h.toLinked, Ilpiac.doAccess_read h.inside (by omega) (by rw [show off / 8 * 8 = off by omega]; exact h.here),
    if_neg (by decide), if_pos ha]

theorem Ilpiac.access_readHigh {off : Nat} (h : m.Reaches off) : m.access (.read (off + 4) 4) = m.readHigh off := by
  have ha := h.aligned
  have hi := h.inside
  rw [Ilpiac.access_linked h.toLinked, Ilpiac.doAccess_read (by omega) (by omega) (by rw [show (off + 4) / 8 * 8 = off by omega]; exact h.here),
    if_neg (by decide), if_neg (by omega), Nat.add_sub_cancel]

/-- A read ends the latch of the upper half and clears the read-clear fields. -/
def Ilpiac.captured (m : Ilpiac) (k : Nat) : Ilpiac := (m.unlatch k).clearRc k 0

/-- The upper half of a value read is latched. -/
def Ilpiac.latchHalf (m : Ilpiac) (k u : Nat) : Ilpiac := { m with ctl := { m.ctl with latchHi := Map.ins m.ctl.latchHi k u } }

theorem Ilpiac.read64_eq (m : Ilpiac) (k : Nat) : m.read64 k = (m.captured k).reply 8 (m.view k).toNat := rfl

theorem Ilpiac.readLow_eq (m : Ilpiac) (k : Nat) :
    m.readLow k = ((m.captured k).latchHalf k ((m.view k).toNat / 2 ^ 32)).reply 4 ((m.view k).toNat % 2 ^ 32) := rfl

theorem Ilpiac.readHigh_latched {k u : Nat} (h : m.ctl.latchHi.find? (fun x => x.1 == k) = some (k, u)) :
    m.readHigh k = (m.unlatch k).reply 4 u := by
  unfold Ilpiac.readHigh
  rw [h]

theorem Ilpiac.readHigh_current {k : Nat} (h : m.ctl.latchHi.find? (fun x => x.1 == k) = none) :
    m.readHigh k = (m.clearRc k 32).reply 4 ((m.view k).toNat / 2 ^ 32) := by
  unfold Ilpiac.readHigh
  rw [h]

theorem Ilpiac.unlatch_up (h : m.Linked) (k : Nat) : (m.unlatch k).g F.HOLM_STATUS_STATE = holmUp := h.up

theorem Ilpiac.captured_up (h : m.Linked) (k : Nat) : (m.captured k).g F.HOLM_STATUS_STATE = holmUp :=
  (Ilpiac.holmState_clearRc (m.unlatch k) k 0).trans h.up

theorem Ilpiac.latchHalf_up (h : m.Linked) (k u : Nat) : ((m.captured k).latchHalf k u).g F.HOLM_STATUS_STATE = holmUp := m.captured_up h k

theorem Ilpiac.told_latchHalf (m : Ilpiac) (k u : Nat) : (m.latchHalf k u).told = m.told := rfl

theorem Ilpiac.reg_latchHalf (m : Ilpiac) (k u j : Nat) : (m.latchHalf k u).reg j = m.reg j := rfl

theorem Ilpiac.told_captured (m : Ilpiac) (k : Nat) : (m.captured k).told = m.told := Ilpiac.told_clearRc (m.unlatch k) k 0

theorem Ilpiac.reg_captured_ne (m : Ilpiac) {k j : Nat} (h : j ≠ k) : (m.captured k).reg j = m.reg j :=
  Ilpiac.reg_clearRc_ne (m.unlatch k) 0 h

theorem Ilpiac.bits_captured {k : Nat} {d : RegDef} {j : Nat} (h : regDefOf k = some (d, j)) (m : Ilpiac) {f : FSpec} (hf : f ∈ d.fields) :
    bits ((m.captured k).reg k).toNat f.lo f.w = if f.ty = .rc then 0 else bits (m.reg k).toNat f.lo f.w := by
  refine ((m.unlatch k).bits_clearRc h 0 hf).trans ?_
  simp only [Nat.zero_le, and_true, Ilpiac.reg_unlatch]

theorem Ilpiac.find?_latchHi_latchHalf (m : Ilpiac) (k u : Nat) :
    ((m.captured k).latchHalf k u).ctl.latchHi.find? (fun x => x.1 == k) = some (k, u) := by
  change (Map.ins (m.captured k).ctl.latchHi k u).find? _ = _
  rw [Ilpiac.captured, Ilpiac.clearRc_ctl]
  exact Map.find?_ins_self u (Map.erase_ne m.ctl.latchHi k)

/-! ### Misaligned accesses (R15) -/

theorem Ilpiac.access_misaligned (h : m.Linked) {off : Nat} (hin : off < 2 ^ 26)
    (hopen : m.bootReady = true ∨ bootRegion off = true) (write : Bool) :
    m.access (.misaligned off write) = if write then m.regAccess off else (m.regAccess off).reply 8 (2 ^ 64 - 1) := by
  rw [Ilpiac.access_linked h]
  unfold Ilpiac.doAccess Ilpiac.badAccess
  dsimp only
  rw [if_neg (Nat.not_le.mpr hin), if_neg (by rcases hopen with h | h <;> simp [h])]

theorem Ilpiac.Records.up {m' : Ilpiac} (h : m.Records m') (hup : m.g F.HOLM_STATUS_STATE = holmUp) : m'.g F.HOLM_STATUS_STATE = holmUp := by
  rw [← hup, Ilpiac.g, Ilpiac.rd, h.regs _ (by decide), Ilpiac.g, Ilpiac.rd]

theorem Ilpiac.Records.told {m' : Ilpiac} (h : m.Records m') : m'.told = m.told := by
  rw [Ilpiac.told, h.holm, Ilpiac.told]

/-! ### The commands -/

theorem exec_lowerHalfWrite (s : State) (off : Nat) (v : BitVec 32) :
    exec (.lowerHalfWrite off v) s = .next { s with m := (s.m.access (.half off false v)).settle } := rfl

theorem exec_upperHalfWrite (s : State) (off : Nat) (v : BitVec 32) :
    exec (.upperHalfWrite off v) s = .next { s with m := (s.m.access (.half off true v)).settle } := rfl

theorem exec_lowerHalfRead (s : State) (off : Nat) :
    exec (.lowerHalfRead off) s = .next { s with m := (s.m.access (.read off 4)).settle } := rfl

theorem exec_rcRead_whole (s : State) (off : Nat) :
    exec (.rcRead off false) s = .next { s with m := (s.m.access (.read off 8)).settle } := rfl

theorem exec_rcRead_upper (s : State) (off : Nat) :
    exec (.rcRead off true) s = .next { s with m := (s.m.access (.read (off + 4) 4)).settle } := rfl

theorem exec_misalignedAccess (s : State) (off : Nat) (write : Bool) :
    exec (.misalignedAccess off write) s = .next { s with m := (s.m.access (.misaligned off write)).settle } := rfl

end Sys2Proof.Machine

open Sys2Proof.Machine

/-- Settles O10: half writes, then reads, then misaligned accesses. -/
theorem windowReads : Obligations.WindowReads := by
  unfold Obligations.WindowReads
  refine ⟨fun s off lo hi hr => ⟨?_, fun d j hp hpend => ?_, fun d j hp hpend => ?_, fun d j v hp => ?_⟩,
    fun s off d j hr hd => ⟨?_, ?_, fun u hu => ?_, fun hu => ?_⟩, fun s off write hl hin hopen => ?_⟩
  · refine ⟨_, exec_lowerHalfWrite s off lo, ?_⟩
    rw [Ilpiac.access_half hr, Ilpiac.pendLo_lowerHalf]
    refine ⟨rfl, Map.find?_ins_self _ (Map.erase_ne _ _), fun k hk => ?_⟩
    rw [Map.find?_ins_ne _ _ hk, Map.find?_erase_ne _ hk]
  · refine ⟨_, exec_upperHalfWrite s off hi, ?_⟩
    rw [Ilpiac.access_half hr, Ilpiac.halfWrite_pending hpend, Ilpiac.reg_writeReg_plain hp, ← toNat_append_halves]
    simp only [Ilpiac.ownerStopped_unpend, Ilpiac.ownerStopped_unlatch, Ilpiac.reg_unpend, Ilpiac.reg_unlatch, and_true]
    exact Ilpiac.find?_pendLo_writeReg_unpend hp _ _ _
  · refine ⟨_, exec_upperHalfWrite s off hi, ?_⟩
    rw [Ilpiac.access_half hr, Ilpiac.halfWrite_alone hpend, Ilpiac.reg_writeReg_plain hp, Ilpiac.ownerStopped_unlatch, Ilpiac.reg_unlatch]
  · refine ⟨_, exec_registerWrite_window s off v, ?_⟩
    rw [Ilpiac.access_write hr]
    exact Ilpiac.find?_pendLo_writeReg_unpend hp _ _ _
  · refine ⟨_, exec_rcRead_whole s off, ?_⟩
    rw [Ilpiac.access_read64 hr, Ilpiac.read64_eq, Ilpiac.told_reply (Ilpiac.captured_up hr.toLinked off), Ilpiac.told_captured]
    simp only [Ilpiac.reg_reply, true_and]
    exact ⟨fun k hk => Ilpiac.reg_captured_ne _ hk, fun f hf => Ilpiac.bits_captured hd _ hf⟩
  · refine ⟨_, exec_lowerHalfRead s off, ?_⟩
    rw [Ilpiac.access_readLow hr, Ilpiac.readLow_eq, Ilpiac.told_reply (Ilpiac.latchHalf_up hr.toLinked off _), Ilpiac.told_latchHalf,
      Ilpiac.told_captured, Ilpiac.latchHi_reply]
    simp only [Ilpiac.reg_reply, Ilpiac.reg_latchHalf, true_and]
    exact ⟨fun k hk => Ilpiac.reg_captured_ne _ hk, fun f hf => Ilpiac.bits_captured hd _ hf, Ilpiac.find?_latchHi_latchHalf s.m off _⟩
  · refine ⟨_, exec_rcRead_upper s off, ?_⟩
    rw [Ilpiac.access_readHigh hr, Ilpiac.readHigh_latched hu, Ilpiac.regs_reply, Ilpiac.told_reply (Ilpiac.unlatch_up hr.toLinked off)]
    exact ⟨rfl, rfl⟩
  · refine ⟨_, exec_rcRead_upper s off, ?_⟩
    rw [Ilpiac.access_readHigh hr, Ilpiac.readHigh_current hu,
      Ilpiac.told_reply ((Ilpiac.holmState_clearRc _ _ _).trans hr.up), Ilpiac.told_clearRc]
    simp only [Ilpiac.reg_reply, true_and]
    exact fun f hf => Ilpiac.bits_clearRc hd s.m 32 hf
  · refine ⟨_, exec_misalignedAccess s off write, ?_⟩
    rw [Ilpiac.access_misaligned hl hin hopen]
    have hrec := s.m.records_regAccess off
    cases write with
    | true =>
      simp only [if_true, List.append_nil]
      exact ⟨hrec.told, s.m.asserts_regAccess off, hrec.regs⟩
    | false =>
      simp only [Bool.false_eq_true, if_false, Ilpiac.reg_reply, Ilpiac.flt_reply, Ilpiac.told_reply (hrec.up hl.up), hrec.told, true_and]
      exact ⟨s.m.asserts_regAccess off, hrec.regs⟩

end

section
/-! Acceptance of the seven collective descriptors (spec 02: R32, R49, R70, R91; spec 04: R139): what the block is when a collective opens,
and the queue that its contexts enter. -/

namespace Sys2Proof.Machine

variable {m m0 : Ilpiac} {d : AccDesc} {cm : Comm} {c : Coll}

/-! ### Lists -/

theorem sumOf_eq_sum (l : List Nat) : sumOf l = l.sum := List.sum_eq_foldl.symm

/-- Where an element satisfies `p`, changing the first such element by `n` changes the sum by `n`. -/
theorem sum_map_mapFirst {α : Type} {p : α → Bool} {f : α → α} {g : α → Nat} {n : Nat} (hf : ∀ a, g (f a) = g a + n) {l : List α}
    (h : l.any p = true) : ((mapFirst p f l).map g).sum = (l.map g).sum + n := by
  induction l with
  | nil => cases h
  | cons a l ih =>
    unfold mapFirst
    split
    · simp only [List.map_cons, List.sum_cons, hf]; omega
    · have hl : l.any p = true := by simpa only [List.any_cons, ‹¬p a = true›, Bool.false_or] using h
      simp only [List.map_cons, List.sum_cons, ih hl]; omega

/-- The first element that satisfies `p` is the one changed. -/
theorem find?_mapFirst {α : Type} {p : α → Bool} {f : α → α} (hf : ∀ a, p (f a) = p a) (l : List α) :
    (mapFirst p f l).find? p = (l.find? p).map f := by
  induction l with
  | nil => rfl
  | cons a l ih =>
    unfold mapFirst
    by_cases h : p a = true
    · simp [h, hf]
    · simp [h, ih]

/-! ### Descriptors that begin and complete -/

/-- The block with other descriptors accepted. Nothing that acceptance consults looks at them. -/
def Ilpiac.withDescs (m : Ilpiac) (descs : List AccDesc) : Ilpiac := { m with ctl := { m.ctl with descs } }

/-- A descriptor that begins is marked as begun, and nothing else changes. -/
theorem Ilpiac.begin_descs {ring op : Nat} (h : m.begin ring op = some (d, m0)) : ∃ descs, m0 = m.withDescs descs := by
  unfold Ilpiac.begin at h
  split at h
  · cases h
  · split at h
    · cases h
      exact ⟨_, rfl⟩
    · cases h

section
variable (m : Ilpiac) (l : List AccDesc)

@[simp] theorem Ilpiac.withDescs_cpl : (m.withDescs l).ctl.cpl = m.ctl.cpl := rfl
@[simp] theorem Ilpiac.withDescs_placed : (m.withDescs l).placed = m.placed := rfl

end

theorem Ilpiac.runDesc_of_begin {ring op : Nat} (h : m.begin ring op = some (d, m0)) (f : AccDesc → Ilpiac → Ilpiac) :
    m.runDesc ring op f = f d m0 := by
  rw [Ilpiac.runDesc, h]

@[simp] theorem Ilpiac.done_cpl (m : Ilpiac) (d : AccDesc) (status : Nat) (i : CplInfo) :
    (m.done d status i).ctl.cpl = m.ctl.cpl ++ [d.record status i] := rfl

theorem Ilpiac.done_coll (m : Ilpiac) (d : AccDesc) (status : Nat) (i : CplInfo) : (m.done d status i).coll = m.coll := by simp

/-! ### Communicators -/

/-- What a communicator is after a change that keeps its COMM_ID. -/
theorem Ilpiac.comm_updComm {id : Nat} {f : Comm → Comm} (hf : ∀ c, (f c).id = c.id) (m : Ilpiac) :
    (m.updComm id f).comm id = (m.comm id).map f :=
  find?_mapFirst (fun c => by rw [hf]) m.coll.comms

/-! ### Queues of admission (R139, R168) -/

theorem ite_keeps {α β : Type} {g : α → β} {p : Prop} [Decidable p] {a b : α} {x : β} (ha : g a = x) (hb : g b = x) :
    g (if p then a else b) = x := by
  split <;> assumption

theorem Ilpiac.pool0Stat_ctl (m : Ilpiac) : m.pool0Stat.ctl = m.ctl := by
  unfold Ilpiac.pool0Stat
  exact ite_keeps ((Ilpiac.gw_ctl ..).trans (Ilpiac.gw_ctl ..)) (Ilpiac.gw_ctl ..)

theorem Ilpiac.pool0Stat_coll (m : Ilpiac) : m.pool0Stat.coll = m.coll := by
  unfold Ilpiac.pool0Stat
  exact ite_keeps ((Ilpiac.gw_coll ..).trans (Ilpiac.gw_coll ..)) (Ilpiac.gw_coll ..)

theorem Ilpiac.rmStat_ctl (m : Ilpiac) : m.rmStat.ctl = m.ctl := by
  simp only [Ilpiac.rmStat, Ilpiac.gw_ctl, Ilpiac.pool0Stat_ctl]

theorem Ilpiac.rmStat_coll (m : Ilpiac) : m.rmStat.coll = m.coll := by
  simp only [Ilpiac.rmStat, Ilpiac.gw_coll, Ilpiac.pool0Stat_coll]

/-- Contexts of a list of runs. -/
def runsTotal (l : List AdmRun) : Nat := (l.map (fun r => r.hi - r.lo)).sum

theorem runsTotal_append (l k : List AdmRun) : runsTotal (l ++ k) = runsTotal l + runsTotal k := by
  simp [runsTotal]

theorem Ilpiac.ctxTotal_eq (m : Ilpiac) (cm : Comm) (c : Coll) : m.ctxTotal cm c = runsTotal (m.runsOf cm c) := sumOf_eq_sum _

theorem Ilpiac.waitingCtxs_eq (m : Ilpiac) : m.waitingCtxs = (m.coll.queues.map (fun q => runsTotal q.runs)).sum := by
  simp only [Ilpiac.waitingCtxs, sumOf_eq_sum, runsTotal]

section
variable (m : Ilpiac) (pool : Option Nat) (runs : List AdmRun)

/-- Runs that enter change the queues and the registers that follow them, and nothing else. -/
theorem Ilpiac.enqueueRuns_frame : (m.enqueueRuns pool runs).ctl = m.ctl ∧
    ∃ queues, (m.enqueueRuns pool runs).coll = { m.coll with queues } := by
  unfold Ilpiac.enqueueRuns
  split
  · exact ⟨rfl, m.coll.queues, rfl⟩
  · exact ⟨Ilpiac.rmStat_ctl _, _, Ilpiac.rmStat_coll _⟩

/-- Every context of the runs waits at admission, in the queue of the pool or in one that opens for it. -/
theorem Ilpiac.waitingCtxs_enqueueRuns : (m.enqueueRuns pool runs).waitingCtxs = m.waitingCtxs + runsTotal runs := by
  unfold Ilpiac.enqueueRuns
  split
  · have : runs = [] := by simpa using ‹runs.isEmpty = true›
    simp [this, runsTotal]
  · rw [Ilpiac.waitingCtxs_eq, Ilpiac.waitingCtxs_eq, Ilpiac.rmStat_coll]
    dsimp only
    split
    · exact sum_map_mapFirst (fun q => runsTotal_append q.runs runs) ‹_›
    · simp

end

/-! ### The contexts of a collective (R139) -/

/-- The runs of a collective depend on this bed and, for a COMBINE, on the routing state. -/
theorem Ilpiac.runsOf_congr {m' : Ilpiac} (hbed : m'.bed = m.bed) (hrouting : c.op = opCombine → m'.routing c = m.routing c) :
    m'.runsOf cm c = m.runsOf cm c := by
  have hlocals : m'.locals cm = m.locals cm := by rw [Ilpiac.locals, hbed, Ilpiac.locals]
  have hidx : m'.localIdx cm = m.localIdx cm := by rw [Ilpiac.localIdx, hlocals, Ilpiac.localIdx]
  have hroot : m'.rootHere cm c = m.rootHere cm c := by rw [Ilpiac.rootHere, hbed, Ilpiac.rootHere]
  unfold Ilpiac.runsOf
  rw [hlocals, hidx, hroot]
  by_cases hc : c.op = opCombine
  · rw [hrouting hc]
  · simp only [if_neg hc]

/-- The routing state of a collective is that of its communicator. -/
theorem Ilpiac.routing_congr {m' : Ilpiac} {cm' : Comm} (h : m.comm c.key.comm = some cm) (h' : m'.comm c.key.comm = some cm')
    (hroutes : cm'.routes = cm.routes) : m'.routing c = m.routing c := by
  unfold Ilpiac.routing
  rw [h, h']
  dsimp only
  rw [hroutes]

/-! ### A collective opens -/

/-- The collective that a descriptor names, before any check. -/
abbrev Ilpiac.freshColl (m : Ilpiac) (d : AccDesc) : Coll := Coll.fresh d.key d.words d.ring d.num m.time.ns

/-- Whether a key comes behind every key that a communicator has taken (R49). -/
def Comm.later (cm : Comm) (k : CollId) : Bool :=
  match cm.lastKey with
  | none => true
  | some l => keyLt l (k.step, k.seq)

/-- A communicator that has taken a key. -/
def Comm.withKey (cm : Comm) (k : CollId) : Comm := { cm with lastKey := some (k.step, k.seq) }

/-- A communicator that holds one more routing state. -/
def Comm.withRoute (cm : Comm) (r : Routing) : Comm := { cm with routes := cm.routes ++ [r] }

/-- A collective with what the checks found, the fault they report, and the members to which it delivers. -/
def Coll.judged (c : Coll) (codes : List Nat) (fault : Option (Nat × Nat)) (delivery : List Nat) : Coll :=
  { c with refused := !codes.isEmpty, status := if codes.isEmpty then none else some (maxOf codes), fault, delivery }

/-- The collective that a descriptor opens: refused with the largest code where a check finds one, with its unfenced local members in delivery. -/
def Ilpiac.opened (m : Ilpiac) (cm : Comm) (d : AccDesc) : Coll :=
  let codes := m.collCodes cm (m.freshColl d)
  (m.freshColl d).judged codes (if codes.contains stFenced then (m.lowestFenced cm).map (fun a => (a, stFenced)) else none)
    ((m.locals cm).filter (fun a => !m.memberFenced a))

/-- A side record at an address that no window grants is counted (R459). -/
def Ilpiac.noteSideRefusal (m : Ilpiac) (c : Coll) : Ilpiac := if c.wantSum || c.wantAmax then m.noteRefusals [(c.sideAddr, 16, true)] else m

/-- A collective stands among the open ones. -/
def Ilpiac.addColl (m : Ilpiac) (c : Coll) : Ilpiac := { m with coll := { m.coll with colls := m.coll.colls ++ [c] } }

/-- Its communicator has taken its key. -/
def Ilpiac.takeKey (m : Ilpiac) (cm : Comm) (k : CollId) : Ilpiac :=
  if cm.later k then m.updComm k.comm (fun cm => cm.withKey k) else m

/-- A collective is open (R52, R70), before any of its contexts. -/
def Ilpiac.enter (m : Ilpiac) (cm : Comm) (c : Coll) : Ilpiac := ((m.noteSideRefusal c).addColl c).takeKey cm c.key

/-- A DISPATCH reserves routing state (R65). -/
def Ilpiac.reserveRouting (m : Ilpiac) (c : Coll) : Ilpiac :=
  if c.op = opDispatch then m.updComm c.key.comm (fun cm => cm.withRoute c.newRouting) else m

/-- The contexts of a collective enter the queue of its communicator's pool (R139). -/
def Ilpiac.enqueueColl (m : Ilpiac) (cm : Comm) (c : Coll) : Ilpiac := m.enqueueRuns cm.pool (m.runsOf cm c)

theorem Ilpiac.collAccept_unplaced (h : m.placed = false) :
    m.collAccept d = m.done d stUnplaced { comm := d.key.comm, step := d.key.step, seq := d.key.seq } := by
  unfold Ilpiac.collAccept
  simp only [h, Bool.not_false, if_true]

theorem Ilpiac.collAccept_unknownComm (hp : m.placed = true) (h : m.comm d.key.comm = none) :
    m.collAccept d = m.done d (if m.collFields (m.freshColl d) then stUnknownComm else stBadDescriptor)
      { comm := d.key.comm, step := d.key.step, seq := d.key.seq } := by
  unfold Ilpiac.collAccept
  simp only [hp, h, Bool.not_true, Bool.false_eq_true, if_false]

/-- A descriptor that opens a collective: with a placement, for a communicator that is held, and with a key that is new. -/
structure Ilpiac.TakesKey (m : Ilpiac) (cm : Comm) (d : AccDesc) : Prop where
  placed : m.placed = true
  comm : m.comm d.key.comm = some cm
  notOpen : m.collOf d.key = none
  notPast : d.key ∉ m.coll.past

theorem Ilpiac.TakesKey.collAccept (h : m.TakesKey cm d) :
    m.collAccept d = if (m.opened cm d).refused then m.enter cm (m.opened cm d)
      else ((m.enter cm (m.opened cm d)).reserveRouting (m.opened cm d)).enqueueColl cm (m.opened cm d) := by
  have hknown : ¬((m.collOf d.key).isSome = true ∨ m.coll.past.contains d.key = true) := by simp [h.notOpen, h.notPast]
  unfold Ilpiac.collAccept
  extract_lets k i
  rw [if_neg (by simp [h.placed]), show m.comm k.comm = some cm from h.comm]
  exact if_neg hknown

/-- A key that passes the checks comes behind every key that its communicator has taken (R49). -/
theorem Ilpiac.later_of_collCodes (h : m.collCodes cm c = []) : cm.later c.key = true := by
  simp only [Ilpiac.collCodes, List.append_eq_nil_iff, and_assoc] at h
  obtain ⟨hfields, -⟩ := h
  change (if (m.collFields c && c.rootOk cm && cm.later c.key) = true then [] else [stBadDescriptor]) = [] at hfields
  by_contra hl
  rw [if_neg (by simp [hl])] at hfields
  cases hfields

/-- A descriptor in which no check finds a failure opens its collective as it names it. -/
theorem Ilpiac.opened_of_passes (h : m.collCodes cm (m.freshColl d) = []) :
    m.opened cm d = { m.freshColl d with
      delivery := (m.locals cm).filter (fun a => !m.memberFenced a) } := by
  rw [Ilpiac.opened, h]
  rfl

theorem Coll.ctxTotal_judged (m : Ilpiac) (cm : Comm) (c : Coll) (codes : List Nat) (fault : Option (Nat × Nat)) (delivery : List Nat) :
    m.ctxTotal cm (c.judged codes fault delivery) = m.ctxTotal cm c := rfl

/-- The contexts of a collective do not depend on what the checks found. -/
theorem Ilpiac.ctxTotal_opened (m : Ilpiac) (cm : Comm) (d : AccDesc) :
    m.ctxTotal cm (m.opened cm d) = m.ctxTotal cm (m.freshColl d) :=
  Coll.ctxTotal_judged ..

theorem Ilpiac.key_opened (m : Ilpiac) (cm : Comm) (d : AccDesc) : (m.opened cm d).key = d.key := rfl

theorem Ilpiac.refused_opened (m : Ilpiac) (cm : Comm) (d : AccDesc) :
    (m.opened cm d).refused = !(m.collCodes cm (m.freshColl d)).isEmpty := by
  rw [Ilpiac.opened, Coll.judged]

theorem Coll.status_judged {codes : List Nat} (h : codes ≠ []) (c : Coll) (fault : Option (Nat × Nat)) (delivery : List Nat) :
    (c.judged codes fault delivery).status = some (maxOf codes) :=
  if_neg (by simpa using h)

theorem Ilpiac.status_opened (h : m.collCodes cm (m.freshColl d) ≠ []) :
    (m.opened cm d).status = some (maxOf (m.collCodes cm (m.freshColl d))) :=
  Coll.status_judged h ..

/-! ### What the block is with a collective open -/

section
variable (m : Ilpiac) (cm : Comm) (c : Coll)

theorem Ilpiac.bed_noteRefusals (l : List (Nat × Nat × Bool)) : (m.noteRefusals l).bed = m.bed := by
  have hg (f : Fld) (h : f.key .glob 0 0 ≠ F.HOLM_STATUS_WINDOW_REFUSALS.key .glob 0 0) : (m.noteRefusals l).g f = m.g f :=
    Ilpiac.rd_wr_ne m .glob .glob 0 0 _ f _ 0 0 h
  rw [Ilpiac.bed, hg _ (by decide), hg _ (by decide), hg _ (by decide), Ilpiac.bed]

theorem Ilpiac.noteSideRefusal_frame :
    (m.noteSideRefusal c).ctl = m.ctl ∧ (m.noteSideRefusal c).coll = m.coll ∧ (m.noteSideRefusal c).bed = m.bed := by
  unfold Ilpiac.noteSideRefusal
  split
  · simp [Ilpiac.bed_noteRefusals]
  · exact ⟨rfl, rfl, rfl⟩

end

/-- `m'` is `m` with one more open collective: completions, the bed, queues and contexts are as before. -/
structure Ilpiac.Opens (m m' : Ilpiac) (c : Coll) : Prop where
  ctl : m'.ctl = m.ctl
  bed : m'.bed = m.bed
  coll : ∃ comms, m'.coll = { m.coll with comms, colls := m.coll.colls ++ [c] }

theorem Ilpiac.Opens.updComm {m' : Ilpiac} (h : m.Opens m' c) (id : Nat) (f : Comm → Comm) : m.Opens (m'.updComm id f) c := by
  obtain ⟨comms, hcoll⟩ := h.coll
  exact ⟨h.ctl, h.bed, mapFirst (fun x => x.id == id) f comms, by rw [Ilpiac.updComm, hcoll]⟩

theorem Ilpiac.opens_enter (m : Ilpiac) (cm : Comm) (c : Coll) : m.Opens (m.enter cm c) c := by
  obtain ⟨hctl, hcoll, hbed⟩ := m.noteSideRefusal_frame c
  have h : m.Opens ((m.noteSideRefusal c).addColl c) c := ⟨hctl, hbed, m.coll.comms, by rw [Ilpiac.addColl, hcoll]⟩
  unfold Ilpiac.enter Ilpiac.takeKey
  split
  · exact h.updComm _ _
  · exact h

theorem Ilpiac.Opens.reserveRouting {m' : Ilpiac} (h : m.Opens m' c) : m.Opens (m'.reserveRouting c) c := by
  unfold Ilpiac.reserveRouting
  split
  · exact h.updComm _ _
  · exact h

theorem Ilpiac.comm_enter (h : m.comm c.key.comm = some cm) (hl : cm.later c.key = true) :
    (m.enter cm c).comm c.key.comm = some (cm.withKey c.key) := by
  have hadd : ((m.noteSideRefusal c).addColl c).comm c.key.comm = some cm := by
    obtain ⟨-, hcoll, -⟩ := m.noteSideRefusal_frame c
    change (m.noteSideRefusal c).coll.comms.find? _ = _
    rw [hcoll]
    exact h
  unfold Ilpiac.enter Ilpiac.takeKey
  rw [if_pos hl]
  exact (Ilpiac.comm_updComm (f := fun cm => cm.withKey c.key) (fun _ => rfl) _).trans (congrArg _ hadd)

/-- Reserving routing state adds to the routes of a communicator, and for a DISPATCH only. -/
theorem Ilpiac.comm_reserveRouting (h : m.comm c.key.comm = some cm) :
    ∃ cm', (m.reserveRouting c).comm c.key.comm = some cm' ∧ cm'.lastKey = cm.lastKey ∧ cm'.members = cm.members ∧
      (c.op = opCombine → cm'.routes = cm.routes) := by
  unfold Ilpiac.reserveRouting
  split
  · have hne : c.op ≠ opCombine := by rw [‹c.op = opDispatch›]; decide
    exact ⟨_, (Ilpiac.comm_updComm (f := fun cm => cm.withRoute c.newRouting) (fun _ => rfl) _).trans (congrArg _ h), rfl, rfl,
      fun hc => absurd hc hne⟩
  · exact ⟨cm, h, rfl, rfl, fun _ => rfl⟩

theorem Ilpiac.Opens.waitingCtxs {m' : Ilpiac} (h : m.Opens m' c) : m'.waitingCtxs = m.waitingCtxs := by
  obtain ⟨comms, hcoll⟩ := h.coll
  rw [Ilpiac.waitingCtxs_eq, hcoll, Ilpiac.waitingCtxs_eq]

/-- Opening a collective does not change which contexts it has. -/
theorem Ilpiac.runsOf_reserveRouting (h : m.comm c.key.comm = some cm) (hl : cm.later c.key = true) :
    ((m.enter cm c).reserveRouting c).runsOf cm c = m.runsOf cm c := by
  obtain ⟨cm', hcm', -, -, hroutes⟩ := Ilpiac.comm_reserveRouting (Ilpiac.comm_enter h hl)
  exact Ilpiac.runsOf_congr (m.opens_enter cm c).reserveRouting.bed fun hc => Ilpiac.routing_congr h hcm' (hroutes hc)

/-- The contexts of a collective that opens enter their queue. -/
theorem Ilpiac.enqueueColl_opened {k : CollId} (hk : c.key = k) (h : m.comm k.comm = some cm) (hl : cm.later k = true) {m' : Ilpiac}
    (hm' : m' = ((m.enter cm c).reserveRouting c).enqueueColl cm c) :
    m'.ctl = m.ctl ∧ m'.coll.colls = m.coll.colls ++ [c] ∧ m'.coll.ctxs = m.coll.ctxs ∧ m'.waitingCtxs = m.waitingCtxs + m.ctxTotal cm c ∧
      ∃ cm', m'.comm k.comm = some cm' ∧ cm'.lastKey = some (k.step, k.seq) ∧ cm'.members = cm.members := by
  subst hk
  have hopens := (m.opens_enter cm c).reserveRouting
  have hruns := Ilpiac.runsOf_reserveRouting h hl
  obtain ⟨cm', hcm', hkey, hmembers, -⟩ := Ilpiac.comm_reserveRouting (Ilpiac.comm_enter h hl)
  generalize (m.enter cm c).reserveRouting c = m1 at hm' hopens hruns hcm'
  obtain ⟨comms, hcoll⟩ := hopens.coll
  obtain ⟨hctl, queues, hqueues⟩ := m1.enqueueRuns_frame cm.pool (m1.runsOf cm c)
  rw [hm', Ilpiac.enqueueColl]
  refine ⟨hctl.trans hopens.ctl, ?_, ?_, ?_, cm', ?_, hkey, hmembers⟩
  · rw [hqueues, hcoll]
  · rw [hqueues, hcoll]
  · rw [Ilpiac.waitingCtxs_enqueueRuns, hruns, hopens.waitingCtxs, Ilpiac.ctxTotal_eq]
  · rw [← hcm', Ilpiac.comm, hqueues, Ilpiac.comm]

/-- The collective of a descriptor in which no check finds a failure is open, and its contexts wait at admission. -/
theorem Ilpiac.TakesKey.collAccept_passes (h : m.TakesKey cm d)
    (hpass : m.collCodes cm (m.freshColl d) = []) :
    (m.collAccept d).ctl = m.ctl ∧
      (m.collAccept d).coll.colls = m.coll.colls ++ [{ m.freshColl d with
        delivery := (m.locals cm).filter (fun a => !m.memberFenced a) }] ∧
      (m.collAccept d).coll.ctxs = m.coll.ctxs ∧
      (m.collAccept d).waitingCtxs = m.waitingCtxs + m.ctxTotal cm (m.freshColl d) ∧
      ∃ cm', (m.collAccept d).comm d.key.comm = some cm' ∧ cm'.lastKey = some (d.key.step, d.key.seq) ∧ cm'.members = cm.members := by
  have hm' := h.collAccept
  rw [if_neg (by rw [Ilpiac.refused_opened, hpass]; decide)] at hm'
  rw [← Ilpiac.opened_of_passes hpass, ← Ilpiac.ctxTotal_opened]
  exact Ilpiac.enqueueColl_opened (m.key_opened cm d) h.comm (Ilpiac.later_of_collCodes hpass) hm'

/-- The collective of a descriptor in which a check finds a failure is open as refused, and has no contexts. -/
theorem Ilpiac.TakesKey.collAccept_fails (h : m.TakesKey cm d)
    (hfail : m.collCodes cm (m.freshColl d) ≠ []) :
    (m.collAccept d).ctl = m.ctl ∧ (m.collAccept d).coll.colls = m.coll.colls ++ [m.opened cm d] ∧ (m.opened cm d).key = d.key ∧
      (m.opened cm d).refused = true ∧
      (m.opened cm d).status = some (maxOf (m.collCodes cm (m.freshColl d))) ∧
      (m.collAccept d).coll.queues = m.coll.queues ∧ (m.collAccept d).coll.ctxs = m.coll.ctxs := by
  have hrefused : (m.opened cm d).refused = true := by rw [Ilpiac.refused_opened]; simpa using hfail
  obtain ⟨hctl, -, comms, hcoll⟩ := m.opens_enter cm (m.opened cm d)
  rw [h.collAccept, if_pos hrefused, hcoll]
  exact ⟨hctl, rfl, m.key_opened cm d, hrefused, Ilpiac.status_opened hfail, rfl, rfl⟩

/-! ### The commands -/

/-- The seven collective commands run the acceptance of the descriptor that begins. -/
theorem exec_collective {s : State} {ring : Fin 65536} {op : Nat} {cmd : Instr}
    (hcmd : (op, cmd) ∈ [(0x10, Instr.allReduce ring), (0x11, .reduceScatter ring), (0x12, .allGather ring), (0x13, .broadcast ring),
      (0x14, .reduceUpdateBcast ring), (0x18, .dispatch ring), (0x19, .combine ring)])
    (h : s.m.begin ring op = some (d, m0)) : exec cmd s = .next { s with m := (m0.collAccept d).settle } := by
  have hrun : exec cmd s = ran s (s.m.runDesc ring op (fun d m => m.collAccept d)) := by
    simp only [List.mem_cons, Prod.mk.injEq, List.not_mem_nil, or_false] at hcmd
    obtain ⟨rfl, rfl⟩ | ⟨rfl, rfl⟩ | ⟨rfl, rfl⟩ | ⟨rfl, rfl⟩ | ⟨rfl, rfl⟩ | ⟨rfl, rfl⟩ | ⟨rfl, rfl⟩ := hcmd <;> rfl
  rw [hrun, Ilpiac.runDesc_of_begin h, ran]

end Sys2Proof.Machine

open Sys2Proof.Machine

/-- Settles O42: a descriptor completes at once, or its collective opens, as refused or with its contexts at admission. -/
theorem collectiveAccept : Obligations.CollectiveAccept := by
  unfold Obligations.CollectiveAccept
  intro s ring d m0 op cmd hcmd hbegin
  have hexec := exec_collective hcmd hbegin
  obtain ⟨descs, rfl⟩ := Ilpiac.begin_descs hbegin
  have hplaced := s.m.withDescs_placed descs
  refine ⟨fun hp => ?_, fun hp hnone => ?_, fun cm hp hcm hnew hpast => ⟨fun hpass => ?_, fun hfail => ?_⟩⟩
  · refine ⟨_, hexec, ?_⟩
    rw [Ilpiac.collAccept_unplaced (hplaced.trans hp), Ilpiac.done_coll, Ilpiac.done_cpl]
    exact ⟨rfl, rfl⟩
  · refine ⟨_, hexec, ?_⟩
    rw [Ilpiac.collAccept_unknownComm (hplaced.trans hp) hnone, Ilpiac.done_coll, Ilpiac.done_cpl]
    exact ⟨rfl, rfl⟩
  · obtain ⟨hctl, hcoll⟩ := (Ilpiac.TakesKey.mk (m := s.m.withDescs descs) hp hcm hnew hpast).collAccept_passes hpass
    exact ⟨_, hexec, (congrArg ControlSide.cpl hctl).trans (s.m.withDescs_cpl descs), hcoll⟩
  · obtain ⟨hctl, hcoll⟩ := (Ilpiac.TakesKey.mk (m := s.m.withDescs descs) hp hcm hnew hpast).collAccept_fails hfail
    exact ⟨_, _, hexec, (congrArg ControlSide.cpl hctl).trans (s.m.withDescs_cpl descs), hcoll⟩

end

section
/-! Traffic (spec 09, 10, 11, 13): packets that are stored, queued, evicted and sent, and the events and faults that they cause, leave PLACEMENT,
the state of the downlink ports, fabric time, the due completion records and the collective engine alone. A rule per operation of the switch core. -/

namespace Sys2Proof.Machine

variable {m m' : Ilpiac}

/-! ### Registers that no packet writes -/

/-- PLACEMENT (R34) and the PORT_STATUS of the downlinks (R339): bed, plane, and whether a downlink is UP or fenced are read from them. -/
def pinnedReg (k : Nat) : Bool := k == 0x30100 || (decide (0x100000 ≤ k) && decide (k < 0x200000) && k % 0x1000 == 0)

theorem pinnedReg_of_ge {k : Nat} (h : 0x200000 ≤ k) : pinnedReg k = false := by
  simp only [pinnedReg, Bool.or_eq_false_iff, beq_eq_false_iff_ne, ne_eq, Bool.and_eq_false_iff, decide_eq_false_iff_not]
  omega

/-- A register of a block that lies above the ports. -/
theorem pinnedReg_key_of_base {b : Blk} (h : 0x200000 ≤ b.base) (f : Fld) (n j : Nat) : pinnedReg (f.key b n j) = false :=
  pinnedReg_of_ge (by unfold Fld.key Blk.at; omega)

/-- A register at a fixed offset above the ports. -/
theorem pinnedReg_key_of_off {f : Fld} (h : 0x200000 ≤ f.off) (j : Nat) : pinnedReg (f.key .glob 0 j) = false :=
  pinnedReg_of_ge (by unfold Fld.key Blk.at; omega)

theorem pinnedReg_queue (k : Nat) (f : Fld) : pinnedReg (f.key (queueBlk k).1 (queueBlk k).2 0) = false := by
  refine pinnedReg_key_of_base ?_ f _ _
  unfold queueBlk
  split
  · show 0x200000 ≤ Blk.dqueue.base
    decide
  · show 0x200000 ≤ Blk.tqueue.base
    decide

/-- A register of a port block other than its first, PORT_STATUS. -/
theorem pinnedReg_port (p : Nat) {f : Fld} (h0 : 0 < f.off) (h : f.off < 0x1000) : pinnedReg (f.key (portBlk p) (portIdx p) 0) = false := by
  unfold portBlk portIdx
  split
  · simp only [pinnedReg, Fld.key, Blk.at, Blk.base, Blk.stride, Bool.or_eq_false_iff, beq_eq_false_iff_ne, ne_eq, Bool.and_eq_false_iff]
    omega
  · exact pinnedReg_key_of_base (by decide) f _ _

/-! ### The relation -/

/-- `m'` is `m` after traffic alone. -/
structure Ilpiac.Traffic (m m' : Ilpiac) : Prop where
  regs : ∀ k, pinnedReg k = true → m'.reg k = m.reg k
  cpl : m'.ctl.cpl = m.ctl.cpl
  coll : m'.coll = m.coll
  time : m'.time = m.time

theorem Ilpiac.Traffic.refl (m : Ilpiac) : m.Traffic m := ⟨fun _ _ => rfl, rfl, rfl, rfl⟩

/-- Parts of the state that the relation does not speak of. -/
theorem Ilpiac.Traffic.beside {clk free ctl flt twin sw trellis hbm groups lanes links sync record power boot} (h : m.Traffic m')
    (hctl : ctl.cpl = m'.ctl.cpl := by rfl) :
    m.Traffic ⟨m'.regs, clk, free, ctl, flt, twin, sw, m'.coll, trellis, hbm, groups, lanes, links, sync, m'.time, record, power, boot⟩ :=
  ⟨h.regs, hctl.trans h.cpl, h.coll, h.time⟩

theorem Ilpiac.Traffic.ite {c : Prop} [Decidable c] {m₁ m₂ : Ilpiac} (h₁ : m.Traffic m₁) (h₂ : m.Traffic m₂) :
    m.Traffic (if c then m₁ else m₂) := by
  split <;> assumption

theorem Ilpiac.Traffic.over {α : Type} {l : List α} {f : Ilpiac → α → Ilpiac} (h : m.Traffic m')
    (hf : ∀ m' a, m.Traffic m' → m.Traffic (f m' a)) : m.Traffic (m'.over l f) := by
  unfold Ilpiac.over
  induction l generalizing m' with
  | nil => exact h
  | cons a l ih => exact ih (hf m' a h)

/-! ### Registers, events and faults -/

theorem Ilpiac.Traffic.wr {b : Blk} {n : Nat} {f : Fld} {v j : Nat} (h : m.Traffic m') (hk : pinnedReg (f.key b n j) = false) :
    m.Traffic (m'.wr b n f v j) :=
  ⟨fun k hp => (m'.reg_wr_ne b n f v j k (fun e => by rw [e, hk] at hp; cases hp)).trans (h.regs k hp), h.cpl, h.coll, h.time⟩

theorem Ilpiac.Traffic.gw {f : Fld} {v j : Nat} (h : m.Traffic m') (hk : pinnedReg (f.key .glob 0 j) = false := by decide) :
    m.Traffic (m'.gw f v j) := h.wr hk

theorem Ilpiac.Traffic.gcnt {f : Fld} {k j : Nat} (h : m.Traffic m') (hk : pinnedReg (f.key .glob 0 j) = false := by decide) :
    m.Traffic (m'.gcnt f k j) := h.wr hk

theorem Ilpiac.Traffic.irqDue {v : Nat} (h : m.Traffic m') : m.Traffic (m'.irqDue v) := h.beside

theorem Ilpiac.Traffic.event {e : Event} (h : m.Traffic m') : m.Traffic (m'.event e) := h.ite (h.gw.ite h.gw.irqDue)

theorem Ilpiac.Traffic.sbEvent {e : Nat} (h : m.Traffic m') : m.Traffic (m'.sbEvent e) := h.ite (h.gw.ite h.gw.beside)

theorem Ilpiac.Traffic.firstFault {a : Assertion} (h : m.Traffic m') : m.Traffic (m'.firstFault a) := h.gw.gw.gw.gw.gw.gw.gw

theorem Ilpiac.Traffic.markLatched {a : Assertion} (h : m.Traffic m') : m.Traffic (m'.markLatched a) := h.beside

theorem Ilpiac.Traffic.addAssert {a : Assertion} (h : m.Traffic m') : m.Traffic (m'.addAssert a) := h.beside

theorem Ilpiac.Traffic.dueAtOnce {src : Nat} (h : m.Traffic m') : m.Traffic (m'.dueAtOnce src) := h.beside.ite h

theorem Ilpiac.Traffic.latch {a : Assertion} (h : m.Traffic m') : m.Traffic (m'.latch a) :=
  h.markLatched.firstFault.gcnt.event.sbEvent.dueAtOnce

theorem Ilpiac.Traffic.latchNext (h : m.Traffic m') : m.Traffic m'.latchNext := by
  unfold Ilpiac.latchNext
  split
  · exact h.latch.ite h
  · exact h

theorem Ilpiac.Traffic.raise {src unit detail : Nat} {wire : Bool} (h : m.Traffic m') : m.Traffic (m'.raise src unit detail wire) := by
  unfold Ilpiac.raise
  dsimp only
  split
  · exact h
  · split
    · exact h.addAssert
    · split
      · exact h.addAssert.latch
      · exact (h.addAssert.ite h.addAssert.gw).ite h.addAssert.latchNext

theorem Ilpiac.Traffic.send {x : HolmMsg} (h : m.Traffic m') : m.Traffic (m'.send x) := h.beside.ite h

theorem Ilpiac.Traffic.boardWrite {addr : Nat} {d : List Byte} (h : m.Traffic m') : m.Traffic (m'.boardWrite addr d) := by
  unfold Ilpiac.boardWrite
  split
  · exact h.beside
  · exact Ilpiac.Traffic.ite h.raise (h.over fun _ _ h => h.send)

/-! ### The sieve, the packet buffer and its areas -/

theorem Ilpiac.Traffic.sieveLevel (h : m.Traffic m') : m.Traffic m'.sieveLevel := h.event.ite h

theorem Ilpiac.Traffic.capture {ev port : Nat} {p : Packet} (h : m.Traffic m') : m.Traffic (m'.capture ev port p) := by
  unfold Ilpiac.capture
  split
  · exact h
  · split
    · exact h.beside
    · dsimp only
      split
      · exact h.beside.gcnt
      · split
        · exact h.beside.gcnt.gcnt
        · exact h.beside.boardWrite.gw.gcnt.sieveLevel

theorem Ilpiac.Traffic.setPort {p : Nat} {x : PortX} (h : m.Traffic m') : m.Traffic (m'.setPort p x) := h.beside

theorem Ilpiac.Traffic.setCls {p c : Nat} {x : ClassX} (h : m.Traffic m') : m.Traffic (m'.setCls p c x) := h.setPort

theorem Ilpiac.Traffic.setQueue {k : Nat} {l : List QEnt} (h : m.Traffic m') : m.Traffic (m'.setQueue k l) := h.beside

theorem Ilpiac.Traffic.setBuf {id : Nat} {f : BufPkt → BufPkt} (h : m.Traffic m') : m.Traffic (m'.setBuf id f) := h.beside

theorem Ilpiac.Traffic.sharedUsed {tc v : Nat} (h : m.Traffic m') : m.Traffic ((m'.gw F.SW_CLASS_STATUS_SHARED_USED v tc).recount) :=
  (h.gw (pinnedReg_key_of_off (by decide) tc)).gw

theorem Ilpiac.Traffic.areaTake {a : Area} {tc n : Nat} (h : m.Traffic m') : m.Traffic (m'.areaTake a tc n) := by
  cases a with
  | control => exact h.beside
  | retain => exact h.gw
  | contrib => exact h.gw
  | shared => exact h.sharedUsed
  | land => exact h
  | hose => exact h

theorem Ilpiac.Traffic.areaGive {a : Area} {tc n : Nat} (h : m.Traffic m') : m.Traffic (m'.areaGive a tc n) := by
  cases a with
  | control => exact h.beside
  | retain => exact h.gw
  | contrib => exact h.gw
  | shared => exact h.sharedUsed
  | land => exact h
  | hose => exact h

theorem Ilpiac.Traffic.store {p : Packet} {a : Area} {ingress : Nat} {held : Bool} {land : Option (Nat × Nat)} {hose : Option Nat} {crcBad : Bool}
    (h : m.Traffic m') : m.Traffic (m'.store p a ingress held land hose crcBad).2 := h.areaTake.beside

theorem Ilpiac.Traffic.landFree {b : BufPkt} (h : m.Traffic m') : m.Traffic (m'.landFree b) := by
  unfold Ilpiac.landFree
  split
  · exact h
  · exact h.setCls

theorem Ilpiac.Traffic.reap {id : Nat} (h : m.Traffic m') : m.Traffic (m'.reap id) := by
  unfold Ilpiac.reap
  split
  · exact h
  · exact Ilpiac.Traffic.ite h.beside.landFree.areaGive h

theorem Ilpiac.Traffic.unhold {id : Nat} (h : m.Traffic m') : m.Traffic (m'.unhold id) := h.setBuf.reap

theorem Ilpiac.Traffic.unref {id : Nat} (h : m.Traffic m') : m.Traffic (m'.unref id) := h.setBuf.reap

/-! ### Queues -/

theorem Ilpiac.Traffic.qw {k : Nat} {f : Fld} {v : Nat} (h : m.Traffic m') : m.Traffic (m'.qw k f v) := h.wr (pinnedReg_queue k f)

theorem Ilpiac.Traffic.qstat {k : Nat} (h : m.Traffic m') : m.Traffic (m'.qstat k) := h.qw.qw.qw.qw.qw.qw

theorem Ilpiac.Traffic.waking {p : Nat} {f : Ilpiac → Ilpiac} (h : m.Traffic (f m')) : m.Traffic (m'.waking p f) :=
  h.over (fun _ _ h => h.qw) |>.over fun _ _ h => h.setCls

theorem Ilpiac.Traffic.enqAt {port q id : Nat} (h : m.Traffic m') : m.Traffic (m'.enqAt port q id) := by
  unfold Ilpiac.enqAt
  split
  · exact h
  · split
    · exact (h.capture.ite h).reap
    · exact Ilpiac.Traffic.waking (h.setBuf.setQueue.beside.qstat)

theorem Ilpiac.Traffic.enq {port id : Nat} (h : m.Traffic m') : m.Traffic (m'.enq port id) := by
  unfold Ilpiac.enq
  split
  · exact h
  · exact h.enqAt

theorem Ilpiac.Traffic.dropFrom {k : Nat} {p : QEnt → Bool} {ev : Option Nat} (h : m.Traffic m') : m.Traffic (m'.dropFrom k p ev) := by
  have hout : m.Traffic ((m'.setQueue k ((m'.queue k).filter (fun e => !p e))).over ((m'.queue k).filter p) (fun m e =>
      match m.bufPkt e.id with
      | none => m
      | some b => Ilpiac.unref (match ev with | some v => m.capture v (k / 1024) b.pkt | none => m) e.id)) := by
    refine h.setQueue.over fun _ _ h => ?_
    split
    · exact h
    · refine Ilpiac.Traffic.unref ?_
      split
      · exact h.capture
      · exact h
  exact hout.ite hout.qstat

theorem Ilpiac.Traffic.emit {port : Nat} {p : Packet} {a : Area} {ingress : Nat} (h : m.Traffic m') : m.Traffic (m'.emit port p a ingress) :=
  h.ite h.store.enq.reap

theorem Ilpiac.Traffic.sharedRoom {c n : Nat} {m'' : Ilpiac} (h : m.Traffic m') (e : m'.sharedRoom c n = some m'') : m.Traffic m'' := by
  unfold Ilpiac.sharedRoom at e
  split at e
  · cases e
    exact h
  · dsimp only at e
    split at e
    · cases e
    · cases e
      exact h.over fun _ _ h => h.dropFrom.gcnt (pinnedReg_key_of_off (by decide) _)

theorem Ilpiac.Traffic.emitShared {port : Nat} {p : Packet} (h : m.Traffic m') : m.Traffic (m'.emitShared port p) := by
  unfold Ilpiac.emitShared
  split
  · exact h
  · exact (h.sharedRoom ‹_›).store.enq.reap

theorem Ilpiac.Traffic.stompTx {p : Nat} (h : m.Traffic m') : m.Traffic (m'.stompTx p) := by
  unfold Ilpiac.stompTx
  split
  · exact h
  · exact h.setPort

/-! ### Datagrams and hoses -/

theorem Ilpiac.Traffic.datagram {id : Nat} (h : m.Traffic m') : m.Traffic (m'.datagram id) := by
  unfold Ilpiac.datagram
  split
  · exact h
  · split
    · exact h.enq
    · exact h.gcnt

theorem Ilpiac.Traffic.sendDatagram {p : Packet} {a : Area} (h : m.Traffic m') : m.Traffic (m'.sendDatagram p a) :=
  h.ite h.store.datagram.reap

theorem Ilpiac.Traffic.setHx {x1 : Nat} {x : HoseX} (h : m.Traffic m') : m.Traffic (m'.setHx x1 x) := h.beside

theorem Ilpiac.Traffic.hoseWr {x1 : Nat} {f : Fld} {v j : Nat} (h : m.Traffic m') : m.Traffic (m'.wr .hose x1 f v j) :=
  h.wr (pinnedReg_key_of_base (by decide) f x1 j)

theorem Ilpiac.Traffic.hoseForward {x1 : Nat} {p : Packet} {ingress : Nat} {crcBad : Bool} (h : m.Traffic m') :
    m.Traffic (m'.hoseForward x1 p ingress crcBad) :=
  h.hoseWr.ite h.store.enqAt.reap.hoseWr

theorem Ilpiac.Traffic.hoseInject {x1 : Nat} {p : Packet} (h : m.Traffic m') : m.Traffic (m'.hoseInject x1 p) := h.hoseWr.hoseForward

theorem Ilpiac.Traffic.hosePump {x n : Nat} (h : m.Traffic m') : m.Traffic (m'.hosePump x n) := by
  induction n generalizing m' with
  | zero => exact h
  | succ n ih =>
    unfold Ilpiac.hosePump
    split
    · exact h
    · split
      · exact ih h.setHx.hoseInject
      · exact h

theorem Ilpiac.Traffic.sendTrunk {p : Packet} {buf : Option Nat} {a : Area} (h : m.Traffic m') : m.Traffic (m'.sendTrunk p buf a) := by
  unfold Ilpiac.sendTrunk
  split
  · exact h.setHx.hosePump
  · split
    · exact h.datagram
    · exact h.sendDatagram

theorem Ilpiac.Traffic.relayTo {relay plane : Nat} {p : Packet} (h : m.Traffic m') : m.Traffic (m'.relayTo relay plane p) := h.emitShared

theorem Ilpiac.Traffic.tack {p : Packet} {plane : Nat} {group : Option Nat} (h : m.Traffic m') : m.Traffic (m'.tack p plane group) :=
  h.sendDatagram.ite h.relayTo

/-! ### What traffic leaves alone -/

theorem Ilpiac.Traffic.fld {b : Blk} {n : Nat} {f : Fld} (h : m.Traffic m') (hk : pinnedReg (f.key b n 0) = true) : m'.rd b n f = m.rd b n f := by
  unfold Ilpiac.rd
  rw [h.regs _ hk]

theorem Ilpiac.Traffic.bed (h : m.Traffic m') : m'.bed = m.bed := by
  have hg (f : Fld) (hk : pinnedReg (f.key .glob 0 0) = true) : m'.g f = m.g f := h.fld hk
  rw [Ilpiac.bed, hg _ (by decide), hg _ (by decide), hg _ (by decide), Ilpiac.bed]

theorem Ilpiac.Traffic.plane (h : m.Traffic m') : m'.plane = m.plane := h.fld (by decide)

theorem Ilpiac.Traffic.comm (h : m.Traffic m') (id : Nat) : m'.comm id = m.comm id := by
  unfold Ilpiac.comm
  rw [h.coll]

theorem Ilpiac.Traffic.collOf (h : m.Traffic m') (k : CollId) : m'.collOf k = m.collOf k := by
  unfold Ilpiac.collOf
  rw [h.coll]

theorem Ilpiac.Traffic.ctxOf (h : m.Traffic m') (x : CtxId) : m'.ctxOf x = m.ctxOf x := by
  unfold Ilpiac.ctxOf
  rw [h.coll]

end Sys2Proof.Machine

end

section
/-! The contexts of a collective at admission, and the deadlines of a collective (spec 02: R75; spec 04: R137 to R142, R155): what a change of one
communicator, collective or context leaves of the others, what a recorded failure does, and the block with one more context admitted. -/

namespace Sys2Proof.Machine

variable {m m' m'' : Ilpiac} {k : CollId} {c : Coll}

/-! ### Collectives and contexts by key -/

/-- What a collective is after a change that keeps its key. -/
theorem Ilpiac.collOf_updColl {f : Coll → Coll} (hf : ∀ c, (f c).key = c.key := by exact fun _ => rfl) :
    (m.updColl k f).collOf k = (m.collOf k).map f :=
  find?_mapFirst (fun c => by rw [hf]) m.coll.colls

theorem Ilpiac.collOf_setInfo (m : Ilpiac) (k : CollId) (b : Nat) :
    (m.setInfo k b).collOf k = (m.collOf k).map (fun c => { c with info := setBit c.info b }) :=
  Ilpiac.collOf_updColl

/-- What a context is after a change that keeps its name. -/
theorem Ilpiac.ctxOf_updCtx {x : CtxId} {f : Ctx → Ctx} (hf : ∀ cx, (f cx).id = cx.id := by exact fun _ => rfl) :
    (m.updCtx x f).ctxOf x = (m.ctxOf x).map f :=
  find?_mapFirst (fun cx => by rw [hf]) m.coll.ctxs

section
variable (m : Ilpiac) (k j : CollId) (x y : CtxId) (id : Nat) (f : Coll → Coll) (g : Ctx → Ctx) (h : Comm → Comm)

@[simp] theorem Ilpiac.ctxOf_updColl : (m.updColl k f).ctxOf x = m.ctxOf x := rfl
@[simp] theorem Ilpiac.comm_updColl : (m.updColl k f).comm id = m.comm id := rfl
@[simp] theorem Ilpiac.collOf_updCtx : (m.updCtx x g).collOf k = m.collOf k := rfl
@[simp] theorem Ilpiac.collOf_updComm : (m.updComm id h).collOf k = m.collOf k := rfl
@[simp] theorem Ilpiac.collOf_unqueue : (m.unqueue k).collOf j = m.collOf j := rfl

end

/-- What a communicator is after its counters change. -/
theorem Ilpiac.comm_count {id : Nat} {f : CommCounts → CommCounts} : (m.count id f).comm id = (m.comm id).map (fun c => { c with cnt := f c.cnt }) :=
  Ilpiac.comm_updComm (f := fun c => { c with cnt := f c.cnt }) (fun _ => rfl) m

/-- A change of one element that keeps `g` keeps the list of `g`. -/
theorem map_mapFirst {α β : Type} {p : α → Bool} {f : α → α} {g : α → β} (hf : ∀ a, g (f a) = g a) (l : List α) :
    (mapFirst p f l).map g = l.map g := by
  induction l with
  | nil => rfl
  | cons a l ih =>
    unfold mapFirst
    split
    · rw [List.map_cons, List.map_cons, hf]
    · rw [List.map_cons, List.map_cons, ih]

/-- Changing the first element that satisfies `p` so that `g` of it falls by `n` makes the sum fall by `n`. -/
theorem sum_map_mapFirst_add {α : Type} {p : α → Bool} {f : α → α} {g : α → Nat} {n : Nat} {a : α} {l : List α} (ha : l.find? p = some a)
    (hf : g (f a) + n = g a) : ((mapFirst p f l).map g).sum + n = (l.map g).sum := by
  induction l with
  | nil => cases ha
  | cons b l ih =>
    unfold mapFirst
    split
    · rw [List.find?_cons_of_pos ‹_›] at ha
      cases ha
      simp only [List.map_cons, List.sum_cons, ← hf]
      omega
    · rw [List.find?_cons_of_neg ‹_›] at ha
      simp only [List.map_cons, List.sum_cons, ← ih ha]
      omega

theorem bitOf_setBit (x i : Nat) : bitOf (setBit x i) i = true := by
  unfold setBit
  split
  · assumption
  · simp only [bitOf, beq_iff_eq] at *
    rw [Nat.add_div_right _ (Nat.two_pow_pos i)]
    omega

/-! ### Failures recorded before the commit point (R66, R67, R75) -/

theorem Ilpiac.anyWaits_unqueue (m : Ilpiac) (k : CollId) : (m.unqueue k).anyWaits k = false := by
  simp [Ilpiac.anyWaits, Ilpiac.unqueue]

/-- A collective with a failure recorded: the larger code prevails, and the fault at the lower address. -/
def Coll.withFailure (c : Coll) (status : Nat) (fault : Option (Nat × Nat)) : Coll :=
  { c with status := some (max status (c.status.getD 0)), fault := lowerFault c.fault fault }

@[simp] theorem lowerFault_none (a : Option (Nat × Nat)) : lowerFault a none = a := by
  cases a <;> rfl

/-- Before its own record is sent and before its commit point a collective records a failure, and its waiting contexts go. -/
theorem Ilpiac.failColl_of_open (h : m.collOf k = some c) (hfinal : c.final = none) (hstarted : c.started = false) (status : Nat)
    (fault : Option (Nat × Nat)) : m.failColl k status fault = (m.updColl k (·.withFailure status fault)).unqueue k := by
  have hopen : ¬(c.committed = true ∨ c.started = true) := by simp [Coll.committed, hfinal, hstarted]
  simp only [Ilpiac.failColl, h, if_neg hopen]
  rfl

theorem Ilpiac.collOf_failColl (h : m.collOf k = some c) (hfinal : c.final = none) (hstarted : c.started = false) (status : Nat)
    (fault : Option (Nat × Nat)) : (m.failColl k status fault).collOf k = some (c.withFailure status fault) := by
  rw [Ilpiac.failColl_of_open h hfinal hstarted, Ilpiac.collOf_unqueue, Ilpiac.collOf_updColl, h, Option.map_some]

theorem Ilpiac.anyWaits_failColl (h : m.collOf k = some c) (hfinal : c.final = none) (hstarted : c.started = false) (status : Nat)
    (fault : Option (Nat × Nat)) : (m.failColl k status fault).anyWaits k = false := by
  rw [Ilpiac.failColl_of_open h hfinal hstarted]
  exact Ilpiac.anyWaits_unqueue ..

/-! ### What admission counts -/

/-- `m'` differs from `m` in what is counted and noted, not in which contexts wait, which are held, and how many of `k` are admitted. -/
structure Ilpiac.Noted (k : CollId) (m m' : Ilpiac) : Prop where
  ctxs : m'.coll.ctxs = m.coll.ctxs
  queues : m'.coll.queues = m.coll.queues
  comms : m'.coll.comms.map (·.id) = m.coll.comms.map (·.id)
  admitted : (m'.collOf k).map (·.admitted) = (m.collOf k).map (·.admitted)

theorem Ilpiac.Noted.trans (h : m.Noted k m') (h' : m'.Noted k m'') : m.Noted k m'' :=
  ⟨h'.ctxs.trans h.ctxs, h'.queues.trans h.queues, h'.comms.trans h.comms, h'.admitted.trans h.admitted⟩

theorem Ilpiac.Noted.of_coll (h : m'.coll = m.coll) : m.Noted k m' := by
  constructor <;> simp only [Ilpiac.collOf, h]

theorem Ilpiac.Noted.updColl {f : Coll → Coll} (hkey : ∀ c, (f c).key = c.key) (hf : ∀ c, (f c).admitted = c.admitted) :
    m.Noted k (m.updColl k f) := by
  refine ⟨rfl, rfl, rfl, ?_⟩
  rw [Ilpiac.collOf_updColl hkey, Option.map_map]
  exact congrArg (Option.map · _) (funext hf)

theorem Ilpiac.Noted.count {id : Nat} {f : CommCounts → CommCounts} : m.Noted k (m.count id f) :=
  ⟨rfl, rfl, map_mapFirst (fun _ => by rfl) _, rfl⟩

theorem Ilpiac.Noted.noteWait {n : Nat} : m.Noted k (m.noteWait k n) := by
  unfold Ilpiac.noteWait
  dsimp only
  split
  · exact Noted.count.trans (.updColl (fun _ => rfl) (fun _ => rfl))
  · exact .count

theorem Ilpiac.Noted.noteAccepted {x : CtxId} : m.Noted x.coll (m.noteAccepted x) := by
  unfold Ilpiac.noteAccepted
  split
  · split
    · exact .updColl (fun _ => rfl) (fun _ => rfl)
    · exact .of_coll rfl
  · exact .of_coll rfl

/-! ### A context is admitted (R137, R139) -/

/-- A context is held, and its collective counts it. -/
def Ilpiac.holdCtx (m : Ilpiac) (k : CollId) (cx : Ctx) : Ilpiac :=
  Ilpiac.updColl { m with coll := { m.coll with ctxs := m.coll.ctxs ++ [cx] } } k (fun c => { c with admitted := c.admitted + 1 })

/-- The registers of its furrow count the contexts that it holds (R148). -/
def Ilpiac.countHome (m : Ilpiac) (home : Option Nat) : Ilpiac :=
  match home with
  | some f => m.furrowCount f
  | none => m

theorem Ilpiac.countHome_coll (m : Ilpiac) (home : Option Nat) : (m.countHome home).coll = m.coll := by
  unfold Ilpiac.countHome
  split
  · exact Ilpiac.wr_coll ..
  · rfl

/-- The context `x` with what it reserves has left the head of its queue. -/
def Ilpiac.takeHead (m : Ilpiac) (pool : Option Nat) (c : Coll) (x : CtxId) (waited : Nat) : Ilpiac :=
  let cx := m.newCtx pool c x
  ((((((m.popHead pool).noteWait x.coll waited).areaTake .contrib 0 cx.cells).holdCtx x.coll cx).countHome cx.home).rmStat).noteAccepted x

section
variable {pool : Option Nat} {q : AdmQueue} {r : AdmRun} {l : List AdmRun}
  (hq : m.coll.queues.find? (fun q => q.pool == pool) = some q) (hr : q.runs = r :: l)
include hq hr

theorem Ilpiac.admitCtx_of_head (hc : m.collOf r.coll = some c) :
    m.admitCtx pool = if m.admissible pool c ⟨r.coll, r.part, r.lo⟩ then
      ((m.takeHead pool c ⟨r.coll, r.part, r.lo⟩ (m.clk - q.headAt)).sendCredits ⟨r.coll, r.part, r.lo⟩).pumpAll
        ⟨r.coll, r.part, r.lo⟩
    else m := by
  unfold Ilpiac.admitCtx
  simp only [hq, hr, hc]
  by_cases h : m.admissible pool c ⟨r.coll, r.part, r.lo⟩ = true
  · rw [if_pos h, if_neg (by simp [h])]
    rfl
  · rw [if_neg h, if_pos (by simp [h])]

theorem Ilpiac.waitingCtxs_popHead (hlt : r.lo < r.hi) : (m.popHead pool).waitingCtxs + 1 = m.waitingCtxs := by
  rw [Ilpiac.waitingCtxs_eq, Ilpiac.waitingCtxs_eq]
  refine sum_map_mapFirst_add hq ?_
  simp only [hr, runsTotal]
  split
  · simp only [List.map_cons, List.sum_cons]
    omega
  · simp only [List.map_cons, List.sum_cons]
    omega

end

theorem Ilpiac.holdCtx_collOf (m : Ilpiac) (k : CollId) (cx : Ctx) :
    (m.holdCtx k cx).collOf k = (m.collOf k).map (fun c => { c with admitted := c.admitted + 1 }) :=
  Ilpiac.collOf_updColl

/-- Before and after it is held the context is only counted. -/
theorem Ilpiac.takeHead_noted (m : Ilpiac) (pool : Option Nat) (c : Coll) (x : CtxId) (waited : Nat) : ∃ m1, (m.popHead pool).Noted x.coll m1 ∧
    (m1.holdCtx x.coll (m.newCtx pool c x)).Noted x.coll (m.takeHead pool c x waited) := by
  refine ⟨((m.popHead pool).noteWait x.coll waited).areaTake .contrib 0 (m.newCtx pool c x).cells,
    (Ilpiac.Noted.noteWait (n := waited)).trans (.of_coll ?_), Ilpiac.Noted.trans (.of_coll ?_) .noteAccepted⟩
  · exact Ilpiac.gw_coll ..
  · rw [Ilpiac.rmStat_coll, Ilpiac.countHome_coll]

/-- The context leaves the queues, is held, and counts as admitted. -/
theorem Ilpiac.takeHead_admits (pool : Option Nat) (x : CtxId) (waited : Nat) (hc : m.collOf x.coll = some c) :
    (m.takeHead pool c x waited).coll.ctxs = m.coll.ctxs ++ [m.newCtx pool c x] ∧
      (m.takeHead pool c x waited).waitingCtxs = (m.popHead pool).waitingCtxs ∧
      (∃ c', (m.takeHead pool c x waited).collOf x.coll = some c' ∧ c'.admitted = c.admitted + 1) ∧
      (m.takeHead pool c x waited).coll.comms.map (·.id) = m.coll.comms.map (·.id) := by
  obtain ⟨m1, h1, h2⟩ := m.takeHead_noted pool c x waited
  refine ⟨h2.ctxs.trans ?_, ?_, ?_, h2.comms.trans h1.comms⟩
  · exact congrArg (· ++ _) h1.ctxs
  · unfold Ilpiac.waitingCtxs
    rw [h2.queues]
    exact congrArg (fun l : List AdmQueue => sumOf (l.map fun q => sumOf (q.runs.map fun r => r.hi - r.lo))) h1.queues
  · have hadm := h2.admitted
    have hopen : (m1.collOf x.coll).map (·.admitted) = some c.admitted := h1.admitted.trans (congrArg (Option.map (·.admitted)) hc)
    obtain ⟨c1, hc1, hc1adm⟩ := Option.map_eq_some_iff.mp hopen
    rw [Ilpiac.holdCtx_collOf, hc1] at hadm
    obtain ⟨c', hc', hc'adm⟩ := Option.map_eq_some_iff.mp hadm
    exact ⟨c', hc', hc'adm.trans (congrArg (· + 1) hc1adm)⟩

/-! ### The commands -/

theorem exec_contextAdmit (pool : Option Nat) (s : State) : exec (.contextAdmit pool) s = .next { s with m := (s.m.admitCtx pool).settle } := rfl

theorem exec_admissionTimeout {s : State} (h : s.m.anyWaits k = true) :
    exec (.admissionTimeout k) s = .next { s with m := (((s.m.setInfo k infoAdmission).failColl k stTimeout).unqueue k).settle } := by
  change ran s (s.m.admissionTimeout k) = _
  rw [ran, Ilpiac.admissionTimeout, if_pos h]

theorem exec_furrowWaitTimeout {s : State} (h : ∃ x ∈ s.m.coll.ctxs, x.id.coll = k ∧ ∃ f, x.home = some f ∧ s.m.furrowState f = furrowRetired) :
    exec (.furrowWaitTimeout k) s = .next { s with m := (s.m.failColl k stTimeout).settle } := by
  obtain ⟨x, hx, hk, f, hf, hret⟩ := h
  have hany : s.m.coll.ctxs.any (fun x => x.id.coll == k && x.home.any (fun f => s.m.furrowState f == furrowRetired)) = true :=
    List.any_eq_true.mpr ⟨x, hx, by simp [hk, hf, hret]⟩
  change ran s (s.m.furrowTimeout k) = _
  rw [ran, Ilpiac.furrowTimeout, if_pos hany]

theorem exec_contribDeadline {s : State} {cm : Comm} {addr : Nat} (hc : s.m.collOf k = some c) (hcm : s.m.comm k.comm = some cm)
    (hfinal : c.final = none) (hstarted : c.started = false) (hadm : c.admitted ≠ 0) (hlocal : addr ∈ s.m.locals cm)
    (howes : s.m.owes cm c addr = true) :
    exec (.contribDeadline k addr) s = .next { s with m := (s.m.failColl k stTimeout (some (addr, stTimeout))).settle } := by
  change ran s (s.m.contribDeadline k addr) = _
  simp only [ran, Ilpiac.contribDeadline, hc, hcm]
  rw [if_neg]
  simp [Coll.committed, hfinal, hstarted, hadm, hlocal, howes]

end Sys2Proof.Machine

open Sys2Proof.Machine

/-- Settles O43: the head of a queue is admitted or stays, and each of the three deadlines records ST_TIMEOUT. -/
theorem admission : Obligations.Admission := by
  unfold Obligations.Admission
  intro s
  refine ⟨fun pool q r l c hq hr hc => ⟨fun hno => ?_, fun hyes hlt => ?_⟩,
    fun k c hc hfinal hstarted => ⟨fun hwaits => ?_, fun hretired => ?_, fun cm addr hcm hadm hlocal howes => ?_⟩⟩
  · rw [exec_contextAdmit, Ilpiac.admitCtx_of_head hq hr hc, hno, if_neg Bool.false_ne_true]
  · obtain ⟨hctxs, hwaiting, ⟨c', hc', hadmitted⟩, hcomms⟩ :=
      Ilpiac.takeHead_admits pool ⟨r.coll, r.part, r.lo⟩ (s.m.clk - q.headAt) hc
    refine ⟨_, c', ?_, hctxs, ?_, hc', hadmitted, hcomms⟩
    · rw [exec_contextAdmit, Ilpiac.admitCtx_of_head hq hr hc, hyes, if_pos rfl]
    · rw [hwaiting, Ilpiac.waitingCtxs_popHead hq hr hlt]
  · have hc1 : (s.m.setInfo k infoAdmission).collOf k = some { c with info := setBit c.info infoAdmission } :=
      (s.m.collOf_setInfo k _).trans (congrArg _ hc)
    exact ⟨_, _, exec_admissionTimeout hwaits, Ilpiac.anyWaits_unqueue .., Ilpiac.collOf_failColl hc1 hfinal hstarted _ _, rfl, bitOf_setBit ..⟩
  · exact ⟨_, _, exec_furrowWaitTimeout hretired, Ilpiac.anyWaits_failColl hc hfinal hstarted _ _, Ilpiac.collOf_failColl hc hfinal hstarted _ _,
      rfl, lowerFault_none _⟩
  · exact ⟨_, _, exec_contribDeadline hc hcm hfinal hstarted hadm hlocal howes, Ilpiac.anyWaits_failColl hc hfinal hstarted _ _,
      Ilpiac.collOf_failColl hc hfinal hstarted _ _, rfl, rfl⟩

end

section
/-! Retained copies, the verdict pass, END and the completion of a collective (spec 02: R66, R67, R71, R73, R78). -/

namespace Sys2Proof.Machine

variable {m : Ilpiac} {k : CollId} {c : Coll} {cm : Comm}

/-- The key under which a collective is found is its own. -/
theorem Ilpiac.key_of_collOf (h : m.collOf k = some c) : c.key = k := by
  simpa using List.find?_some h

/-! ### Packets that this module makes (R306) -/

/-- The 8 bytes that begin a packet made here, as a number. -/
theorem Packet.h0_make (ty tc dst src : Nat) (dstIlp srcIlp : Bool) (hs : List Nat) (body : List Byte) :
    (Packet.make ty tc dst dstIlp src srcIlp hs body).h0.toNat = ty % 256 + tc % 8 * 2 ^ 8 + (8 + 8 * hs.length + body.length) % 8192 * 2 ^ 12 +
      dst % 16384 * 2 ^ 32 + b2n dstIlp * 2 ^ 46 + src % 16384 * 2 ^ 48 + b2n srcIlp * 2 ^ 62 := by
  have hd : b2n dstIlp ≤ 1 := by cases dstIlp <;> decide
  have hs : b2n srcIlp ≤ 1 := by cases srcIlp <;> decide
  simp only [Packet.make, BitVec.toNat_ofNat]
  omega

theorem Packet.ty_make (ty tc dst src : Nat) (dstIlp srcIlp : Bool) (hs : List Nat) (body : List Byte) :
    (Packet.make ty tc dst dstIlp src srcIlp hs body).ty = ty % 256 := by
  rw [Packet.ty, Packet.h0_make, bits]
  omega

theorem Packet.len_make (ty tc dst src : Nat) (dstIlp srcIlp : Bool) (hs : List Nat) (body : List Byte) :
    (Packet.make ty tc dst dstIlp src srcIlp hs body).len = (8 + 8 * hs.length + body.length) % 8192 := by
  rw [Packet.len, Packet.h0_make, bits]
  omega

/-! ### Retained copies (R72, R73) -/

/-- The copies that some destination has not acknowledged. -/
def keptCopies (l : List Retained) : List Retained := l.filter (fun r => !r.dests.all (·.acked))

/-- A copy that every destination has acknowledged is dropped with its cells. -/
theorem Ilpiac.retainSweep_traffic (m : Ilpiac) :
    Ilpiac.Traffic { m with coll := { m.coll with retained := keptCopies m.coll.retained } } m.retainSweep :=
  (Ilpiac.Traffic.refl _).over fun _ _ h => h.unhold

/-- The copy that a packet for `dests` leaves, in the buffer that it takes. -/
def Ilpiac.copyFor (m : Ilpiac) (k : CollId) (part expert index : Nat) (p : Packet) (dests : List Nat) : Retained :=
  { id := m.coll.nextCopy, coll := k, part, expert, index, pkt := p, buf := m.sw.nextId, dests := dests.map (fun a => ⟨a, 1, false⟩) }

theorem Ilpiac.retainCopy_coll (m : Ilpiac) (k : CollId) (part expert index : Nat) (p : Packet) (dests : List Nat) :
    (m.retainCopy k part expert index p dests).coll = { m.coll with
      nextCopy := m.coll.nextCopy + 1, retained := keptCopies (m.coll.retained ++ [m.copyFor k part expert index p dests]) } := by
  have hstore : (m.store p .retain internal (held := true)).2.coll = m.coll := (Traffic.refl m).store.coll
  have hsent {m1 : Ilpiac} {id : Nat} : (m1.over dests (fun m a => m.enq (a % 256) id)).coll = m1.coll :=
    ((Traffic.refl m1).over fun _ _ h => h.enq).coll
  rw [Ilpiac.retainCopy, (Ilpiac.retainSweep_traffic _).coll, hsent, hstore]
  rfl

/-- A copy for a destination stays until that destination acknowledges it. -/
theorem Ilpiac.copyFor_mem_retained (m : Ilpiac) (k : CollId) (part expert index : Nat) (p : Packet) {dests : List Nat} (h : dests ≠ []) :
    m.copyFor k part expert index p dests ∈ (m.retainCopy k part expert index p dests).coll.retained := by
  obtain ⟨a, l, rfl⟩ := List.exists_cons_of_ne_nil h
  rw [Ilpiac.retainCopy_coll]
  exact List.mem_filter.mpr ⟨List.mem_append_right _ (List.mem_singleton_self _), rfl⟩

theorem Ilpiac.collOf_retainCopy (m : Ilpiac) (j k : CollId) (part expert index : Nat) (p : Packet) (dests : List Nat) :
    (m.retainCopy k part expert index p dests).collOf j = m.collOf j := by
  simp only [Ilpiac.collOf, Ilpiac.retainCopy_coll]

/-- Naming the destinations of a packet draws at most a value of free choice. -/
theorem Ilpiac.dstOf_coll (m : Ilpiac) (dests : List Nat) : (m.dstOf dests).2.coll = m.coll := by
  unfold Ilpiac.dstOf
  split <;> rfl

/-! ### The verdict pass starts (R67) -/

/-- The own record stands once among the records that a collective holds. -/
def Coll.passStarted (c : Coll) (r : VRec) : Coll :=
  { c with started := true, records := c.records.filter (fun x => x.bed != r.bed) ++ [r] }

theorem Ilpiac.passStart_of_coll (hc : m.collOf k = some c) (hcm : m.comm k.comm = some cm) :
    m.passStart k = if m.passReady cm c then ((m.updColl k (·.passStarted (m.ownRecord cm c))).sendRecords k).commits k.comm else m := by
  simp only [Ilpiac.passStart, hc, hcm]
  by_cases h : m.passReady cm c = true
  · rw [if_pos h, if_neg (by simp [h])]
    rfl
  · rw [if_neg h, if_pos (by simp [h])]

/-! ### END (R78) -/

/-- The local members that have what they are to receive and no END yet. -/
def Ilpiac.endDue (m : Ilpiac) (cm : Comm) (c : Coll) (st : Nat) : List Nat :=
  (m.receivers c c.delivery).filter (fun a => !c.ended.contains a && (decide (0x40 ≤ st) || m.resultsHere cm c a))

/-- END of a collective with the status `st`, toward the address `dst`. -/
def Ilpiac.endPacket (m : Ilpiac) (k : CollId) (c : Coll) (st dst : Nat) : Packet :=
  Packet.make 0x0D m.tcCtrl dst false m.bed true (collHdr k 0 0 0 0 0 ++ [st % 256 + c.finalInfo % 32 * 256]) []

theorem Ilpiac.endPacket_ty (m : Ilpiac) (k : CollId) (c : Coll) (st dst : Nat) : (m.endPacket k c st dst).ty = 0x0D := Packet.ty_make ..

theorem Ilpiac.endPacket_cells (m : Ilpiac) (k : CollId) (c : Coll) (st dst : Nat) : (m.endPacket k c st dst).cells = 1 := by
  rw [Packet.cells, Ilpiac.endPacket, Packet.len_make]
  simp [collHdr, ceilDiv]

/-- A collective whose END has gone to the members `l`. -/
def Coll.withEnded (c : Coll) (l : List Nat) : Coll := { c with ended := c.ended ++ l }

theorem Ilpiac.sendEnds_of_due {st : Nat} (hc : m.collOf k = some c) (hcm : m.comm k.comm = some cm) (hst : c.final = some st)
    (hdue : m.endDue cm c st ≠ []) (hroom : 1 ≤ m.areaFree .retain) :
    m.sendEnds k = ((m.dstOf (m.endDue cm c st)).2.updColl k (·.withEnded (m.endDue cm c st))).retainCopy k partEnd 0 0
      (m.endPacket k c st (m.dstOf (m.endDue cm c st)).1) (m.endDue cm c st) := by
  have hfits (dst : Nat) : m.retainFits (m.endPacket k c st dst) = true := by
    rw [Ilpiac.retainFits, Ilpiac.endPacket_cells]
    exact decide_eq_true hroom
  simp only [Ilpiac.sendEnds, hc, hcm, hst]
  exact (if_neg (by simpa [Ilpiac.endDue] using hdue)).trans (if_pos (hfits (m.dstOf (m.endDue cm c st)).1))

/-! ### Completion (R71) -/

theorem Ilpiac.collComplete_of_not_may (hc : m.collOf k = some c) (hcm : m.comm k.comm = some cm) (hmay : m.mayComplete c = false) :
    m.collComplete k = m := by
  simp only [Ilpiac.collComplete, hc, hcm, hmay, Bool.not_false, if_true]

theorem Ilpiac.collComplete_of_may (hc : m.collOf k = some c) (hcm : m.comm k.comm = some cm) (hmay : m.mayComplete c = true)
    (hsum : c.wantSum = false) (hamax : c.wantAmax = false) :
    m.collComplete k = m.recordColl c := by
  simp only [Ilpiac.collComplete, hc, hcm, hmay, hsum, hamax, Bool.not_true, Bool.false_eq_true, if_false, Bool.or_false, Bool.and_false,
    Bool.false_and]

theorem Ilpiac.recordColl_of_head (h : c.headless = false) :
    m.recordColl c = m.complete c.ring c.num c.words (c.final.getD stAborted) c.report (some c.key) := by
  rw [Ilpiac.recordColl, h, if_neg Bool.false_ne_true]

end Sys2Proof.Machine

open Sys2Proof.Machine

/-- Settles O45: the own record enters, END leaves in one copy, and the record of the collective is due after those before it. -/
theorem collectiveEnd : Obligations.CollectiveEnd := by
  unfold Obligations.CollectiveEnd
  intro s k c cm hc hcm
  have hstart : exec (.verdictPassStart k) s = .next { s with m := (s.m.passStart k).settle } := rfl
  have hend : exec (.endSend k) s = .next { s with m := (s.m.sendEnds k).settle } := rfl
  have hcomplete : exec (.collectiveComplete k) s = .next { s with m := (s.m.collComplete k).settle } := rfl
  rw [Ilpiac.passStart_of_coll hc hcm] at hstart
  refine ⟨fun hno => ?_, fun hready => ?_, fun st hst => ?_, fun hno => ?_, fun hmay hhead hsum hamax => ?_⟩
  · rw [hstart, hno, if_neg Bool.false_ne_true]
  · rw [hready, if_pos rfl] at hstart
    exact ⟨_, _, hstart, (Ilpiac.collOf_updColl).trans (congrArg _ hc), rfl, rfl⟩
  · intro l hl hroom
    rw [Ilpiac.sendEnds_of_due hc hcm hst hl hroom] at hend
    refine ⟨_, c.withEnded l, hend, ?_, rfl, _, Ilpiac.copyFor_mem_retained _ _ _ _ _ _ hl, rfl, rfl, rfl, Ilpiac.endPacket_ty ..⟩
    rw [Ilpiac.collOf_retainCopy, Ilpiac.collOf_updColl, Ilpiac.collOf, Ilpiac.dstOf_coll]
    exact congrArg _ hc
  · rw [hcomplete, Ilpiac.collComplete_of_not_may hc hcm hno]
  · rw [Ilpiac.collComplete_of_may hc hcm hmay hsum hamax, Ilpiac.recordColl_of_head hhead] at hcomplete
    refine ⟨_, hcomplete, by simp, ?_⟩
    rw [Ilpiac.key_of_collOf hc]
    rfl

end

section
/-! Packets that are taken where they arrive (spec 10: R306, R319, R323; spec 14: R401). -/

namespace Sys2Proof.Machine

variable {m m' : Ilpiac} {port : Nat} {p : Packet}

theorem Ilpiac.Traffic.wrapPort {port : Nat} {f : Fld} {v : Nat} (h : m.Traffic m') (h0 : 0 < f.off) (h1 : f.off < 0x1000) :
    m.Traffic (m'.wrapCnt (portBlk port) (portIdx port) f v) := h.wr (pinnedReg_port port h0 h1)

/-- Only hose and NFS data and PT pass the policers (R401). -/
theorem Ilpiac.police_of_free (h : [0x10, 0x18, 0x19].contains p.ty = false) : m.police port p = (m, true) := by
  rw [Ilpiac.police, if_pos (Or.inr h)]

/-- What the counters and the sieve see of a packet is traffic. -/
theorem Ilpiac.Traffic.counted (h : [0x10, 0x18, 0x19].contains p.ty = false) : m.Traffic (m.counted port p) := by
  unfold Ilpiac.counted
  rw [Ilpiac.police_of_free h]
  exact Ilpiac.Traffic.capture (Ilpiac.Traffic.wrapPort (Ilpiac.Traffic.refl m) (by decide) (by decide))

theorem Ilpiac.Admits.live (h : m.Admits port p) : ¬((!m.portFormed port) = true ∨ (!m.portUp port) = true ∧ p.ty ≠ 0x01) := by
  rintro (hf | ⟨hu, ht⟩)
  · simp [h.formed] at hf
  · exact h.up.elim (fun hup => by simp [hup] at hu) ht

/-- A packet that passes every check of its port and holds no landing cells is taken at once. -/
theorem Ilpiac.Admits.receive_taken (h : m.Admits port p) (hlands : landsOn port p = false) :
    m.receive port p = (m.counted port p).takeNow port p 0 := by
  unfold Ilpiac.receive
  rw [if_neg h.live]
  extract_lets bad shut pol m1 m2 s m3
  have hbad : bad = false := h.takes
  have hshut : shut = false := h.opened
  have hpol : pol = m.police port p := if_neg (by simp [hbad, hshut])
  have hm2 : m2 = m.counted port p := by
    simp only [m2, m1, hpol, Ilpiac.counted]
  rw [if_neg (by simp [h.sized]), if_neg (by simp [hlands]), hbad, hshut, if_neg Bool.false_ne_true, if_neg Bool.false_ne_true, hm2]

theorem Ilpiac.takeNow_contrib (hty : p.ty = 0x08) (turn : Nat) : m.takeNow port p turn = m.contribRx port p := by
  simp only [Ilpiac.takeNow, hty]

theorem Ilpiac.takeNow_ack (hty : p.ty = 0x09) (turn : Nat) : m.takeNow port p turn = m.ackRx port p := by
  simp only [Ilpiac.takeNow, hty]

/-- CONTRIB and ACK of a member hold no landing cells. -/
theorem landsOn_of_downlink (hport : port < 256) (h : memberCredited p.ty = false) : landsOn port p = false := by
  rw [landsOn, if_neg, h]
  simp only [isTrunk, Bool.and_eq_true, decide_eq_true_eq]
  omega

end Sys2Proof.Machine

end

section
/-! Contributions of local members, their acknowledgements, and results that a member misses (spec 02: R53, R69, R72 to R75, R80; spec 10: R319,
R551). -/

namespace Sys2Proof.Machine

variable {m m' : Ilpiac} {k : CollId} {c : Coll} {cm : Comm} {x : CtxId} {cx : Ctx} {p : Packet} {addr port leaf : Nat}

/-! ### What a contribution consults (R53, R56) -/

section
variable (h : m.Traffic m') (cm : Comm) (c : Coll) (x : CtxId)
include h

theorem Ilpiac.Traffic.locals : m'.locals cm = m.locals cm := by
  rw [Ilpiac.locals, h.bed, Ilpiac.locals]

theorem Ilpiac.Traffic.routing : m'.routing c = m.routing c := by
  rw [Ilpiac.routing, h.comm, Ilpiac.routing]

theorem Ilpiac.Traffic.runsOf : m'.runsOf cm c = m.runsOf cm c := Ilpiac.runsOf_congr h.bed fun _ => h.routing c

theorem Ilpiac.Traffic.contributors : m'.contributors cm c x = m.contributors cm c x := by
  rw [Ilpiac.contributors, h.bed, h.locals, Ilpiac.contributors]

theorem Ilpiac.Traffic.leafOf (addr seg : Nat) : m'.leafOf cm x addr seg = m.leafOf cm x addr seg := by
  rw [Ilpiac.leafOf, h.locals, Ilpiac.leafOf]

theorem Ilpiac.Traffic.combineEnts : m'.combineEnts c x = m.combineEnts c x := by
  simp only [Ilpiac.combineEnts, h.comm, h.routing, h.locals, h.bed]

theorem Ilpiac.Traffic.leaves : m'.leaves c x = m.leaves c x := by
  simp only [Ilpiac.leaves, h.comm, h.routing, h.locals, h.combineEnts]

theorem Ilpiac.Traffic.contribLen (leaf sel : Nat) : m'.contribLen c x leaf sel = m.contribLen c x leaf sel := by
  simp only [Ilpiac.contribLen, Ilpiac.contribBytes, h.routing]

theorem Ilpiac.Traffic.sendCack {p : Packet} {addr : Nat} : m.Traffic (m'.sendCack p addr) := h.emit

end

/-! ### A contribution arrives (R53) -/

theorem contribCtx_coll (p : Packet) : (contribCtx p).1.coll = p.coll := by
  unfold contribCtx
  split <;> rfl

theorem Ilpiac.contribRx_of_past (hcm : m.comm p.comm = some cm) (hpast : p.coll ∈ m.coll.past) :
    m.contribRx port p = m.dupContrib p (m.bed * 256 + port) := by
  simp [Ilpiac.contribRx, hcm, hpast]

theorem Ilpiac.contribRx_of_unknown (hcm : m.comm p.comm = some cm) (hpast : p.coll ∉ m.coll.past) (hc : m.collOf p.coll = none) :
    m.contribRx port p = m.strayContrib p := by
  simp [Ilpiac.contribRx, hcm, hpast, hc]

@[simp] theorem Ilpiac.count_colls (m : Ilpiac) (id : Nat) (f : CommCounts → CommCounts) : (m.count id f).coll.colls = m.coll.colls := rfl
@[simp] theorem Ilpiac.count_ctxs (m : Ilpiac) (id : Nat) (f : CommCounts → CommCounts) : (m.count id f).coll.ctxs = m.coll.ctxs := rfl

theorem Ilpiac.dupContrib_counts (hcm : m.comm p.comm = some cm) (addr : Nat) : ∃ c, (m.dupContrib p addr).comm p.comm = some c ∧
    c.cnt.duplicates = (cm.cnt.duplicates + 1) % 2 ^ 64 ∧ (m.dupContrib p addr).coll.colls = m.coll.colls ∧
    (m.dupContrib p addr).coll.ctxs = m.coll.ctxs := by
  have hcack : m.Traffic (m.sendCack p addr) := (Ilpiac.Traffic.refl m).sendCack
  rw [Ilpiac.dupContrib, Ilpiac.comm_count, hcack.comm, hcm, Ilpiac.count_colls, Ilpiac.count_ctxs, hcack.coll]
  exact ⟨_, rfl, rfl, rfl, rfl⟩

theorem Ilpiac.strayContrib_counts (hcm : m.comm p.comm = some cm) : ∃ c, (m.strayContrib p).comm p.comm = some c ∧
    c.cnt.stray = (cm.cnt.stray + 1) % 2 ^ 64 ∧ (m.strayContrib p).coll.colls = m.coll.colls ∧ (m.strayContrib p).coll.ctxs = m.coll.ctxs := by
  rw [Ilpiac.strayContrib, Ilpiac.comm_count, hcm, Ilpiac.count_colls, Ilpiac.count_ctxs]
  exact ⟨_, rfl, rfl, rfl, rfl⟩

/-- A context that a packet may contribute to: its collective runs, and expects this element from this member. -/
structure Ilpiac.Expects (m : Ilpiac) (cm : Comm) (c : Coll) (cx : Ctx) (port : Nat) (p : Packet) : Prop where
  comm : m.comm p.comm = some cm
  notPast : p.coll ∉ m.coll.past
  coll : m.collOf p.coll = some c
  ctx : m.ctxOf (contribCtx p).1 = some cx
  runs : c.failing = false ∧ c.final = none
  known : ∃ r ∈ m.runsOf cm c, r.part = (contribCtx p).1.part ∧ r.lo ≤ (contribCtx p).1.index ∧ (contribCtx p).1.index < r.hi
  member : m.bed * 256 + port ∈ m.contributors cm c (contribCtx p).1
  leaf : m.leafOf cm (contribCtx p).1 (m.bed * 256 + port) (contribCtx p).2 ∈ (m.leaves c (contribCtx p).1).2
  fresh : m.leafOf cm (contribCtx p).1 (m.bed * 256 + port) (contribCtx p).2 ∉ cx.seen
  sized : p.body.length = m.contribLen c (contribCtx p).1 (m.leafOf cm (contribCtx p).1 (m.bed * 256 + port) (contribCtx p).2) p.fmt

/-- Traffic does not change what a context expects. -/
theorem Ilpiac.Traffic.expects (h : m.Traffic m') (he : m.Expects cm c cx port p) : m'.Expects cm c cx port p := by
  obtain ⟨hcm, hpast, hc, hcx, hruns, hknown, hmember, hleaf, hfresh, hsized⟩ := he
  refine ⟨(h.comm _).trans hcm, ?_, (h.collOf _).trans hc, (h.ctxOf _).trans hcx, hruns, ?_, ?_, ?_, ?_, ?_⟩
  · rwa [h.coll]
  · rwa [h.runsOf]
  · rwa [h.contributors, h.bed]
  · rwa [h.leafOf, h.leaves, h.bed]
  · rwa [h.leafOf, h.bed]
  · rwa [h.contribLen, h.leafOf, h.bed]

theorem Ilpiac.Expects.contribRx (h : m.Expects cm c cx port p) :
    m.contribRx port p = m.acceptContrib cm c (contribCtx p).1 (m.leafOf cm (contribCtx p).1 (m.bed * 256 + port) (contribCtx p).2)
      (m.bed * 256 + port) port p := by
  obtain ⟨hcm, hpast, hc, hcx, ⟨hfailing, hfinal⟩, ⟨r, hr, hpart, hlo, hhi⟩, hmember, hleaf, hfresh, hsized⟩ := h
  have hknown : (m.runsOf cm c).any (fun r => r.part == (contribCtx p).1.part && decide (r.lo ≤ (contribCtx p).1.index) &&
      decide ((contribCtx p).1.index < r.hi)) = true := List.any_eq_true.mpr ⟨r, hr, by simp [hpart, hlo, hhi]⟩
  simp only [Ilpiac.contribRx, hcm, hc, hcx, hknown, Coll.committed, hfinal, hfailing]
  rw [if_neg (by simpa using hpast), if_neg (by simp [hmember, hleaf]), if_neg (by simpa using hfresh), if_neg (by simp), if_neg (by simpa using hsized)]

/-! ### A contribution is accepted (R53, R71) -/

/-- A collective that has just accepted a contribution of the member `addr`. -/
def Coll.timed (c : Coll) (now addr : Nat) : Coll := { c with firstAt := c.firstAt.or (some now), lastAt := now, lastMember := addr }

/-- The leaf is seen once, and the cells that waited for it are given back. -/
def Ctx.sees (cx : Ctx) (leaf cells : Nat) : Ctx := { cx with seen := cx.seen ++ [leaf], cells := cx.cells - cells }

/-- The contribution is held until the tree takes it. -/
def Ctx.keeps (cx : Ctx) (b : Contrib) : Ctx := { cx with contribs := cx.contribs ++ [b] }

def Ctx.owesLeaf (cx : Ctx) (leaf : Nat) : Ctx := { cx with todo := cx.todo ++ [leaf] }

/-- The contribution in a packet, before it has a buffer. -/
def Coll.contribOf (c : Coll) (x : CtxId) (leaf addr : Nat) (p : Packet) : Contrib :=
  let s := if x.part = partRoute then ([], p.body) else splitScales (c.bodyFmt x.part p.fmt) p.body
  ⟨leaf, addr, 0, p.fmt, p.coarse, s.1, s.2⟩

theorem Coll.contribOf_leaf (c : Coll) (x : CtxId) (leaf addr : Nat) (p : Packet) : (c.contribOf x leaf addr p).leaf = leaf := rfl

/-- A contribution is acknowledged, timed and seen. -/
def Ilpiac.noteContrib (m : Ilpiac) (x : CtxId) (leaf addr : Nat) (p : Packet) : Ilpiac :=
  (((m.sendCack p addr).updColl x.coll (·.timed m.time.ns addr)).updCtx x (·.sees leaf p.cells)).areaGive .contrib 0 p.cells

/-- The packet of a contribution is held in the contribution area. -/
def Ilpiac.keepContrib (m : Ilpiac) (x : CtxId) (b : Contrib) (port : Nat) (p : Packet) : Ilpiac :=
  let st := m.store p .contrib port (held := true)
  st.2.updCtx x (·.keeps { b with buf := st.1 })

/-- The block that has accepted a contribution to a tree, before the tree goes on. -/
def Ilpiac.takeContrib (m : Ilpiac) (c : Coll) (x : CtxId) (leaf addr port : Nat) (p : Packet) : Ilpiac :=
  (((m.noteContrib x leaf addr p).keepContrib x (c.contribOf x leaf addr p) port p).updCtx x (·.owesLeaf leaf)).noteAccepted x

/-- Whether a context has a tree depends on its collective alone. -/
theorem Ilpiac.treeCtx_any (m m' : Ilpiac) (h : m.treeCtx c x = true) : m'.treeCtx c x = true := h

theorem Ilpiac.acceptContrib_of_tree (h : m.treeCtx c x = true) :
    m.acceptContrib cm c x leaf addr port p = (m.takeContrib c x leaf addr port p).pumpAll x := by
  unfold Ilpiac.acceptContrib
  dsimp only
  rw [if_pos (m.treeCtx_any _ h)]
  rfl

theorem Ilpiac.noteAccepted_eq (m : Ilpiac) (x : CtxId) :
    m.noteAccepted x = m ∨ m.noteAccepted x = m.updColl x.coll (fun c => { c with accepted := c.accepted + 1 }) := by
  unfold Ilpiac.noteAccepted
  split
  · split
    · exact .inr rfl
    · exact .inl rfl
  · exact .inl rfl

theorem Ilpiac.ctxOf_noteContrib (hcx : m.ctxOf x = some cx) : (m.noteContrib x leaf addr p).ctxOf x = some (cx.sees leaf p.cells) := by
  rw [Ilpiac.noteContrib, ((Ilpiac.Traffic.refl _).areaGive).ctxOf, Ilpiac.ctxOf_updCtx, Ilpiac.ctxOf_updColl,
    ((Ilpiac.Traffic.refl m).sendCack).ctxOf, hcx, Option.map_some]

theorem Ilpiac.collOf_noteContrib (hc : m.collOf x.coll = some c) :
    (m.noteContrib x leaf addr p).collOf x.coll = some (c.timed m.time.ns addr) := by
  rw [Ilpiac.noteContrib, ((Ilpiac.Traffic.refl _).areaGive).collOf, Ilpiac.collOf_updCtx, Ilpiac.collOf_updColl,
    ((Ilpiac.Traffic.refl m).sendCack).collOf, hc, Option.map_some]

theorem Ilpiac.ctxOf_keepContrib {b : Contrib} (hcx : m.ctxOf x = some cx) :
    (m.keepContrib x b port p).ctxOf x = some (cx.keeps { b with buf := m.sw.nextId }) := by
  rw [Ilpiac.keepContrib, Ilpiac.ctxOf_updCtx, (Ilpiac.Traffic.refl m).store.ctxOf, hcx, Option.map_some, Ilpiac.store]

theorem Ilpiac.collOf_keepContrib {b : Contrib} : (m.keepContrib x b port p).collOf k = m.collOf k := by
  rw [Ilpiac.keepContrib, Ilpiac.collOf_updCtx, (Ilpiac.Traffic.refl m).store.collOf]

theorem Ilpiac.ctxOf_noteAccepted (m : Ilpiac) (x : CtxId) : (m.noteAccepted x).ctxOf x = m.ctxOf x := by
  rw [Ilpiac.ctxOf, Ilpiac.Noted.noteAccepted.ctxs, Ilpiac.ctxOf]

/-- The accepted contribution stands in its context once, as seen, held and due to the tree. -/
theorem Ilpiac.ctxOf_takeContrib (hcx : m.ctxOf x = some cx) : ∃ cx', (m.takeContrib c x leaf addr port p).ctxOf x = some cx' ∧
    cx'.seen = cx.seen ++ [leaf] ∧ cx'.todo = cx.todo ++ [leaf] ∧ cx'.contribs.map (·.leaf) = cx.contribs.map (·.leaf) ++ [leaf] := by
  rw [Ilpiac.takeContrib, Ilpiac.ctxOf_noteAccepted, Ilpiac.ctxOf_updCtx, Ilpiac.ctxOf_keepContrib (Ilpiac.ctxOf_noteContrib hcx)]
  exact ⟨_, rfl, rfl, rfl, by simp [Ctx.owesLeaf, Ctx.keeps, Ctx.sees, Coll.contribOf_leaf]⟩

/-- The collective notes when and from whom the contribution came. -/
theorem Ilpiac.collOf_takeContrib (hc : m.collOf x.coll = some c) : ∃ c', (m.takeContrib c x leaf addr port p).collOf x.coll = some c' ∧
    c'.lastAt = m.time.ns ∧ c'.lastMember = addr ∧ c'.firstAt = c.firstAt.or (some m.time.ns) := by
  rw [Ilpiac.takeContrib]
  rcases Ilpiac.noteAccepted_eq (((m.noteContrib x leaf addr p).keepContrib x (c.contribOf x leaf addr p) port p).updCtx x (·.owesLeaf leaf)) x with
    h | h
  · rw [h, Ilpiac.collOf_updCtx, Ilpiac.collOf_keepContrib, Ilpiac.collOf_noteContrib hc]
    exact ⟨_, rfl, rfl, rfl, rfl⟩
  · rw [h, Ilpiac.collOf_updColl, Ilpiac.collOf_updCtx, Ilpiac.collOf_keepContrib, Ilpiac.collOf_noteContrib hc]
    exact ⟨_, rfl, rfl, rfl, rfl⟩

/-! ### ACK (R74) -/

/-- Whether an ACK names a retained copy (R74). -/
def ackNames (p : Packet) (r : Retained) : Bool :=
  r.coll == p.coll && r.part == p.part &&
    (p.part == 0xF ||
     (p.part == 2 && r.expert == p.hi && r.index / 2 ^ 16 == p.index / 2 ^ 16 && decide (p.index % 2 ^ 16 ≤ r.index % 2 ^ 16) &&
       decide (r.index % 2 ^ 16 < p.index % 2 ^ 16 + p.count)) ||
     (p.part != 2 && decide (p.pos ≤ r.index) && decide (r.index < p.pos + p.count)))

/-- A copy that the destination `addr` has acknowledged. -/
def Retained.ackedBy (r : Retained) (addr : Nat) : Retained :=
  { r with dests := mapIf (fun d => d.addr == addr) (fun d => { d with acked := true }) r.dests }

theorem Ilpiac.retainSweep_coll (m : Ilpiac) : m.retainSweep.coll = { m.coll with retained := keptCopies m.coll.retained } := m.retainSweep_traffic.coll

theorem Ilpiac.ackRx_retained (m : Ilpiac) (port : Nat) (p : Packet) :
    (m.ackRx port p).coll.retained = keptCopies (mapIf (ackNames p) (·.ackedBy (m.bed * 256 + port)) m.coll.retained) := by
  rw [Ilpiac.ackRx, Ilpiac.retainSweep_coll]
  rfl

/-- Nothing is outstanding of a copy whose other destinations had acknowledged it. -/
theorem Retained.all_acked_ackedBy {r q : Retained} (h : ∀ d ∈ r.dests, d.addr = addr ∨ d.acked = true) (e : r = q.ackedBy addr) :
    r.dests.all (·.acked) = true := by
  refine List.all_eq_true.mpr fun d hd => ?_
  rcases h d hd with hd' | hd'
  · rw [e] at hd
    obtain ⟨y, -, rfl⟩ := List.mem_map.mp hd
    by_cases hy : (y.addr == addr) = true
    · simp [hy]
    · simp only [hy, Bool.false_eq_true, if_false] at hd'
      simp [hd'] at hy
  · exact hd'

theorem not_mem_keptCopies_of_ack {r : Retained} {l : List Retained} (hnames : ackNames p r = true)
    (h : ∀ d ∈ r.dests, d.addr = addr ∨ d.acked = true) :
    r ∉ keptCopies (mapIf (ackNames p) (·.ackedBy addr) l) := by
  intro hr
  obtain ⟨hmem, hleft⟩ := List.mem_filter.mp hr
  obtain ⟨q, -, hq⟩ := List.mem_map.mp hmem
  by_cases hn : ackNames p q = true
  · rw [if_pos hn] at hq
    simp [Retained.all_acked_ackedBy h hq.symm] at hleft
  · rw [if_neg hn] at hq
    exact hn (hq ▸ hnames)

theorem mem_keptCopies_of_other {q : Retained} {l : List Retained} (hq : q ∈ l) (hcoll : q.coll ≠ p.coll)
    (hopen : ∃ d ∈ q.dests, d.acked = false) :
    q ∈ keptCopies (mapIf (ackNames p) (·.ackedBy addr) l) := by
  obtain ⟨d, hd, hacked⟩ := hopen
  have hnames : ackNames p q = false := by simp [ackNames, hcoll]
  refine List.mem_filter.mpr ⟨List.mem_map.mpr ⟨q, hq, by simp [hnames]⟩, ?_⟩
  rw [Bool.not_eq_true', List.all_eq_false]
  exact ⟨d, hd, by simp [hacked]⟩

/-! ### Copies sent again, members lost, results missed (R69, R74, R75, R80) -/

theorem Ilpiac.dropDest_coll (m : Ilpiac) (addr : Nat) (f : Retained → Bool) : (m.dropDest addr f).coll = { m.coll with
    retained := keptCopies (mapIf f (fun r => { r with dests := r.dests.filter (fun d => d.addr != addr) }) m.coll.retained) } :=
  Ilpiac.retainSweep_coll _

theorem Ilpiac.collOf_dropDest (m : Ilpiac) (addr : Nat) (f : Retained → Bool) (k : CollId) : (m.dropDest addr f).collOf k = m.collOf k := by
  simp only [Ilpiac.collOf, Ilpiac.dropDest_coll]

/-- A collective that no longer delivers to the member `addr`. -/
def Coll.without (c : Coll) (addr status : Nat) : Coll :=
  { c with delivery := c.delivery.filter (· != addr), info := setBit c.info infoLost, lost := c.lost.or (some (addr, status)) }

theorem Coll.not_mem_delivery_without (c : Coll) (addr status : Nat) : addr ∉ (c.without addr status).delivery := by
  simp [Coll.without]

theorem Ilpiac.collOf_undeliver (hc : m.collOf k = some c) (hdelivery : addr ∈ c.delivery) (status : Nat) :
    (m.undeliver k addr status).collOf k = some (c.without addr status) := by
  simp only [Ilpiac.undeliver, hc]
  rw [if_pos (by simpa using hdelivery), Ilpiac.collOf_dropDest]
  exact (Ilpiac.collOf_updColl).trans (congrArg _ hc)

theorem Ilpiac.collOf_memberLost (hc : m.collOf k = some c) (hfinal : c.final.isSome = true) (hdelivery : addr ∈ c.delivery) (status : Nat) :
    (m.memberLost k addr status).collOf k = some (c.without addr status) := by
  simp only [Ilpiac.memberLost, hc]
  rw [if_pos (.inl hfinal)]
  exact Ilpiac.collOf_undeliver hc hdelivery status

theorem Ilpiac.resultMissing_of_delivery {st : Nat} (hc : m.collOf k = some c) (hcm : m.comm k.comm = some cm) (hfinal : c.final = some st)
    (hst : st < 0x40) (hdelivery : addr ∈ c.delivery) (hmissing : m.resultsHere cm c addr = false) :
    m.resultMissing k addr = m.undeliver k addr stTimeout := by
  simp only [Ilpiac.resultMissing, hc, hcm, hfinal]
  exact if_pos ⟨hst, by simpa using hdelivery, by simp [hmissing]⟩

/-- A copy with one more sending to `addr`. -/
def Retained.again (r : Retained) (addr : Nat) : Retained :=
  { r with dests := mapIf (fun y => y.addr == addr) (fun y => { y with sends := y.sends + 1 }) r.dests }

/-- The copy `id` goes to `addr` again, and its communicator and collective count it. -/
def Ilpiac.resend (m : Ilpiac) (id addr : Nat) (r : Retained) : Ilpiac :=
  let m := { m with coll := { m.coll with retained := mapIf (fun x => x.id == id) (·.again addr) m.coll.retained } }
  (m.enq (addr % 256) r.buf).countReplay r.coll

theorem Ilpiac.retentionTimeout_of_copy {id : Nat} {r : Retained} {dst : Dest} (hr : m.coll.retained.find? (fun r => r.id == id) = some r)
    (hdst : r.dests.find? (fun x => x.addr == addr && !x.acked) = some dst) :
    m.retentionTimeout id addr = if dst.sends ≤ m.replayLimit (some r.coll) then m.resend id addr r
      else (m.memberLost r.coll addr stTimeout).dropDest addr (fun x => x.id == id) := by
  simp only [Ilpiac.retentionTimeout, hr, hdst]
  rfl

theorem Ilpiac.comm_countReplay (hcm : m.comm k.comm = some cm) :
    ∃ cm', (m.countReplay k).comm k.comm = some cm' ∧ cm'.cnt.replays = (cm.cnt.replays + 1) % 2 ^ 64 := by
  rw [Ilpiac.countReplay, Ilpiac.setInfo, Ilpiac.comm_updColl, Ilpiac.comm_count, hcm]
  exact ⟨_, rfl, rfl⟩

theorem Ilpiac.collOf_countReplay (hc : m.collOf k = some c) : ∃ c', (m.countReplay k).collOf k = some c' ∧ bitOf c'.info infoReplayed = true := by
  rw [Ilpiac.countReplay, Ilpiac.collOf_setInfo, Ilpiac.count, Ilpiac.collOf_updComm, hc]
  exact ⟨_, rfl, bitOf_setBit ..⟩

/-- What the resending finds in the collective engine: the copies with one more sending, and the rest as before. -/
theorem Ilpiac.resend_traffic (m : Ilpiac) (id addr : Nat) (r : Retained) :
    ∃ m1 : Ilpiac, m1.coll = { m.coll with retained := mapIf (fun x => x.id == id) (·.again addr) m.coll.retained } ∧
      m.resend id addr r = m1.countReplay r.coll :=
  ⟨_, (Ilpiac.Traffic.refl _).enq.coll, rfl⟩

/-! ### The commands -/

theorem exec_contribReceived {s : State} {port : Fin 256} (h : s.m.Admits port p) (hty : p.ty = 0x08) :
    exec (.contribReceived port p) s = .next { s with m := ((s.m.counted port p).contribRx port p).settle } := by
  change ran s (s.m.arrive port.val [0x08] p) = _
  rw [ran, Ilpiac.arrive, if_pos (by simp [hty]), h.receive_taken (landsOn_of_downlink port.isLt (by rw [hty]; rfl)), Ilpiac.takeNow_contrib hty]

theorem exec_ackReceived {s : State} {port : Fin 256} (h : s.m.Admits port p) (hty : p.ty = 0x09) :
    exec (.ackReceived port p) s = .next { s with m := ((s.m.counted port p).ackRx port p).settle } := by
  change ran s (s.m.arrive port.val [0x09] p) = _
  rw [ran, Ilpiac.arrive, if_pos (by simp [hty]), h.receive_taken (landsOn_of_downlink port.isLt (by rw [hty]; rfl)), Ilpiac.takeNow_ack hty]

end Sys2Proof.Machine

open Sys2Proof.Machine

/-- Settles O44: contributions by where their collective is, copies by what of them is acknowledged, and a member that misses results. -/
theorem contributions : Obligations.Contributions := by
  unfold Obligations.Contributions
  intro s port p
  refine ⟨fun hadm hty cm hcm => ?_, fun hadm hty r hr hcoll hpart hrange hdests => ?_,
    fun id addr r dst hr hdst => ⟨fun hsends => ?_, fun c hsends hc hfinal hdel => ?_⟩,
    fun k addr c cm st hc hcm hfinal hst hdel hmissing => ?_⟩
  · have ht : s.m.Traffic (s.m.counted port p) := .counted (by rw [hty]; rfl)
    have hexec := exec_contribReceived hadm hty
    have hcm1 := (ht.comm p.comm).trans hcm
    refine ⟨fun hpast => ?_, fun hpast hnone => ?_, fun c cx hpast hc hcx htree hfailing hfinal hknown hmember hleaf hfresh hsized => ?_⟩
    · rw [Ilpiac.contribRx_of_past hcm1 (by rwa [ht.coll])] at hexec
      obtain ⟨c, hc, hdup, hcolls, hctxs⟩ := Ilpiac.dupContrib_counts hcm1 ((s.m.counted port p).bed * 256 + port)
      rw [ht.coll] at hcolls hctxs
      exact ⟨_, c, hexec, hc, hdup, hcolls, hctxs⟩
    · rw [Ilpiac.contribRx_of_unknown hcm1 (by rwa [ht.coll]) ((ht.collOf _).trans hnone)] at hexec
      obtain ⟨c, hc, hstray, hcolls, hctxs⟩ := Ilpiac.strayContrib_counts hcm1
      rw [ht.coll] at hcolls hctxs
      exact ⟨_, c, hexec, hc, hstray, hcolls, hctxs⟩
    · have he := ht.expects ⟨hcm, hpast, hc, hcx, ⟨hfailing, hfinal⟩, hknown, hmember, hleaf, hfresh, hsized⟩
      rw [he.contribRx, Ilpiac.acceptContrib_of_tree (s.m.treeCtx_any _ htree), ht.leafOf, ht.bed] at hexec
      have hkey : (s.m.counted port p).collOf (contribCtx p).1.coll = some c := by rw [contribCtx_coll]; exact he.coll
      obtain ⟨cx', hcx', hseen, htodo, hcontribs⟩ := Ilpiac.ctxOf_takeContrib (c := c) (port := port) (p := p) (addr := s.m.bed * 256 + port)
        (leaf := s.m.leafOf cm (contribCtx p).1 (s.m.bed * 256 + port) (contribCtx p).2) he.ctx
      obtain ⟨c', hc', hlast, hlastMember, hfirst⟩ := Ilpiac.collOf_takeContrib (port := port) (p := p) (addr := s.m.bed * 256 + port)
        (leaf := s.m.leafOf cm (contribCtx p).1 (s.m.bed * 256 + port) (contribCtx p).2) hkey
      rw [contribCtx_coll] at hc'
      rw [ht.time] at hlast hfirst
      exact ⟨_, c', cx', hexec, hcx', hseen, htodo, hcontribs, hc', hlast, hlastMember, hfirst⟩
  · have ht : s.m.Traffic (s.m.counted port p) := .counted (by rw [hty]; rfl)
    have hnames : ackNames p r = true := by
      rcases hrange with h15 | ⟨h2, hlo, hhi⟩
      · simp [ackNames, hcoll, hpart, h15]
      · simp [ackNames, hcoll, hpart, h2, hlo, hhi]
    refine ⟨_, exec_ackReceived hadm hty, ?_, fun q hq hother hopen => ?_⟩
    · rw [Ilpiac.ackRx_retained, ht.bed]
      exact not_mem_keptCopies_of_ack hnames hdests
    · rw [Ilpiac.ackRx_retained, ht.coll]
      exact mem_keptCopies_of_other hq hother hopen
  · have hexec : exec (.retentionTimeout id addr) s = .next { s with m := (s.m.retentionTimeout id addr).settle } := rfl
    rw [Ilpiac.retentionTimeout_of_copy hr hdst, if_pos hsends] at hexec
    obtain ⟨m1, hcoll, hm1⟩ := s.m.resend_traffic id addr r
    rw [hm1] at hexec
    have hcomm : m1.comm r.coll.comm = s.m.comm r.coll.comm := by rw [Ilpiac.comm, hcoll, Ilpiac.comm]
    have hcollOf : m1.collOf r.coll = s.m.collOf r.coll := by rw [Ilpiac.collOf, hcoll, Ilpiac.collOf]
    exact ⟨_, hexec, congrArg (·.retained) hcoll, fun cm hcm => Ilpiac.comm_countReplay (hcomm.trans hcm),
      fun c hc => Ilpiac.collOf_countReplay (hcollOf.trans hc)⟩
  · have hexec : exec (.retentionTimeout id addr) s = .next { s with m := (s.m.retentionTimeout id addr).settle } := rfl
    rw [Ilpiac.retentionTimeout_of_copy hr hdst, if_neg (by omega)] at hexec
    exact ⟨_, _, hexec, (Ilpiac.collOf_dropDest ..).trans (Ilpiac.collOf_memberLost hc hfinal hdel _), c.not_mem_delivery_without _ _, rfl, rfl⟩
  · have hexec : exec (.resultMissingTimeout k addr) s = .next { s with m := (s.m.resultMissing k addr).settle } := rfl
    rw [Ilpiac.resultMissing_of_delivery hc hcm hfinal hst hdel hmissing] at hexec
    exact ⟨_, _, hexec, Ilpiac.collOf_undeliver hc hdel _, c.not_mem_delivery_without _ _, rfl⟩

end

section
/-! Packets of other Ilpiac modules, and the transfers toward them (spec 02: R70, R76, R77; spec 04: R175, R182; spec 10: R328, R551, R552). -/

namespace Sys2Proof.Machine

variable {m m' m1 m2 : Ilpiac} {port id : Nat} {p : Packet} {b : BufPkt} {k : CollId} {c : Coll} {cm : Comm}

/-! ### A packet lands (R328) -/

theorem Ilpiac.port_setPort (m : Ilpiac) (p : Nat) (x : PortX) : (m.setPort p x).port p = x := Map.get_put_self _ _ _ _

theorem Ilpiac.coll_setPort (m : Ilpiac) (p : Nat) (x : PortX) : (m.setPort p x).coll = m.coll := rfl

theorem Ilpiac.Traffic.landIn (h : m.Traffic m') : m.Traffic (m'.landIn port p).2 := by
  unfold Ilpiac.landIn
  dsimp only
  split
  · exact h.setCls
  · exact h.setCls.store

theorem Ilpiac.Traffic.landAck (h : m.Traffic m') (hknown : (m'.landAck p).1 = true) : m.Traffic (m'.landAck p).2 := by
  unfold Ilpiac.landAck at hknown ⊢
  by_cases hcoll : p.dstBed = m'.bed ∧ [0x60, 0x62, 0x63].contains p.ty = true
  · by_cases hheld : (m'.comm p.comm).isSome = true
    · rw [if_pos hcoll, if_pos hheld]
      exact h.tack
    · rw [if_pos hcoll, if_neg hheld] at hknown
      cases hknown
  · rw [if_neg hcoll]
    exact h

/-- A COLUMN, TRESULT or RECORDS that stays is for a communicator that is held (R70). -/
theorem Ilpiac.held_of_landAck (hty : p.ty = 0x60 ∨ p.ty = 0x62 ∨ p.ty = 0x63) (hdst : p.dstBed = m.bed) (hknown : (m.landAck p).1 = true) :
    (m.comm p.comm).isSome = true := by
  rw [Ilpiac.landAck, if_pos ⟨hdst, by simpa using hty⟩] at hknown
  by_contra hheld
  simp [hheld] at hknown

/-- A packet that must wait stays in its landing cells. -/
def Ilpiac.waitLanded (m : Ilpiac) (port id : Nat) : Ilpiac := m.setPort port { m.port port with landed := (m.port port).landed ++ [id] }

/-- A landed packet of a bed module waits, or moves on and leaves its cells. -/
def Ilpiac.afterMove (m : Ilpiac) (port id : Nat) (b : BufPkt) : Option Ilpiac → Ilpiac
  | some m' => m'.movedOn id b
  | none => m.waitLanded port id

theorem Ilpiac.Lands.receive (h : m.Lands port p m2 id b) : m.receive port p = m2.landed port id := by
  unfold Ilpiac.receive
  rw [if_neg h.live]
  extract_lets bad shut pol m3 m4 s m5
  have hbad : bad = false := h.takes
  have hshut : shut = false := h.opened
  have hpol : pol = m.police port p := if_neg (by simp [hbad, hshut])
  have hm4 : m4 = m.counted port p := by
    simp only [m4, m3, hpol, Ilpiac.counted]
  have hs : s = (some id, m2) := by
    simp only [s, hm4, h.room]
  have hm5 : m5 = m2 := congrArg Prod.snd hs
  rw [if_neg (by simp [h.sized]), if_pos h.credited, hm5, hs, hbad, hshut, hpol, h.policed]
  rfl

theorem Ilpiac.Lands.landed (h : m.Lands port p m2 id b) :
    m2.landed port id = (m2.landAck p).2.afterMove port id b ((m2.landAck p).2.moveOn port id p) := by
  unfold Ilpiac.landed
  rw [h.stored]
  dsimp only
  rw [h.same, h.known, if_neg (by decide), if_neg (by simp [h.front])]
  cases (m2.landAck p).2.moveOn port id p <;> rfl

theorem Ilpiac.Lands.traffic (h : m.Lands port p m2 id b) (hfree : [0x10, 0x18, 0x19].contains p.ty = false) : m.Traffic (m2.landAck p).2 := by
  have hland : m.Traffic ((m.counted port p).landIn port p).2 := (Ilpiac.Traffic.counted hfree).landIn
  rw [h.room] at hland
  exact hland.landAck h.known

/-- A packet for a collective, at its destination, in the block `m3` in which it has been acknowledged. -/
structure Ilpiac.Delivers (m m3 : Ilpiac) (port id : Nat) (b : BufPkt) (p : Packet) : Prop where
  receive : m.receive port p = m3.afterMove port id b (m3.ilpMove port id p)
  held : (m3.comm p.comm).isSome = true

theorem Ilpiac.moveOn_here (hty : p.ty = 0x60 ∨ p.ty = 0x62 ∨ p.ty = 0x63) (hdst : p.dstBed = m.bed) :
    m.moveOn port id p = m.ilpMove port id p := by
  unfold Ilpiac.moveOn
  rw [if_neg (by omega), if_neg (by omega), if_neg (by omega), if_neg (by omega), if_pos (.inr (.inr hdst))]

theorem Ilpiac.Lands.delivers (h : m.Lands port p m2 id b) (hty : p.ty = 0x60 ∨ p.ty = 0x62 ∨ p.ty = 0x63) (hdst : p.dstBed = m.bed) :
    m.Delivers (m2.landAck p).2 port id b p := by
  have hfree : [0x10, 0x18, 0x19].contains p.ty = false := by rcases hty with hty | hty | hty <;> rw [hty] <;> rfl
  have ht := h.traffic hfree
  have hland : m.Traffic m2 := by
    have : m.Traffic ((m.counted port p).landIn port p).2 := (Ilpiac.Traffic.counted hfree).landIn
    rwa [h.room] at this
  refine ⟨?_, ?_⟩
  · rw [h.receive, h.landed, Ilpiac.moveOn_here hty (hdst.trans ht.bed.symm)]
  · rw [ht.comm, ← hland.comm]
    exact Ilpiac.held_of_landAck hty (hdst.trans hland.bed.symm) h.known

section
variable (hheld : (m.comm p.comm).isSome = true)
include hheld

theorem Ilpiac.ilpMove_column (hty : p.ty = 0x60) : m.ilpMove port id p = m.columnTry p := by
  simp only [Ilpiac.ilpMove, hty, hheld, if_true]

theorem Ilpiac.ilpMove_tresult (hty : p.ty = 0x62) : m.ilpMove port id p = m.tresultTry p id := by
  simp only [Ilpiac.ilpMove, hty, hheld, if_true]

theorem Ilpiac.ilpMove_records (hty : p.ty = 0x63) : m.ilpMove port id p = m.recordsTry p := by
  simp only [Ilpiac.ilpMove, hty, hheld, if_true]

/-- What comes for a closed collective moves on and changes nothing. -/
theorem Ilpiac.ilpMove_past (hty : p.ty = 0x60 ∨ p.ty = 0x62 ∨ p.ty = 0x63) (hpast : p.coll ∈ m.coll.past) : m.ilpMove port id p = some m := by
  have hc : m.coll.past.contains p.coll = true := by simpa using hpast
  rcases hty with hty | hty | hty
  · rw [Ilpiac.ilpMove_column hheld hty, Ilpiac.columnTry, if_pos hc]
  · rw [Ilpiac.ilpMove_tresult hheld hty, Ilpiac.tresultTry, if_pos hc]
  · rw [Ilpiac.ilpMove_records hheld hty, Ilpiac.recordsTry, if_pos hc]

/-- A column or a result of a collective that has not opened here waits. -/
theorem Ilpiac.ilpMove_unopened (hty : p.ty = 0x60 ∨ p.ty = 0x62) (hpast : p.coll ∉ m.coll.past) (hc : m.collOf p.coll = none) :
    m.ilpMove port id p = none := by
  rcases hty with hty | hty
  · rw [Ilpiac.ilpMove_column hheld hty, Ilpiac.columnTry, if_neg (by simpa using hpast), hc]
  · rw [Ilpiac.ilpMove_tresult hheld hty, Ilpiac.tresultTry, if_neg (by simpa using hpast), hc]

end

/-! ### A column enters its context (R175) -/

/-- A context that has the column `hq`. -/
def Ctx.gotCol (cx : Ctx) (hq : Nat × Nat) : Ctx := { cx with gotCols := cx.gotCols ++ [hq] }

/-- The context of a COLUMN has noted its values and holds it as received. -/
def Ilpiac.takeColumn (m : Ilpiac) (p : Packet) : Ilpiac :=
  (m.noteRun ⟨p.coll, partData, p.f 3 0 24⟩ 0 (columnVal p).2).updCtx ⟨p.coll, partData, p.f 3 0 24⟩ (·.gotCol (p.f 3 27 7, p.f 3 24 2))

theorem Ilpiac.columnTry_of_fresh {cx : Ctx} (hpast : p.coll ∉ m.coll.past) (hc : m.collOf p.coll = some c) (hfailing : c.failing = false)
    (hfinal : c.final = none) (hcx : m.ctxOf ⟨p.coll, partData, p.f 3 0 24⟩ = some cx) (hfresh : (p.f 3 27 7, p.f 3 24 2) ∉ cx.gotCols) :
    m.columnTry p = some (((m.takeColumn p).trunkClimb ⟨p.coll, partData, p.f 3 0 24⟩ (p.f 3 24 2) (columnVal p).1 7 (p.f 3 27 7)).pumpAll
      ⟨p.coll, partData, p.f 3 0 24⟩) := by
  simp only [Ilpiac.columnTry, hc, hcx, Coll.committed, hfinal, hfailing]
  rw [if_neg (by simpa using hpast), if_neg (by simp), if_neg (by simpa using hfresh)]
  rfl

/-- A context that counts what a run saturated and whether it met a value that is not finite. -/
def Ctx.ranOver (cx : Ctx) (sats : Nat) (nf : Bool) : Ctx := { cx with sats := satAdd 32 cx.sats sats, nonfinite := cx.nonfinite || nf }

/-- What a run noted of its values leaves the columns that a context has. -/
theorem Ilpiac.gotCols_noteRun {x : CtxId} {cx : Ctx} (hcx : m.ctxOf x = some cx) (sats : Nat) (nf : Bool) :
    ∃ cx', (m.noteRun x sats nf).ctxOf x = some cx' ∧ cx'.gotCols = cx.gotCols := by
  have hnote : (m.noteRun x sats nf).ctxOf x = (m.updCtx x (·.ranOver sats nf)).ctxOf x := by
    simp only [Ilpiac.noteRun, Ilpiac.setInfo]
    split <;> split <;> rfl
  rw [hnote, Ilpiac.ctxOf_updCtx, hcx]
  exact ⟨_, rfl, rfl⟩

theorem Ilpiac.ctxOf_takeColumn {cx : Ctx} (hcx : m.ctxOf ⟨p.coll, partData, p.f 3 0 24⟩ = some cx) :
    ∃ cx', (m.takeColumn p).ctxOf ⟨p.coll, partData, p.f 3 0 24⟩ = some cx' ∧ cx'.gotCols = cx.gotCols ++ [(p.f 3 27 7, p.f 3 24 2)] := by
  obtain ⟨cx1, hcx1, hcols⟩ := Ilpiac.gotCols_noteRun hcx 0 (columnVal p).2
  rw [Ilpiac.takeColumn, Ilpiac.ctxOf_updCtx, hcx1]
  exact ⟨_, rfl, congrArg (· ++ _) hcols⟩

/-! ### Results and verdict lists (R70, R182) -/

/-- A result chunk that the collective has is taken again. -/
theorem Ilpiac.tresultTry_of_had (hheld : (m.comm p.comm).isSome = true) (hpast : p.coll ∉ m.coll.past) (hc : m.collOf p.coll = some c)
    (hop : c.op ≠ opCombine) (hfailing : c.failing = false) (hfinal : c.final = none) (hpart : p.part = 0)
    (hhad : (partData, (0, p.pos)) ∈ c.haveRes) : m.tresultTry p id = some m := by
  obtain ⟨cm, hcm⟩ := Option.isSome_iff_exists.mp hheld
  have hhad : c.haveRes.contains (0, (0, p.pos)) = true := by simpa [partData] using hhad
  have hcm : m.comm p.coll.comm = some cm := hcm
  simp only [Ilpiac.tresultTry, hc, hcm, hfinal, hfailing, hpart, if_true, hhad]
  rw [if_neg (by simpa using hpast), if_neg Bool.false_ne_true, if_neg hop]

/-- The records of beds that were missing enter the collective (R70). -/
def Coll.addRecords (c : Coll) (l : List VRec) : Coll :=
  { c with records := c.records ++ l.filter (fun r => !c.records.any (fun x => x.bed == r.bed)) }

theorem Ilpiac.verdictRx_of_successes {src : Nat} {l : List VRec} (hc : m.collOf k = some c) (hcm : m.comm k.comm = some cm) (hfinal : c.final = none)
    (hl : ∀ r ∈ l, r.status < 0x40) : m.verdictRx k src l = ((m.updColl k (·.addRecords l)).sendRecords k).commits k.comm := by
  have hunknown : l.find? (fun r => r.status == stUnknownComm) = none :=
    List.find?_eq_none.mpr fun r hr => by
      have := hl r hr
      simp only [stUnknownComm, beq_iff_eq]
      omega
  have hfail : l.any (fun r => decide (0x40 ≤ r.status)) = false :=
    List.any_eq_false.mpr fun r hr => by simpa using hl r hr
  simp only [Ilpiac.verdictRx, hc, hcm, hunknown, hfail, Coll.committed, hfinal, Option.isSome_none, Bool.false_eq_true, if_false]
  rfl

theorem Ilpiac.recordsTry_of_list (hpast : p.coll ∉ m.coll.past) (hc : m.collOf p.coll = some c) (hkind : p.f 3 0 8 = 0) :
    m.recordsTry p = some (m.verdictRx p.coll p.srcBed (vrecs (p.f 3 8 8) p.body)) := by
  simp only [Ilpiac.recordsTry, hc, hkind, if_true]
  rw [if_neg (by simpa using hpast)]

/-! ### TACK (R552) -/

/-- What releasing a transfer leaves: its cells go, and it is no longer among the transfers. -/
theorem Ilpiac.releaseCopy_coll (m : Ilpiac) (id : Nat) :
    (m.releaseCopy id).coll = { m.coll with trunk := m.coll.trunk.filter (fun t => t.id != id) } := by
  rw [Ilpiac.releaseCopy, (Ilpiac.Traffic.refl _).unhold.coll]

theorem Ilpiac.tackRx_of_named {plane : Nat} {t : TrunkCopy} (ht : m.coll.trunk.find? (fun t => tackNames p t && t.plane == plane) = some t)
    (hgroup : t.group = none) : m.tackRx p plane = m.releaseCopy t.id := by
  simp only [Ilpiac.tackRx, ht, hgroup]

theorem Ilpiac.takeNow_tack (hty : p.ty = 0x61) (hdst : p.dstBed = m.bed) (turn : Nat) : m.takeNow port p turn = m.tackRx p m.plane := by
  simp only [Ilpiac.takeNow, hty, hdst, if_true]

theorem landsOn_tack (hty : p.ty = 0x61) : landsOn port p = false := by
  unfold landsOn
  rw [hty]
  split <;> rfl

/-! ### Landed packets try again (R328) -/

section
variable {tc : Nat} (hlanded : (m.port port).landed = [id]) (hb : m.bufPkt id = some b) (htc : b.pkt.tc = tc)
include hlanded hb htc

theorem Ilpiac.landRelease_stuck (hmove : m.moveOn port id b.pkt = none) : m.landRelease port tc = m := by
  rw [Ilpiac.landRelease, hlanded, Ilpiac.landRetry]
  simp only [hb, hmove]
  rw [if_neg (by simp [htc]), Ilpiac.landRetry]

theorem Ilpiac.landRelease_moves (hmove : m.moveOn port id b.pkt = some m1) : m.landRelease port tc =
    (m1.setPort port { m1.port port with landed := (m1.port port).landed.filter (· != id) }).movedOn id b := by
  rw [Ilpiac.landRelease, hlanded, Ilpiac.landRetry]
  simp only [hb, hmove]
  rw [if_neg (by simp [htc]), Ilpiac.landRetry]

end

/-! ### Transfers that are not acknowledged (R77, R551) -/

/-- Sending a transfer marks at most its collective as rerouted. -/
theorem Ilpiac.sendCopy_traffic (m : Ilpiac) (t : TrunkCopy) :
    ∃ m1, (m1 = m ∨ ∃ k, m1 = m.setInfo k infoRerouted) ∧ m1.Traffic (m.sendCopy t) := by
  have hsent (m1 : Ilpiac) : m1.Traffic (if t.plane = m1.plane then m1.sendTrunk t.pkt (some t.id) .retain
      else m1.relayTo (m1.relayOf t.group) t.plane t.pkt) :=
    Ilpiac.Traffic.ite (Ilpiac.Traffic.refl m1).sendTrunk (Ilpiac.Traffic.refl m1).relayTo
  unfold Ilpiac.sendCopy
  dsimp only
  split
  · split
    · exact ⟨_, .inr ⟨_, rfl⟩, hsent _⟩
    · exact ⟨_, .inl rfl, hsent _⟩
  · exact ⟨_, .inl rfl, hsent _⟩

theorem Ilpiac.setInfo_trunk (m : Ilpiac) (k : CollId) (b : Nat) : (m.setInfo k b).coll.trunk = m.coll.trunk := rfl

theorem Ilpiac.sendCopy_trunk (m : Ilpiac) (t : TrunkCopy) : (m.sendCopy t).coll.trunk = m.coll.trunk := by
  obtain ⟨m1, hm1 | ⟨k, hm1⟩, ht⟩ := m.sendCopy_traffic t
  · rw [ht.coll, hm1]
  · rw [ht.coll, hm1, Ilpiac.setInfo_trunk]

/-- A transfer with one more sending. -/
def TrunkCopy.again (t : TrunkCopy) : TrunkCopy := { t with sends := t.sends + 1 }

/-- The transfer `id` counts one more sending. -/
def Ilpiac.countSend (m : Ilpiac) (id : Nat) : Ilpiac :=
  { m with coll := { m.coll with trunk := mapIf (fun t => t.id == id) (·.again) m.coll.trunk } }

/-- The communicator and the collective of a transfer count its replay. -/
def Ilpiac.countReplayOf (m : Ilpiac) : Option CollId → Ilpiac
  | some k => m.countReplay k
  | none => m

theorem Ilpiac.countReplayOf_trunk (m : Ilpiac) (k : Option CollId) : (m.countReplayOf k).coll.trunk = m.coll.trunk := by
  cases k <;> rfl

theorem Ilpiac.trunkTimeout_resends {t : TrunkCopy} (ht : m.coll.trunk.find? (fun t => t.id == id) = some t) (hsends : t.sends ≤ m.replayLimit t.coll) :
    m.trunkTimeout id = ((m.countSend id).sendCopy t.again).countReplayOf t.coll := by
  simp only [Ilpiac.trunkTimeout, ht]
  rw [if_pos hsends]
  change (match t.coll with
    | some k => ((m.countSend id).sendCopy t.again).countReplay k
    | none => (m.countSend id).sendCopy t.again) = _
  generalize (m.countSend id).sendCopy t.again = m1
  cases t.coll <;> rfl

theorem Ilpiac.trunkTimeout_gives_up {t : TrunkCopy} (ht : m.coll.trunk.find? (fun t => t.id == id) = some t) (hsends : m.replayLimit t.coll < t.sends)
    (hk : t.coll = some k) (hc : (m.releaseCopy id).collOf k = some c) (hfinal : c.final = none) (hstarted : c.started = false) :
    m.trunkTimeout id = (m.releaseCopy id).failColl k stTrunkLost := by
  simp only [Ilpiac.trunkTimeout, ht]
  rw [if_neg (by omega)]
  simp only [hk, hc, Coll.committed, hfinal, hstarted, Option.isSome_none, Bool.false_eq_true, if_false]

theorem Ilpiac.failColl_trunk (m : Ilpiac) (k : CollId) (status : Nat) (fault : Option (Nat × Nat)) :
    (m.failColl k status fault).coll.trunk = m.coll.trunk := by
  unfold Ilpiac.failColl
  split
  · rfl
  · split <;> rfl

/-! ### Transfers that waited for room (R76) -/

theorem Ilpiac.drainTrunk_full {t : TrunkCopy} (hwait : m.coll.trunkWait = [t]) (hfull : m.retainFits t.pkt = false) : m.drainTrunk 1 = m := by
  rw [Ilpiac.drainTrunk, hwait]
  simp only [Ilpiac.startCopy, hfull, Bool.false_eq_true, if_false]

/-- A transfer stands among those that have started. -/
def Ilpiac.enterCopy (m : Ilpiac) (t : TrunkCopy) : Ilpiac := { m with coll := { m.coll with trunk := m.coll.trunk ++ [t] } }

/-- The block in which nothing waits to start. -/
def Ilpiac.noWait (m : Ilpiac) : Ilpiac := { m with coll := { m.coll with trunkWait := [] } }

theorem Ilpiac.drainTrunk_fits {t : TrunkCopy} (hwait : m.coll.trunkWait = [t]) (hfits : m.retainFits t.pkt = true) :
    m.drainTrunk 1 = (((m.store t.pkt .retain internal (held := true)).2.enterCopy { t with id := m.sw.nextId, sends := 1 }).sendCopy
      { t with id := m.sw.nextId, sends := 1 }).noWait := by
  rw [Ilpiac.drainTrunk, hwait]
  simp only [Ilpiac.startCopy, hfits, if_true]
  rfl

theorem Ilpiac.enterCopy_trunk (m : Ilpiac) (t : TrunkCopy) : (m.enterCopy t).coll.trunk = m.coll.trunk ++ [t] := rfl
theorem Ilpiac.noWait_trunk (m : Ilpiac) : m.noWait.coll.trunk = m.coll.trunk := rfl
theorem Ilpiac.noWait_trunkWait (m : Ilpiac) : m.noWait.coll.trunkWait = [] := rfl

/-! ### The commands -/

section
variable {s : State} {port : Fin 262}

theorem exec_columnReceived (hty : p.ty = 0x60) : exec (.columnReceived port p) s = .next { s with m := (s.m.receive port p).settle } := by
  change ran s (s.m.arrive port.val [0x60] p) = _
  rw [ran, Ilpiac.arrive, if_pos (by simp [hty])]

theorem exec_tresultReceived (hty : p.ty = 0x62) : exec (.tresultReceived port p) s = .next { s with m := (s.m.receive port p).settle } := by
  change ran s (s.m.arrive port.val [0x62] p) = _
  rw [ran, Ilpiac.arrive, if_pos (by simp [hty])]

theorem exec_recordsReceived (hty : p.ty = 0x63) : exec (.recordsReceived port p) s = .next { s with m := (s.m.receive port p).settle } := by
  change ran s (s.m.arrive port.val [0x63] p) = _
  rw [ran, Ilpiac.arrive, if_pos (by simp [hty])]

theorem exec_collReceived (hty : p.ty = 0x60 ∨ p.ty = 0x62 ∨ p.ty = 0x63) :
    exec (if p.ty = 0x60 then .columnReceived port p else if p.ty = 0x62 then .tresultReceived port p else .recordsReceived port p) s =
      .next { s with m := (s.m.receive port p).settle } := by
  rcases hty with hty | hty | hty
  · rw [if_pos hty, exec_columnReceived hty]
  · rw [if_neg (by omega), if_pos hty, exec_tresultReceived hty]
  · rw [if_neg (by omega), if_neg (by omega), exec_recordsReceived hty]

theorem exec_tackReceived (h : s.m.Admits port p) (hty : p.ty = 0x61) (hdst : p.dstBed = (s.m.counted port p).bed) :
    exec (.tackReceived port p) s = .next { s with m := ((s.m.counted port p).tackRx p (s.m.counted port p).plane).settle } := by
  change ran s (s.m.arrive port.val [0x61] p) = _
  rw [ran, Ilpiac.arrive, if_pos (by simp [hty]), h.receive_taken (landsOn_tack hty), Ilpiac.takeNow_tack hty hdst]

end

end Sys2Proof.Machine

open Sys2Proof.Machine

/-- Settles O47: what comes for a closed, a missing and an open collective, and what becomes of the transfers of this module. -/
theorem trunkTransfers : Obligations.TrunkTransfers := by
  unfold Obligations.TrunkTransfers
  intro s port p
  refine ⟨fun m2 id b hlands hdst hty => ?_, fun hadm hty hdst t ht hgroup => ?_, fun tc id b hlanded hb htc => ?_,
    fun id t ht => ?_, fun t hwait => ?_⟩
  · intro m3 cmd
    obtain ⟨hreceive, hheld⟩ := hlands.delivers hty hdst
    refine ⟨fun hpast => ?_, fun hnot63 hpast hc => ?_, fun c cx h60 hpast hc hfailing hfinal => ?_,
      fun c h62 hpast hc hop hfailing hfinal hpart hhad => ?_, fun c cm h63 hpast hc hcm hfinal hkind hl => ?_⟩
    · refine (exec_collReceived hty).trans ?_
      rw [hreceive, Ilpiac.ilpMove_past hheld hty hpast, Ilpiac.afterMove]
    · have hexec : exec cmd s = _ := exec_collReceived hty
      rw [hreceive, Ilpiac.ilpMove_unopened hheld (by omega) hpast hc, Ilpiac.afterMove] at hexec
      exact ⟨_, hexec, congrArg (·.landed) (Ilpiac.port_setPort ..), Ilpiac.coll_setPort ..⟩
    · intro x hcx hfresh
      have hexec : exec (.columnReceived port p) s = _ := exec_columnReceived h60
      rw [hreceive, Ilpiac.ilpMove_column hheld h60, Ilpiac.columnTry_of_fresh hpast hc hfailing hfinal hcx hfresh, Ilpiac.afterMove] at hexec
      obtain ⟨cx', hcx', hcols⟩ := Ilpiac.ctxOf_takeColumn hcx
      exact ⟨_, cx', hexec, hcx', hcols⟩
    · rw [exec_tresultReceived h62, hreceive, Ilpiac.ilpMove_tresult hheld h62,
        Ilpiac.tresultTry_of_had hheld hpast hc hop hfailing hfinal hpart hhad, Ilpiac.afterMove]
    · have hexec : exec (.recordsReceived port p) s = _ := exec_recordsReceived h63
      rw [hreceive, Ilpiac.ilpMove_records hheld h63, Ilpiac.recordsTry_of_list hpast hc hkind, Ilpiac.verdictRx_of_successes hc hcm hfinal hl,
        Ilpiac.afterMove] at hexec
      exact ⟨_, _, hexec, (Ilpiac.collOf_updColl).trans (congrArg _ hc), rfl⟩
  · have hcounted : s.m.Traffic (s.m.counted port p) := .counted (by rw [hty]; rfl)
    have hexec := exec_tackReceived hadm hty (hdst.trans hcounted.bed.symm)
    rw [hcounted.plane, Ilpiac.tackRx_of_named (by rwa [hcounted.coll]) hgroup] at hexec
    exact ⟨_, hexec, by rw [Ilpiac.releaseCopy_coll, hcounted.coll]⟩
  · have hexec : exec (.landedPacketRelease port tc) s = .next { s with m := (s.m.landRelease port tc).settle } := rfl
    refine ⟨fun hnone => ?_, fun m1 hsome hstill => ?_⟩
    · rw [hexec, Ilpiac.landRelease_stuck hlanded hb htc hnone]
    · rw [Ilpiac.landRelease_moves hlanded hb htc hsome] at hexec
      refine ⟨_, hexec, ?_, Ilpiac.coll_setPort ..⟩
      rw [Ilpiac.port_setPort, hstill]
      simp
  · have hexec : exec (.trunkRetentionTimeout id) s = .next { s with m := (s.m.trunkTimeout id).settle } := rfl
    refine ⟨fun hsends => ?_, fun k c hsends hk hc hfinal hstarted => ?_⟩
    · rw [Ilpiac.trunkTimeout_resends ht hsends] at hexec
      exact ⟨_, hexec, by rw [Ilpiac.countReplayOf_trunk, Ilpiac.sendCopy_trunk]; rfl⟩
    · have hc' : (s.m.releaseCopy id).collOf k = some c := by rw [Ilpiac.collOf, Ilpiac.releaseCopy_coll]; exact hc
      rw [Ilpiac.trunkTimeout_gives_up ht hsends hk hc' hfinal hstarted] at hexec
      refine ⟨_, _, hexec, ?_, Ilpiac.collOf_failColl hc' hfinal hstarted _ _, rfl⟩
      rw [Ilpiac.failColl_trunk, Ilpiac.releaseCopy_coll]
  · have hexec : exec .retainSpaceFreed s = .next { s with m := ((s.m.drainTrunk s.m.coll.trunkWait.length).drainHeld).settle } := rfl
    rw [hwait, List.length_singleton] at hexec
    refine ⟨fun hfull => ?_, fun hfits => ?_⟩
    · rw [Ilpiac.drainTrunk_full hwait hfull] at hexec
      exact ⟨_, hexec, rfl⟩
    · rw [Ilpiac.drainTrunk_fits hwait hfits] at hexec
      refine ⟨_, s.m.sw.nextId, hexec, Ilpiac.noWait_trunkWait _, ?_⟩
      rw [Ilpiac.noWait_trunk, Ilpiac.sendCopy_trunk, Ilpiac.enterCopy_trunk, (Ilpiac.Traffic.refl s.m).store.coll]

end

section
/-! Communicators that are created, destroyed and queried (spec 02: R43 to R48, R84, R87, R91). -/

namespace Sys2Proof.Machine

variable {m m' m'' : Ilpiac} {d : AccDesc} {cm : Comm} {id : Nat}

/-! ### Windows (R457 to R459) -/

theorem Ilpiac.Coherent.addrOk {addr len : Nat} {write : Bool} (h : m.Coherent addr len write) : m.addrOk addr len write = true := by
  simp [Ilpiac.addrOk, h.allowed]

theorem Ilpiac.Coherent.withDescs {addr len : Nat} {write : Bool} (h : m.Coherent addr len write) (l : List AccDesc) :
    (m.withDescs l).Coherent addr len write := ⟨h.notAperture, h.notWindow, h.allowed⟩

/-- A read through a window is the companion's answer, cut or filled to its length. -/
theorem Ilpiac.Coherent.boardRead {addr len : Nat} (h : m.Coherent addr len false) (l : List Byte) :
    m.boardRead addr len (some l) = (some (toLen len l), m) := by
  rw [Ilpiac.boardRead, if_neg (by simp [h.notAperture]), if_neg (by simp [h.notWindow]), if_pos h.allowed, Option.map_some]

/-! ### COMM_CREATE (R43 to R47) -/

/-- A communicator stands among those held. -/
def Ilpiac.addComm (m : Ilpiac) (c : Comm) : Ilpiac := { m with coll := { m.coll with comms := m.coll.comms ++ [c] } }

theorem Ilpiac.addComm_coll (m : Ilpiac) (c : Comm) : (m.addComm c).coll = { m.coll with comms := m.coll.comms ++ [c] } := rfl
theorem Ilpiac.addComm_ctl (m : Ilpiac) (c : Comm) : (m.addComm c).ctl = m.ctl := rfl

/-- The bytes over which the digest of a communicator is taken (R47). -/
def AccDesc.digestBytes (d : AccDesc) (members experts : List Byte) : List Byte :=
  (wordBytes (d.words.drop 1)).take 8 ++ (wordBytes (d.words.drop 3)).take 16 ++ (wordBytes (d.words.drop 7)).take 8 ++ members ++ experts

/-- What the checks of R91 ask of the words of a creation and of the lists that it names. -/
structure Ilpiac.CreationRead (m : Ilpiac) (d : AccDesc) : Prop where
  placed : m.placed = true
  w0 : d.w0ok = true
  reserved : d.zero [(1, 31, 1), (1, 36, 28), (7, 16, 48)] = true
  size : 1 ≤ d.f 1 16 15 ∧ d.f 1 16 15 ≤ 16384 ∧ d.f 7 0 16 ≤ 32768
  retention : d.f 5 0 32 = 0 ∨ (1000 ≤ d.f 5 0 32 ∧ d.f 5 0 32 ≤ 1000000)
  aligned : d.f 2 0 64 % 64 = 0 ∧ (d.f 7 0 16 = 0 ∨ d.f 6 0 64 % 64 = 0)
  feedback : d.f 1 35 1 = 0 ∨ d.f 1 34 1 = 1
  list : m.Coherent (d.f 2 0 64) (2 * d.f 1 16 15) false
  experts : d.f 7 0 16 = 0 ∨ m.Coherent (d.f 6 0 64) (2 * d.f 7 0 16) false

/-- What they ask of the members and experts that were read. -/
structure Ilpiac.CreationChecks (m : Ilpiac) (d : AccDesc) (members experts : List Nat) : Prop where
  inside : ∀ x ∈ experts, x < d.f 1 16 15
  sorted : ascending members = true
  trunk : m.has F.CAP_PRESENT_TRUNK = true ∨ members.all (fun a => a / 256 == m.bed) = true
  hbm : d.f 1 35 1 = 0 ∨ members.all (fun a => a / 256 == m.bed) = true ∨ m.has F.CAP_PRESENT_HBM = true
  present : ∀ a ∈ members, m.bedInside (a / 256) = true ∧ a / 256 < 64 ∧ a % 256 < m.downlinks ∧
    ¬(m.twinOn = true ∧ a = m.bed * 256 + m.g F.TWIN_CTRL_PORT)
  here : ∃ a ∈ members, a / 256 = m.bed

theorem Ilpiac.CreationRead.withDescs (h : m.CreationRead d) (l : List AccDesc) : (m.withDescs l).CreationRead d :=
  ⟨h.placed, h.w0, h.reserved, h.size, h.retention, h.aligned, h.feedback, h.list.withDescs l, h.experts.imp id (·.withDescs l)⟩

theorem Ilpiac.CreationChecks.withDescs {members experts : List Nat} (h : m.CreationChecks d members experts) (l : List AccDesc) :
    (m.withDescs l).CreationChecks d members experts := ⟨h.inside, h.sorted, h.trunk, h.hbm, h.present, h.here⟩

theorem Ilpiac.CreationChecks.memberOk {members experts : List Nat} (h : m.CreationChecks d members experts) :
    members.all (fun a => m.bedInside (a / 256) && decide (a / 256 < 64) && decide (a % 256 < m.downlinks) &&
      !(m.twinOn && a == m.bed * 256 + m.g F.TWIN_CTRL_PORT)) = true := by
  refine List.all_eq_true.mpr fun a ha => ?_
  obtain ⟨hin, hbed, hport, htwin⟩ := h.present a ha
  simp only [hin, hbed, hport, decide_true, Bool.and_self, Bool.true_and, Bool.not_eq_true', Bool.and_eq_false_iff, beq_eq_false_iff_ne]
  by_cases ht : m.twinOn = true
  · exact .inr fun ha => htwin ⟨ht, ha⟩
  · exact .inl (by simpa using ht)

theorem Ilpiac.CreationChecks.trunkOk {members experts : List Nat} (h : m.CreationChecks d members experts) :
    ¬((!m.has F.CAP_PRESENT_TRUNK && !members.all (fun a => a / 256 == m.bed)) = true) := by
  rcases h.trunk with h | h
  · simp [h]
  · rw [h, Bool.not_true, Bool.and_false]
    decide

theorem Ilpiac.CreationChecks.hbmOk {members experts : List Nat} (h : m.CreationChecks d members experts) :
    ¬(d.f 1 35 1 = 1 ∧ (!members.all (fun a => a / 256 == m.bed)) = true ∧ (!m.has F.CAP_PRESENT_HBM) = true) := by
  rintro ⟨hfeedback, hsingle, hhbm⟩
  rcases h.hbm with h | h | h
  · omega
  · rw [h] at hsingle
    cases hsingle
  · rw [h] at hhbm
    cases hhbm

/-- A creation whose checks pass takes a new COMM_ID, where one is free and a context is left. -/
theorem Ilpiac.commCreate_of_checks {lb eb : List Byte} (h : m.CreationRead d)
    (hc : m.CreationChecks d (halfwords (d.f 1 16 15) (toLen (2 * d.f 1 16 15) lb))
      (halfwords (d.f 7 0 16) (if d.f 7 0 16 = 0 then [] else toLen (2 * d.f 7 0 16) eb))) :
    m.commCreate d (some lb) (some eb) =
      if (m.comm (d.f 1 0 16)).isSome ∨ m.coll.dying.contains (d.f 1 0 16) then m.done d stDuplicateComm { comm := d.f 1 0 16 }
      else if m.freeContexts = 0 then m.done d stNoResources { comm := d.f 1 0 16 }
      else (m.addComm (newComm d (halfwords (d.f 1 16 15) (toLen (2 * d.f 1 16 15) lb))
          (halfwords (d.f 7 0 16) (if d.f 7 0 16 = 0 then [] else toLen (2 * d.f 7 0 16) eb))
          (crc32c (d.digestBytes (toLen (2 * d.f 1 16 15) lb) (if d.f 7 0 16 = 0 then [] else toLen (2 * d.f 7 0 16) eb))).toNat)).done d stOk
        { comm := d.f 1 0 16 } := by
  have hexperts : (if d.f 7 0 16 = 0 then (some [], m) else m.boardRead (d.f 6 0 64) (2 * d.f 7 0 16) (some eb)) =
      (some (if d.f 7 0 16 = 0 then [] else toLen (2 * d.f 7 0 16) eb), m) := by
    by_cases he : d.f 7 0 16 = 0
    · rw [if_pos he, if_pos he]
    · rw [if_neg he, if_neg he, (h.experts.resolve_left he).boardRead]
  have hexpertsOk : (d.f 7 0 16 == 0 || m.addrOk (d.f 6 0 64) (2 * d.f 7 0 16) false) = true := by
    rcases h.experts with he | he
    · simp [he]
    · simp [he.addrOk]
  unfold Ilpiac.commCreate
  simp only [h.list.boardRead, hexperts]
  rw [if_neg (by simp [h.placed]),
    if_neg (by simpa [h.w0, h.reserved, h.size, h.aligned, h.list.addrOk, hexpertsOk] using
      ⟨⟨h.retention.resolve_left, h.aligned.2.resolve_left⟩, h.feedback.resolve_left⟩),
    if_neg (by simpa using ⟨hc.inside, hc.sorted⟩), if_neg hc.trunkOk, if_neg hc.hbmOk, if_neg (by rw [hc.memberOk]; decide),
    if_neg (by simpa using hc.here)]
  rfl

theorem Ilpiac.commCreate_unplaced (h : m.placed = false) (rb re : Readback) :
    m.commCreate d rb re = m.done d stUnplaced { comm := d.f 1 0 16 } := by
  simp only [Ilpiac.commCreate, h, Bool.not_false, if_true]

/-! ### A communicator by its identifier -/

/-- A change at elements that do not satisfy `q` leaves the first one that does. -/
theorem find?_mapFirst_ne {α : Type} {p q : α → Bool} {f : α → α} (hp : ∀ a, p a = true → q a = false ∧ q (f a) = false) (l : List α) :
    (mapFirst p f l).find? q = l.find? q := by
  induction l with
  | nil => rfl
  | cons a l ih =>
    unfold mapFirst
    split
    · rw [List.find?_cons, List.find?_cons, (hp a ‹_›).1, (hp a ‹_›).2]
    · rw [List.find?_cons, List.find?_cons, ih]

theorem Ilpiac.comm_updComm_ne {j : Nat} {f : Comm → Comm} (hf : ∀ c, (f c).id = c.id) (h : j ≠ id) :
    (m.updComm j f).comm id = m.comm id := by
  refine find?_mapFirst_ne (fun c hc => ?_) _
  have hne : c.id ≠ id := by
    rw [beq_iff_eq] at hc
    omega
  simp [hf, hne]

/-- The identifier under which a communicator is found is its own. -/
theorem Ilpiac.id_of_comm (h : m.comm id = some cm) : cm.id = id := by
  simpa using List.find?_some h

/-! ### Quotas flow (R144) -/

/-- A communicator with `n` slots set aside. -/
def Comm.withSet (c : Comm) (n : Nat) : Comm := { c with quotaSet := n }

/-- One communicator sets slots aside or gives some back; one that waits for an increase gets at most what it waits for. -/
def Ilpiac.SetsAside (m m' : Ilpiac) : Prop :=
  ∃ (id : Nat) (g : Comm → Nat), m' = m.updComm id (fun c => c.withSet (g c)) ∧
    ∀ c t w, m.comm id = some c → c.quotaWait = some (t, w) → c.quotaSet ≤ g c ∧ g c ≤ max t c.quotaSet

theorem Ilpiac.over_induct {α : Type} {P : Ilpiac → Prop} {l : List α} {f : Ilpiac → α → Ilpiac} (h : P m) (hf : ∀ m a, P m → P (f m a)) :
    P (m.over l f) := by
  unfold Ilpiac.over
  induction l generalizing m with
  | nil => exact h
  | cons a l ih => exact ih (hf m a h)

/-- What every setting aside keeps, the flow of the quotas keeps. -/
theorem Ilpiac.quotaFlow_induct {P : Ilpiac → Prop} (h : P m) (hstep : ∀ m m', P m → m.SetsAside m' → P m') : P m.quotaFlow := by
  refine Ilpiac.over_induct (Ilpiac.over_induct h fun m id hm => ?_) fun m id hm => ?_
  · split
    · exact hm
    · split
      · exact hm
      · rename_i c hc hwait
        refine hstep m _ hm ⟨id, fun c => max c.quota (min c.quotaSet (m.quotaReserved id)), rfl, fun c' t w hc' hw => ?_⟩
        rw [hc] at hc'
        cases hc'
        simp [hw] at hwait
  · split
    · exact hm
    · rename_i c hc
      split
      · exact hm
      · rename_i t w hwait
        refine hstep m _ hm ⟨id, fun c' => c'.quotaSet + min m.freeSlots (t - c.quotaSet), rfl, fun c' t' w' hc' hw => ?_⟩
        rw [hc] at hc'
        cases hc'
        rw [hwait] at hw
        cases hw
        dsimp only
        omega

/-- A communicator that is not held stays so, and the identifiers that are going and the due records stay. -/
theorem Ilpiac.quotaFlow_gone (h : m.comm id = none) :
    m.quotaFlow.comm id = none ∧ m.quotaFlow.coll.dying = m.coll.dying ∧ m.quotaFlow.ctl = m.ctl := by
  refine Ilpiac.quotaFlow_induct (P := fun m1 => m1.comm id = none ∧ m1.coll.dying = m.coll.dying ∧ m1.ctl = m.ctl) ⟨h, rfl, rfl⟩
    fun m1 m2 ⟨hcomm, hdying, hctl⟩ hstep => ?_
  obtain ⟨j, g, rfl, -⟩ := hstep
  refine ⟨?_, hdying, hctl⟩
  by_cases hj : j = id
  · rw [hj, Ilpiac.comm_updComm (fun _ => by rfl), hcomm, Option.map_none]
  · rw [Ilpiac.comm_updComm_ne (fun _ => by rfl) hj, hcomm]

/-! ### What stamps and buffers leave alone -/

/-- The communicators, the identifiers that are going, and the due records are as they were. -/
structure Ilpiac.KeepsComms (m m' : Ilpiac) : Prop where
  comms : m'.coll.comms = m.coll.comms
  dying : m'.coll.dying = m.coll.dying
  cpl : m'.ctl.cpl = m.ctl.cpl

theorem Ilpiac.KeepsComms.refl (m : Ilpiac) : m.KeepsComms m := ⟨rfl, rfl, rfl⟩

theorem Ilpiac.KeepsComms.trans (h : m.KeepsComms m') (h' : m'.KeepsComms m'') : m.KeepsComms m'' :=
  ⟨h'.comms.trans h.comms, h'.dying.trans h.dying, h'.cpl.trans h.cpl⟩

theorem Ilpiac.Traffic.keepsComms (h : m.Traffic m') : m.KeepsComms m' :=
  ⟨congrArg (·.comms) h.coll, congrArg (·.dying) h.coll, h.cpl⟩

theorem Ilpiac.KeepsComms.over {α : Type} {l : List α} {f : Ilpiac → α → Ilpiac} (hf : ∀ (m : Ilpiac) (a : α), m.KeepsComms (f m a)) :
    m.KeepsComms (m.over l f) :=
  Ilpiac.over_induct (.refl m) fun _ a h => h.trans (hf _ a)

theorem Ilpiac.Traffic.poolStat {i : Nat} (h : m.Traffic m') : m.Traffic (m'.poolStat i) := by
  have hpool (f : Fld) (hf : 0x200000 ≤ f.off) : pinnedReg (f.key .glob 0 i) = false := pinnedReg_key_of_off hf i
  unfold Ilpiac.poolStat
  split
  · exact h
  · exact Ilpiac.Traffic.ite ((h.gw (hpool _ (by decide))).gw (hpool _ (by decide))) (h.gw (hpool _ (by decide)))

theorem Ilpiac.KeepsComms.poolGive {a : Nat} : m.KeepsComms (m.poolGive a) := by
  unfold Ilpiac.poolGive
  split
  · exact .refl m
  · exact (Ilpiac.Traffic.refl m).beside.poolStat.keepsComms

theorem Ilpiac.KeepsComms.sendCopy {t : TrunkCopy} : m.KeepsComms (m.sendCopy t) := by
  obtain ⟨m1, hm1 | ⟨k, hm1⟩, ht⟩ := m.sendCopy_traffic t
  · exact hm1 ▸ ht.keepsComms
  · refine Ilpiac.KeepsComms.trans ?_ ht.keepsComms
    rw [hm1]
    exact ⟨rfl, rfl, rfl⟩

theorem Ilpiac.KeepsComms.enterCopy {t : TrunkCopy} : m.KeepsComms (m.enterCopy t) := ⟨rfl, rfl, rfl⟩

theorem Ilpiac.KeepsComms.startCopy {t : TrunkCopy} (h : m.startCopy t = some m') : m.KeepsComms m' := by
  unfold Ilpiac.startCopy at h
  split at h
  · cases h
    exact ((Ilpiac.Traffic.refl m).store.keepsComms.trans .enterCopy).trans .sendCopy
  · cases h

theorem Ilpiac.KeepsComms.drainTrunk (n : Nat) : m.KeepsComms (m.drainTrunk n) := by
  induction n generalizing m with
  | zero => exact .refl m
  | succ n ih =>
    unfold Ilpiac.drainTrunk
    split
    · exact .refl m
    · split
      · exact .refl m
      · rename_i m1 hstart
        refine (Ilpiac.KeepsComms.startCopy hstart).trans (Ilpiac.KeepsComms.trans ?_ ih)
        exact ⟨rfl, rfl, rfl⟩

theorem Ilpiac.KeepsComms.transfer {p : Packet} {bed plane : Nat} {k : Option CollId} {group : Option Nat} {writer : Option CollId} :
    m.KeepsComms (m.transfer p bed plane k group writer) := by
  unfold Ilpiac.transfer
  refine Ilpiac.KeepsComms.trans ?_ (.drainTrunk _)
  exact ⟨rfl, rfl, rfl⟩

theorem Ilpiac.KeepsComms.updGroup {gid : Nat} {f : Group → Group} : m.KeepsComms (m.updGroup gid f) := ⟨rfl, rfl, rfl⟩

theorem Ilpiac.KeepsComms.setStamp {gid v : Nat} : m.KeepsComms (m.setStamp gid v) := by
  unfold Ilpiac.setStamp
  split
  · exact .refl m
  · split
    · exact .refl m
    · split
      · exact .refl m
      · exact Ilpiac.KeepsComms.updGroup.trans (.over fun _ _ => .transfer)

theorem Ilpiac.KeepsComms.stampShards {comm v : Nat} : m.KeepsComms (m.stampShards comm v) := .over fun _ _ => .setStamp

/-! ### COMM_DESTROY (R48) -/

theorem Ilpiac.commCheck_of_comm {ok : Bool} (hp : m.placed = true) (hw : d.w0ok = true) (hok : ok = true) (hcm : m.comm (d.f 1 0 16) = some cm)
    (f : Comm → Ilpiac → Ilpiac) : m.commCheck d ok f = f cm m := by
  simp only [Ilpiac.commCheck, hp, hw, hok, hcm, Bool.not_true, Bool.or_self, Bool.false_eq_true, if_false]

theorem Ilpiac.commCheck_of_unknown {ok : Bool} (hp : m.placed = true) (hw : d.w0ok = true) (hok : ok = true) (hcm : m.comm (d.f 1 0 16) = none)
    (f : Comm → Ilpiac → Ilpiac) : m.commCheck d ok f = m.done d stUnknownComm { comm := d.f 1 0 16 } := by
  simp only [Ilpiac.commCheck, hp, hw, hok, hcm, Bool.not_true, Bool.or_self, Bool.false_eq_true, if_false]

/-- A communicator with its queue is gone. -/
def Ilpiac.forget (m : Ilpiac) (id : Nat) : Ilpiac :=
  { m with coll := { m.coll with comms := m.coll.comms.filter (fun c => c.id != id), queues := m.coll.queues.filter (fun q => q.pool != some id) } }

theorem Ilpiac.comm_forget (m : Ilpiac) (id : Nat) : (m.forget id).comm id = none :=
  List.find?_eq_none.mpr fun c hc => by simpa using (List.mem_filter.mp hc).2

theorem Ilpiac.forget_dying (m : Ilpiac) (id : Nat) : (m.forget id).coll.dying = m.coll.dying := rfl
theorem Ilpiac.forget_ctl (m : Ilpiac) (id : Nat) : (m.forget id).ctl = m.ctl := rfl

theorem Ilpiac.openOf_of_none (h : ∀ c ∈ m.coll.colls, c.key.comm ≠ id) : m.openOf id = [] := by
  have hnone : m.coll.colls.filter (fun c => c.key.comm == id) = [] := List.filter_eq_nil_iff.mpr fun c hc => by simpa using h c hc
  rw [Ilpiac.openOf, hnone]
  rfl

theorem Ilpiac.dropComm_of_idle (hopen : ∀ c ∈ m.coll.colls, c.key.comm ≠ cm.id) (hwait : cm.quotaWait = none) :
    m.dropComm cm = (((m.over cm.residuals (fun m r => m.poolGive r.buf)).stampShards cm.id stampInvalid).forget cm.id).quotaFlow.rmStat := by
  unfold Ilpiac.dropComm
  rw [Ilpiac.openOf_of_none hopen, hwait]
  rfl

/-- A communicator that is dropped is gone, and nothing completes with it. -/
theorem Ilpiac.dropComm_drops (hopen : ∀ c ∈ m.coll.colls, c.key.comm ≠ cm.id) (hwait : cm.quotaWait = none) :
    (m.dropComm cm).comm cm.id = none ∧ (m.dropComm cm).coll.dying = m.coll.dying ∧ (m.dropComm cm).ctl.cpl = m.ctl.cpl := by
  rw [Ilpiac.dropComm_of_idle hopen hwait]
  have hkeep : m.KeepsComms ((m.over cm.residuals (fun m r => m.poolGive r.buf)).stampShards cm.id stampInvalid) :=
    (Ilpiac.KeepsComms.over fun _ _ => .poolGive).trans .stampShards
  generalize (m.over cm.residuals (fun m r => m.poolGive r.buf)).stampShards cm.id stampInvalid = m1 at hkeep ⊢
  obtain ⟨hcomm, hdying, hctl⟩ := Ilpiac.quotaFlow_gone (m1.comm_forget cm.id)
  refine ⟨?_, ?_, ?_⟩
  · rw [Ilpiac.comm, Ilpiac.rmStat_coll]
    exact hcomm
  · rw [Ilpiac.rmStat_coll, hdying, Ilpiac.forget_dying, hkeep.dying]
  · rw [Ilpiac.rmStat_ctl, hctl, Ilpiac.forget_ctl, hkeep.cpl]

/-- An identifier is going: it stays taken until its record is written. -/
def Ilpiac.addDying (m : Ilpiac) (id : Nat) : Ilpiac := { m with coll := { m.coll with dying := m.coll.dying ++ [id] } }

theorem Ilpiac.comm_addDying (m : Ilpiac) (j id : Nat) : (m.addDying j).comm id = m.comm id := rfl
theorem Ilpiac.addDying_dying (m : Ilpiac) (j : Nat) : (m.addDying j).coll.dying = m.coll.dying ++ [j] := rfl
theorem Ilpiac.addDying_ctl (m : Ilpiac) (j : Nat) : (m.addDying j).ctl = m.ctl := rfl

theorem Ilpiac.due_cpl (m : Ilpiac) (r : CplRec) : (m.due r).ctl.cpl = m.ctl.cpl ++ [r] := rfl

/-- The reserved bits of a destruction. -/
abbrev destroyZero : List (Nat × Nat × Nat) := [(1, 16, 48), (2, 0, 64), (3, 0, 64), (4, 0, 64), (5, 0, 64), (6, 0, 64), (7, 0, 64)]

theorem Ilpiac.commDestroy_of_comm (hp : m.placed = true) (hw : d.w0ok = true) (hz : d.zero destroyZero = true) (hcm : m.comm (d.f 1 0 16) = some cm) :
    m.commDestroy d = ((m.dropComm cm).addDying (d.f 1 0 16)).due { d.record stOk { comm := d.f 1 0 16 } with frees := some (d.f 1 0 16) } := by
  rw [Ilpiac.commDestroy, Ilpiac.commCheck_of_comm hp hw hz hcm, Ilpiac.id_of_comm hcm]
  rfl

theorem Ilpiac.commDestroy_of_unknown (hp : m.placed = true) (hw : d.w0ok = true) (hz : d.zero destroyZero = true) (hcm : m.comm (d.f 1 0 16) = none) :
    m.commDestroy d = m.done d stUnknownComm { comm := d.f 1 0 16 } := by
  rw [Ilpiac.commDestroy, Ilpiac.commCheck_of_unknown hp hw hz hcm]

theorem Ilpiac.commDestroy_idle (hp : m.placed = true) (hw : d.w0ok = true) (hz : d.zero destroyZero = true) (hcm : m.comm (d.f 1 0 16) = some cm)
    (hopen : ∀ c ∈ m.coll.colls, c.key.comm ≠ d.f 1 0 16) (hwait : cm.quotaWait = none) :
    (m.commDestroy d).comm (d.f 1 0 16) = none ∧ (m.commDestroy d).coll.dying = m.coll.dying ++ [d.f 1 0 16] ∧
      (m.commDestroy d).ctl.cpl = m.ctl.cpl ++ [{ d.record stOk { comm := d.f 1 0 16 } with frees := some (d.f 1 0 16) }] := by
  have hid := Ilpiac.id_of_comm hcm
  obtain ⟨hgone, hdying, hcpl⟩ := Ilpiac.dropComm_drops (cm := cm) (by rwa [hid]) hwait
  rw [Ilpiac.commDestroy_of_comm hp hw hz hcm, Ilpiac.due_cpl, Ilpiac.addDying_ctl, hcpl, Ilpiac.comm]
  simp only [Ilpiac.due_frame]
  rw [← Ilpiac.comm, Ilpiac.comm_addDying, Ilpiac.addDying_dying, hdying, ← hid]
  exact ⟨hgone, rfl, trivial⟩

/-! ### COMM_QUERY (R84) -/

theorem leBytes_length (n x : Nat) : (leBytes n x).length = n := by
  induction n generalizing x with
  | zero => rfl
  | succ n ih => rw [leBytes, List.length_cons, ih]

/-- A query record fills its 256 bytes (R84). -/
theorem CommCounts.record_length {x : CommCounts} (h : x.hist.length = 16) : x.record.length = 256 := by
  simp [CommCounts.record, leBytes_length, h]

/-- The window refusals that are counted decide nothing else. -/
theorem Ilpiac.g_noteRefusals (m : Ilpiac) (l : List (Nat × Nat × Bool)) {f : Fld} {j : Nat} (h : Fld.apart F.HOLM_STATUS_WINDOW_REFUSALS 0 f j = true) :
    (m.noteRefusals l).g f j = m.g f j := Ilpiac.g_gw_apart _ _ _ _ _ _ h (by decide)

theorem Ilpiac.noteRefusals_coll (m : Ilpiac) (l : List (Nat × Nat × Bool)) : (m.noteRefusals l).coll = m.coll := by simp
theorem Ilpiac.noteRefusals_ctl (m : Ilpiac) (l : List (Nat × Nat × Bool)) : (m.noteRefusals l).ctl = m.ctl := by simp

theorem Ilpiac.Coherent.noteRefusals {addr len : Nat} {write : Bool} (h : m.Coherent addr len write) (l : List (Nat × Nat × Bool)) :
    (m.noteRefusals l).Coherent addr len write := by
  have hkeeps (f : Fld) (hf : Fld.apart F.HOLM_STATUS_WINDOW_REFUSALS 0 f 0 = true) : (m.noteRefusals l).g f = m.g f := m.g_noteRefusals l hf
  have hwindow (f : Fld) (hoff : 0x240 ≤ f.off) (i : Nat) : (m.noteRefusals l).g f i = m.g f i := by
    refine m.g_noteRefusals l ?_
    have hne : F.HOLM_STATUS_WINDOW_REFUSALS.off ≠ f.off + i * f.stride := by
      have : F.HOLM_STATUS_WINDOW_REFUSALS.off = 0x210 := rfl
      omega
    simp [Fld.apart, hne]
  obtain ⟨haperture, hreg, hallowed⟩ := h
  refine ⟨?_, ?_, ?_⟩
  · rwa [Ilpiac.inAperture, Ilpiac.has, Ilpiac.hbmBase, hkeeps F.CAP_PRESENT_HBM (by decide), hkeeps F.HOLM_BASE_HBM_BASE (by decide),
      hkeeps F.CAP_PRESENT_HBM_STACKS (by decide)]
  · rwa [Ilpiac.inRegWindow, Ilpiac.regBase, hkeeps F.HOLM_BASE_REG_BASE (by decide)]
  · simpa only [Ilpiac.windowOk, hwindow F.WINDOW_BASE_VALID (by decide), hwindow F.WINDOW_BASE_WRITE (by decide),
      hwindow F.WINDOW_BASE_READ (by decide), hwindow F.WINDOW_BASE_BASE (by decide), hwindow F.WINDOW_LIMIT_LIMIT (by decide)] using hallowed

/-- Messages leave for the companion in their order, while its link is up. -/
theorem Ilpiac.told_over_send {α : Type} {l : List α} {f : α → HolmMsg} (h : m.g F.HOLM_STATUS_STATE = holmUp) :
    (m.over l (fun m x => m.send (f x))).told = m.told ++ l.map f := by
  unfold Ilpiac.over
  induction l generalizing m with
  | nil => simp
  | cons x l ih =>
    have hup : (m.send (f x)).g F.HOLM_STATUS_STATE = holmUp := by
      rw [← h, Ilpiac.g, Ilpiac.g, Ilpiac.rd, Ilpiac.rd, Ilpiac.reg, Ilpiac.reg, (m.send_frame (f x)).1]
    rw [List.foldl_cons, ih hup, Ilpiac.send_told, if_pos h, List.map_cons, List.append_assoc, List.singleton_append]

theorem Ilpiac.Coherent.boardWrite {addr : Nat} {dat : List Byte} (h : m.Coherent addr dat.length true) :
    m.boardWrite addr dat = m.over (cohPieces addr dat) (fun m x => m.send (.cohWrite x.1 x.2)) := by
  rw [Ilpiac.boardWrite, if_neg (by simp [h.notAperture]), if_neg (by simp [h.notWindow])]

/-- Counters that a query has cleared. -/
def CommCounts.cleared (x : CommCounts) : CommCounts :=
  { x with
    done := 0, failed := 0, replays := 0, duplicates := 0, saturations := 0, dropped := 0, badExpert := 0, stray := 0, admissionWait := 0,
    hist := List.replicate 16 0 }

/-- Where a query asks for it, the counters are cleared. -/
def Ilpiac.clearCounts (m : Ilpiac) (asked id : Nat) : Ilpiac := if asked = 1 then m.count id (·.cleared) else m

/-- The reserved bits of a query. -/
abbrev queryZero : List (Nat × Nat × Nat) := [(1, 17, 47), (3, 0, 64), (4, 0, 64), (5, 0, 64), (6, 0, 64), (7, 0, 64)]

theorem Ilpiac.commQuery_of_comm (hp : m.placed = true) (hw : d.w0ok = true) (hz : d.zero queryZero = true) (hcm : m.comm (d.f 1 0 16) = some cm)
    (haligned : d.f 2 0 64 % 64 = 0) (hcoh : m.Coherent (d.f 2 0 64) 256 true) :
    m.commQuery d = (((m.noteRefusals [(d.f 2 0 64, 256, true)]).boardWrite (d.f 2 0 64) cm.cnt.record).clearCounts (d.f 1 16 1) (d.f 1 0 16)).done d stOk
      { comm := d.f 1 0 16 } := by
  have hplaced : (m.noteRefusals [(d.f 2 0 64, 256, true)]).placed = true := by
    rw [Ilpiac.placed, m.g_noteRefusals _ (by decide)]
    exact hp
  have hcm1 : (m.noteRefusals [(d.f 2 0 64, 256, true)]).comm (d.f 1 0 16) = some cm := by
    rw [Ilpiac.comm, Ilpiac.noteRefusals_coll]
    exact hcm
  have hok : (d.zero queryZero && d.f 2 0 64 % 64 == 0 && m.addrOk (d.f 2 0 64) 256 true) = true := by
    rw [hz, haligned, hcoh.addrOk]
    rfl
  rw [Ilpiac.commQuery, if_pos hp, Ilpiac.commCheck_of_comm hplaced hw hok hcm1, Ilpiac.id_of_comm hcm]
  rfl

theorem Ilpiac.done_holm (m : Ilpiac) (d : AccDesc) (status : Nat) (i : CplInfo) : (m.done d status i).ctl.holm = m.ctl.holm := by
  rw [Ilpiac.done, Ilpiac.complete, Ilpiac.due, Ilpiac.stall, Ilpiac.wr_ctl]

theorem Ilpiac.done_told (m : Ilpiac) (d : AccDesc) (status : Nat) (i : CplInfo) : (m.done d status i).told = m.told := by
  rw [Ilpiac.told, m.done_holm d, Ilpiac.told]

theorem Ilpiac.clearCounts_told (m : Ilpiac) (asked id : Nat) : (m.clearCounts asked id).told = m.told := by
  unfold Ilpiac.clearCounts
  split <;> rfl

theorem Ilpiac.clearCounts_ctl (m : Ilpiac) (asked id : Nat) : (m.clearCounts asked id).ctl = m.ctl := by
  unfold Ilpiac.clearCounts
  split <;> rfl

theorem Ilpiac.noteRefusals_told (m : Ilpiac) (l : List (Nat × Nat × Bool)) : (m.noteRefusals l).told = m.told := by
  rw [Ilpiac.told, m.noteRefusals_ctl, Ilpiac.told]

theorem Ilpiac.boardWrite_coll (m : Ilpiac) (addr : Nat) (dat : List Byte) : (m.boardWrite addr dat).coll = m.coll :=
  (Ilpiac.Traffic.refl m).boardWrite.coll

theorem Ilpiac.boardWrite_cpl (m : Ilpiac) (addr : Nat) (dat : List Byte) : (m.boardWrite addr dat).ctl.cpl = m.ctl.cpl :=
  (Ilpiac.Traffic.refl m).boardWrite.cpl

theorem Ilpiac.told_queryWrite {addr : Nat} {dat : List Byte} (hcoh : m.Coherent addr dat.length true) (hup : m.g F.HOLM_STATUS_STATE = holmUp)
    (l : List (Nat × Nat × Bool)) : ((m.noteRefusals l).boardWrite addr dat).told = m.told ++ (cohPieces addr dat).map (fun x => .cohWrite x.1 x.2) := by
  rw [(hcoh.noteRefusals l).boardWrite, Ilpiac.told_over_send (by rw [m.g_noteRefusals l (by decide), hup]), Ilpiac.noteRefusals_told]

/-- A query writes its record, completes, and clears the counters where it asks for that. -/
theorem Ilpiac.commQuery_answers (hp : m.placed = true) (hw : d.w0ok = true) (hz : d.zero queryZero = true) (hcm : m.comm (d.f 1 0 16) = some cm)
    (haligned : d.f 2 0 64 % 64 = 0) (hcoh : m.Coherent (d.f 2 0 64) 256 true) (hup : m.g F.HOLM_STATUS_STATE = holmUp)
    (hlen : cm.cnt.record.length = 256) :
    (m.commQuery d).told = m.told ++ (cohPieces (d.f 2 0 64) cm.cnt.record).map (fun x => .cohWrite x.1 x.2) ∧
      (m.commQuery d).ctl.cpl = m.ctl.cpl ++ [d.record stOk { comm := d.f 1 0 16 }] ∧ (d.f 1 16 1 = 0 → (m.commQuery d).coll = m.coll) ∧
      (d.f 1 16 1 = 1 → (m.commQuery d).comm (d.f 1 0 16) = some { cm with cnt := cm.cnt.cleared }) := by
  rw [Ilpiac.commQuery_of_comm hp hw hz hcm haligned hcoh]
  have hcoll : ((m.noteRefusals [(d.f 2 0 64, 256, true)]).boardWrite (d.f 2 0 64) cm.cnt.record).coll = m.coll := by
    rw [Ilpiac.boardWrite_coll, Ilpiac.noteRefusals_coll]
  refine ⟨?_, ?_, fun hkeep => ?_, fun hclear => ?_⟩
  · rw [Ilpiac.done_told, Ilpiac.clearCounts_told, Ilpiac.told_queryWrite (by rwa [hlen]) hup]
  · rw [Ilpiac.done_cpl, Ilpiac.clearCounts_ctl, Ilpiac.boardWrite_cpl, Ilpiac.noteRefusals_ctl]
  · rw [Ilpiac.done_coll, Ilpiac.clearCounts, if_neg (by omega), hcoll]
  · rw [Ilpiac.comm, Ilpiac.done_coll, Ilpiac.clearCounts, if_pos hclear, ← Ilpiac.comm, Ilpiac.comm_count, Ilpiac.comm, hcoll, ← Ilpiac.comm, hcm,
      Option.map_some]

end Sys2Proof.Machine

end

section
/-! Quotas of reduction memory that change (spec 04: R143, R144). -/

namespace Sys2Proof.Machine

variable {m : Ilpiac} {d : AccDesc} {cm : Comm} {id slots : Nat}

/-- The flow keeps what a communicator has in force and waits for; one that waits gets no more than it waits for. -/
theorem Ilpiac.quotaFlow_comm (hcm : m.comm id = some cm) : ∃ c, m.quotaFlow.comm id = some c ∧ c.quota = cm.quota ∧ c.quotaWait = cm.quotaWait ∧
    (∀ t w, cm.quotaWait = some (t, w) → cm.quotaSet ≤ t → cm.quotaSet ≤ c.quotaSet ∧ c.quotaSet ≤ t) ∧ m.quotaFlow.ctl = m.ctl := by
  refine Ilpiac.quotaFlow_induct (P := fun m1 => ∃ c, m1.comm id = some c ∧ c.quota = cm.quota ∧ c.quotaWait = cm.quotaWait ∧
    (∀ t w, cm.quotaWait = some (t, w) → cm.quotaSet ≤ t → cm.quotaSet ≤ c.quotaSet ∧ c.quotaSet ≤ t) ∧ m1.ctl = m.ctl)
    ⟨cm, hcm, rfl, rfl, fun t w _ hle => ⟨Nat.le_refl _, hle⟩, rfl⟩ fun m1 m2 ⟨c, hc, hquota, hwait, hset, hctl⟩ hstep => ?_
  obtain ⟨j, g, rfl, hg⟩ := hstep
  by_cases hj : j = id
  · subst hj
    refine ⟨c.withSet (g c), ?_, hquota, hwait, fun t w hw hle => ?_, hctl⟩
    · rw [Ilpiac.comm_updComm (fun _ => by rfl), hc, Option.map_some]
    · obtain ⟨hlo, hhi⟩ := hset t w hw hle
      obtain ⟨hglo, hghi⟩ := hg c t w hc (hwait.trans hw)
      change cm.quotaSet ≤ g c ∧ g c ≤ t
      omega
  · refine ⟨c, ?_, hquota, hwait, hset, hctl⟩
    rw [Ilpiac.comm_updComm_ne (fun _ => by rfl) hj, hc]

/-- Contexts that move to another queue change neither communicators nor completions. -/
theorem Ilpiac.movePool_frame (m : Ilpiac) (id : Nat) (pool : Option Nat) :
    (m.movePool id pool).ctl = m.ctl ∧ ∃ queues, (m.movePool id pool).coll = { m.coll with queues } := by
  unfold Ilpiac.movePool
  obtain ⟨hctl, queues, hcoll⟩ := Ilpiac.enqueueRuns_frame { m with coll := { m.coll with queues := m.coll.queues.map (fun q =>
    let runs := q.runs.filter (fun r => r.coll.comm != id)
    { q with runs, headAt := if (q.runs.head?.map (·.coll.comm)) = some id then m.clk else q.headAt }) } } pool
    (m.coll.queues.flatMap (fun q => q.runs.filter (fun r => r.coll.comm == id)))
  exact ⟨hctl, queues, hcoll⟩

theorem Ilpiac.comm_movePool (m : Ilpiac) (id j : Nat) (pool : Option Nat) : (m.movePool id pool).comm j = m.comm j := by
  obtain ⟨-, queues, hcoll⟩ := m.movePool_frame id pool
  rw [Ilpiac.comm, hcoll, Ilpiac.comm]

/-- A communicator with `slots` in force, waiting for nothing. -/
def Comm.withQuota (c : Comm) (slots : Nat) : Comm := { c with quota := slots, quotaWait := none }

/-- A communicator that waits for `slots`. -/
def Comm.waitsFor (c : Comm) (slots : Nat) (key : Nat × Nat) : Comm := { c with quotaWait := some (slots, key) }

/-- A quota that is put in force is in force, and nothing completes with it. -/
theorem Ilpiac.applyQuota_comm (hcm : m.comm id = some cm) (slots : Nat) :
    ∃ c, (m.applyQuota id slots).comm id = some c ∧ c.quota = slots ∧ c.quotaWait = none ∧ (m.applyQuota id slots).ctl = m.ctl := by
  have hput : (m.updComm id (·.withQuota slots)).comm id = some (cm.withQuota slots) := by
    rw [Ilpiac.comm_updComm (fun _ => by rfl), hcm, Option.map_some]
  obtain ⟨c, hc, hquota, hwait, -, hctl⟩ := Ilpiac.quotaFlow_comm hput
  have happly : m.applyQuota id slots = ((m.updComm id (·.withQuota slots)).quotaFlow.movePool id (if slots = 0 then none else some id)).rmStat := rfl
  refine ⟨c, ?_, hquota, hwait, ?_⟩
  · rw [happly, Ilpiac.comm, Ilpiac.rmStat_coll, ← Ilpiac.comm, Ilpiac.comm_movePool, hc]
  · rw [happly, Ilpiac.rmStat_ctl, (Ilpiac.movePool_frame ..).1, hctl]
    rfl

/-- The quotas of the other communicators, as they are in force or awaited. -/
def Ilpiac.promised (m : Ilpiac) (id : Nat) : Nat :=
  sumOf ((m.coll.comms.filter (fun c => c.id != id)).map (fun c => match c.quotaWait with | some w => w.1 | none => c.quota))

/-- The reserved bits of RM_QUOTA. -/
abbrev quotaZero : List (Nat × Nat × Nat) := [(1, 32, 32), (2, 0, 64), (3, 0, 64), (4, 0, 64), (5, 0, 64), (6, 0, 64), (7, 0, 64)]

/-- What RM_QUOTA asks of its words, of its communicator, and of the slots that remain. -/
structure Ilpiac.QuotaFits (m : Ilpiac) (d : AccDesc) (cm : Comm) : Prop where
  placed : m.placed = true
  w0 : d.w0ok = true
  reserved : d.zero quotaZero = true
  comm : m.comm (d.f 1 0 16) = some cm
  size : d.f 1 16 16 ≤ 32768
  room : d.f 1 16 16 = 0 ∨ (4 + max (levelsOf (m.locals cm).length) 1 ≤ d.f 1 16 16 ∧
    d.f 1 16 16 ≤ 32768 - m.g F.RM_POLICY_SHARED_MIN - m.promised (d.f 1 0 16))

theorem Ilpiac.QuotaFits.withDescs (h : m.QuotaFits d cm) (l : List AccDesc) : (m.withDescs l).QuotaFits d cm :=
  ⟨h.placed, h.w0, h.reserved, h.comm, h.size, h.room⟩

theorem Ilpiac.QuotaFits.rmQuota (h : m.QuotaFits d cm) : m.rmQuota d =
    if d.f 1 16 16 ≤ cm.quotaSet then (m.applyQuota (d.f 1 0 16) (d.f 1 16 16)).done d stOk { comm := d.f 1 0 16 }
    else (m.updComm (d.f 1 0 16) (·.waitsFor (d.f 1 16 16) (d.ring, d.num))).quotaFlow.rmStat := by
  have hsize := h.size
  have hroom := h.room
  unfold Ilpiac.rmQuota
  simp only [h.comm]
  rw [if_neg (by simp [h.placed]), if_neg (by simpa [h.w0, h.reserved] using hsize)]
  refine (if_neg fun hbad => ?_).trans rfl
  change d.f 1 16 16 ≠ 0 ∧ (d.f 1 16 16 < 4 + max (levelsOf (m.locals cm).length) 1 ∨
    32768 - m.g F.RM_POLICY_SHARED_MIN - m.promised (d.f 1 0 16) < d.f 1 16 16) at hbad
  omega

/-- An increase waits, with what could be set aside for it at once. -/
theorem Ilpiac.waitsFor_comm {key : Nat × Nat} (hcm : m.comm id = some cm) (hlt : cm.quotaSet < slots) :
    ∃ c, (m.updComm id (·.waitsFor slots key)).quotaFlow.rmStat.comm id = some c ∧ c.quota = cm.quota ∧ c.quotaWait = some (slots, key) ∧
      cm.quotaSet ≤ c.quotaSet ∧ c.quotaSet ≤ slots ∧ (m.updComm id (·.waitsFor slots key)).quotaFlow.rmStat.ctl = m.ctl := by
  have hput : (m.updComm id (·.waitsFor slots key)).comm id = some (cm.waitsFor slots key) := by
    rw [Ilpiac.comm_updComm (fun _ => by rfl), hcm, Option.map_some]
  obtain ⟨c, hc, hquota, hwait, hset, hctl⟩ := Ilpiac.quotaFlow_comm hput
  obtain ⟨hlo, hhi⟩ := hset slots key rfl (Nat.le_of_lt hlt)
  refine ⟨c, ?_, hquota, hwait, hlo, hhi, ?_⟩
  · rw [Ilpiac.comm, Ilpiac.rmStat_coll, ← Ilpiac.comm, hc]
  · rw [Ilpiac.rmStat_ctl, hctl]
    rfl

/-- QUOTA_SET_ASIDE with all slots set aside: the quota comes in force and its descriptor completes. -/
theorem Ilpiac.quotaSetAside_of_all {target r n : Nat} (hcm : m.comm id = some cm) (hwait : cm.quotaWait = some (target, (r, n)))
    (hall : target ≤ cm.quotaSet) (hd : m.ctl.descs.find? (fun x => x.ring == r && x.num == n) = some d) :
    m.quotaSetAside id = (m.applyQuota id target).done d stOk { comm := id } := by
  obtain ⟨-, -, -, -, hctl⟩ := Ilpiac.applyQuota_comm hcm target
  have hd : (m.applyQuota id target).ctl.descs.find? (fun x => x.ring == r && x.num == n) = some d := by rw [hctl, hd]
  simp only [Ilpiac.quotaSetAside, hcm, hwait]
  rw [if_neg (by omega), hd]

end Sys2Proof.Machine

end

section
/-! Members that are fenced and unfenced (spec 02: R79 to R81, R90). -/

namespace Sys2Proof.Machine

variable {m m' m'' : Ilpiac} {d : AccDesc} {k : CollId} {addr p : Nat}

/-! ### What ends with a member -/

/-- `m'` is `m` after operations that write no pinned register, and of whose completion records none goes. -/
structure Ilpiac.Calm (m m' : Ilpiac) : Prop where
  regs : ∀ k, pinnedReg k = true → m'.reg k = m.reg k
  cpl : m.ctl.cpl <+: m'.ctl.cpl

theorem Ilpiac.Calm.refl (m : Ilpiac) : m.Calm m := ⟨fun _ _ => rfl, List.prefix_refl _⟩

theorem Ilpiac.Calm.trans (h : m.Calm m') (h' : m'.Calm m'') : m.Calm m'' :=
  ⟨fun k hk => (h'.regs k hk).trans (h.regs k hk), h.cpl.trans h'.cpl⟩

theorem Ilpiac.Traffic.calm (h : m.Traffic m') : m.Calm m' := ⟨h.regs, by rw [h.cpl]⟩

theorem Ilpiac.Calm.over {α : Type} {l : List α} {f : Ilpiac → α → Ilpiac} (hf : ∀ (m : Ilpiac) (a : α), m.Calm (f m a)) : m.Calm (m.over l f) :=
  Ilpiac.over_induct (.refl m) fun _ a h => h.trans (hf _ a)

theorem Ilpiac.Calm.due (r : CplRec) : m.Calm (m.due r) := by
  refine ⟨fun k hk => m.reg_wr_ne .cring r.cring F.CR_STATUS_STALLED _ 0 k (fun e => ?_), List.prefix_append ..⟩
  rw [e, pinnedReg_key_of_base (by decide)] at hk
  cases hk

theorem Ilpiac.Calm.done (d : AccDesc) (status : Nat) (i : CplInfo) : m.Calm (m.done d status i) := .due _

/-- PORT_STATUS of a downlink is pinned. -/
theorem pinnedReg_portStatus (hp : p < 256) : pinnedReg (F.PORT_STATUS_FENCED.key (portBlk p) (portIdx p) 0) = true := by
  have hkey : F.PORT_STATUS_FENCED.key (portBlk p) (portIdx p) 0 = 0x100000 + p * 0x1000 := by
    rw [portBlk, portIdx, if_pos hp, if_pos hp]
    rfl
  rw [hkey]
  simp only [pinnedReg, Bool.or_eq_true, Bool.and_eq_true, decide_eq_true_eq, beq_iff_eq]
  omega

theorem Ilpiac.Calm.portFenced (h : m.Calm m') (hp : p < 256) : m'.portFenced p = m.portFenced p := by
  rw [Ilpiac.portFenced, Ilpiac.pg, Ilpiac.rd, h.regs _ (pinnedReg_portStatus hp), Ilpiac.portFenced, Ilpiac.pg, Ilpiac.rd]

/-! ### Waits of a member (R423) -/

theorem Ilpiac.Traffic.setWaits {l : List SyncWaitE} (h : m.Traffic m') : m.Traffic (m'.setWaits l) := h.beside.gw

theorem Ilpiac.Traffic.setCval {n v : Nat} (h : m.Traffic m') : m.Traffic (m'.setCval n v) := h.beside

theorem Ilpiac.Traffic.syncAnswer {port tc tag result n value : Nat} (h : m.Traffic m') : m.Traffic (m'.syncAnswer port tc tag result n value) :=
  h.setPort.emit

theorem Ilpiac.Calm.endWait {w : SyncWaitE} {final value status result : Nat} : m.Calm (m.endWait w final value status result) := by
  unfold Ilpiac.endWait
  split
  · split
    · exact .due _
    · exact .refl m
  · exact (Ilpiac.Traffic.refl m).syncAnswer.calm

theorem Ilpiac.Calm.releaseWaits {n : Nat} : m.Calm (m.releaseWaits n) :=
  (Ilpiac.Traffic.refl m).setCval.setWaits.calm.trans (.over fun _ _ => .endWait)

theorem Ilpiac.Calm.dropMemberWaits {port : Nat} : m.Calm (m.dropMemberWaits port) := by
  unfold Ilpiac.dropMemberWaits
  dsimp only
  split
  · exact .refl m
  · exact (Ilpiac.Traffic.refl m).setWaits.calm.trans (.over fun _ _ => .releaseWaits)

/-! ### Collectives of a member (R80) -/

theorem Ilpiac.Calm.updColl {f : Coll → Coll} : m.Calm (m.updColl k f) := ⟨fun _ _ => rfl, List.prefix_refl _⟩

theorem Ilpiac.Calm.unqueue : m.Calm (m.unqueue k) := ⟨fun _ _ => rfl, List.prefix_refl _⟩

theorem Ilpiac.Calm.dropDest {f : Retained → Bool} : m.Calm (m.dropDest addr f) := by
  unfold Ilpiac.dropDest
  refine Ilpiac.Calm.trans ?_ (Ilpiac.retainSweep_traffic _).calm
  exact ⟨fun _ _ => rfl, List.prefix_refl _⟩

theorem Ilpiac.Calm.failColl {status : Nat} {fault : Option (Nat × Nat)} : m.Calm (m.failColl k status fault) := by
  unfold Ilpiac.failColl
  split
  · exact .refl m
  · split
    · exact .refl m
    · exact Ilpiac.Calm.updColl.trans .unqueue

theorem Ilpiac.Calm.undeliver {status : Nat} : m.Calm (m.undeliver k addr status) := by
  unfold Ilpiac.undeliver
  split
  · exact .refl m
  · split
    · exact Ilpiac.Calm.updColl.trans .dropDest
    · exact .refl m

theorem Ilpiac.Calm.memberLost {status : Nat} : m.Calm (m.memberLost k addr status) := by
  unfold Ilpiac.memberLost
  split
  · exact .refl m
  · split
    · exact .undeliver
    · exact .failColl

/-! ### The fence (R79, R80) -/

/-- The queues of a port that is fenced are emptied, and what it is sending is stomped. -/
theorem Ilpiac.fenceQueues_traffic (m : Ilpiac) (p : Nat) : (m.pw p F.PORT_STATUS_FENCED 1).Traffic (m.fenceQueues p) := by
  have hdrop : (m.pw p F.PORT_STATUS_FENCED 1).Traffic ((m.pw p F.PORT_STATUS_FENCED 1).over ((m.pw p F.PORT_STATUS_FENCED 1).portQueues p)
      (fun m k => m.dropFrom k (fun e => !(match m.bufPkt e.id with | some b => b.pkt.ty == 0x01 || b.pkt.ty == 0x02 | none => false)) (some 4))) :=
    (Ilpiac.Traffic.refl _).over fun _ _ h => h.dropFrom
  unfold Ilpiac.fenceQueues
  dsimp only
  split
  · exact Ilpiac.Traffic.ite hdrop hdrop.stompTx
  · exact hdrop

theorem Ilpiac.portFenced_pw (m : Ilpiac) (p v : Nat) : (m.pw p F.PORT_STATUS_FENCED v).portFenced p = (v % 2 == 1) := by
  rw [Ilpiac.portFenced, Ilpiac.pg, Ilpiac.pw, Ilpiac.rd_wr_self _ _ _ _ _ _ (by decide)]
  rfl

theorem Ilpiac.fenceMember_of_fenced (h : m.portFenced p = true) : m.fenceMember p = m := by
  rw [Ilpiac.fenceMember, if_pos h]

/-- The collectives that include the member `addr` lose it. -/
def Ilpiac.loseMember (m : Ilpiac) (addr : Nat) : Ilpiac := m.over (m.collsWith addr) (fun m k => m.memberLost k addr stFenced)

theorem Ilpiac.Calm.loseMember : m.Calm (m.loseMember addr) := .over fun _ _ => .memberLost

theorem Ilpiac.fenceMember_of_open (h : m.portFenced p = false) :
    m.fenceMember p = (((m.fenceQueues p).dropMemberWaits p).loseMember (m.bed * 256 + p)).dropDest (m.bed * 256 + p) (fun _ => true) := by
  rw [Ilpiac.fenceMember, if_neg (by simp [h])]
  rfl

theorem Ilpiac.pw_cpl (m : Ilpiac) (p : Nat) (f : Fld) (v : Nat) : (m.pw p f v).ctl.cpl = m.ctl.cpl := by
  rw [Ilpiac.pw, Ilpiac.wr_ctl]

/-- A member that is dropped is a destination of no copy. -/
theorem Ilpiac.not_dest_of_dropDest {r : Retained} {x : Dest} (hr : r ∈ (m.dropDest addr (fun _ => true)).coll.retained) (hx : x ∈ r.dests) :
    x.addr ≠ addr := by
  rw [Ilpiac.dropDest_coll] at hr
  obtain ⟨hmem, -⟩ := List.mem_filter.mp hr
  obtain ⟨q, -, rfl⟩ := List.mem_map.mp hmem
  simpa using (List.mem_filter.mp hx).2

/-- After a fence the port is marked, no copy names the member, and the records before it stand. -/
theorem Ilpiac.fenceMember_fences (h : m.portFenced p = false) (hp : p < 256) : (m.fenceMember p).portFenced p = true ∧
    (∀ r ∈ (m.fenceMember p).coll.retained, ∀ x ∈ r.dests, x.addr ≠ m.bed * 256 + p) ∧ m.ctl.cpl <+: (m.fenceMember p).ctl.cpl := by
  rw [Ilpiac.fenceMember_of_open h]
  have hcalm : (m.pw p F.PORT_STATUS_FENCED 1).Calm
      ((((m.fenceQueues p).dropMemberWaits p).loseMember (m.bed * 256 + p)).dropDest (m.bed * 256 + p) (fun _ => true)) :=
    (((m.fenceQueues_traffic p).calm.trans .dropMemberWaits).trans .loseMember).trans .dropDest
  refine ⟨?_, fun r hr x hx => Ilpiac.not_dest_of_dropDest hr hx, ?_⟩
  · rw [hcalm.portFenced hp, Ilpiac.portFenced_pw]
    rfl
  · rw [← m.pw_cpl p F.PORT_STATUS_FENCED 1]
    exact hcalm.cpl

/-! ### The descriptors (R81, R90) -/

/-- The reserved bits of MEMBER_FENCE and MEMBER_UNFENCE. -/
abbrev fenceZero : List (Nat × Nat × Nat) := [(1, 14, 50), (2, 0, 64), (3, 0, 64), (4, 0, 64), (5, 0, 64), (6, 0, 64), (7, 0, 64)]

/-- MEMBER_FENCE and MEMBER_UNFENCE name a member at a port of this bed. -/
structure Ilpiac.NamesMember (m : Ilpiac) (d : AccDesc) : Prop where
  placed : m.placed = true
  w0 : d.w0ok = true
  reserved : d.zero fenceZero = true
  bed : d.f 1 0 14 / 256 = m.bed
  port : m.portPresent (d.f 1 0 14 % 256) = true

theorem Ilpiac.NamesMember.withDescs (h : m.NamesMember d) (l : List AccDesc) : (m.withDescs l).NamesMember d :=
  ⟨h.placed, h.w0, h.reserved, h.bed, h.port⟩

theorem Ilpiac.NamesMember.address (h : m.NamesMember d) : m.bed * 256 + d.f 1 0 14 % 256 = d.f 1 0 14 := by
  rw [← h.bed]
  omega

theorem Ilpiac.NamesMember.fenceCheck (h : m.NamesMember d) (f : Nat → Ilpiac → Ilpiac) : m.fenceCheck d f = f (d.f 1 0 14) m := by
  unfold Ilpiac.fenceCheck
  dsimp only
  rw [if_neg (by simp [h.placed]), if_neg (by simp [h.w0, h.reserved]), if_neg (by simp [h.bed, h.port])]

theorem Ilpiac.NamesMember.memberFence (h : m.NamesMember d) : m.memberFence d = (m.fenceMember (d.f 1 0 14 % 256)).done d stOk := by
  rw [Ilpiac.memberFence, h.fenceCheck]

theorem Ilpiac.NamesMember.memberUnfence (h : m.NamesMember d) : m.memberUnfence d =
    if m.portUp (d.f 1 0 14 % 256) = true ∧ m.collsWith (d.f 1 0 14) = [] then (m.pw (d.f 1 0 14 % 256) F.PORT_STATUS_FENCED 0).done d stOk
    else m.done d stBadDescriptor := by
  rw [Ilpiac.memberUnfence, h.fenceCheck]
  simp only [List.isEmpty_iff]

end Sys2Proof.Machine

end

section
/-! The descriptors of communicators, member fences and quotas as commands (spec 02: R32, R43 to R48, R79 to R81, R84, R90). -/

namespace Sys2Proof.Machine

section
variable (m : Ilpiac) (l : List AccDesc)

@[simp] theorem Ilpiac.withDescs_coll : (m.withDescs l).coll = m.coll := rfl
@[simp] theorem Ilpiac.withDescs_comm (id : Nat) : (m.withDescs l).comm id = m.comm id := rfl

end

theorem Ilpiac.done_sw (m : Ilpiac) (d : AccDesc) (status : Nat) (i : CplInfo) : (m.done d status i).sw = m.sw := by simp

section
variable {s : State} {ring : Fin 65536} {d : AccDesc} {m0 : Ilpiac}

theorem exec_commCreate (h : s.m.begin ring 0x01 = some (d, m0)) (rb re : Readback) :
    exec (.commCreate ring rb re) s = .next { s with m := (m0.commCreate d rb re).settle } := by
  change ran s (s.m.runDesc ring 0x01 (fun d m => m.commCreate d rb re)) = _
  rw [Ilpiac.runDesc_of_begin h, ran]

theorem exec_commDestroy (h : s.m.begin ring 0x02 = some (d, m0)) : exec (.commDestroy ring) s = .next { s with m := (m0.commDestroy d).settle } := by
  change ran s (s.m.runDesc ring 0x02 (fun d m => m.commDestroy d)) = _
  rw [Ilpiac.runDesc_of_begin h, ran]

theorem exec_commQuery (h : s.m.begin ring 0x03 = some (d, m0)) : exec (.commQuery ring) s = .next { s with m := (m0.commQuery d).settle } := by
  change ran s (s.m.runDesc ring 0x03 (fun d m => m.commQuery d)) = _
  rw [Ilpiac.runDesc_of_begin h, ran]

theorem exec_memberFence (h : s.m.begin ring 0x20 = some (d, m0)) : exec (.memberFence ring) s = .next { s with m := (m0.memberFence d).settle } := by
  change ran s (s.m.runDesc ring 0x20 (fun d m => m.memberFence d)) = _
  rw [Ilpiac.runDesc_of_begin h, ran]

theorem exec_memberUnfence (h : s.m.begin ring 0x21 = some (d, m0)) :
    exec (.memberUnfence ring) s = .next { s with m := (m0.memberUnfence d).settle } := by
  change ran s (s.m.runDesc ring 0x21 (fun d m => m.memberUnfence d)) = _
  rw [Ilpiac.runDesc_of_begin h, ran]

/-- RM_QUOTA of a communicator that waits for no other increase. -/
theorem exec_rmQuota {cm : Comm} (h : s.m.begin ring 0x28 = some (d, m0)) (hcm : m0.comm (d.f 1 0 16) = some cm) (hwait : cm.quotaWait = none) :
    exec (.rmQuota ring) s = .next { s with m := (m0.rmQuota d).settle } := by
  change ran s (match s.m.begin ring 0x28 with
    | some (d, m) => if (m.comm (d.f 1 0 16)).any (fun c => c.quotaWait.isSome) then s.m else m.rmQuota d
    | none => s.m) = _
  rw [h]
  dsimp only
  rw [hcm, if_neg (by simp [hwait]), ran]

end

end Sys2Proof.Machine

open Sys2Proof.Machine

/-- Settles O41: creation, destruction and query by their checks, then fences, unfences and quotas. -/
theorem communicatorControl : Obligations.CommunicatorControl := by
  unfold Obligations.CommunicatorControl
  refine ⟨fun s ring d m0 => ⟨fun hbegin => ?_, fun hbegin hp hw hz => ?_, fun cm hbegin hp hw hz hcm haligned hcoh hup hhist => ?_⟩,
    fun s ring d m0 => ?_⟩
  · intro n e id
    have hexec := exec_commCreate hbegin
    obtain ⟨descs, rfl⟩ := Ilpiac.begin_descs hbegin
    refine ⟨fun lb eb => ?_, fun hp rb re => ?_⟩
    · intro lst exs members experts single digest hp hw hz h1 hn he hret hal hae hfb hlist hexp hin hasc htrunk hhbm hmem hhere
      have hread : s.m.CreationRead d := ⟨hp, hw, hz, ⟨h1, hn, he⟩, hret, ⟨hal, hae⟩, hfb, hlist, hexp⟩
      have hchecks : s.m.CreationChecks d members experts := ⟨hin, hasc, htrunk, hhbm, hmem, hhere⟩
      have hcreate := Ilpiac.commCreate_of_checks (hread.withDescs descs) (hchecks.withDescs descs)
      have hexec := hexec (some lb) (some eb)
      refine ⟨fun hnone hdying hfree => ?_, fun hused => ?_⟩
      · have hnew : ¬(((s.m.withDescs descs).comm id).isSome = true ∨ (s.m.withDescs descs).coll.dying.contains id = true) := by
          rw [s.m.withDescs_comm, s.m.withDescs_coll, hnone]
          simpa using hdying
        have hleft : (s.m.withDescs descs).freeContexts ≠ 0 := hfree
        rw [hcreate, if_neg hnew, if_neg hleft] at hexec
        refine ⟨_, hexec, ?_, ?_⟩
        · rw [Ilpiac.done_coll, Ilpiac.addComm_coll, s.m.withDescs_coll]
          rfl
        · rw [Ilpiac.done_cpl, Ilpiac.addComm_ctl, s.m.withDescs_cpl]
      · have hold : ((s.m.withDescs descs).comm id).isSome = true ∨ (s.m.withDescs descs).coll.dying.contains id = true := by
          rw [s.m.withDescs_comm, s.m.withDescs_coll]
          simpa using hused
        rw [hcreate, if_pos hold] at hexec
        exact ⟨_, hexec, Ilpiac.done_coll .., Ilpiac.done_cpl ..⟩
    · have hexec := hexec rb re
      rw [Ilpiac.commCreate_unplaced (m := s.m.withDescs descs) hp] at hexec
      exact ⟨_, hexec, Ilpiac.done_coll .., Ilpiac.done_cpl ..⟩
  · have hexec := exec_commDestroy hbegin
    obtain ⟨descs, rfl⟩ := Ilpiac.begin_descs hbegin
    refine ⟨fun hnone => ?_, fun cm hcm hopen hwait => ?_⟩
    · rw [Ilpiac.commDestroy_of_unknown (m := s.m.withDescs descs) hp hw hz hnone] at hexec
      exact ⟨_, hexec, Ilpiac.done_coll .., Ilpiac.done_cpl ..⟩
    · obtain ⟨hgone, hdying, hcpl⟩ := Ilpiac.commDestroy_idle (m := s.m.withDescs descs) hp hw hz hcm hopen hwait
      exact ⟨_, hexec, hgone, hdying, hcpl⟩
  · have hexec := exec_commQuery hbegin
    obtain ⟨descs, rfl⟩ := Ilpiac.begin_descs hbegin
    have hlen := CommCounts.record_length hhist
    obtain ⟨htold, hcpl, hkeep, hclear⟩ :=
      Ilpiac.commQuery_answers (m := s.m.withDescs descs) hp hw hz hcm haligned (hcoh.withDescs descs) hup hlen
    exact ⟨_, hexec, htold, hlen, hcpl, hkeep, fun hask => ⟨_, hclear hask, rfl, rfl, rfl, rfl, rfl, rfl⟩⟩
  · intro addr p ok
    have hport : p < 256 := Nat.mod_lt _ (by decide)
    refine ⟨fun hbegin hok => ?_, fun hbegin hok => ?_, fun cm hbegin hp hw hz hcm hwait => ?_, fun id cm target r n hcm hwait hall hdesc => ?_⟩
    · obtain ⟨hp, hw, hz, hbed, hpresent⟩ := hok
      have hexec := exec_memberFence hbegin
      obtain ⟨descs, rfl⟩ := Ilpiac.begin_descs hbegin
      have hnames := (Ilpiac.NamesMember.mk (m := s.m) hp hw hz hbed hpresent).withDescs descs
      rw [hnames.memberFence] at hexec
      refine ⟨fun hfenced => ?_, fun hopen => ?_⟩
      · rw [Ilpiac.fenceMember_of_fenced (m := s.m.withDescs descs) hfenced] at hexec
        exact ⟨_, hexec, Ilpiac.done_coll .., Ilpiac.done_sw .., Ilpiac.done_cpl ..⟩
      · obtain ⟨hfenced, hdests, hcpl⟩ := Ilpiac.fenceMember_fences (m := s.m.withDescs descs) hopen hport
        rw [hnames.address] at hdests
        refine ⟨_, _, hexec, ?_, ?_, hcpl, Ilpiac.done_cpl ..⟩
        · rw [(Ilpiac.Calm.done ..).portFenced hport, hfenced]
        · rwa [Ilpiac.done_coll]
    · obtain ⟨hp, hw, hz, hbed, hpresent⟩ := hok
      have hexec := exec_memberUnfence hbegin
      obtain ⟨descs, rfl⟩ := Ilpiac.begin_descs hbegin
      have hnames := (Ilpiac.NamesMember.mk (m := s.m) hp hw hz hbed hpresent).withDescs descs
      rw [hnames.memberUnfence] at hexec
      refine ⟨fun hup hcolls => ?_, fun hrefused => ?_⟩
      · rw [if_pos ⟨hup, hcolls⟩] at hexec
        refine ⟨_, hexec, ?_, ?_⟩
        · rw [(Ilpiac.Calm.done ..).portFenced hport, Ilpiac.portFenced_pw]
          rfl
        · rw [Ilpiac.done_cpl, Ilpiac.pw_cpl, s.m.withDescs_cpl]
      · rw [if_neg fun hboth => hrefused.elim (fun hdown => Bool.false_ne_true (hdown.symm.trans hboth.1)) (fun hcolls => hcolls hboth.2)] at hexec
        exact ⟨_, hexec, (Ilpiac.Calm.done ..).portFenced hport, Ilpiac.done_cpl ..⟩
    · intro slots others hsize hroom
      have hexec := exec_rmQuota hbegin (by obtain ⟨descs, rfl⟩ := Ilpiac.begin_descs hbegin; exact hcm) hwait
      obtain ⟨descs, rfl⟩ := Ilpiac.begin_descs hbegin
      have hfits : s.m.QuotaFits d cm := ⟨hp, hw, hz, hcm, hsize, hroom⟩
      rw [(hfits.withDescs descs).rmQuota] at hexec
      refine ⟨fun hle => ?_, fun hlt => ?_⟩
      · rw [if_pos hle] at hexec
        obtain ⟨c, hc, hquota, hnowait, hctl⟩ := Ilpiac.applyQuota_comm (m := s.m.withDescs descs) hcm slots
        refine ⟨_, c, hexec, ?_, hquota, hnowait, ?_⟩
        · rw [Ilpiac.comm, Ilpiac.done_coll, ← Ilpiac.comm, hc]
        · rw [Ilpiac.done_cpl, hctl, s.m.withDescs_cpl]
      · rw [if_neg (by omega)] at hexec
        obtain ⟨c, hc, hquota, hwaits, hlo, hhi, hctl⟩ := Ilpiac.waitsFor_comm (m := s.m.withDescs descs) (key := (d.ring, d.num)) hcm hlt
        exact ⟨_, c, hexec, hc, hquota, hwaits, hlo, hhi, by rw [hctl, s.m.withDescs_cpl]⟩
    · have hexec : exec (.quotaSetAside id) s = .next { s with m := (s.m.quotaSetAside id).settle } := rfl
      rw [Ilpiac.quotaSetAside_of_all hcm hwait hall hdesc] at hexec
      obtain ⟨c, hc, hquota, hnowait, hctl⟩ := Ilpiac.applyQuota_comm hcm target
      refine ⟨_, c, hexec, ?_, hquota, hnowait, ?_⟩
      · rw [Ilpiac.comm, Ilpiac.done_coll, ← Ilpiac.comm, hc]
      · rw [Ilpiac.done_cpl, hctl]

end

section
/-! Registers of a furrow (spec 04: R160 to R165): fields side by side, where they lie in the window, and what a write of one brings about. -/

namespace Sys2Proof.Machine

variable {m m' : Ilpiac}

/-! ### Fields of one unit, and of the registers at fixed offsets -/

/-- A field of the same unit that shares no bit with the one that was set reads as before. -/
theorem Ilpiac.rd_wr_apart (m : Ilpiac) (b : Blk) (n : Nat) {f f' : Fld} (v : Nat) {j j' : Nat} (h : Fld.apart f j f' j' = true := by decide)
    (hf : f.lo + f.w ≤ 64 := by decide) : (m.wr b n f v j).rd b n f' j' = m.rd b n f' j' := by
  by_cases hk : f'.key b n j' = f.key b n j
  · refine Ilpiac.rd_wr_disj m _ _ _ _ f f' v j j' hk ?_ hf
    simp only [Fld.apart, Bool.or_eq_true, bne_iff_ne, ne_eq, decide_eq_true_eq] at h
    simp only [Fld.key] at hk
    omega
  · exact Ilpiac.rd_wr_ne m _ _ _ _ f f' v j j' hk

/-- A saturating count of a field reads as the sum, which never exceeds the field. -/
theorem Ilpiac.rd_cnt_self (m : Ilpiac) (b : Blk) (n : Nat) (f : Fld) (k j : Nat) (hf : f.lo + f.w ≤ 64 := by decide) :
    (m.cnt b n f k j).rd b n f j = satAdd f.w (m.rd b n f j) k := by
  rw [Ilpiac.cnt, Ilpiac.rd_wr_self _ _ _ _ _ _ hf, Nat.mod_eq_of_lt]
  have := Nat.two_pow_pos f.w
  unfold satAdd
  omega

theorem satAdd_zero_of_lt {w x : Nat} (h : x < 2 ^ w) : satAdd w x 0 = x := by
  unfold satAdd
  omega

/-- The key of the register at an offset inside a furrow's block (R14). -/
def furrowKey (n off : Nat) : Nat := 0x400000 + n * 0x1000 + off

theorem Fld.key_furrow (f : Fld) (n : Nat) : f.key .furrow n 0 = furrowKey n f.off := by
  simp [Fld.key, Blk.at, Blk.base, Blk.stride, furrowKey]

/-- The registers of the furrows fill one region of the window (R14). -/
theorem locate_furrowRegion {k : Nat} (hlo : 0x400000 ≤ k) (hhi : k < 0x440000) :
    locate k = (.furrow, (k - 0x400000) / 0x1000, (k - 0x400000) % 0x1000) := by
  unfold locate
  repeat rw [if_neg (by omega)]
  rw [if_pos hhi]
  rfl

theorem locate_furrow {n off : Nat} (hn : n < 64) (hoff : off < 0x1000) : locate (furrowKey n off) = (.furrow, n, off) := by
  unfold furrowKey
  have hunit : (0x400000 + n * 0x1000 + off - 0x400000) / 0x1000 = n := by omega
  have hinside : (0x400000 + n * 0x1000 + off - 0x400000) % 0x1000 = off := by omega
  rw [locate_furrowRegion (by omega) (by omega), hunit, hinside]

/-! ### What a register holds after a write -/

/-- A field of which no bit is written keeps its value, and nothing is refused. -/
theorem FSpec.written_unmasked (f : FSpec) (stopped : Bool) (old v : Nat) {mask : Nat} (h : bits mask f.lo f.w = 0) :
    f.written stopped old v mask = (bits old f.lo f.w, false) := by
  have ho : bits old f.lo f.w % 2 ^ f.w = bits old f.lo f.w := Nat.mod_eq_of_lt (bits_lt ..)
  unfold FSpec.written
  cases f.ty <;> cases stopped <;> simp [h, ho]

/-- A field of which every bit is written takes the value. -/
theorem FSpec.taken_whole (f : FSpec) (old v : Nat) {mask : Nat} (h : bits mask f.lo f.w = 2 ^ f.w - 1) : f.taken old v mask = bits v f.lo f.w := by
  have hv : Nat.land (bits v f.lo f.w) (2 ^ f.w - 1) = bits v f.lo f.w := by
    change bits v f.lo f.w &&& (2 ^ f.w - 1) = _
    rw [Nat.and_two_pow_sub_one_eq_mod, Nat.mod_eq_of_lt (bits_lt ..)]
  rw [FSpec.taken, h, Nat.sub_self, hv]
  change (bits old f.lo f.w &&& 0) ||| _ = _
  rw [Nat.and_zero, Nat.zero_or]

/-- A set bit that is written 1 is 1. -/
theorem FSpec.written_w1s_one {f : FSpec} (stopped : Bool) (old : Nat) {v mask : Nat} (hty : f.ty = .w1s) (hw : f.w = 1)
    (hv : bits v f.lo f.w = 1) (hmask : bits mask f.lo f.w = 1) : (f.written stopped old v mask).1 = 1 := by
  have ho := bits_lt old f.lo f.w
  rw [FSpec.written_w1s stopped old v mask hty, hv, hmask]
  rw [hw] at ho ⊢
  rcases Nat.lt_succ_iff.mp ho |> Nat.le_one_iff_eq_zero_or_eq_one.mp with ho | ho <;> rw [ho] <;> rfl

theorem FSpec.written_lt (f : FSpec) (stopped : Bool) (old v mask : Nat) : (f.written stopped old v mask).1 < 2 ^ f.w := by
  have ho := bits_lt old f.lo f.w
  have hset : Nat.lor (bits old f.lo f.w) (Nat.land (bits v f.lo f.w) (bits mask f.lo f.w)) < 2 ^ f.w :=
    Nat.or_lt_two_pow ho (Nat.lt_of_le_of_lt Nat.and_le_left (bits_lt v f.lo f.w))
  have htaken := f.taken_lt old v mask
  cases hty : f.ty with
  | rw => rwa [FSpec.written_rw old v mask (.inl hty)]
  | ro => rwa [FSpec.written_kept stopped old v mask (.inl hty)]
  | rc => rwa [FSpec.written_kept stopped old v mask (.inr hty)]
  | w1c => rw [FSpec.written_w1c stopped old v mask hty]; exact Nat.lt_of_le_of_lt (Nat.sub_le ..) ho
  | w1s => rwa [FSpec.written_w1s stopped old v mask hty]
  | rws =>
    cases stopped with
    | true => rwa [FSpec.written_rw old v mask (.inr ⟨hty, rfl⟩)]
    | false => rwa [FSpec.written_rws_running old v mask hty]

/-- One field of a register under a write: its value is entered, and a refusal is noted. -/
def FSpec.enter (stopped : Bool) (old v mask : Nat) (a : Nat × Bool) (f : FSpec) : Nat × Bool :=
  (setBits a.1 f.lo f.w (f.written stopped old v mask).1, a.2 || (f.written stopped old v mask).2)

theorem RegDef.written_eq (d : RegDef) (stopped : Bool) (old v mask : Nat) :
    d.written stopped old v mask = d.fields.foldl (FSpec.enter stopped old v mask) (old, false) := rfl

section
variable {fs : List FSpec} {stopped : Bool} {old v mask : Nat}

theorem foldl_enter_snd (a : Nat × Bool) :
    (fs.foldl (FSpec.enter stopped old v mask) a).2 = (a.2 || fs.any fun f => (f.written stopped old v mask).2) := by
  induction fs generalizing a with
  | nil => simp
  | cons f fs ih => rw [List.foldl_cons, ih, FSpec.enter, List.any_cons, Bool.or_assoc]

theorem foldl_enter_lt (h : ∀ f ∈ fs, f.lo + f.w ≤ 64) {a : Nat × Bool} (ha : a.1 < 2 ^ 64) :
    (fs.foldl (FSpec.enter stopped old v mask) a).1 < 2 ^ 64 := by
  induction fs generalizing a with
  | nil => exact ha
  | cons f fs ih =>
    obtain ⟨hf, hfs⟩ := List.forall_mem_cons.mp h
    exact ih hfs (setBits_lt _ _ _ _ 64 ha hf)

theorem bits_foldl_enter_apart {f : FSpec} (h : ∀ g ∈ fs, f.Apart g) (a : Nat × Bool) :
    bits (fs.foldl (FSpec.enter stopped old v mask) a).1 f.lo f.w = bits a.1 f.lo f.w := by
  induction fs generalizing a with
  | nil => rfl
  | cons g fs ih =>
    obtain ⟨hg, hfs⟩ := List.forall_mem_cons.mp h
    refine (ih hfs _).trans ?_
    rcases hg with hg | hg
    · exact bits_setBits_below _ _ _ _ _ _ hg
    · exact bits_setBits_above _ _ _ _ _ _ hg

theorem bits_foldl_enter (h : fs.Pairwise FSpec.Apart) {f : FSpec} (hf : f ∈ fs) (a : Nat × Bool) :
    bits (fs.foldl (FSpec.enter stopped old v mask) a).1 f.lo f.w = (f.written stopped old v mask).1 := by
  induction fs generalizing a with
  | nil => cases hf
  | cons g fs ih =>
    obtain ⟨hg, hfs⟩ := List.pairwise_cons.mp h
    rcases List.mem_cons.mp hf with rfl | hf
    · refine (bits_foldl_enter_apart hg _).trans ?_
      rw [FSpec.enter, bits_setBits_self, Nat.mod_eq_of_lt (f.written_lt ..)]
    · exact ih hfs hf _

end

/-- A write is refused in part where one of the fields refuses it. -/
theorem RegDef.written_snd (d : RegDef) (stopped : Bool) (old v mask : Nat) :
    (d.written stopped old v mask).2 = d.fields.any fun f => (f.written stopped old v mask).2 := by
  rw [RegDef.written_eq, foldl_enter_snd, Bool.false_or]

/-- Each field of a register holds after a write what its type gives it. -/
theorem RegDef.bits_written {d : RegDef} (hd : d.laid = true) {f : FSpec} (hf : f ∈ d.fields) (stopped : Bool) (old v mask : Nat) :
    bits (d.written stopped old v mask).1 f.lo f.w = (f.written stopped old v mask).1 :=
  bits_foldl_enter (d.laid_iff.mp hd).1 hf _

theorem RegDef.written_lt {d : RegDef} (hd : d.laid = true) (stopped : Bool) {old : Nat} (v mask : Nat) (hold : old < 2 ^ 64) :
    (d.written stopped old v mask).1 < 2 ^ 64 :=
  foldl_enter_lt (d.laid_iff.mp hd).2 hold

/-! ### A write of a register of a furrow -/

/-- The block after an access has ended what waited for the halves of the register (R16, R549). -/
def Ilpiac.whole (m : Ilpiac) (k : Nat) : Ilpiac := (m.unlatch k).unpend k

/-- An access to one field that reaches the block is a write of that field's bits. -/
theorem Ilpiac.fieldAccess_reaches {b : Blk} {n : Nat} {f : Fld} (h : m.Reaches (f.key b n 0)) (v : Nat) :
    m.fieldAccess b n f v =
      (m.whole (f.key b n 0)).writeReg (f.key b n 0) (v % 2 ^ f.w * 2 ^ f.lo) ((2 ^ f.w - 1) * 2 ^ f.lo) := by
  rw [Ilpiac.fieldAccess, Ilpiac.access_linked h.toLinked]
  unfold Ilpiac.doAccess
  dsimp only
  rw [if_neg (Nat.not_le.mpr h.inside), if_neg (by simp [h.here]), Ilpiac.whole]

theorem Ilpiac.Reaches.furrowPresent {n off : Nat} (h : m.Reaches (furrowKey n off)) (hn : n < 64) (hoff : off < 0x1000) :
    m.furrowPresent n = true := by
  have hhere := h.here
  simp only [Ilpiac.responds, Ilpiac.unitHere, locate_furrow hn hoff, Bool.and_eq_true] at hhere
  exact hhere.2

theorem Ilpiac.globEffect_of_ge (m : Ilpiac) {k : Nat} (h : 0x400000 ≤ k) (old : Nat) : m.globEffect k old = m := by
  unfold Ilpiac.globEffect
  repeat rw [if_neg (by omega)]

/-- The fields of a furrow's register are written by their types, and what the write brings about in the furrow follows. -/
theorem Ilpiac.writeReg_furrow {n off : Nat} {d : RegDef} {j : Nat} (hn : n < 64) (hoff : off < 0x1000)
    (hd : regDefAt .furrow off = some (d, j)) (m : Ilpiac) (v mask : Nat) :
    let k := furrowKey n off
    let x := d.written (m.ownerStopped k) (m.reg k).toNat v mask
    m.writeReg k v mask = ((m.refusal k x.2).setReg k (BitVec.ofNat 64 x.1)).unitEffect .furrow n off (m.reg k).toNat := by
  intro k x
  have hloc : locate k = (.furrow, n, off) := locate_furrow hn hoff
  have hk : 0x400000 ≤ k ∧ k < 0x440000 := by
    simp only [k, furrowKey]
    omega
  have hc (m : Ilpiac) (old x : Nat) : m.constrained k old x = x := by
    unfold Ilpiac.constrained
    rw [hloc]
    dsimp only
    repeat rw [if_neg (by omega)]
    rw [if_neg (by simp), if_neg (by simp)]
  have hstore : m.writeReg k v mask = m.storeReg k v mask := by
    unfold Ilpiac.writeReg
    rw [hloc]
    dsimp only
    repeat rw [if_neg (by omega)]
    rw [if_neg (by simp), if_neg (by simp)]
  rw [hstore]
  unfold Ilpiac.storeReg
  simp only [hloc, hd, hc, Ilpiac.globEffect_of_ge _ hk.1, reduceCtorEq, false_and, if_false]
  rfl

/-- The block in which a register holds what a write gives it. -/
def Ilpiac.entered (m : Ilpiac) (k : Nat) (d : RegDef) (v mask : Nat) : Ilpiac :=
  m.setReg k (BitVec.ofNat 64 (d.written (m.ownerStopped k) (m.reg k).toNat v mask).1)

/-- Where no field refuses the write, nothing else happens than it brings about in the furrow. -/
theorem Ilpiac.writeReg_furrow_taken {n off : Nat} {d : RegDef} {j : Nat} (hn : n < 64) (hoff : off < 0x1000)
    (hd : regDefAt .furrow off = some (d, j)) (m : Ilpiac) (v mask : Nat)
    (htaken : ∀ f ∈ d.fields, f.ty = .rws → bits mask f.lo f.w = 0) :
    m.writeReg (furrowKey n off) v mask =
      (m.entered (furrowKey n off) d v mask).unitEffect .furrow n off (m.reg (furrowKey n off)).toNat := by
  have hnone (stopped : Bool) (old : Nat) : (d.written stopped old v mask).2 = false := by
    rw [RegDef.written_snd, List.any_eq_false]
    intro f hf
    by_cases hty : f.ty = .rws
    · rw [f.written_unmasked stopped old v (htaken f hf hty)]
      exact Bool.false_ne_true
    · rw [FSpec.written_taken_whole old v mask (fun h => hty h.1)]
      exact Bool.false_ne_true
  rw [Ilpiac.writeReg_furrow hn hoff hd, hnone, Ilpiac.refusal, if_neg Bool.false_ne_true, Ilpiac.entered]

/-- A field of the register reads as its type takes the write. -/
theorem Ilpiac.rd_entered {d : RegDef} (hd : d.laid = true) {g : Fld} (ty : FTy) (hg : ⟨g.lo, g.w, ty⟩ ∈ d.fields) (m : Ilpiac) (n v mask : Nat) :
    (m.entered (furrowKey n g.off) d v mask).rd .furrow n g =
      (FSpec.written ⟨g.lo, g.w, ty⟩ (m.ownerStopped (furrowKey n g.off)) (m.reg (furrowKey n g.off)).toNat v mask).1 := by
  rw [Ilpiac.rd, Fld.key_furrow, Ilpiac.entered, Ilpiac.reg_setReg_self, BitVec.toNat_ofNat,
    Nat.mod_eq_of_lt (RegDef.written_lt hd _ _ _ (BitVec.isLt _))]
  exact RegDef.bits_written hd hg ..

theorem Ilpiac.rd_entered_ne (m : Ilpiac) (n : Nat) {off : Nat} {g : Fld} (h : g.off ≠ off) (d : RegDef) (v mask : Nat) :
    (m.entered (furrowKey n off) d v mask).rd .furrow n g = m.rd .furrow n g := by
  rw [Ilpiac.rd, Fld.key_furrow, Ilpiac.entered, Ilpiac.reg_setReg_ne _ _ (by unfold furrowKey; omega), Ilpiac.rd, Fld.key_furrow]

theorem Ilpiac.furrowPresent_entered (m : Ilpiac) (n off : Nat) (d : RegDef) (v mask i : Nat) :
    (m.entered (furrowKey n off) d v mask).furrowPresent i = m.furrowPresent i := by
  have hcap : F.CAP_PRESENT_FURROWS.key .glob 0 0 = 0x10 := rfl
  rw [Ilpiac.furrowPresent, Ilpiac.furrowPresent, Ilpiac.g, Ilpiac.rd, hcap, Ilpiac.entered,
    Ilpiac.reg_setReg_ne _ _ (by unfold furrowKey; omega), Ilpiac.g, Ilpiac.rd, hcap]

theorem Ilpiac.entered_coll (m : Ilpiac) (k : Nat) (d : RegDef) (v mask : Nat) : (m.entered k d v mask).coll = m.coll := rfl

end Sys2Proof.Machine

end

section
/-! Furrow control (spec 04: R154, R155, R157, R158, R160 to R164): retirement, disabling, gating and enabling of a furrow, and arming its
injection. -/

namespace Sys2Proof.Machine

variable {m : Ilpiac} {f : Nat}

/-! ### An assertion names its unit (R487, R489) -/

/-- A source asserts for a unit. -/
def Ilpiac.Asserts (m : Ilpiac) (src unit : Nat) : Prop := ∃ a ∈ m.flt.asserts, a.src = src ∧ a.unit = unit

section
variable {src unit : Nat}

theorem Ilpiac.Asserts.congr {m' : Ilpiac} (h : m.Asserts src unit) (hsame : m'.flt.asserts = m.flt.asserts) : m'.Asserts src unit := by
  rwa [Ilpiac.Asserts, hsame]

theorem Ilpiac.Asserts.markLatched {a : Assertion} (h : m.Asserts src unit) : (m.markLatched a).Asserts src unit := by
  obtain ⟨b, hb, hsame⟩ := h
  rcases Ilpiac.mem_marked (a := a) hb with hm | hm
  · exact ⟨_, hm, hsame⟩
  · exact ⟨_, hm, hsame⟩

theorem Ilpiac.asserts_dueAtOnce (m : Ilpiac) (src : Nat) : (m.dueAtOnce src).flt.asserts = m.flt.asserts := by
  unfold Ilpiac.dueAtOnce
  split <;> rfl

theorem Ilpiac.Asserts.latch {a : Assertion} (h : m.Asserts src unit) : (m.latch a).Asserts src unit := by
  refine (h.markLatched (a := a)).congr ?_
  rw [Ilpiac.latch, Ilpiac.asserts_dueAtOnce]
  simp

theorem Ilpiac.Asserts.latchNext (h : m.Asserts src unit) : m.latchNext.Asserts src unit := by
  unfold Ilpiac.latchNext
  split
  · split
    · exact h.latch
    · exact h
  · exact h

/-- A source that is raised asserts for the unit, anew or still. -/
theorem Ilpiac.asserts_raise (m : Ilpiac) (src unit detail : Nat) : (m.raise src unit detail).Asserts src unit := by
  unfold Ilpiac.raise
  extract_lets was a on m1
  have h1 : m1.Asserts src unit := ⟨a, List.mem_append_right _ (List.mem_singleton_self a), rfl, rfl⟩
  split
  · rename_i hstill
    obtain ⟨b, hb, hsame⟩ := List.any_eq_true.mp hstill.2
    simp only [Bool.and_eq_true, beq_iff_eq] at hsame
    exact ⟨b, hb, hsame.1⟩
  · split
    · exact h1
    · split
      · exact h1.latch
      · split
        · split
          · exact h1
          · exact h1.congr (by simp)
        · exact h1.latchNext

end

/-! ### Retirement (R155) -/

/-- A furrow that is marked as retired, and whose contexts are to move. -/
def Ilpiac.markRetired (m : Ilpiac) (f : Nat) : Ilpiac :=
  let m := m.wr .furrow f F.FURROW_STATUS_STATE furrowRetired
  let m := m.gw F.FURROW_RETIRED_RETIRED (setBit (m.g F.FURROW_RETIRED_RETIRED) f)
  m.setFx f { m.fx f with moving := true }

theorem Ilpiac.retireFurrow_of_serving (h : m.furrowState f ≠ furrowRetired) : m.retireFurrow f = (m.markRetired f).raise srcFurrow f 0 := if_neg h

/-- What the fault collector does changes none but its own registers. -/
theorem Ilpiac.reg_raise_furrow (m : Ilpiac) (unit detail : Nat) {k : Nat} (hk : k ∉ collectorRegs) :
    (m.raise srcFurrow unit detail).reg k = m.reg k := by
  obtain ⟨a, -, -, h⟩ := m.records_raise (src := srcFurrow) (by decide) unit detail
  exact h.regs k hk

theorem Ilpiac.rd_raise_furrow (m : Ilpiac) (unit detail : Nat) {b : Blk} {n : Nat} {g : Fld} (hk : g.key b n 0 ∉ collectorRegs) :
    (m.raise srcFurrow unit detail).rd b n g = m.rd b n g := by
  rw [Ilpiac.rd, Ilpiac.reg_raise_furrow _ _ _ hk, Ilpiac.rd]

/-- The collector writes no register of a furrow. -/
theorem Fld.key_furrow_notMem_collectorRegs (g : Fld) (f : Nat) (h : g.off < 0x1000) (hf : f < 64) : g.key .furrow f 0 ∉ collectorRegs := by
  simp only [Fld.key_furrow, furrowKey, collectorRegs, List.mem_cons, List.not_mem_nil, or_false]
  omega

@[simp] theorem Ilpiac.fx_setFx (m : Ilpiac) (f : Nat) (x : FurrowX) : (m.setFx f x).fx f = x := Map.get_put_self ..

theorem Ilpiac.rd_setFx (m : Ilpiac) (f : Nat) (x : FurrowX) (b : Blk) (n : Nat) (g : Fld) (j : Nat) : (m.setFx f x).rd b n g j = m.rd b n g j := rfl

theorem Ilpiac.fx_congr {m' : Ilpiac} (h : m'.coll = m.coll) (f : Nat) : m'.fx f = m.fx f := by
  rw [Ilpiac.fx, h, Ilpiac.fx]

theorem bitOf_mod_two_pow (x : Nat) {i w : Nat} (h : i < w) : bitOf (x % 2 ^ w) i = bitOf x i := by
  simp [bitOf_eq_testBit, h]

theorem Ilpiac.rd_markRetired (m : Ilpiac) (hf : f < 64) {g : Fld} (hg : g.off < 0x1000) :
    (m.markRetired f).rd .furrow f g = (m.wr .furrow f F.FURROW_STATUS_STATE furrowRetired).rd .furrow f g := by
  have hkey : g.key .furrow f 0 ≠ F.FURROW_RETIRED_RETIRED.key .glob 0 0 := by
    have hretired : F.FURROW_RETIRED_RETIRED.key .glob 0 0 = 0x440018 := rfl
    rw [Fld.key_furrow, hretired, furrowKey]
    omega
  rw [Ilpiac.markRetired, Ilpiac.rd_setFx, Ilpiac.gw, Ilpiac.rd_wr_ne _ _ _ _ _ _ _ _ _ _ hkey]

theorem Ilpiac.g_markRetired (m : Ilpiac) (hf : f < 64) : bitOf ((m.markRetired f).g F.FURROW_RETIRED_RETIRED) f = true := by
  have hw : F.FURROW_RETIRED_RETIRED.w = 64 := rfl
  rw [Ilpiac.markRetired, Ilpiac.g, Ilpiac.rd_setFx, ← Ilpiac.g, Ilpiac.g_gw_self _ _ _ _ (by decide), hw, bitOf_mod_two_pow _ hf, bitOf_setBit]

/-- Retirement marks the furrow, makes its contexts move, and is reported for that furrow. -/
theorem Ilpiac.retireFurrow_retires (hf : f < 64) (h : m.furrowState f ≠ furrowRetired) : (m.retireFurrow f).furrowState f = furrowRetired ∧
    bitOf ((m.retireFurrow f).g F.FURROW_RETIRED_RETIRED) f = true ∧ ((m.retireFurrow f).fx f).moving = true ∧
    (m.retireFurrow f).Asserts srcFurrow f := by
  rw [Ilpiac.retireFurrow_of_serving h]
  refine ⟨?_, ?_, ?_, Ilpiac.asserts_raise ..⟩
  · rw [Ilpiac.furrowState, Ilpiac.rd_raise_furrow _ _ _ (Fld.key_furrow_notMem_collectorRegs _ f (by decide) hf), Ilpiac.rd_markRetired m hf (by decide),
      Ilpiac.rd_wr_self _ _ _ _ _ _ (by decide)]
    rfl
  · rw [Ilpiac.g, Ilpiac.rd_raise_furrow _ _ _ (by decide), ← Ilpiac.g, Ilpiac.g_markRetired m hf]
  · rw [Ilpiac.fx_congr (m := m.markRetired f) (by simp), Ilpiac.markRetired, Ilpiac.fx_setFx]

/-- Retirement leaves the registers of the furrow but its status. -/
theorem Ilpiac.rd_retireFurrow (m : Ilpiac) (hf : f < 64) {g : Fld} (hg : g.off < 0x1000)
    (hstatus : Fld.apart F.FURROW_STATUS_STATE 0 g 0 = true := by decide) : (m.retireFurrow f).rd .furrow f g = m.rd .furrow f g := by
  by_cases h : m.furrowState f = furrowRetired
  · rw [Ilpiac.retireFurrow, if_pos h]
  · rw [Ilpiac.retireFurrow_of_serving h, Ilpiac.rd_raise_furrow _ _ _ (Fld.key_furrow_notMem_collectorRegs _ f hg hf),
      Ilpiac.rd_markRetired m hf hg, Ilpiac.rd_wr_apart _ _ _ _ hstatus]

/-! ### What a write of FURROW_CTRL brings about (R160) -/

/-- RETIRE was 0 and is 1, and ENABLE stays: the furrow retires. -/
theorem Ilpiac.unitEffect_furrowCtrl_retire {old : Nat} (hf : f < 64) (hp : m.furrowPresent f = true)
    (hretire : m.rd .furrow f F.FURROW_CTRL_RETIRE = 1) (hold : bits old 1 1 = 0)
    (hsame : m.rd .furrow f F.FURROW_CTRL_ENABLE = bits old 0 1) :
    m.unitEffect .furrow f 0 old = (m.wr .furrow f F.FURROW_CTRL_RETIRE 1).retireFurrow f := by
  have hw : m.retireWrite f = (m.wr .furrow f F.FURROW_CTRL_RETIRE 1).retireFurrow f := by simp [Ilpiac.retireWrite, hp]
  have henable : ((m.wr .furrow f F.FURROW_CTRL_RETIRE 1).retireFurrow f).rd .furrow f F.FURROW_CTRL_ENABLE = bits old 0 1 := by
    rw [Ilpiac.rd_retireFurrow _ hf (by decide), Ilpiac.rd_wr_apart, hsame]
  simp only [Ilpiac.unitEffect, hretire, hold, hw, henable, and_self, if_true]

/-- ENABLE was 0 and is 1, and RETIRE stays: a furrow that is not RETIRED is ACTIVE. -/
theorem Ilpiac.unitEffect_furrowCtrl_enable {old : Nat} (hp : m.furrowPresent f = true)
    (hretire : m.rd .furrow f F.FURROW_CTRL_RETIRE = bits old 1 1) (henable : m.rd .furrow f F.FURROW_CTRL_ENABLE = 1)
    (hold : bits old 0 1 = 0) (hs : m.furrowState f ≠ furrowRetired) :
    m.unitEffect .furrow f 0 old =
      ((m.wr .furrow f F.FURROW_CTRL_ENABLE 1).wr .furrow f F.FURROW_STATUS_STATE furrowActive).rehome := by
  have hstate : (m.wr .furrow f F.FURROW_CTRL_ENABLE 1).furrowState f ≠ furrowRetired := by
    rwa [Ilpiac.furrowState, Ilpiac.rd_wr_apart]
  have hno : ¬(bits old 1 1 = 1 ∧ bits old 1 1 = 0) := by omega
  simp only [Ilpiac.unitEffect, hretire, hno, henable, hold, Ilpiac.enableFurrow, hp, hstate, Bool.not_true, Bool.false_eq_true,
    one_ne_zero, if_true, if_false]

/-- ENABLE was 1 and is 0, and RETIRE stays: an ACTIVE furrow drains. -/
theorem Ilpiac.unitEffect_furrowCtrl_disable {old : Nat} (hp : m.furrowPresent f = true)
    (hretire : m.rd .furrow f F.FURROW_CTRL_RETIRE = bits old 1 1) (henable : m.rd .furrow f F.FURROW_CTRL_ENABLE = 0)
    (hold : bits old 0 1 = 1) (hs : m.furrowState f = furrowActive) :
    m.unitEffect .furrow f 0 old =
      (m.wr .furrow f F.FURROW_CTRL_ENABLE 0).wr .furrow f F.FURROW_STATUS_STATE furrowDraining := by
  have hstate : (m.wr .furrow f F.FURROW_CTRL_ENABLE 0).furrowState f = furrowActive := by
    rwa [Ilpiac.furrowState, Ilpiac.rd_wr_apart]
  have hno : ¬(bits old 1 1 = 1 ∧ bits old 1 1 = 0) := by omega
  simp only [Ilpiac.unitEffect, hretire, hno, henable, hold, Ilpiac.disableFurrow, hp, hstate, Bool.not_true, Bool.false_eq_true,
    zero_ne_one, if_true, if_false]

/-! ### Commands that write FURROW_CTRL and FURROW_INJECT -/

/-- FURROW_CTRL (R160). -/
def furrowCtrlDef : RegDef := ⟨.furrow, 0x0, 1, 8, [⟨0, 1, .rw⟩, ⟨1, 1, .w1s⟩, ⟨8, 4, .rws⟩], [0x301]⟩
/-- FURROW_INJECT (R164). -/
def furrowInjectDef : RegDef := ⟨.furrow, 0x20, 1, 8, [⟨0, 10, .rw⟩, ⟨10, 1, .rw⟩, ⟨11, 1, .w1s⟩, ⟨12, 1, .rw⟩], [0x0]⟩

theorem regDefAt_furrowCtrl : regDefAt .furrow 0 = some (furrowCtrlDef, 0) := rfl
theorem regDefAt_furrowInject : regDefAt .furrow 0x20 = some (furrowInjectDef, 0) := rfl

theorem furrowCtrlDef_laid : furrowCtrlDef.laid = true := by decide
theorem furrowInjectDef_laid : furrowInjectDef.laid = true := by decide

section
variable {n : Nat}

/-- What a write of RETIRE alone enters: the bit is set; ENABLE and the rest of the furrow stay. -/
theorem Ilpiac.entered_retire (m : Ilpiac) :
    let m1 := m.entered (furrowKey n 0) furrowCtrlDef 2 2
    m1.rd .furrow n F.FURROW_CTRL_RETIRE = 1 ∧ m1.rd .furrow n F.FURROW_CTRL_ENABLE = bits (m.reg (furrowKey n 0)).toNat 0 1 ∧
      m1.furrowState n = m.furrowState n := by
  refine ⟨?_, ?_, Ilpiac.rd_entered_ne _ n (by decide) _ _ _⟩
  · exact (Ilpiac.rd_entered furrowCtrlDef_laid (g := F.FURROW_CTRL_RETIRE) .w1s (by decide) m n 2 2).trans
      (FSpec.written_w1s_one _ _ rfl rfl rfl rfl)
  · exact (Ilpiac.rd_entered furrowCtrlDef_laid (g := F.FURROW_CTRL_ENABLE) .rw (by decide) m n 2 2).trans
      (congrArg Prod.fst (FSpec.written_unmasked _ _ _ _ rfl))

/-- What a write of ENABLE alone enters: the bit; RETIRE and the rest of the furrow stay. -/
theorem Ilpiac.entered_enable (m : Ilpiac) (v : Nat) (hv : v < 2) :
    let m1 := m.entered (furrowKey n 0) furrowCtrlDef v 1
    m1.rd .furrow n F.FURROW_CTRL_ENABLE = v ∧ m1.rd .furrow n F.FURROW_CTRL_RETIRE = bits (m.reg (furrowKey n 0)).toNat 1 1 ∧
      m1.furrowState n = m.furrowState n := by
  refine ⟨?_, ?_, Ilpiac.rd_entered_ne _ n (by decide) _ _ _⟩
  · refine (Ilpiac.rd_entered furrowCtrlDef_laid (g := F.FURROW_CTRL_ENABLE) .rw (by decide) m n v 1).trans ?_
    rw [FSpec.written_rw _ _ _ (.inl rfl), FSpec.taken_whole _ _ _ rfl]
    change v / 2 ^ 0 % 2 ^ 1 = v
    omega
  · exact (Ilpiac.rd_entered furrowCtrlDef_laid (g := F.FURROW_CTRL_RETIRE) .w1s (by decide) m n v 1).trans
      (congrArg Prod.fst (FSpec.written_unmasked _ _ _ _ rfl))

/-- What a write of FURROW_INJECT enters: CELL as written, and ARM where it is written 1. -/
theorem Ilpiac.entered_inject (m : Ilpiac) (v : Nat) :
    let m1 := m.entered (furrowKey n 0x20) furrowInjectDef v (2 ^ 64 - 1)
    m1.rd .furrow n F.FURROW_INJECT_CELL = bits v 0 10 ∧ (bitOf v 11 = true → m1.rd .furrow n F.FURROW_INJECT_ARM = 1) := by
  refine ⟨?_, fun harm => ?_⟩
  · refine (Ilpiac.rd_entered furrowInjectDef_laid (g := F.FURROW_INJECT_CELL) .rw (by decide) m n v _).trans ?_
    rw [FSpec.written_rw _ _ _ (.inl rfl), FSpec.taken_whole _ _ _ (by decide)]
    rfl
  · refine (Ilpiac.rd_entered furrowInjectDef_laid (g := F.FURROW_INJECT_ARM) .w1s (by decide) m n v _).trans ?_
    exact FSpec.written_w1s_one _ _ rfl rfl (beq_iff_eq.mp harm) (by decide)

variable (hn : n < 64)
include hn

/-- A write of ENABLE or RETIRE alone enters the bit; what it brings about follows. -/
theorem Ilpiac.fieldAccess_furrowCtrl {g : Fld} (hoff : g.off = 0) (h : m.Reaches (furrowKey n 0)) {v x mask : Nat}
    (hx : v % 2 ^ g.w * 2 ^ g.lo = x) (hmask : (2 ^ g.w - 1) * 2 ^ g.lo = mask) (hlimit : bits mask 8 4 = 0) :
    m.fieldAccess .furrow n g v =
      ((m.whole (furrowKey n 0)).entered (furrowKey n 0) furrowCtrlDef x mask).unitEffect .furrow n 0 (m.reg (furrowKey n 0)).toNat := by
  have hkey : g.key .furrow n 0 = furrowKey n 0 := by rw [Fld.key_furrow, hoff]
  rw [Ilpiac.fieldAccess_reaches (hkey ▸ h), hkey, hx, hmask, Ilpiac.writeReg_furrow_taken hn (by decide) regDefAt_furrowCtrl]
  · rfl
  · simpa [furrowCtrlDef] using hlimit

/-- RETIRE written 1 in a furrow that serves retires it (R155). -/
theorem Ilpiac.fieldAccess_retire (h : m.Reaches (furrowKey n 0)) (hretire : m.rd .furrow n F.FURROW_CTRL_RETIRE = 0)
    (hs : m.furrowState n ≠ furrowRetired) :
    ∃ m1 : Ilpiac, m.fieldAccess .furrow n F.FURROW_CTRL_RETIRE 1 = m1.retireFurrow n ∧ m1.furrowState n ≠ furrowRetired := by
  obtain ⟨hretire1, henable1, hstate⟩ := Ilpiac.entered_retire (n := n) (m.whole (furrowKey n 0))
  refine ⟨((m.whole (furrowKey n 0)).entered (furrowKey n 0) furrowCtrlDef 2 2).wr .furrow n F.FURROW_CTRL_RETIRE 1, ?_, ?_⟩
  · rw [Ilpiac.fieldAccess_furrowCtrl (x := 2) (mask := 2) hn rfl h rfl rfl rfl]
    refine Ilpiac.unitEffect_furrowCtrl_retire hn ?_ hretire1 ?_ henable1
    · exact (Ilpiac.furrowPresent_entered _ n 0 _ _ _ n).trans (h.furrowPresent hn (by decide))
    · rwa [Ilpiac.rd, Fld.key_furrow] at hretire
  · rw [Ilpiac.furrowState, Ilpiac.rd_wr_apart, ← Ilpiac.furrowState, hstate]
    exact hs

/-- ENABLE written 0 in an ACTIVE furrow: it drains (R158). -/
theorem Ilpiac.fieldAccess_disable (h : m.Reaches (furrowKey n 0)) (henable : m.rd .furrow n F.FURROW_CTRL_ENABLE = 1)
    (hs : m.furrowState n = furrowActive) :
    ∃ m1 : Ilpiac, m.fieldAccess .furrow n F.FURROW_CTRL_ENABLE 0 =
        (m1.wr .furrow n F.FURROW_CTRL_ENABLE 0).wr .furrow n F.FURROW_STATUS_STATE furrowDraining ∧ m1.coll = m.coll := by
  obtain ⟨henable1, hretire1, hstate⟩ := Ilpiac.entered_enable (m.whole (furrowKey n 0)) 0 (by decide)
  refine ⟨_, ?_, Ilpiac.entered_coll (m.whole (furrowKey n 0)) (furrowKey n 0) furrowCtrlDef 0 1⟩
  rw [Ilpiac.fieldAccess_furrowCtrl (x := 0) (mask := 1) hn rfl h rfl rfl rfl]
  refine Ilpiac.unitEffect_furrowCtrl_disable ?_ hretire1 henable1 ?_ (hstate.trans hs)
  · exact (Ilpiac.furrowPresent_entered _ n 0 _ _ _ n).trans (h.furrowPresent hn (by decide))
  · rwa [Ilpiac.rd, Fld.key_furrow] at henable

/-- ENABLE written 1 in a furrow that is not RETIRED: it is ACTIVE, and contexts that wait for an ACTIVE furrow find one (R155, R158). -/
theorem Ilpiac.fieldAccess_enable (h : m.Reaches (furrowKey n 0)) (henable : m.rd .furrow n F.FURROW_CTRL_ENABLE = 0)
    (hs : m.furrowState n ≠ furrowRetired) :
    ∃ m1 : Ilpiac, m.fieldAccess .furrow n F.FURROW_CTRL_ENABLE 1 =
        ((m1.wr .furrow n F.FURROW_CTRL_ENABLE 1).wr .furrow n F.FURROW_STATUS_STATE furrowActive).rehome ∧ m1.coll = m.coll := by
  obtain ⟨henable1, hretire1, hstate⟩ := Ilpiac.entered_enable (m.whole (furrowKey n 0)) 1 (by decide)
  refine ⟨_, ?_, Ilpiac.entered_coll (m.whole (furrowKey n 0)) (furrowKey n 0) furrowCtrlDef 1 1⟩
  rw [Ilpiac.fieldAccess_furrowCtrl (x := 1) (mask := 1) hn rfl h rfl rfl rfl]
  refine Ilpiac.unitEffect_furrowCtrl_enable ?_ hretire1 henable1 ?_ (by rwa [hstate])
  · exact (Ilpiac.furrowPresent_entered _ n 0 _ _ _ n).trans (h.furrowPresent hn (by decide))
  · rwa [Ilpiac.rd, Fld.key_furrow] at henable

/-- A write of FURROW_INJECT enters its fields, and nothing follows from it (R164). -/
theorem Ilpiac.access_furrowInject (h : m.Reaches (furrowKey n 0x20)) (v : Word) :
    m.access (.write (furrowKey n 0x20) v) =
      (m.whole (furrowKey n 0x20)).entered (furrowKey n 0x20) furrowInjectDef v.toNat (2 ^ 64 - 1) := by
  rw [Ilpiac.access_write h, ← Ilpiac.whole, Ilpiac.writeReg_furrow_taken hn (by decide) regDefAt_furrowInject]
  · rfl
  · decide

end

end Sys2Proof.Machine

end

section
/-! Groups of a furrow and spilled values (spec 04: R146, R147, R153, R154, R162 to R165): the counts and records of a group, its cells, and a
value read back. -/

namespace Sys2Proof.Machine

variable {m : Ilpiac} {f : Nat} {x : CtxId}

/-! ### What changes of contexts, collectives and furrows leave alone -/

section
variable (m : Ilpiac) (k : CollId) (c : Coll → Coll) (x y : CtxId) (g : Ctx → Ctx) (f n : Nat) (z : FurrowX) (b : Blk) (l : Fld) (j : Nat)

theorem Ilpiac.ctxOf_setFx : (m.setFx f z).ctxOf x = m.ctxOf x := rfl
theorem Ilpiac.rd_updColl : (m.updColl k c).rd b n l j = m.rd b n l j := rfl
theorem Ilpiac.fx_updColl : (m.updColl k c).fx f = m.fx f := rfl
theorem Ilpiac.rd_updCtx : (m.updCtx x g).rd b n l j = m.rd b n l j := rfl
theorem Ilpiac.fx_updCtx : (m.updCtx x g).fx f = m.fx f := rfl

end

theorem Ilpiac.ctxOf_congr {m' : Ilpiac} (h : m'.coll = m.coll) (x : CtxId) : m'.ctxOf x = m.ctxOf x := by
  rw [Ilpiac.ctxOf, h, Ilpiac.ctxOf]

/-! ### Groups (R153, R154) -/

/-- Without an armed injection no mismatch is forced (R157). -/
theorem Ilpiac.injected_unarmed (harm : m.rd .furrow f F.FURROW_INJECT_ARM = 0) (hsticky : m.rd .furrow f F.FURROW_INJECT_STICKY = 0) :
    m.injected f = ([], m) := by
  simp [Ilpiac.injected, harm, hsticky]

/-- A furrow cycle of work is counted (R165). -/
def Ilpiac.busy (m : Ilpiac) (f : Nat) : Ilpiac := m.wrapCnt .furrow f F.BUSY_CYCLES_CYCLES 1

theorem Ilpiac.busy_coll (m : Ilpiac) (f : Nat) : (m.busy f).coll = m.coll := by
  simp [Ilpiac.busy]

theorem Ilpiac.rd_busy_self (m : Ilpiac) (f : Nat) :
    (m.busy f).rd .furrow f F.BUSY_CYCLES_CYCLES = (m.rd .furrow f F.BUSY_CYCLES_CYCLES + 1) % 2 ^ F.BUSY_CYCLES_CYCLES.w := by
  rw [Ilpiac.busy, Ilpiac.wrapCnt, Ilpiac.rd_wr_self _ _ _ _ _ _ (by decide)]

theorem Ilpiac.rd_busy (m : Ilpiac) (f : Nat) {g : Fld} (h : Fld.apart F.BUSY_CYCLES_CYCLES 0 g 0 = true := by decide) :
    (m.busy f).rd .furrow f g = m.rd .furrow f g := by
  rw [Ilpiac.busy, Ilpiac.wrapCnt, Ilpiac.rd_wr_apart _ _ _ _ h]

/-- The operation of a context changes. -/
def Ilpiac.setOp (m : Ilpiac) (x : CtxId) (o : NodeOp) : Ilpiac := m.updCtx x (fun c => { c with op := some o })

theorem Ilpiac.ctxOf_setOp {cx : Ctx} (h : m.ctxOf x = some cx) (o : NodeOp) : (m.setOp x o).ctxOf x = some { cx with op := some o } := by
  rw [Ilpiac.setOp, Ilpiac.ctxOf_updCtx, h, Option.map_some]

/-- The mismatches of a group are counted and recorded, and noted in its collective (R154, R162, R163). -/
def Ilpiac.noteFails (m : Ilpiac) (f : Nat) (x : CtxId) (store : Nat) (bad : List Mismatch) : Ilpiac :=
  (m.over bad (fun m b => m.recordFail f store b)).setInfo x.coll infoRecomputed

/-- The cells in which a group failed; a mismatch of the input or output stage (0x3FF) names none. -/
def failedCells (bad : List Mismatch) : List Nat := ((bad.map (·.cell)).filter (· != 0x3FF)).eraseDups

/-- The failures of cells that add up, those of `cells` now among them (R154). -/
def Ilpiac.failsWith (m : Ilpiac) (f : Nat) (cells : List Nat) : List (Nat × Nat) :=
  (m.fx f).fails.filter (fun e => decide (m.clk < e.2 + failWindow)) ++ cells.map (fun c => (c, m.clk))

def Ilpiac.setFails (m : Ilpiac) (f : Nat) (cells : List Nat) : Ilpiac := m.setFx f { m.fx f with fails := m.failsWith f cells }

/-- The cells that fail again, or as often as the limit says (R154). -/
def Ilpiac.goneCells (m : Ilpiac) (f : Nat) (o : NodeOp) (cells : List Nat) : List Nat :=
  cells.filter (fun c => o.failed.contains c ||
    decide (max 1 (m.rd .furrow f F.FURROW_CTRL_CELL_FAIL_LIMIT) ≤ ((m.failsWith f cells).filter (fun e => e.1 == c)).length))

/-- A furrow whose first operation is `o` of context `x`, and no injection of which is armed. -/
structure Ilpiac.Serves (m : Ilpiac) (f : Nat) (x : CtxId) (cx : Ctx) (o : NodeOp) : Prop where
  head : ∃ q, (m.fx f).queue = x :: q
  ctx : m.ctxOf x = some cx
  op : cx.op = some o
  unarmed : m.rd .furrow f F.FURROW_INJECT_ARM = 0
  unstuck : m.rd .furrow f F.FURROW_INJECT_STICKY = 0

section
variable {cx : Ctx} {o : NodeOp} (h : m.Serves f x cx o)
include h

theorem Ilpiac.Serves.injected_busy : (m.busy f).injected f = ([], m.busy f) :=
  Ilpiac.injected_unarmed ((m.rd_busy f).trans h.unarmed) ((m.rd_busy f).trans h.unstuck)

/-- The first pass is through: the operation waits for its second (R153). -/
theorem Ilpiac.Serves.groupComplete_first (hpassed : o.passed = 0) :
    m.groupComplete f [] = (m.busy f).setOp x { o with passed := 1, failed := [] } := by
  obtain ⟨q, hq⟩ := h.head
  have hinj := h.injected_busy
  unfold Ilpiac.busy at hinj
  simp [Ilpiac.groupComplete, hq, h.ctx, h.op, hinj, hpassed, Ilpiac.busy, Ilpiac.setOp]

/-- The second pass is through: the value goes on (R153). -/
theorem Ilpiac.Serves.groupComplete_second (hpassed : o.passed ≠ 0) : m.groupComplete f [] = (m.busy f).opDone x := by
  obtain ⟨q, hq⟩ := h.head
  have hinj := h.injected_busy
  unfold Ilpiac.busy at hinj
  simp [Ilpiac.groupComplete, hq, h.ctx, h.op, hinj, hpassed, Ilpiac.busy]

end

/-! ### One failing cell (R154, R162, R163) -/

theorem Ilpiac.recordFail_coll (m : Ilpiac) (f store : Nat) (b : Mismatch) : (m.recordFail f store b).coll = m.coll := by
  simp [Ilpiac.recordFail]

/-- A recorded mismatch leaves the furrow's registers but CHECK_FAILS and LAST_FAIL. -/
theorem Ilpiac.rd_recordFail (m : Ilpiac) (f store : Nat) (b : Mismatch) {g : Fld} (hcount : g.off ≠ 0x10) (hlast : g.off ≠ 0x18) :
    (m.recordFail f store b).rd .furrow f g = m.rd .furrow f g := by
  have hne {g' : Fld} (hoff : g.off ≠ g'.off) : g.key .furrow f 0 ≠ g'.key .furrow f 0 := by
    simp only [Fld.key_furrow, furrowKey]
    omega
  have hcnt : g.off ≠ (if b.expPath then F.CHECK_FAILS_EXP_FAILS else F.CHECK_FAILS_SIG_FAILS).off := by
    split <;> exact hcount
  rw [Ilpiac.recordFail, Ilpiac.rd_wr_ne _ _ _ _ _ _ _ _ _ _ (hne hlast), Ilpiac.rd_wr_ne _ _ _ _ _ _ _ _ _ _ (hne hlast),
    Ilpiac.rd_wr_ne _ _ _ _ _ _ _ _ _ _ (hne hlast), Ilpiac.rd_wr_ne _ _ _ _ _ _ _ _ _ _ (hne hlast), Ilpiac.cnt,
    Ilpiac.rd_wr_ne _ _ _ _ _ _ _ _ _ _ (hne hcnt)]

theorem Ilpiac.rd_recordFail_cell (m : Ilpiac) (f store : Nat) {b : Mismatch} (hb : b.cell < 1024) :
    (m.recordFail f store b).rd .furrow f F.LAST_FAIL_CELL = b.cell := by
  rw [Ilpiac.recordFail, Ilpiac.rd_wr_apart, Ilpiac.rd_wr_apart, Ilpiac.rd_wr_apart, Ilpiac.rd_wr_self _ _ _ _ _ _ (by decide)]
  exact Nat.mod_eq_of_lt hb

theorem Ilpiac.rd_recordFail_valid (m : Ilpiac) (f store : Nat) (b : Mismatch) : (m.recordFail f store b).rd .furrow f F.LAST_FAIL_VALID = 1 := by
  rw [Ilpiac.recordFail, Ilpiac.rd_wr_apart, Ilpiac.rd_wr_self _ _ _ _ _ _ (by decide)]
  rfl

/-- EXP_FAILS counts the mismatches of the exponent path only (R162). -/
theorem Ilpiac.rd_recordFail_exp (m : Ilpiac) (f store : Nat) (b : Mismatch) : (m.recordFail f store b).rd .furrow f F.CHECK_FAILS_EXP_FAILS =
    satAdd F.CHECK_FAILS_EXP_FAILS.w (m.rd .furrow f F.CHECK_FAILS_EXP_FAILS) (b2n b.expPath) := by
  rw [Ilpiac.recordFail, Ilpiac.rd_wr_apart, Ilpiac.rd_wr_apart, Ilpiac.rd_wr_apart, Ilpiac.rd_wr_apart]
  cases b.expPath with
  | true => exact Ilpiac.rd_cnt_self _ _ _ F.CHECK_FAILS_EXP_FAILS 1 0
  | false =>
    refine (Ilpiac.rd_wr_apart m .furrow f (f := F.CHECK_FAILS_SIG_FAILS) (f' := F.CHECK_FAILS_EXP_FAILS) _).trans ?_
    exact (satAdd_zero_of_lt (bits_lt ..)).symm

theorem Ilpiac.cellsInUse_congr {m' : Ilpiac} (h : m'.coll = m.coll) (f : Nat) : m'.cellsInUse f = m.cellsInUse f := by
  unfold Ilpiac.cellsInUse Ilpiac.cellAt
  rw [Ilpiac.fx_congr h]

/-- A group that fails in cells at work is recorded and issued again with its cells marked; those that are gone are retired (R154). -/
theorem Ilpiac.Serves.groupComplete_fails {cx : Ctx} {o : NodeOp} (h : m.Serves f x cx o) {bad : List Mismatch} (hne : bad ≠ [])
    (huse : ∀ b ∈ bad, b.cell ∈ m.cellsInUse f) :
    let m1 := (m.busy f).noteFails f x cx.store bad
    let cells := failedCells bad
    let gone := m1.goneCells f o cells
    m.groupComplete f bad =
      ((m1.setFails f cells).setOp x { o with failed := cells.filter (fun c => !gone.contains c) }).over gone (fun m c => m.retireCell f c) := by
  obtain ⟨q, hq⟩ := h.head
  have hbusy : m.wrapCnt .furrow f F.BUSY_CYCLES_CYCLES 1 = m.busy f := rfl
  have hbad : bad.filter (fun b => ((m.busy f).cellsInUse f).contains b.cell || b.cell == 0x3FF) ++ [] = bad := by
    rw [List.append_nil, List.filter_eq_self]
    intro b hb
    rw [Ilpiac.cellsInUse_congr (m.busy_coll f), List.contains_iff_mem.mpr (huse b hb), Bool.true_or]
  have hsome : bad.isEmpty = false := by simpa using hne
  simp only [Ilpiac.groupComplete, hq, h.ctx, h.op, hbusy, h.injected_busy, hbad, hsome, Bool.false_eq_true, if_false, Ilpiac.rd_setFx]
  rfl

/-! ### A first failure of one cell (R154) -/

/-- A furrow in which no failure counts yet and whose limit is above 1, when the group of an operation with no cell marked fails in one cell. -/
structure Ilpiac.FirstFail (m : Ilpiac) (f : Nat) (o : NodeOp) (b : Mismatch) : Prop where
  used : b.cell ∈ m.cellsInUse f
  named : b.cell ≠ 0x3FF
  unmarked : o.failed = []
  fresh : (m.fx f).fails = []
  limit : 2 ≤ m.rd .furrow f F.FURROW_CTRL_CELL_FAIL_LIMIT

/-- The block after a first failure of one cell has been recorded. -/
def Ilpiac.firstFail (m : Ilpiac) (f : Nat) (x : CtxId) (store : Nat) (b : Mismatch) : Ilpiac :=
  ((m.busy f).noteFails f x store [b]).setFails f [b.cell]

section
variable (m : Ilpiac) (f : Nat) (x : CtxId) (store : Nat) (b : Mismatch)

theorem Ilpiac.noteFails_one : m.noteFails f x store [b] = (m.recordFail f store b).setInfo x.coll infoRecomputed := rfl

theorem Ilpiac.fx_noteFails_one : (m.noteFails f x store [b]).fx f = m.fx f := by
  rw [Ilpiac.noteFails_one, Ilpiac.setInfo, Ilpiac.fx_updColl, Ilpiac.fx_congr (m.recordFail_coll ..)]

theorem Ilpiac.rd_noteFails_one (g : Fld) : (m.noteFails f x store [b]).rd .furrow f g = (m.recordFail f store b).rd .furrow f g := by
  rw [Ilpiac.noteFails_one, Ilpiac.setInfo, Ilpiac.rd_updColl]

theorem Ilpiac.rd_firstFail (g : Fld) : (m.firstFail f x store b).rd .furrow f g = ((m.busy f).recordFail f store b).rd .furrow f g := by
  rw [Ilpiac.firstFail, Ilpiac.setFails, Ilpiac.rd_setFx, Ilpiac.rd_noteFails_one]

theorem Ilpiac.ctxOf_firstFail : (m.firstFail f x store b).ctxOf x = m.ctxOf x := by
  rw [Ilpiac.firstFail, Ilpiac.setFails, Ilpiac.ctxOf_setFx, Ilpiac.noteFails_one, Ilpiac.setInfo, Ilpiac.ctxOf_updColl,
    Ilpiac.ctxOf_congr (Ilpiac.recordFail_coll ..), Ilpiac.ctxOf_congr (m.busy_coll f)]

theorem Ilpiac.queue_firstFail : ((m.firstFail f x store b).fx f).queue = (m.fx f).queue := by
  rw [Ilpiac.firstFail, Ilpiac.setFails, Ilpiac.fx_setFx, Ilpiac.fx_noteFails_one, Ilpiac.fx_congr (m.busy_coll f)]

end

/-- The first failure of a cell, below the limit, retires none: the operation is issued again with the cell marked. -/
theorem Ilpiac.Serves.groupComplete_firstFail {cx : Ctx} {o : NodeOp} (h : m.Serves f x cx o) {b : Mismatch} (hb : m.FirstFail f o b) :
    m.groupComplete f [b] = (m.firstFail f x cx.store b).setOp x { o with failed := [b.cell] } := by
  obtain ⟨hused, hnamed, hunmarked, hfresh, hlimit⟩ := hb
  have hcells : failedCells [b] = [b.cell] := by simp [failedCells, hnamed, List.eraseDups_cons]
  have hfails : (((m.busy f).noteFails f x cx.store [b]).fx f).fails = [] := by
    rw [Ilpiac.fx_noteFails_one, Ilpiac.fx_congr (m.busy_coll f), hfresh]
  have hlimit1 : 1 < ((m.busy f).noteFails f x cx.store [b]).rd .furrow f F.FURROW_CTRL_CELL_FAIL_LIMIT := by
    rw [Ilpiac.rd_noteFails_one, Ilpiac.rd_recordFail _ _ _ _ (by decide) (by decide), Ilpiac.rd_busy]
    exact hlimit
  have hnone : ((m.busy f).noteFails f x cx.store [b]).goneCells f o [b.cell] = [] := by
    simpa [Ilpiac.goneCells, Ilpiac.failsWith, hfails, hunmarked] using hlimit1
  have hrun := h.groupComplete_fails (bad := [b]) (by simp) (by simpa using hused)
  simp only [hcells, hnone] at hrun
  exact hrun

/-! ### Values read back (R146, R147) -/

/-- Giving a buffer back lets the collectives be (R294). -/
theorem Ilpiac.poolGive_coll (m : Ilpiac) (a : Nat) : (m.poolGive a).coll = m.coll := by
  unfold Ilpiac.poolGive
  split
  · rfl
  · exact ((Ilpiac.Traffic.refl m).beside.poolStat).coll

theorem Ilpiac.dropSpills_coll (m : Ilpiac) (x : CtxId) : (m.dropSpills x).coll = m.coll := by
  unfold Ilpiac.dropSpills
  split
  · rfl
  · exact Ilpiac.over_coll _ _ _ Ilpiac.poolGive_coll

theorem Ilpiac.ctxOf_unissue (m : Ilpiac) (x : CtxId) : (m.unissue x).ctxOf x = m.ctxOf x := by
  unfold Ilpiac.unissue
  split
  · rfl
  · exact Ilpiac.ctxOf_setFx ..

/-- A restart begins column 0 anew, in order, with nothing held and no operation. -/
def Ctx.restarted (c : Ctx) : Ctx := { c with held := [], op := none, todo := [], inOrder := true, next := 0 }

theorem Ilpiac.ctxOf_restart {cx : Ctx} (h : m.ctxOf x = some cx) : (m.restart x).ctxOf x = some cx.restarted := by
  have hcoll (m : Ilpiac) : (m.gcnt F.RM_COUNTS_RESTARTS 1).coll = m.coll := by simp
  rw [Ilpiac.restart, Ilpiac.ctxOf_congr (hcoll _), Ilpiac.ctxOf_updCtx, Ilpiac.ctxOf_unissue, Ilpiac.ctxOf_congr (m.dropSpills_coll x), h]
  rfl

/-- A value read back takes the place of the operand that was spilled. -/
theorem Ilpiac.spillBack_value {cx : Ctx} {o : NodeOp} {a : Nat} {dat : List Byte} {m1 : Ilpiac} (hcx : m.ctxOf x = some cx) (hop : cx.op = some o)
    (ha : o.waitSpill = some a) (hread : m.memRead a 4096 hintDiscard true = (some dat, m1)) :
    m.spillBack x = ((m1.setOp x { o with a := bytesF32 o.b.length dat, waitSpill := none }).poolGive a).issue x := by
  simp only [Ilpiac.spillBack, hcx, hop, ha, hread]
  rfl

/-- A poisoned value restarts the column. -/
theorem Ilpiac.spillBack_poison {cx : Ctx} {o : NodeOp} {a : Nat} {m1 : Ilpiac} (hcx : m.ctxOf x = some cx) (hop : cx.op = some o)
    (ha : o.waitSpill = some a) (hread : m.memRead a 4096 hintDiscard true = (none, m1)) : m.spillBack x = (m1.restart x).pumpAll x := by
  simp only [Ilpiac.spillBack, hcx, hop, ha, hread]

end Sys2Proof.Machine

end

section
/-! What the read of a spilled value leaves alone (spec 08: R271, R278 to R282, R288; spec 04: R146): no error that it finds in HBM, and no channel
that is mapped out for it, touches a collective. -/

namespace Sys2Proof.Machine

variable {m m' : Ilpiac}

theorem Ilpiac.Traffic.channelWr {n : Nat} {f : Fld} {v j : Nat} (h : m.Traffic m') : m.Traffic (m'.wr .channel n f v j) :=
  h.wr (pinnedReg_key_of_base (by decide) f n j)

theorem Ilpiac.Traffic.stackWr {n : Nat} {f : Fld} {v j : Nat} (h : m.Traffic m') : m.Traffic (m'.wr .stack n f v j) :=
  h.wr (pinnedReg_key_of_base (by decide) f n j)

theorem Ilpiac.Traffic.outNow {ch : Nat} (h : m.Traffic m') : m.Traffic (m'.outNow ch) := h.channelWr.channelWr.channelWr.stackWr

theorem Ilpiac.Traffic.journal {r : JRec} (h : m.Traffic m') : m.Traffic (m'.journal r) := by
  unfold Ilpiac.journal
  split
  · exact h.beside
  · exact Ilpiac.Traffic.ite h.beside h.beside.gcnt

theorem Ilpiac.Traffic.recordOut {ch cause : Nat} (h : m.Traffic m') : m.Traffic (m'.recordOut ch cause) := h.beside.journal.journal

theorem Ilpiac.Traffic.migrate {slot source : Nat} {readable : Bool} {q : Nat} (h : m.Traffic m') :
    m.Traffic (m'.migrate slot source readable q) := h.beside.channelWr.channelWr.channelWr.gw

theorem Ilpiac.Traffic.unback {slot : Nat} (h : m.Traffic m') : m.Traffic (m'.unback slot) := h.beside.gw.raise

theorem Ilpiac.Traffic.mapOut {ch cause : Nat} (h : m.Traffic m') : m.Traffic (m'.mapOut ch cause) := by
  unfold Ilpiac.mapOut
  extract_lets +onlyGivenNames readable
  split
  · exact h
  · split
    · exact h.ite h.beside
    · extract_lets +onlyGivenNames m1 m2 m3
      have h3 : m.Traffic m3 := h.channelWr.recordOut.gw
      clear_value m3
      split
      · exact h3.beside.outNow.gw
      · extract_lets +onlyGivenNames slot
        split
        · exact h3.outNow
        · extract_lets +onlyGivenNames old
          clear_value old
          rcases m3.hbm.reserve with _ | ⟨q, l⟩
          · refine Ilpiac.Traffic.unback (Ilpiac.Traffic.outNow ?_)
            cases old with
            | some g => exact h3.outNow
            | none => exact h3
          · cases old with
            | some g => exact h3.outNow.migrate
            | none => exact h3.channelWr.channelWr.migrate

theorem Ilpiac.Traffic.failChannel {ch cause : Nat} (h : m.Traffic m') : m.Traffic (m'.failChannel ch cause) := h.mapOut.ite h

/-- A read that CH_LAST_ERROR names and CH_ERRORS counts (R278). -/
theorem Ilpiac.Traffic.channelError {n : Nat} {count last1 last2 last3 last4 : Fld} {v v1 v2 v3 v4 : Nat} (h : m.Traffic m') :
    m.Traffic (((((m'.cnt .channel n count v).wr .channel n last1 v1).wr .channel n last2 v2).wr .channel n last3 v3).wr .channel n last4 v4) :=
  h.channelWr.channelWr.channelWr.channelWr.channelWr

theorem Ilpiac.Traffic.countCe {cw sym : Nat} (h : m.Traffic m') : m.Traffic (m'.countCe cw sym) := by
  unfold Ilpiac.countCe
  exact h.channelError.beside.failChannel.ite h.channelError.beside

theorem Ilpiac.Traffic.countUe {cw : Nat} (h : m.Traffic m') : m.Traffic (m'.countUe cw) := by
  have hnoted {c : Prop} [Decidable c] {m1 : Ilpiac} {ch acc : Nat} (h1 : m.Traffic m1) :
      m.Traffic (if c then m1.raise srcHbmUe ch acc else m1) := h1.raise.ite h1
  unfold Ilpiac.countUe
  exact (hnoted h.channelError).beside.failChannel.ite (hnoted h.channelError).beside

theorem Ilpiac.Traffic.setErrors {cw : Nat} {l : List (Nat × Nat)} (h : m.Traffic m') : m.Traffic (m'.setErrors cw l) := h.beside

theorem Ilpiac.Traffic.setPoison {cw : Nat} {b : Bool} (h : m.Traffic m') : m.Traffic (m'.setPoison cw b) := h.beside

theorem Ilpiac.Traffic.setData {cw : Nat} {d : List Byte} (h : m.Traffic m') : m.Traffic (m'.setData cw d) := h.beside

theorem Ilpiac.Traffic.cwRead {cw : Nat} (h : m.Traffic m') : m.Traffic (m'.cwRead cw).2 := by
  unfold Ilpiac.cwRead
  dsimp only
  split
  · exact h
  · exact h.setErrors.countCe
  · exact h.setData.setErrors.setPoison.countUe
  · split
    · exact h.setData.setErrors.setPoison.countUe
    · exact (h.setData.setErrors.setPoison.ite h.setData.setErrors).countCe

theorem Ilpiac.Traffic.lineRead {line : Nat} (h : m.Traffic m') : m.Traffic (m'.lineRead line).2 := by
  unfold Ilpiac.lineRead
  split
  · exact h
  · exact (h.stackWr.ite h).cwRead

theorem Ilpiac.Traffic.dropLine {line : Nat} (h : m.Traffic m') : m.Traffic (m'.dropLine line) := h.beside

/-- The read of a spilled line: a cached line leaves the cache, any other is read past it and not allocated (R288). -/
theorem Ilpiac.readLine_spill (m : Ilpiac) (line : Nat) : (m.readLine line hintDiscard true).2 =
    if !m.cacheOn then (m.lineRead line).2
    else if (m.cached line).isSome then (m.gcnt F.CACHE_COUNTS_HITS 1).dropLine line
    else ((m.gcnt F.CACHE_COUNTS_MISSES 1).lineRead line).2 := by
  unfold Ilpiac.readLine
  split
  · rfl
  · generalize m.cached line = c
    cases c with
    | some c => simp
    | none =>
      generalize (m.gcnt F.CACHE_COUNTS_MISSES 1).lineRead line = r
      obtain ⟨_ | d, m1⟩ := r
      · rfl
      · simp [hintDiscard, hintNormal, hintKeep]

theorem Ilpiac.Traffic.readLine_spill {line : Nat} (h : m.Traffic m') : m.Traffic (m'.readLine line hintDiscard true).2 := by
  rw [Ilpiac.readLine_spill]
  exact h.lineRead.ite (h.gcnt.dropLine.ite h.gcnt.lineRead)

theorem Ilpiac.Traffic.foldl_snd {α β : Type} {f : α × Ilpiac → β → α × Ilpiac} {l : List β} {p : α × Ilpiac} (h : m.Traffic p.2)
    (hf : ∀ p b, m.Traffic p.2 → m.Traffic (f p b).2) : m.Traffic (l.foldl f p).2 := by
  induction l generalizing p with
  | nil => exact h
  | cons b l ih => exact ih (hf p b h)

theorem Ilpiac.Traffic.memRead_spill {a n : Nat} (h : m.Traffic m') : m.Traffic (m'.memRead a n hintDiscard true).2 := by
  unfold Ilpiac.memRead
  refine Ilpiac.Traffic.foldl_snd h fun acc x hacc => ?_
  have hr : m.Traffic (acc.2.readLine x.1 hintDiscard true).2 := hacc.readLine_spill
  generalize acc.2.readLine x.1 hintDiscard true = r at hr ⊢
  obtain ⟨_ | d, m1⟩ := r
  · exact hr
  · exact hr

end Sys2Proof.Machine

end

section
/-! Furrows as commands (spec 04: R146, R147, R153 to R158, R160 to R164). -/

namespace Sys2Proof.Machine

variable {m : Ilpiac}

/-! ### Gating, and the end of a move (R155, R158) -/

section
variable {f : Nat}

theorem Ilpiac.gateFurrow_of_drained (hs : m.furrowState f = furrowDraining) (hh : m.homed f = []) :
    m.gateFurrow f = m.wr .furrow f F.FURROW_STATUS_STATE furrowGated := by
  simp [Ilpiac.gateFurrow, hs, hh]

theorem Ilpiac.homed_congr {m' : Ilpiac} (h : m'.coll = m.coll) (f : Nat) : m'.homed f = m.homed f := by
  rw [Ilpiac.homed, h, Ilpiac.homed]

/-- With no context left to move the move ends. -/
theorem Ilpiac.moveDone_of_empty (hmoving : (m.fx f).moving = true) (hh : m.homed f = []) :
    m.moveDone f = (m.furrowCount f).setFx f { m.fx f with moving := false } := by
  have hcoll : (m.furrowCount f).coll = m.coll := Ilpiac.wr_coll ..
  have hempty : ((m.furrowCount f).homed f).isEmpty = true := by rw [Ilpiac.homed_congr hcoll, hh, List.isEmpty_nil]
  rw [Ilpiac.moveDone, if_pos hmoving, Ilpiac.moveContexts, hh]
  simp only [Ilpiac.over, List.foldl_nil, hempty, if_true, Ilpiac.fx_congr hcoll]

theorem Ilpiac.setFx_ctxs (m : Ilpiac) (f : Nat) (x : FurrowX) : (m.setFx f x).coll.ctxs = m.coll.ctxs := rfl

end

/-! ### The commands -/

section
variable {s : State} {f : Fin 64}

theorem exec_furrowGroupComplete (bad : List Mismatch) :
    exec (.furrowGroupComplete f bad) s = .next { s with m := (s.m.groupComplete f bad).settle } := rfl

theorem exec_furrowRetire : exec (.furrowRetire f) s = .next { s with m := (s.m.fieldAccess .furrow f F.FURROW_CTRL_RETIRE 1).settle } := rfl

theorem exec_furrowDisable : exec (.furrowDisable f) s = .next { s with m := (s.m.fieldAccess .furrow f F.FURROW_CTRL_ENABLE 0).settle } := rfl

theorem exec_furrowEnable : exec (.furrowEnable f) s = .next { s with m := (s.m.fieldAccess .furrow f F.FURROW_CTRL_ENABLE 1).settle } := rfl

theorem exec_furrowGated : exec (.furrowGated f) s = .next { s with m := (s.m.gateFurrow f).settle } := rfl

theorem exec_contextMoveDone : exec (.contextMoveDone f) s = .next { s with m := (s.m.moveDone f).settle } := rfl

theorem exec_furrowInjectArm (v : Word) :
    exec (.furrowInjectArm f v) s = .next { s with m := (s.m.access (.write (F.FURROW_INJECT_ARM.key .furrow f 0) v)).settle } := rfl

/-- The command names the operand that the context waits for. -/
theorem exec_spillReadbackDone {x : CtxId} {cx : Ctx} {o : NodeOp} {a level index : Nat} (hcx : s.m.ctxOf x = some cx) (hop : cx.op = some o)
    (ha : o.waitSpill = some a) (hlevel : o.level = level + 1) (hindex : o.index = index / 2) :
    exec (.spillReadbackDone x level index) s = .next { s with m := (s.m.spillBack x).settle } := by
  change ran s (match (s.m.ctxOf x).bind (fun c => c.op) with
    | some o => if o.waitSpill.isSome ∧ o.level = level + 1 ∧ o.index = index / 2 then s.m.spillBack x else s.m
    | none => s.m) = _
  rw [hcx, Option.bind_some, hop]
  dsimp only
  rw [if_pos ⟨by rw [ha, Option.isSome_some], hlevel, hindex⟩, ran]

end

end Sys2Proof.Machine

open Sys2Proof.Machine

/-- Settles O46: each outcome of a group, each result of a read-back, and each change of a furrow's state from the equation of its operation. -/
theorem furrows : Obligations.Furrows := by
  unfold Obligations.Furrows
  intro s f
  have hf : f.val < 64 := f.isLt
  refine ⟨fun x q cx o hq hcx hop harm hsticky => ?_, fun x cx o a level index hcx hop ha hlevel hindex => ?_, fun hreach => ?_,
    fun hdrain hhomed => ?_, fun hmoving hhomed => ?_⟩
  · have hserves : s.m.Serves f x cx o := ⟨⟨q, hq⟩, hcx, hop, harm, hsticky⟩
    have hbusy : (s.m.busy f).ctxOf x = some cx := (Ilpiac.ctxOf_congr (s.m.busy_coll f) x).trans hcx
    refine ⟨fun hpassed => ?_, fun hpassed => ?_, fun b hused hnamed hcell hunmarked hfresh hlimit => ?_⟩
    · refine ⟨(s.m.busy f).setOp x { o with passed := 1, failed := [] }, _, ?_, Ilpiac.ctxOf_setOp hbusy _, rfl, ?_⟩
      · rw [exec_furrowGroupComplete, hserves.groupComplete_first hpassed]
      · rw [Ilpiac.setOp, Ilpiac.rd_updCtx, Ilpiac.rd_busy_self]
    · refine ⟨s.m.busy f, ?_, s.m.busy_coll f, s.m.rd_busy_self f⟩
      rw [exec_furrowGroupComplete, hserves.groupComplete_second hpassed]
    · have hctx : (s.m.firstFail f x cx.store b).ctxOf x = some cx := (Ilpiac.ctxOf_firstFail ..).trans hcx
      refine ⟨(s.m.firstFail f x cx.store b).setOp x { o with failed := [b.cell] }, _, ?_, Ilpiac.ctxOf_setOp hctx _, rfl, ?_, ?_, ?_, ?_, ?_⟩
      · rw [exec_furrowGroupComplete, hserves.groupComplete_firstFail ⟨hused, hnamed, hunmarked, hfresh, hlimit⟩]
      · rw [Ilpiac.setOp, Ilpiac.rd_updCtx, Ilpiac.rd_firstFail, Ilpiac.rd_recordFail_cell _ _ _ hcell]
      · rw [Ilpiac.setOp, Ilpiac.rd_updCtx, Ilpiac.rd_firstFail, Ilpiac.rd_recordFail_valid]
      · rw [Ilpiac.setOp, Ilpiac.rd_updCtx, Ilpiac.rd_firstFail, Ilpiac.rd_recordFail_exp, Ilpiac.rd_busy]
      · rw [Ilpiac.furrowState, Ilpiac.setOp, Ilpiac.rd_updCtx, Ilpiac.rd_firstFail, Ilpiac.rd_recordFail _ _ _ _ (by decide) (by decide),
          Ilpiac.rd_busy, Ilpiac.furrowState]
      · rw [Ilpiac.setOp, Ilpiac.fx_updCtx, Ilpiac.queue_firstFail]
  · have hexec := exec_spillReadbackDone hcx hop ha hlevel hindex
    have htraffic : s.m.Traffic (s.m.memRead a 4096 hintDiscard true).2 := (Ilpiac.Traffic.refl s.m).memRead_spill
    refine ⟨fun dat m1 hread => ?_, fun m1 hread => ?_⟩
    · rw [Ilpiac.spillBack_value hcx hop ha hread] at hexec
      rw [hread] at htraffic
      exact ⟨_, _, hexec, Ilpiac.ctxOf_setOp ((htraffic.ctxOf x).trans hcx) _, rfl⟩
    · rw [Ilpiac.spillBack_poison hcx hop ha hread] at hexec
      rw [hread] at htraffic
      exact ⟨_, _, hexec, Ilpiac.ctxOf_restart ((htraffic.ctxOf x).trans hcx), rfl, rfl, rfl, rfl, rfl⟩
  · have hctrl : F.FURROW_CTRL_ENABLE.key .furrow f 0 = furrowKey f 0 := Fld.key_furrow ..
    rw [hctrl] at hreach
    refine ⟨fun hretire hserving => ?_, fun henable hactive => ?_, fun henable hserving => ?_, fun v hinject => ?_⟩
    · obtain ⟨m1, heq, hserving1⟩ := Ilpiac.fieldAccess_retire hf hreach hretire hserving
      refine ⟨m1.retireFurrow f, ?_, Ilpiac.retireFurrow_retires hf hserving1⟩
      rw [exec_furrowRetire, heq]
    · obtain ⟨m1, heq, hcoll⟩ := Ilpiac.fieldAccess_disable hf hreach henable hactive
      refine ⟨(m1.wr .furrow f F.FURROW_CTRL_ENABLE 0).wr .furrow f F.FURROW_STATUS_STATE furrowDraining, ?_, ?_, ?_, ?_⟩
      · rw [exec_furrowDisable, heq]
      · rw [Ilpiac.furrowState, Ilpiac.rd_wr_self _ _ _ _ _ _ (by decide)]
        rfl
      · rw [Ilpiac.rd_wr_apart, Ilpiac.rd_wr_self _ _ _ _ _ _ (by decide)]
        rfl
      · rw [Ilpiac.wr_coll, Ilpiac.wr_coll, hcoll]
    · obtain ⟨m1, heq, hcoll⟩ := Ilpiac.fieldAccess_enable hf hreach henable hserving
      refine ⟨(m1.wr .furrow f F.FURROW_CTRL_ENABLE 1).wr .furrow f F.FURROW_STATUS_STATE furrowActive, ?_, ?_, ?_, ?_⟩
      · rw [exec_furrowEnable, heq]
      · rw [Ilpiac.furrowState, Ilpiac.rd_wr_self _ _ _ _ _ _ (by decide)]
        rfl
      · rw [Ilpiac.rd_wr_apart, Ilpiac.rd_wr_self _ _ _ _ _ _ (by decide)]
        rfl
      · rw [Ilpiac.wr_coll, Ilpiac.wr_coll, hcoll]
    · have hkey : F.FURROW_INJECT_ARM.key .furrow f 0 = furrowKey f 0x20 := Fld.key_furrow ..
      rw [hkey] at hinject
      obtain ⟨hcell, harm⟩ := (s.m.whole (furrowKey f 0x20)).entered_inject (n := f) v.toNat
      refine ⟨_, ?_, hcell, harm, Ilpiac.entered_coll ..⟩
      rw [exec_furrowInjectArm, hkey, Ilpiac.access_furrowInject hf hinject]
  · refine ⟨s.m.wr .furrow f F.FURROW_STATUS_STATE furrowGated, ?_, ?_, Ilpiac.wr_coll ..⟩
    · rw [exec_furrowGated, Ilpiac.gateFurrow_of_drained hdrain hhomed]
    · rw [Ilpiac.furrowState, Ilpiac.rd_wr_self _ _ _ _ _ _ (by decide)]
      rfl
  · refine ⟨(s.m.furrowCount f).setFx f { s.m.fx f with moving := false }, ?_, ?_, ?_⟩
    · rw [exec_contextMoveDone, Ilpiac.moveDone_of_empty hmoving hhomed]
    · rw [Ilpiac.fx_setFx]
    · rw [Ilpiac.setFx_ctxs, Ilpiac.furrowCount, Ilpiac.wr_coll]

end

section
/-! Trellis engines and their registers (spec 06: R224, R234, R235): what an engine holds and its state after a change at one engine or over several,
and what a change of engines alone leaves of the block. -/

namespace Sys2Proof.Machine

variable {m m' m'' : Ilpiac} {e : Nat}

/-! ### One unit after the other -/

/-- An operation that establishes `P` at its unit, and keeps it at every other, establishes it at each unit of a list. -/
theorem Ilpiac.over_each {P : Nat → Ilpiac → Prop} {f : Ilpiac → Nat → Ilpiac} {l : List Nat} {a : Nat} (hself : ∀ m a, P a (f m a))
    (hother : ∀ m a b, b ≠ a → P b m → P b (f m a)) (ha : a ∈ l) : P a (m.over l f) := by
  have hkeep (m : Ilpiac) (l : List Nat) (h : P a m) : P a (m.over l f) :=
    Ilpiac.over_induct h fun m b hm => if hab : a = b then hab ▸ hself m a else hother m b a hab hm
  induction l generalizing m with
  | nil => cases ha
  | cons b l ih =>
    rcases List.mem_cons.mp ha with rfl | ha
    · exact hkeep (f m a) l (hself m a)
    · exact ih ha

/-! ### What an engine holds -/

@[simp] theorem Ilpiac.eng_setEng_self (m : Ilpiac) (e : Nat) (x : Engine) : (m.setEng e x).eng e = x := Map.get_put_self ..

theorem Ilpiac.eng_setEng_ne (m : Ilpiac) {j : Nat} (x : Engine) (h : j ≠ e) : (m.setEng e x).eng j = m.eng j := Map.get_put_ne _ _ _ h

section
variable (m : Ilpiac) (e j n v : Nat) (b : Blk) (f : Fld) (x : Engine)

theorem Ilpiac.eng_wr : (m.wr b n f v j).eng e = m.eng e := rfl
theorem Ilpiac.eng_setEngState : (m.setEngState n v).eng e = m.eng e := rfl
theorem Ilpiac.rd_setEng : (m.setEng e x).rd b n f j = m.rd b n f j := rfl

end

/-! ### Registers of an engine -/

/-- Where a register of an engine lies (R14). -/
theorem Fld.key_engine (f : Fld) (e : Nat) : f.key .engine e 0 = 0x500000 + e * 0x10000 + f.off := by
  simp [Fld.key, Blk.at, Blk.base, Blk.stride]

/-- A register of another engine reads as before. -/
theorem Ilpiac.rd_wr_otherEngine (m : Ilpiac) {j v : Nat} {f g : Fld} (h : j ≠ e) (hf : f.off < 0x10000 := by decide)
    (hg : g.off < 0x10000 := by decide) : (m.wr .engine e f v).rd .engine j g = m.rd .engine j g := by
  refine Ilpiac.rd_wr_ne _ _ _ _ _ _ _ _ _ _ ?_
  rw [Fld.key_engine, Fld.key_engine]
  omega

/-- A code of R235 fits the field. -/
theorem Ilpiac.engState_setEngState_self (m : Ilpiac) (e : Nat) {st : Nat} (h : st < 8) : (m.setEngState e st).engState e = st := by
  rw [Ilpiac.setEngState, Ilpiac.engState, Ilpiac.rd_wr_self _ _ _ _ _ _ (by decide)]
  exact Nat.mod_eq_of_lt h

theorem Ilpiac.engState_setEngState_ne (m : Ilpiac) {j : Nat} (st : Nat) (h : j ≠ e) : (m.setEngState e st).engState j = m.engState j :=
  m.rd_wr_otherEngine h

/-- Engines put into one state are in it. -/
theorem Ilpiac.engState_over_setEngState (m : Ilpiac) {l : List Nat} {st : Nat} (h : st < 8) (he : e ∈ l) :
    (m.over l (fun m e => m.setEngState e st)).engState e = st :=
  Ilpiac.over_each (P := fun e m => m.engState e = st) (fun m e => m.engState_setEngState_self e h)
    (fun m _ _ hne hst => (m.engState_setEngState_ne st hne).trans hst) he

/-- The registers of the engines end where those of the channels begin (R14). -/
theorem Fld.key_engine_lt (f : Fld) (he : e < 16) (hf : f.off < 0x10000) : f.key .engine e 0 < 0x600000 := by
  rw [Fld.key_engine]
  omega

/-- A descriptor that completes writes its completion ring, and no engine. -/
theorem Ilpiac.rd_done_engine (m : Ilpiac) (d : AccDesc) (status : Nat) (i : CplInfo) {f : Fld} (he : e < 16) (hf : f.off < 0x10000 := by decide) :
    (m.done d status i).rd .engine e f = m.rd .engine e f := by
  have hkey : f.key .engine e 0 ≠ F.CR_STATUS_STALLED.key .cring (wRing d.words) 0 := by
    have hlt := f.key_engine_lt he hf
    have hring : F.CR_STATUS_STALLED.key .cring (wRing d.words) 0 = 0x1400000 + wRing d.words * 0x40 + 0x18 := rfl
    omega
  exact Ilpiac.rd_wr_ne _ _ _ _ _ _ _ _ _ _ hkey

theorem Ilpiac.eng_congr (h : m'.trellis = m.trellis) (e : Nat) : m'.eng e = m.eng e := by
  rw [Ilpiac.eng, h, Ilpiac.eng]

theorem Ilpiac.eng_done (m : Ilpiac) (d : AccDesc) (status : Nat) (i : CplInfo) (e : Nat) : (m.done d status i).eng e = m.eng e :=
  Ilpiac.eng_congr (by simp) e

theorem Ilpiac.done_trellis (m : Ilpiac) (d : AccDesc) (status : Nat) (i : CplInfo) : (m.done d status i).trellis = m.trellis := by simp

/-- The engines that a mask names are among the 16. -/
theorem lt_of_mem_bitIdx {x n i : Nat} (h : i ∈ bitIdx x n) : i < n := List.mem_range.mp (List.mem_filter.mp h).1

/-! ### A change of engines alone -/

/-- TRELLIS_STATUS of an engine (R235). -/
def engineStatusReg (k : Nat) : Prop := ∃ e, k = F.TRELLIS_STATUS_STATE.key .engine e 0

theorem not_engineStatusReg_of_lt {k : Nat} (h : k < 0x500000) : ¬engineStatusReg k := by
  rintro ⟨e, rfl⟩
  rw [Fld.key_engine] at h
  omega

/-- `m'` is `m` with some engines holding something else, in another state. -/
structure Ilpiac.EnginesSet (m m' : Ilpiac) : Prop where
  regs : ∀ k, ¬engineStatusReg k → m'.reg k = m.reg k
  ctl : m'.ctl = m.ctl
  loads : m'.trellis.loads = m.trellis.loads

theorem Ilpiac.EnginesSet.refl (m : Ilpiac) : m.EnginesSet m := ⟨fun _ _ => rfl, rfl, rfl⟩

theorem Ilpiac.EnginesSet.trans (h : m.EnginesSet m') (h' : m'.EnginesSet m'') : m.EnginesSet m'' :=
  ⟨fun k hk => (h'.regs k hk).trans (h.regs k hk), h'.ctl.trans h.ctl, h'.loads.trans h.loads⟩

theorem Ilpiac.EnginesSet.setEng {x : Engine} (h : m.EnginesSet m') : m.EnginesSet (m'.setEng e x) := ⟨h.regs, h.ctl, h.loads⟩

theorem Ilpiac.EnginesSet.status {f : Fld} {v : Nat} (h : m.EnginesSet m') (hf : f.off = F.TRELLIS_STATUS_STATE.off := by rfl) :
    m.EnginesSet (m'.wr .engine e f v) := by
  refine ⟨fun k hk => ?_, h.ctl, h.loads⟩
  have hne : k ≠ f.key .engine e 0 := fun hk' => hk ⟨e, by rw [hk', Fld.key_engine, Fld.key_engine, hf]⟩
  rw [Ilpiac.reg_wr_ne _ _ _ _ _ _ _ hne, h.regs k hk]

theorem Ilpiac.EnginesSet.setEngState {st : Nat} (h : m.EnginesSet m') : m.EnginesSet (m'.setEngState e st) := h.status

theorem Ilpiac.EnginesSet.over {l : List Nat} {f : Ilpiac → Nat → Ilpiac} (hf : ∀ (m : Ilpiac) (a : Nat), m.EnginesSet (f m a)) :
    m.EnginesSet (m.over l f) :=
  Ilpiac.over_induct (.refl m) fun _ a h => h.trans (hf _ a)

theorem Ilpiac.EnginesSet.told (h : m.EnginesSet m') : m'.told = m.told := by
  rw [Ilpiac.told, h.ctl, Ilpiac.told]

theorem Ilpiac.EnginesSet.g (h : m.EnginesSet m') {f : Fld} {j : Nat} (hf : f.off + j * f.stride < 0x500000) : m'.g f j = m.g f j := by
  have hkey : f.key .glob 0 j < 0x500000 := by
    rw [Fld.key]
    simpa [Blk.at, Blk.base] using hf
  rw [Ilpiac.g, Ilpiac.rd, h.regs _ (not_engineStatusReg_of_lt hkey), Ilpiac.g, Ilpiac.rd]

/-- TRELLIS_CTRL is another register than TRELLIS_STATUS. -/
theorem Ilpiac.EnginesSet.engOn (h : m.EnginesSet m') (e : Nat) : m'.engOn e = m.engOn e := by
  have hkey : ¬engineStatusReg (F.TRELLIS_CTRL_ENABLE.key .engine e 0) := by
    rintro ⟨j, hj⟩
    have hctrl : F.TRELLIS_CTRL_ENABLE.off = 0 := rfl
    have hstatus : F.TRELLIS_STATUS_STATE.off = 8 := rfl
    rw [Fld.key_engine, Fld.key_engine] at hj
    omega
  rw [Ilpiac.engOn, Ilpiac.rd, h.regs _ hkey, Ilpiac.engOn, Ilpiac.rd]

/-- The windows stand in registers below the engines (R482). -/
theorem Ilpiac.EnginesSet.coherent (h : m.EnginesSet m') {addr len : Nat} {write : Bool} (hcoh : m.Coherent addr len write) :
    m'.Coherent addr len write := by
  obtain ⟨haperture, hreg, hallowed⟩ := hcoh
  obtain ⟨i, hi, hwindow⟩ := List.any_eq_true.mp hallowed
  have hlt : i < 8 := List.mem_range.mp hi
  have hg (f : Fld) (hoff : f.off < 0x1000) (hstride : f.stride = 16) : m'.g f i = m.g f i := h.g (by rw [hstride]; omega)
  refine ⟨?_, ?_, List.any_eq_true.mpr ⟨i, hi, ?_⟩⟩
  · rwa [Ilpiac.inAperture, Ilpiac.has, Ilpiac.hbmBase, h.g (by decide), h.g (by decide), h.g (by decide)]
  · rwa [Ilpiac.inRegWindow, Ilpiac.regBase, h.g (by decide)]
  · rwa [hg _ (by decide) rfl, hg _ (by decide) rfl, hg _ (by decide) rfl, hg _ (by decide) rfl, hg _ (by decide) rfl]

end Sys2Proof.Machine

end

section
/-! Loads of programs (spec 06: R223, R224, R226): the checks of PROG_LOAD, the report, and how a load ends. -/

namespace Sys2Proof.Machine

variable {m : Ilpiac} {d : AccDesc}

/-! ### PROG_LOAD (R223, R224) -/

/-- The engines that a load names. -/
def AccDesc.loadEngines (d : AccDesc) : List Nat := bitIdx (d.f 1 16 16) 16

/-- The load that a descriptor asks for. -/
def AccDesc.loading (d : AccDesc) : Loading :=
  { ring := d.ring, num := d.num, handle := d.f 1 0 16, mask := d.f 1 16 16, imageAddr := d.f 2 0 64, imageBytes := d.f 4 0 32, reportAddr := d.f 3 0 64 }

/-- The board addresses of a load: image and report. -/
abbrev AccDesc.loadRanges (d : AccDesc) : List (Nat × Nat × Bool) := [(d.f 2 0 64, d.f 4 0 32, false), (d.f 3 0 64, 32, true)]

/-- The reserved bits of a load. -/
abbrev loadZero : List (Nat × Nat × Nat) := [(1, 32, 32), (4, 32, 32), (5, 0, 64), (6, 0, 64), (7, 0, 64)]

/-- What R223 asks of the words of a load. -/
def Ilpiac.loadFormed (m : Ilpiac) (d : AccDesc) : Bool :=
  d.w0ok && d.zero loadZero && d.f 1 0 16 != 0 && d.f 1 16 16 != 0 && d.f 2 0 64 % 64 == 0 && d.f 3 0 64 % 32 == 0 &&
    m.addrOk (d.f 2 0 64) (d.f 4 0 32) false && m.addrOk (d.f 3 0 64) 32 true

/-- What R223 asks of an engine: EMPTY and enabled. -/
def Ilpiac.engineTaken (m : Ilpiac) (e : Nat) : Bool := (m.eng e).prog.isSome || m.engState e != engEmpty || !m.engOn e

/-- A load whose words pass the checks of R223, with addresses inside windows. -/
theorem Ilpiac.loadFormed_of_checks (hw : d.w0ok = true) (hz : d.zero loadZero = true) (hhandle : d.f 1 0 16 ≠ 0) (hmask : d.f 1 16 16 ≠ 0)
    (himageAt : d.f 2 0 64 % 64 = 0) (hreportAt : d.f 3 0 64 % 32 = 0) (himage : m.Coherent (d.f 2 0 64) (d.f 4 0 32) false)
    (hreport : m.Coherent (d.f 3 0 64) 32 true) : m.loadFormed d = true := by
  rw [Ilpiac.loadFormed, hw, hz, himageAt, hreportAt, himage.addrOk, hreport.addrOk]
  simpa using ⟨hhandle, hmask⟩

/-- A load needs a handle and an engine (R223). -/
theorem Ilpiac.loadFormed_of_zero (m : Ilpiac) (h : d.f 1 0 16 = 0 ∨ d.f 1 16 16 = 0) : m.loadFormed d = false := by
  rcases h with h | h
  · simp [Ilpiac.loadFormed, h]
  · simp [Ilpiac.loadFormed, h]

theorem Ilpiac.engineTaken_of_empty {e : Nat} (hprog : (m.eng e).prog = none) (hstate : m.engState e = engEmpty) (hon : m.engOn e = true) :
    m.engineTaken e = false := by
  rw [Ilpiac.engineTaken, hprog, hstate, hon]
  rfl

theorem Ilpiac.engineTaken_of_prog {e : Nat} (hprog : (m.eng e).prog.isSome = true) : m.engineTaken e = true := by
  rw [Ilpiac.engineTaken, hprog, Bool.true_or, Bool.true_or]

/-- The trellis, and every engine that a load names, are present. -/
structure Ilpiac.LoadPresent (m : Ilpiac) (d : AccDesc) : Prop where
  trellis : m.has F.CAP_PRESENT_TRELLIS = true
  engines : ∀ e ∈ d.loadEngines, m.enginePresent e = true

/-- A load begins: its engines are LOADING. -/
def Ilpiac.startLoad (m : Ilpiac) (d : AccDesc) : Ilpiac :=
  let m := m.over d.loadEngines (fun m e => m.setEngState e engLoading)
  { m with trellis := { m.trellis with loads := m.trellis.loads ++ [d.loading] } }

/-- The report of a refused load, where it can be written. -/
def Ilpiac.refuseLoad (m : Ilpiac) (d : AccDesc) : Ilpiac :=
  if d.f 3 0 64 % 32 = 0 ∧ m.addrOk (d.f 3 0 64) 32 true then (m.progReport (d.f 3 0 64) { reason := 0 } 0 0 0).2 else m

theorem Ilpiac.progLoad_of_absent (h : m.has F.CAP_PRESENT_TRELLIS = false ∨ ∃ e ∈ d.loadEngines, m.enginePresent e = false) :
    m.progLoad d = m.done d stAbsentUnit := by
  rw [Ilpiac.progLoad, if_pos]
  simpa [AccDesc.loadEngines] using h

theorem Ilpiac.LoadPresent.progLoad (h : m.LoadPresent d) : m.progLoad d =
    if !m.loadFormed d ∨ (m.noteRefusals d.loadRanges).handleHeld (d.f 1 0 16) ∨ d.loadEngines.any (m.noteRefusals d.loadRanges).engineTaken then
      ((m.noteRefusals d.loadRanges).refuseLoad d).done d stBadDescriptor
    else (m.noteRefusals d.loadRanges).startLoad d := by
  rw [Ilpiac.progLoad, if_neg]
  · rfl
  · simpa [h.trellis, AccDesc.loadEngines] using h.engines

theorem Ilpiac.handleHeld_congr {m' : Ilpiac} (h : m'.trellis = m.trellis) (n : Nat) : m'.handleHeld n = m.handleHeld n := by
  simp only [Ilpiac.handleHeld, Ilpiac.holders, h]

theorem Ilpiac.noteRefusals_trellis (m : Ilpiac) (l : List (Nat × Nat × Bool)) : (m.noteRefusals l).trellis = m.trellis := by simp

/-- The window refusals are counted below the engines. -/
theorem Ilpiac.rd_noteRefusals_engine (m : Ilpiac) (l : List (Nat × Nat × Bool)) (e : Nat) (f : Fld) :
    (m.noteRefusals l).rd .engine e f = m.rd .engine e f := by
  have hkey : f.key .engine e 0 ≠ F.HOLM_STATUS_WINDOW_REFUSALS.key .glob 0 0 := by
    have hcount : F.HOLM_STATUS_WINDOW_REFUSALS.key .glob 0 0 = 0x210 := rfl
    rw [Fld.key_engine, hcount]
    omega
  exact Ilpiac.rd_wr_ne _ _ _ _ _ _ _ _ _ _ hkey

theorem Ilpiac.engineTaken_noteRefusals (m : Ilpiac) (l : List (Nat × Nat × Bool)) (e : Nat) :
    (m.noteRefusals l).engineTaken e = m.engineTaken e := by
  rw [Ilpiac.engineTaken, Ilpiac.eng_congr (m.noteRefusals_trellis l), Ilpiac.engState, Ilpiac.engOn, m.rd_noteRefusals_engine, m.rd_noteRefusals_engine,
    Ilpiac.engineTaken, Ilpiac.engState, Ilpiac.engOn]

theorem Ilpiac.LoadPresent.refused (h : m.LoadPresent d)
    (hbad : m.loadFormed d = false ∨ m.handleHeld (d.f 1 0 16) = true ∨ ∃ e ∈ d.loadEngines, m.engineTaken e = true) :
    m.progLoad d = ((m.noteRefusals d.loadRanges).refuseLoad d).done d stBadDescriptor := by
  rw [h.progLoad, if_pos]
  simpa only [Ilpiac.handleHeld_congr (m.noteRefusals_trellis _), List.any_eq_true, m.engineTaken_noteRefusals, Bool.not_eq_true'] using hbad

theorem Ilpiac.LoadPresent.accepted (h : m.LoadPresent d) (hformed : m.loadFormed d = true) (hheld : m.handleHeld (d.f 1 0 16) = false)
    (hfree : ∀ e ∈ d.loadEngines, m.engineTaken e = false) : m.progLoad d = (m.noteRefusals d.loadRanges).startLoad d := by
  rw [h.progLoad, if_neg]
  simpa [hformed, Ilpiac.handleHeld_congr (m.noteRefusals_trellis _), hheld, m.engineTaken_noteRefusals] using hfree

theorem Ilpiac.startLoad_starts (m : Ilpiac) (d : AccDesc) : (m.startLoad d).ctl = m.ctl ∧ (m.startLoad d).trellis.engines = m.trellis.engines ∧
    (m.startLoad d).trellis.loads = m.trellis.loads ++ [d.loading] ∧ ∀ e ∈ d.loadEngines, (m.startLoad d).engState e = engLoading := by
  have htrellis : (m.over d.loadEngines (fun m e => m.setEngState e engLoading)).trellis = m.trellis := Ilpiac.over_trellis _ _ _ fun _ _ => by simp
  refine ⟨Ilpiac.over_ctl _ _ _ fun _ _ => by simp, ?_, ?_, fun e he => m.engState_over_setEngState (by decide) he⟩
  · rw [Ilpiac.startLoad, htrellis]
  · rw [Ilpiac.startLoad, htrellis]

theorem Ilpiac.progReport_trellis (m : Ilpiac) (addr : Nat) (f : Finding) (crc bundles ns : Nat) :
    (m.progReport addr f crc bundles ns).2.trellis = m.trellis := by
  simp [Ilpiac.progReport]

theorem Ilpiac.progReport_cpl (m : Ilpiac) (addr : Nat) (f : Finding) (crc bundles ns : Nat) :
    (m.progReport addr f crc bundles ns).2.ctl.cpl = m.ctl.cpl := by
  unfold Ilpiac.progReport Ilpiac.boardStore
  split
  · exact m.boardWrite_cpl ..
  · simp

theorem Ilpiac.refuseLoad_trellis (m : Ilpiac) (d : AccDesc) : (m.refuseLoad d).trellis = m.trellis := by
  unfold Ilpiac.refuseLoad
  split
  · exact m.progReport_trellis ..
  · rfl

theorem Ilpiac.refuseLoad_cpl (m : Ilpiac) (d : AccDesc) : (m.refuseLoad d).ctl.cpl = m.ctl.cpl := by
  unfold Ilpiac.refuseLoad
  split
  · exact m.progReport_cpl ..
  · rfl

/-! ### The report (R226) -/

theorem Finding.report_length (f : Finding) (crc bundles ns : Nat) : (f.report crc bundles ns).length = 32 := by
  simp [Finding.report, leBytes_length]

theorem Ilpiac.Coherent.progReport {addr : Nat} (h : m.Coherent addr 32 true) (f : Finding) (crc bundles ns : Nat) :
    m.progReport addr f crc bundles ns =
      (true, m.over (cohPieces addr (f.report crc bundles ns)) (fun m x => m.send (.cohWrite x.1 x.2))) := by
  have hlen := f.report_length crc bundles ns
  have hwrite := Ilpiac.Coherent.boardWrite (dat := f.report crc bundles ns) (by rwa [hlen])
  rw [Ilpiac.progReport, Ilpiac.boardStore, hlen, if_pos h.addrOk, hwrite]

/-- What the companion is told of a finding. -/
abbrev Finding.told (f : Finding) (addr crc bundles ns : Nat) : List HolmMsg :=
  (cohPieces addr (f.report crc bundles ns)).map (fun y => .cohWrite y.1 y.2)

/-- `m'` is `m` with messages sent to the companion. -/
structure Ilpiac.Tells (m m' : Ilpiac) (l : List HolmMsg) : Prop where
  regs : m'.regs = m.regs
  told : m'.told = m.told ++ l
  cpl : m'.ctl.cpl = m.ctl.cpl
  trellis : m'.trellis = m.trellis

/-- A report that the windows take reaches the companion. -/
theorem Ilpiac.Coherent.reports {addr : Nat} (h : m.Coherent addr 32 true) (hup : m.g F.HOLM_STATUS_STATE = holmUp) (f : Finding) (crc bundles ns : Nat) :
    ∃ m', m.progReport addr f crc bundles ns = (true, m') ∧ m.Tells m' (f.told addr crc bundles ns) := by
  have hcpl := m.progReport_cpl addr f crc bundles ns
  have htrellis := m.progReport_trellis addr f crc bundles ns
  rw [h.progReport] at hcpl htrellis
  exact ⟨_, h.progReport f crc bundles ns, Ilpiac.over_regs _ _ _ fun _ _ => by simp, Ilpiac.told_over_send hup, hcpl, htrellis⟩

theorem Ilpiac.rd_congr {m' : Ilpiac} (h : m'.regs = m.regs) (b : Blk) (n : Nat) (f : Fld) (j : Nat) : m'.rd b n f j = m.rd b n f j := by
  rw [Ilpiac.rd, Ilpiac.reg, h, Ilpiac.rd, Ilpiac.reg]

/-! ### PROG_LOAD_DONE (R224, R226) -/

/-- A load that is no longer in progress. -/
def Ilpiac.endLoad (m : Ilpiac) (l : Loading) : Ilpiac :=
  { m with trellis := { m.trellis with loads := m.trellis.loads.filter (fun x => x != l) } }

/-- An engine takes a program, with nothing left of an earlier one, and is READY or GATED. -/
def Ilpiac.takeProgram (m : Ilpiac) (p : Program) (e : Nat) : Ilpiac :=
  let m := (m.setEng e { Engine.init with prog := some p }).wr .engine e F.TRELLIS_STATUS_PROGRAM p.handle
  m.setEngState e (m.idleState e)

/-- The program of an image whose instructions fit the instruction memory. -/
def imageProgram (handle : Nat) (bytes : List Byte) : Program :=
  { handle, bundles := imageBundles bytes, entry := (imageHeader bytes).entry, opnd := imageOpnd bytes, preload := (imageHeader bytes).preload,
    stride := (imageHeader bytes).stride, buffer := none }

/-- A load in progress whose image has been read, with a report area inside a window. -/
structure Ilpiac.LoadRead (m : Ilpiac) (l : Loading) (d : AccDesc) (bytes : List Byte) : Prop where
  load : m.trellis.loads.find? (fun x => x.handle == l.handle) = some l
  desc : m.ctl.descs.find? (fun d => m.trellis.loads.any (fun x => x.handle == l.handle && x.ring == d.ring && x.num == d.num)) = some d
  length : bytes.length = l.imageBytes
  image : m.Coherent l.imageAddr l.imageBytes false
  report : m.Coherent l.reportAddr 32 true
  up : m.g F.HOLM_STATUS_STATE = holmUp

theorem toLen_of_length {n : Nat} {l : List Byte} (h : l.length = n) : toLen n l = l := by
  simp [toLen, h]

theorem Ilpiac.Coherent.endLoad {addr len : Nat} {write : Bool} (h : m.Coherent addr len write) (l : Loading) :
    (m.endLoad l).Coherent addr len write := ⟨h.notAperture, h.notWindow, h.allowed⟩

section
variable {l : Loading} {bytes : List Byte}

theorem Ilpiac.LoadRead.boardRead (h : m.LoadRead l d bytes) : (m.endLoad l).boardRead l.imageAddr l.imageBytes (some bytes) = (some bytes, m.endLoad l) := by
  rw [(h.image.endLoad l).boardRead, toLen_of_length h.length]

/-- The report of a load in progress. -/
abbrev Ilpiac.reportLoad (m : Ilpiac) (l : Loading) (bytes : List Byte) (ns : Nat) (f : Finding) : Bool × Ilpiac :=
  m.progReport l.reportAddr f (imageCrc bytes) (imageHeader bytes).bundles ns

/-- With an image that the verifier refuses, a load ends with its report. -/
theorem Ilpiac.LoadRead.progLoadDone_of_finding (h : m.LoadRead l d bytes) {ns : Nat} {f : Finding} {m1 : Ilpiac} (hverify : verify bytes = some f)
    (hreport : ((m.endLoad l).over (bitIdx l.mask 16) (fun m e => m.setEngState e engEmpty)).reportLoad l bytes ns f = (true, m1)) :
    m.progLoadDone l.handle (some bytes) ns = m1.done d stBadDescriptor := by
  have hread := h.boardRead
  unfold Ilpiac.endLoad at hread hreport
  simp only [Ilpiac.progLoadDone, h.load, h.desc, hread, hverify, hreport]

/-- With an image that the verifier passes and that fits the instruction memory, a load ends once the windows have taken its report. -/
theorem Ilpiac.LoadRead.progLoadDone_of_verified (h : m.LoadRead l d bytes) {ns : Nat} {m1 : Ilpiac} (hverify : verify bytes = none)
    (hsmall : (imageHeader bytes).bundles ≤ 16384) (hreport : (m.endLoad l).reportLoad l bytes ns { reason := 0 } = (true, m1)) :
    m.progLoadDone l.handle (some bytes) ns =
      ((m1.over (bitIdx l.mask 16) (fun m e => m.takeProgram (imageProgram l.handle bytes) e)).done d stOk).assign := by
  have hread := h.boardRead
  unfold Ilpiac.progLoadDone
  rw [h.load, h.desc]
  dsimp -zeta only
  extract_lets +onlyGivenNames es trellis m2 back rd
  rw [show rd = (some bytes, m.endLoad l) from hread]
  dsimp -zeta only
  extract_lets +onlyGivenNames m3 head report
  rw [hverify]
  dsimp -zeta only
  extract_lets +onlyGivenNames bs big buf
  have hbig : big = false := decide_eq_false (Nat.not_lt.mpr hsmall)
  have hbuf : buf = (none, m.endLoad l) := if_neg (by simp [hbig])
  rw [hbuf, hbig, Bool.false_and, if_neg Bool.false_ne_true]
  extract_lets +onlyGivenNames p r
  rw [show r = (true, m1) from hreport, Bool.not_true, if_neg Bool.false_ne_true]
  rfl

/-! ### Engines that take a program -/

theorem Ilpiac.EnginesSet.takeProgram (m : Ilpiac) (p : Program) (e : Nat) : m.EnginesSet (m.takeProgram p e) :=
  (Ilpiac.EnginesSet.refl m).setEng.status.setEngState

section
variable (m : Ilpiac) (p : Program) {e j : Nat}

theorem Ilpiac.eng_takeProgram_self (e : Nat) : (m.takeProgram p e).eng e = { Engine.init with prog := some p } := by
  rw [Ilpiac.takeProgram, Ilpiac.eng_setEngState, Ilpiac.eng_wr, Ilpiac.eng_setEng_self]

theorem Ilpiac.eng_takeProgram_ne (h : j ≠ e) : (m.takeProgram p e).eng j = m.eng j := by
  rw [Ilpiac.takeProgram, Ilpiac.eng_setEngState, Ilpiac.eng_wr, Ilpiac.eng_setEng_ne _ _ h]

end

/-- An engine holds a program, runs nothing, and shows so in its status (R224, R234, R235). -/
def Ilpiac.Holds (m : Ilpiac) (p : Program) (e : Nat) : Prop :=
  (m.eng e).prog = some p ∧ (m.eng e).cur = none ∧ m.engState e = (if m.engOn e = true then engReady else engGated) ∧
    m.rd .engine e F.TRELLIS_STATUS_PROGRAM = p.handle % 65536

theorem Ilpiac.holds_takeProgram (m : Ilpiac) (p : Program) (e : Nat) : (m.takeProgram p e).Holds p e := by
  have hset := Ilpiac.EnginesSet.takeProgram m p e
  have heng := m.eng_takeProgram_self p e
  have hidle : ((m.setEng e { Engine.init with prog := some p }).wr .engine e F.TRELLIS_STATUS_PROGRAM p.handle).idleState e =
      if (m.takeProgram p e).engOn e = true then engReady else engGated := by
    have hon := ((Ilpiac.EnginesSet.refl m).setEng (e := e) (x := { Engine.init with prog := some p })).status
      (e := e) (f := F.TRELLIS_STATUS_PROGRAM) (v := p.handle) |>.engOn e
    rw [Ilpiac.idleState, hon, hset.engOn, Ilpiac.eng_wr, Ilpiac.eng_setEng_self]
    rfl
  refine ⟨by rw [heng], by rw [heng]; rfl, ?_, ?_⟩
  · rw [← hidle]
    refine Ilpiac.engState_setEngState_self _ _ ?_
    rw [hidle]
    split <;> decide
  · rw [Ilpiac.takeProgram, Ilpiac.setEngState, Ilpiac.rd_wr_apart, Ilpiac.rd_wr_self _ _ _ _ _ _ (by decide)]
    rfl

theorem Ilpiac.Holds.takeProgram_ne {p : Program} {e j : Nat} (h : m.Holds p j) (hne : j ≠ e) : (m.takeProgram p e).Holds p j := by
  obtain ⟨hprog, hcur, hstate, hhandle⟩ := h
  have heng := m.eng_takeProgram_ne p hne
  have hrd (f : Fld) (hf : f.off < 0x10000) : (m.takeProgram p e).rd .engine j f = m.rd .engine j f := by
    rw [Ilpiac.takeProgram, Ilpiac.setEngState, Ilpiac.rd_wr_otherEngine _ hne (by decide) hf, Ilpiac.rd_wr_otherEngine _ hne (by decide) hf, Ilpiac.rd_setEng]
  refine ⟨by rw [heng, hprog], by rw [heng, hcur], ?_, ?_⟩
  · rw [Ilpiac.engState, hrd _ (by decide), (Ilpiac.EnginesSet.takeProgram m p e).engOn]
    exact hstate
  · rw [hrd _ (by decide), hhandle]

theorem Ilpiac.holds_over_takeProgram (m : Ilpiac) (p : Program) {es : List Nat} {e : Nat} (he : e ∈ es) :
    (m.over es (fun m e => m.takeProgram p e)).Holds p e :=
  Ilpiac.over_each (P := fun e m => m.Holds p e) (fun m e => m.holds_takeProgram p e) (fun _ _ _ hne h => h.takeProgram_ne hne) he

theorem Ilpiac.Holds.done {p : Program} {e : Nat} (h : m.Holds p e) (he : e < 16) (d : AccDesc) (status : Nat) (i : CplInfo) :
    (m.done d status i).Holds p e := by
  rw [Ilpiac.Holds, Ilpiac.eng_done, Ilpiac.engState, Ilpiac.engOn, m.rd_done_engine d status i he, m.rd_done_engine d status i he,
    m.rd_done_engine d status i he]
  exact h

/-- The end of a load whose image is right (R224, R226). -/
theorem Ilpiac.LoadRead.progLoadDone_verified (h : m.LoadRead l d bytes) (ns : Nat) (hverify : verify bytes = none)
    (hsmall : (imageHeader bytes).bundles ≤ 16384) :
    ∃ m' : Ilpiac, m.progLoadDone l.handle (some bytes) ns = m'.assign ∧
      m'.told = m.told ++ Finding.told { reason := 0 } l.reportAddr (imageCrc bytes) (imageHeader bytes).bundles ns ∧
      m'.ctl.cpl = m.ctl.cpl ++ [d.record stOk] ∧ (∀ x ∈ m'.trellis.loads, x ≠ l) ∧
      ∀ e ∈ bitIdx l.mask 16, m'.Holds (imageProgram l.handle bytes) e ∧ m'.engOn e = m.engOn e := by
  have hset (m : Ilpiac) : m.EnginesSet (m.over (bitIdx l.mask 16) (fun m e => m.takeProgram (imageProgram l.handle bytes) e)) :=
    .over fun m e => .takeProgram m _ e
  obtain ⟨m1, hreport, htells⟩ := (h.report.endLoad l).reports h.up { reason := 0 } (imageCrc bytes) (imageHeader bytes).bundles ns
  refine ⟨_, h.progLoadDone_of_verified hverify hsmall hreport, ?_, ?_, fun x hx => ?_, fun e he => ⟨?_, ?_⟩⟩
  · rw [Ilpiac.done_told, (hset m1).told, htells.told]
    rfl
  · rw [Ilpiac.done_cpl, (hset m1).ctl, htells.cpl]
    rfl
  · rw [Ilpiac.done_trellis, (hset m1).loads, htells.trellis] at hx
    simpa using (List.mem_filter.mp hx).2
  · exact (Ilpiac.holds_over_takeProgram _ _ he).done (lt_of_mem_bitIdx he) ..
  · rw [Ilpiac.engOn, Ilpiac.rd_done_engine _ _ _ _ (lt_of_mem_bitIdx he), ← Ilpiac.engOn, (hset m1).engOn, Ilpiac.engOn, Ilpiac.rd_congr htells.regs]
    rfl

/-- The end of a load whose image the verifier refuses (R224, R226). -/
theorem Ilpiac.LoadRead.progLoadDone_refused (h : m.LoadRead l d bytes) (ns : Nat) {f : Finding} (hverify : verify bytes = some f) :
    ∃ m' : Ilpiac, m.progLoadDone l.handle (some bytes) ns = m' ∧
      m'.told = m.told ++ f.told l.reportAddr (imageCrc bytes) (imageHeader bytes).bundles ns ∧
      m'.ctl.cpl = m.ctl.cpl ++ [d.record stBadDescriptor] ∧ m'.trellis.engines = m.trellis.engines ∧
      ∀ e ∈ bitIdx l.mask 16, m'.engState e = engEmpty := by
  have hset : (m.endLoad l).EnginesSet ((m.endLoad l).over (bitIdx l.mask 16) (fun m e => m.setEngState e engEmpty)) :=
    .over fun m _ => (Ilpiac.EnginesSet.refl m).setEngState
  have hup : ((m.endLoad l).over (bitIdx l.mask 16) (fun m e => m.setEngState e engEmpty)).g F.HOLM_STATUS_STATE = holmUp :=
    (hset.g (by decide)).trans h.up
  obtain ⟨m1, hreport, htells⟩ := (hset.coherent (h.report.endLoad l)).reports hup f (imageCrc bytes) (imageHeader bytes).bundles ns
  refine ⟨_, h.progLoadDone_of_finding hverify hreport, ?_, ?_, ?_, fun e he => ?_⟩
  · rw [Ilpiac.done_told, htells.told, hset.told]
    rfl
  · rw [Ilpiac.done_cpl, htells.cpl, hset.ctl]
    rfl
  · rw [Ilpiac.done_trellis, htells.trellis, Ilpiac.over_trellis _ _ _ fun _ _ => by simp]
    rfl
  · rw [Ilpiac.engState, Ilpiac.rd_done_engine _ _ _ _ (lt_of_mem_bitIdx he), Ilpiac.rd_congr htells.regs]
    exact (m.endLoad l).engState_over_setEngState (by decide) he

end

end Sys2Proof.Machine

end

section
/-! Unloads of programs (spec 06: R227): the descriptor, and the engines that a program leaves. -/

namespace Sys2Proof.Machine

variable {m : Ilpiac} {d : AccDesc}

/-! ### PROG_UNLOAD (R227) -/

/-- The reserved bits of an unload. -/
abbrev unloadZero : List (Nat × Nat × Nat) := [(1, 16, 48), (2, 0, 64), (3, 0, 64), (4, 0, 64), (5, 0, 64), (6, 0, 64), (7, 0, 64)]

/-- An unload that waits. -/
def Ilpiac.addUnload (m : Ilpiac) (u : Unloading) : Ilpiac := { m with trellis := { m.trellis with unloads := m.trellis.unloads ++ [u] } }

theorem Ilpiac.progUnload_of_formed (hpresent : m.has F.CAP_PRESENT_TRELLIS = true) (hw : d.w0ok = true) (hz : d.zero unloadZero = true) :
    m.progUnload d = if (m.holders (d.f 1 0 16)).isEmpty then m.done d stBadDescriptor else m.addUnload ⟨d.ring, d.num, d.f 1 0 16⟩ := by
  have hformed : (d.w0ok && d.zero unloadZero) = true := by rw [hw, hz, Bool.and_self]
  simp only [Ilpiac.progUnload, hpresent, hformed, Bool.not_true, Bool.false_eq_true, if_false, false_or]
  rfl

/-! ### PROG_UNLOAD_DONE (R227) -/

/-- An unload that no longer waits. -/
def Ilpiac.endUnload (m : Ilpiac) (u : Unloading) : Ilpiac :=
  { m with trellis := { m.trellis with unloads := m.trellis.unloads.filter (fun x => x != u) } }

/-- An engine loses its program and is EMPTY. -/
def Ilpiac.emptyEngine (m : Ilpiac) (e : Nat) : Ilpiac :=
  ((m.setEng e Engine.init).wr .engine e F.TRELLIS_STATUS_PROGRAM 0).setEngState e engEmpty

/-- The buffer of a program returns to its pool, where it has one. -/
def Ilpiac.giveProgramBuffer (m : Ilpiac) (handle : Nat) : Ilpiac :=
  match (m.holders handle).findSome? (fun e => (m.eng e).prog.bind (·.buffer)) with
  | some a => m.poolGive a
  | none => m

theorem Ilpiac.emptyEngines_eq (m : Ilpiac) (handle : Nat) :
    m.emptyEngines handle = (m.giveProgramBuffer handle).over (m.holders handle) (fun m e => m.emptyEngine e) := rfl

theorem Ilpiac.giveProgramBuffer_cpl (m : Ilpiac) (handle : Nat) : (m.giveProgramBuffer handle).ctl.cpl = m.ctl.cpl := by
  unfold Ilpiac.giveProgramBuffer
  split
  · exact Ilpiac.KeepsComms.poolGive.cpl
  · rfl

theorem Ilpiac.EnginesSet.emptyEngine (m : Ilpiac) (e : Nat) : m.EnginesSet (m.emptyEngine e) := (Ilpiac.EnginesSet.refl m).setEng.status.setEngState

theorem Ilpiac.emptyEngines_cpl (m : Ilpiac) (handle : Nat) : (m.emptyEngines handle).ctl.cpl = m.ctl.cpl := by
  rw [Ilpiac.emptyEngines_eq, (Ilpiac.EnginesSet.over fun m e => .emptyEngine m e).ctl, Ilpiac.giveProgramBuffer_cpl]

/-- An engine holds no program, and shows so. -/
def Ilpiac.Empty (m : Ilpiac) (e : Nat) : Prop := (m.eng e).prog = none ∧ m.engState e = engEmpty

theorem Ilpiac.empty_emptyEngine (m : Ilpiac) (e : Nat) : (m.emptyEngine e).Empty e := by
  refine ⟨?_, Ilpiac.engState_setEngState_self _ _ (by decide)⟩
  rw [Ilpiac.emptyEngine, Ilpiac.eng_setEngState, Ilpiac.eng_wr, Ilpiac.eng_setEng_self]
  rfl

theorem Ilpiac.Empty.emptyEngine_ne {e j : Nat} (h : m.Empty j) (hne : j ≠ e) : (m.emptyEngine e).Empty j := by
  obtain ⟨hprog, hstate⟩ := h
  constructor
  · rw [Ilpiac.emptyEngine, Ilpiac.eng_setEngState, Ilpiac.eng_wr, Ilpiac.eng_setEng_ne _ _ hne, hprog]
  · rw [Ilpiac.emptyEngine, Ilpiac.engState_setEngState_ne _ _ hne, Ilpiac.engState, Ilpiac.rd_wr_otherEngine _ hne, Ilpiac.rd_setEng]
    exact hstate

theorem Ilpiac.empty_emptyEngines (m : Ilpiac) {handle e : Nat} (he : e ∈ m.holders handle) : (m.emptyEngines handle).Empty e := by
  rw [Ilpiac.emptyEngines_eq]
  exact Ilpiac.over_each (P := fun e m => m.Empty e) Ilpiac.empty_emptyEngine (fun _ _ _ hne h => h.emptyEngine_ne hne) he

theorem Ilpiac.Empty.done {e : Nat} (h : m.Empty e) (he : e < 16) (d : AccDesc) (status : Nat) (i : CplInfo) : (m.done d status i).Empty e := by
  rw [Ilpiac.Empty, Ilpiac.eng_done, Ilpiac.engState, m.rd_done_engine d status i he]
  exact h

/-- An unload of a program that engines hold and nothing uses (R227). -/
theorem Ilpiac.progUnloadDone_of_idle {u : Unloading} (hu : m.trellis.unloads.find? (fun x => x.handle == u.handle) = some u)
    (hidle : m.programBusy u.handle = false) (hheld : m.holders u.handle ≠ [])
    (hd : m.ctl.descs.find? (fun d => d.ring == u.ring && d.num == u.num) = some d) :
    m.progUnloadDone u.handle = ((m.endUnload u).emptyEngines u.handle).done d stOk := by
  have hsome : ((m.endUnload u).holders u.handle).isEmpty = false := List.isEmpty_eq_false_iff.mpr hheld
  unfold Ilpiac.endUnload at hsome ⊢
  simp only [Ilpiac.progUnloadDone, hu, hidle, hd, hsome, Bool.false_eq_true, if_false]

end Sys2Proof.Machine

end

section
/-! The end of phase 4 (spec 06: R203, R205): when it ends by itself, and at its time limit. -/

namespace Sys2Proof.Machine

variable {m : Ilpiac} {k : CollId} {c : Coll} {p : Phase4}

/-- A collective that is no longer in phase 4. -/
def Ilpiac.leavePhase4 (m : Ilpiac) (k : CollId) : Ilpiac :=
  { m with trellis := { m.trellis with phase4 := m.trellis.phase4.filter (fun q => q.coll != k) } }

/-- A failure of phase 4 is recorded. -/
def Ilpiac.recordPhase4 (m : Ilpiac) (k : CollId) (fail : Nat) : Ilpiac := if fail = 0 then m else m.failColl k fail

/-- Nothing of a collective's phase 4 is left: no invocation, no stream, and no write that other modules have yet to take (R203). -/
structure Ilpiac.Phase4Over (m : Ilpiac) (k : CollId) (p : Phase4) : Prop where
  todo : p.todo = []
  engines : ∀ e ∈ m.enginesHere, (m.eng e).worksFor k = false
  writes : ∀ t ∈ m.coll.trunk ++ m.coll.trunkWait, t.writer ≠ some k

theorem Ilpiac.phase4End_of_over (hp : m.trellis.phase4.find? (fun p => p.coll == k) = some p) (hover : m.Phase4Over k p) :
    m.phase4End k = ((m.leavePhase4 k).recordPhase4 k p.fail).collStep k := by
  have hengines : m.enginesHere.any (fun e => (m.eng e).worksFor k) = false := List.any_eq_false.mpr fun e he => by simp [hover.engines e he]
  have hwrites : (m.coll.trunk ++ m.coll.trunkWait).any (fun t => t.writer == some k) = false :=
    List.any_eq_false.mpr fun t ht => by simpa using hover.writes t ht
  simp only [Ilpiac.phase4End, hp, hover.todo, hengines, hwrites]
  rfl

theorem Ilpiac.phase4Timeout_eq (hp : m.trellis.phase4.find? (fun p => p.coll == k) = some p) :
    m.phase4Timeout k = (((m.stopPhase4 k).leavePhase4 k).failColl k (max stTimeout p.fail)).collStep k := by
  simp only [Ilpiac.phase4Timeout, hp]
  rfl

/-! ### What is left of phase 4 -/

theorem Ilpiac.mem_leavePhase4 (m : Ilpiac) (k : CollId) : ∀ q ∈ (m.leavePhase4 k).trellis.phase4, q.coll ≠ k := fun q hq => by
  simpa using (List.mem_filter.mp hq).2

theorem Ilpiac.failColl_trellis (m : Ilpiac) (k : CollId) (status : Nat) : (m.failColl k status).trellis = m.trellis := by simp

theorem Ilpiac.recordPhase4_trellis (m : Ilpiac) (k : CollId) (fail : Nat) : (m.recordPhase4 k fail).trellis = m.trellis := by
  unfold Ilpiac.recordPhase4
  split
  · rfl
  · exact m.failColl_trellis k fail

/-- A collective that is not committed records the failure of its phase 4, the larger code prevailing (R67, R96). -/
theorem Ilpiac.status_failColl (hc : m.collOf k = some c) (hcommitted : c.committed = false) (hstarted : c.started = false) (status : Nat) :
    ∃ c', (m.failColl k status).collOf k = some c' ∧ c'.status = some (max status (c.status.getD 0)) :=
  ⟨_, Ilpiac.collOf_failColl hc (Option.not_isSome_iff_eq_none.mp (by simpa [Coll.committed] using hcommitted)) hstarted status none, rfl⟩

/-! ### Invocations that were assigned (R205) -/

/-- An engine with an invocation of a collective assigned gives it up. -/
def Ilpiac.dropNext (m : Ilpiac) (k : CollId) (e : Nat) : Ilpiac :=
  match (m.eng e).next with
  | some a => if a.coll = k then m.updEng e (fun x => { x with next := none }) else m
  | none => m

theorem Ilpiac.stopPhase4_eq (m : Ilpiac) (k : CollId) :
    m.stopPhase4 k = (m.updPhase4 k (fun p => { p with todo := [] })).over m.enginesHere (fun m e => m.dropNext k e) := rfl

/-- No invocation of a collective is assigned to an engine. -/
def Ilpiac.NoneNext (m : Ilpiac) (k : CollId) (e : Nat) : Prop := ∀ a, (m.eng e).next = some a → a.coll ≠ k

theorem Ilpiac.noneNext_dropNext (m : Ilpiac) (k : CollId) (e : Nat) : (m.dropNext k e).NoneNext k e := by
  unfold Ilpiac.dropNext
  split
  · split
    · intro a ha
      rw [Ilpiac.updEng, Ilpiac.eng_setEng_self] at ha
      cases ha
    · rename_i b hb hother
      intro a ha
      rw [hb] at ha
      cases ha
      exact hother
  · rename_i hnone
    intro a ha
    rw [hnone] at ha
    cases ha

theorem Ilpiac.eng_dropNext_ne (m : Ilpiac) (k : CollId) {e j : Nat} (h : j ≠ e) : (m.dropNext k e).eng j = m.eng j := by
  unfold Ilpiac.dropNext
  split
  · split
    · exact Ilpiac.eng_setEng_ne _ _ h
    · rfl
  · rfl

theorem Ilpiac.dropNext_coll (m : Ilpiac) (k : CollId) (e : Nat) : (m.dropNext k e).coll = m.coll := by
  unfold Ilpiac.dropNext
  split
  · split <;> rfl
  · rfl

theorem Ilpiac.noneNext_stopPhase4 (m : Ilpiac) (k : CollId) {e : Nat} (he : e ∈ m.enginesHere) : (m.stopPhase4 k).NoneNext k e := by
  rw [Ilpiac.stopPhase4_eq]
  refine Ilpiac.over_each (P := fun e m => m.NoneNext k e) (fun m e => m.noneNext_dropNext k e) (fun m a b hne h => ?_) he
  rw [Ilpiac.NoneNext, m.eng_dropNext_ne k hne]
  exact h

theorem Ilpiac.stopPhase4_coll (m : Ilpiac) (k : CollId) : (m.stopPhase4 k).coll = m.coll := by
  rw [Ilpiac.stopPhase4_eq, Ilpiac.over_coll _ _ _ fun m e => m.dropNext_coll k e]
  rfl

theorem Ilpiac.collOf_congr {m' : Ilpiac} (h : m'.coll = m.coll) (k : CollId) : m'.collOf k = m.collOf k := by
  rw [Ilpiac.collOf, h, Ilpiac.collOf]

end Sys2Proof.Machine

end

section
/-! Programs and phase 4 as commands (spec 06: R203, R205, R223 to R227). -/

namespace Sys2Proof.Machine

section
variable {s : State} {ring : Fin 65536} {d : AccDesc} {m0 : Ilpiac}

theorem exec_progLoad (h : s.m.begin ring 0x30 = some (d, m0)) : exec (.progLoad ring) s = .next { s with m := (m0.progLoad d).settle } := by
  change ran s (s.m.runDesc ring 0x30 (fun d m => m.progLoad d)) = _
  rw [Ilpiac.runDesc_of_begin h, ran]

theorem exec_progUnload (h : s.m.begin ring 0x31 = some (d, m0)) : exec (.progUnload ring) s = .next { s with m := (m0.progUnload d).settle } := by
  change ran s (s.m.runDesc ring 0x31 (fun d m => m.progUnload d)) = _
  rw [Ilpiac.runDesc_of_begin h, ran]

end

section
variable (s : State)

theorem exec_progLoadDone (program : Nat) (image : Readback) (loadNs : Nat) :
    exec (.progLoadDone program image loadNs) s = .next { s with m := (s.m.progLoadDone program image loadNs).settle } := rfl

theorem exec_progUnloadDone (program : Nat) : exec (.progUnloadDone program) s = .next { s with m := (s.m.progUnloadDone program).settle } := rfl

theorem exec_phase4End (k : CollId) : exec (.phase4End k) s = .next { s with m := (s.m.phase4End k).settle } := rfl

theorem exec_phase4Timeout (k : CollId) : exec (.phase4Timeout k) s = .next { s with m := (s.m.phase4Timeout k).settle } := rfl

end

theorem Ilpiac.withDescs_trellis (m : Ilpiac) (l : List AccDesc) : (m.withDescs l).trellis = m.trellis := rfl

end Sys2Proof.Machine

open Sys2Proof.Machine

/-- Settles O50: PROG_LOAD by its checks, the two verdicts on an image, then the unload, and phase 4 by how it ends. -/
theorem programs : Obligations.Programs := by
  unfold Obligations.Programs
  refine fun s => ⟨fun ring d m0 hbegin => ?_, fun l d bytes ns hl hd hlen himage hreport hup => ?_,
    fun ring d m0 hbegin hpresent hw hz => ?_, fun u d hu hidle hheld hlt hd => ?_, fun k p hp => ⟨fun htodo hengines hwrites => ?_, ?_⟩⟩
  · intro handle mask es
    have hexec := exec_progLoad hbegin
    obtain ⟨descs, rfl⟩ := Ilpiac.begin_descs hbegin
    refine ⟨fun habsent => ?_, fun htrellis hengines himageAt hreportAt himage hreport => ?_⟩
    · rw [Ilpiac.progLoad_of_absent (m := s.m.withDescs descs) habsent] at hexec
      exact ⟨_, hexec, Ilpiac.done_trellis .., Ilpiac.done_cpl ..⟩
    · have hpresent : (s.m.withDescs descs).LoadPresent d := ⟨htrellis, hengines⟩
      refine ⟨fun hw hz hhandle hmask hheld hfree => ?_, fun hbad => ?_⟩
      · have hformed := Ilpiac.loadFormed_of_checks hw hz hhandle hmask himageAt hreportAt (himage.withDescs descs) (hreport.withDescs descs)
        have hempty (e : Nat) (he : e ∈ d.loadEngines) : (s.m.withDescs descs).engineTaken e = false := by
          obtain ⟨hprog, hstate, hon⟩ := hfree e he
          exact Ilpiac.engineTaken_of_empty (m := s.m.withDescs descs) hprog hstate hon
        rw [hpresent.accepted hformed hheld hempty] at hexec
        obtain ⟨hctl, hsame, hloads, hloading⟩ := ((s.m.withDescs descs).noteRefusals d.loadRanges).startLoad_starts d
        refine ⟨_, hexec, ?_, ?_, ?_, hloading⟩
        · rw [hctl, Ilpiac.noteRefusals_ctl, s.m.withDescs_cpl]
        · rw [hsame, Ilpiac.noteRefusals_trellis, s.m.withDescs_trellis]
        · rw [hloads, Ilpiac.noteRefusals_trellis, s.m.withDescs_trellis]
          rfl
      · have hrefused : (s.m.withDescs descs).loadFormed d = false ∨ (s.m.withDescs descs).handleHeld (d.f 1 0 16) = true ∨
            ∃ e ∈ d.loadEngines, (s.m.withDescs descs).engineTaken e = true := by
          rcases hbad with hhandle | hmask | hheld | ⟨e, he, hprog⟩
          · exact .inl (Ilpiac.loadFormed_of_zero _ (.inl hhandle))
          · exact .inl (Ilpiac.loadFormed_of_zero _ (.inr hmask))
          · exact .inr (.inl hheld)
          · exact .inr (.inr ⟨e, he, Ilpiac.engineTaken_of_prog (m := s.m.withDescs descs) hprog⟩)
        rw [hpresent.refused hrefused] at hexec
        refine ⟨_, hexec, ?_, ?_⟩
        · rw [Ilpiac.done_trellis, Ilpiac.refuseLoad_trellis, Ilpiac.noteRefusals_trellis, s.m.withDescs_trellis]
        · rw [Ilpiac.done_cpl, Ilpiac.refuseLoad_cpl, Ilpiac.noteRefusals_ctl, s.m.withDescs_cpl]
  · intro h told
    have hread : s.m.LoadRead l d bytes := ⟨hl, hd, hlen, himage, hreport, hup⟩
    have hexec := exec_progLoadDone s l.handle (some bytes) ns
    refine ⟨fun hverify hsmall => ?_, fun f hverify => ?_⟩
    · obtain ⟨m', hdone, htold, hcpl, hloads, hholds⟩ := hread.progLoadDone_verified ns hverify hsmall
      rw [hdone] at hexec
      refine ⟨m', hexec, htold, hcpl, hloads, fun e he => ?_⟩
      obtain ⟨⟨hprog, hcur, hstate, hhandle⟩, hon⟩ := hholds e he
      rw [hon] at hstate
      exact ⟨hprog, hcur, hstate, hhandle⟩
    · obtain ⟨m', hdone, htold, hcpl, hengines, hempty⟩ := hread.progLoadDone_refused ns hverify
      rw [hdone] at hexec
      exact ⟨m', hexec, htold, hcpl, hengines, hempty⟩
  · have hexec := exec_progUnload hbegin
    obtain ⟨descs, rfl⟩ := Ilpiac.begin_descs hbegin
    rw [Ilpiac.progUnload_of_formed (m := s.m.withDescs descs) hpresent hw hz] at hexec
    refine ⟨fun hheld => ?_, fun hnone => ?_⟩
    · have hsome : ((s.m.withDescs descs).holders (d.f 1 0 16)).isEmpty = false := List.isEmpty_eq_false_iff.mpr hheld
      rw [hsome, if_neg Bool.false_ne_true] at hexec
      exact ⟨_, hexec, rfl, rfl⟩
    · have hempty : ((s.m.withDescs descs).holders (d.f 1 0 16)).isEmpty = true := List.isEmpty_iff.mpr hnone
      rw [hempty, if_pos rfl] at hexec
      exact ⟨_, hexec, Ilpiac.done_trellis .., Ilpiac.done_cpl ..⟩
  · have hexec := exec_progUnloadDone s u.handle
    rw [Ilpiac.progUnloadDone_of_idle hu hidle hheld hd] at hexec
    refine ⟨_, hexec, ?_, fun e he => ((s.m.endUnload u).empty_emptyEngines he).done (hlt e he) ..⟩
    rw [Ilpiac.done_cpl, Ilpiac.emptyEngines_cpl]
    rfl
  · have hexec := exec_phase4End s k
    rw [Ilpiac.phase4End_of_over hp ⟨htodo, hengines, hwrites⟩] at hexec
    refine ⟨_, hexec, ?_, fun hgood => ?_, fun hfail c hc hcommitted hstarted => ?_⟩
    · rw [Ilpiac.recordPhase4_trellis]
      exact s.m.mem_leavePhase4 k
    · rw [hgood]
      rfl
    · rw [Ilpiac.recordPhase4, if_neg hfail]
      exact Ilpiac.status_failColl (m := s.m.leavePhase4 k) hc hcommitted hstarted p.fail
  · have hexec := exec_phase4Timeout s k
    rw [Ilpiac.phase4Timeout_eq hp] at hexec
    refine ⟨_, hexec, ?_, fun e he a ha => ?_, fun c hc hcommitted hstarted => ?_⟩
    · rw [Ilpiac.failColl_trellis]
      exact (s.m.stopPhase4 k).mem_leavePhase4 k
    · rw [Ilpiac.eng_congr (Ilpiac.failColl_trellis ..)] at ha
      exact s.m.noneNext_stopPhase4 k he a ha
    · refine Ilpiac.status_failColl ?_ hcommitted hstarted _
      rw [← hc]
      exact Ilpiac.collOf_congr (s.m.stopPhase4_coll k) k

end

section
/-! Stripes that come back from the pieces, and adder sums in either order (spec 07: R241, R259; spec 08: R292). -/

namespace Sys2Proof.Machine

/-! ### GF(2^8) (R241) -/

/-- A map of bytes that carries XOR to XOR. -/
def ByteAdditive (f : Byte → Byte) : Prop := ∀ x y, f (x ^^^ y) = f x ^^^ f y

theorem ByteAdditive.map_zero {f : Byte → Byte} (hf : ByteAdditive f) : f 0 = 0 := by
  have h := hf 0 0
  rwa [BitVec.xor_self, BitVec.xor_self] at h

theorem ByteAdditive.comp {f g : Byte → Byte} (hf : ByteAdditive f) (hg : ByteAdditive g) : ByteAdditive (fun x => f (g x)) := fun x y => by
  show f (g (x ^^^ y)) = _
  rw [hg, hf]

/-- The XOR of the powers of two of some bits that a byte has. -/
def bitSum (b : Byte) (l : List (Fin 8)) : Byte := l.foldr (fun (i : Fin 8) acc => (if b.getLsbD i then BitVec.twoPow 8 i else 0) ^^^ acc) 0

/-- A byte is the XOR of the powers of two of its bits. -/
theorem bitSum_finRange : ∀ b : Byte, bitSum b (List.finRange 8) = b := by decide +kernel

/-- Two additive maps that agree on the eight powers of two agree on every byte. -/
theorem ByteAdditive.ext {f g : Byte → Byte} (hf : ByteAdditive f) (hg : ByteAdditive g) (h : ∀ i : Fin 8, f (BitVec.twoPow 8 i) = g (BitVec.twoPow 8 i))
    (b : Byte) : f b = g b := by
  have agree : ∀ l, f (bitSum b l) = g (bitSum b l) := fun l => by
    induction l with
    | nil => exact hf.map_zero.trans hg.map_zero.symm
    | cons i l ih =>
      rw [bitSum, List.foldr_cons, hf, hg]
      refine congrArg₂ (· ^^^ ·) ?_ ih
      split
      · exact h i
      · exact hf.map_zero.trans hg.map_zero.symm
  exact bitSum_finRange b ▸ agree _

theorem gfDouble_additive : ByteAdditive gfDouble := fun x y => by
  unfold gfDouble
  rw [BitVec.getLsbD_xor, BitVec.shiftLeft_xor_distrib]
  cases x.getLsbD 7 <;> cases y.getLsbD 7
  · rfl
  · exact BitVec.xor_assoc ..
  · show (x <<< 1 ^^^ y <<< 1) ^^^ 0x1D#8 = (x <<< 1 ^^^ 0x1D#8) ^^^ y <<< 1
    ac_rfl
  · show x <<< 1 ^^^ y <<< 1 = (x <<< 1 ^^^ 0x1D#8) ^^^ (y <<< 1 ^^^ 0x1D#8)
    rw [show (x <<< 1 ^^^ 0x1D#8) ^^^ (y <<< 1 ^^^ 0x1D#8) = (x <<< 1 ^^^ y <<< 1) ^^^ (0x1D#8 ^^^ 0x1D#8) by ac_rfl]
    simp

/-- One bit of the second factor of a product enters. -/
def gfStep (a b acc : Byte) (i : Nat) : Byte := if b.getLsbD i then gfDouble acc ^^^ a else gfDouble acc

theorem gfMul_eq_foldl (a b : Byte) : gfMul a b = [7, 6, 5, 4, 3, 2, 1, 0].foldl (gfStep a b) 0 := rfl

theorem gfStep_left (a a' b x y : Byte) (i : Nat) : gfStep (a ^^^ a') b (x ^^^ y) i = gfStep a b x i ^^^ gfStep a' b y i := by
  unfold gfStep
  split
  · rw [gfDouble_additive]; ac_rfl
  · exact gfDouble_additive x y

theorem gfStep_right (a b b' x y : Byte) (i : Nat) : gfStep a (b ^^^ b') (x ^^^ y) i = gfStep a b x i ^^^ gfStep a b' y i := by
  unfold gfStep
  rw [BitVec.getLsbD_xor, gfDouble_additive]
  cases b.getLsbD i <;> cases b'.getLsbD i
  · rfl
  · exact BitVec.xor_assoc ..
  · show (gfDouble x ^^^ gfDouble y) ^^^ a = (gfDouble x ^^^ a) ^^^ gfDouble y
    ac_rfl
  · show gfDouble x ^^^ gfDouble y = (gfDouble x ^^^ a) ^^^ (gfDouble y ^^^ a)
    rw [show (gfDouble x ^^^ a) ^^^ (gfDouble y ^^^ a) = (gfDouble x ^^^ gfDouble y) ^^^ (a ^^^ a) by ac_rfl]
    simp

theorem foldl_xor {f g h : Byte → Nat → Byte} (hstep : ∀ x y i, f (x ^^^ y) i = g x i ^^^ h y i) (l : List Nat) (x y : Byte) :
    l.foldl f (x ^^^ y) = l.foldl g x ^^^ l.foldl h y := by
  induction l generalizing x y with
  | nil => rfl
  | cons i l ih => simp only [List.foldl_cons, hstep, ih]

theorem gfMul_additive_left (b : Byte) : ByteAdditive (gfMul · b) := fun a a' => foldl_xor (gfStep_left a a' b) _ 0 0

theorem gfMul_additive (a : Byte) : ByteAdditive (gfMul a) := fun b b' => foldl_xor (gfStep_right a b b') _ 0 0

/-- Associativity on the powers of two, where it is one of 512 closed facts. -/
theorem gfMul_assoc_bits : ∀ i j k : Fin 8, gfMul (gfMul (BitVec.twoPow 8 i) (BitVec.twoPow 8 j)) (BitVec.twoPow 8 k) =
    gfMul (BitVec.twoPow 8 i) (gfMul (BitVec.twoPow 8 j) (BitVec.twoPow 8 k)) := by
  decide +kernel

theorem gfMul_assoc (a b c : Byte) : gfMul (gfMul a b) c = gfMul a (gfMul b c) := by
  have bits_left : ∀ i j : Fin 8, gfMul (gfMul (BitVec.twoPow 8 i) (BitVec.twoPow 8 j)) c = gfMul (BitVec.twoPow 8 i) (gfMul (BitVec.twoPow 8 j) c) := fun i j =>
    (gfMul_additive _).ext ((gfMul_additive _).comp (gfMul_additive _)) (gfMul_assoc_bits i j) c
  have bit_left : ∀ i : Fin 8, gfMul (gfMul (BitVec.twoPow 8 i) b) c = gfMul (BitVec.twoPow 8 i) (gfMul b c) := fun i =>
    ((gfMul_additive_left c).comp (gfMul_additive _)).ext ((gfMul_additive _).comp (gfMul_additive_left c)) (bits_left i) b
  exact ((gfMul_additive_left c).comp (gfMul_additive_left b)).ext (gfMul_additive_left _) bit_left a

theorem gfMul_one_left (b : Byte) : gfMul 1 b = b :=
  (gfMul_additive 1).ext (g := id) (fun _ _ => rfl) (by decide) b

/-- A power with its exponent in two halves. -/
theorem gfPow_add (a : Byte) (m n : Nat) : gfPow a (m + n) = gfMul (gfPow a m) (gfPow a n) := by
  induction m with
  | zero => rw [Nat.zero_add]; exact (gfMul_one_left _).symm
  | succ m ih => rw [Nat.succ_add, gfPow, gfPow, ih, gfMul_assoc]

/-- Powers of two as exponents, by squaring. -/
def gfSquares (a : Byte) : Nat → Byte
  | 0 => a
  | n + 1 => gfMul (gfSquares a n) (gfSquares a n)

theorem gfPow_two_pow (a : Byte) (h1 : gfPow a 1 = a) (n : Nat) : gfPow a (2 ^ n) = gfSquares a n := by
  induction n with
  | zero => exact h1
  | succ n ih => rw [Nat.pow_succ, Nat.mul_two, gfPow_add, ih, gfSquares]

/-- The product of the squares 2, 4, ..., 128, which makes the power 254. -/
def gfInvSquares (a : Byte) : Byte := [1, 2, 3, 4, 5, 6].foldr (fun i acc => gfMul (gfSquares a i) acc) (gfSquares a 7)

theorem gfMul_one_right : ∀ a : Byte, gfMul a 1 = a := by decide +kernel

theorem gfInv_eq_squares (a : Byte) : gfInv a = gfInvSquares a := by
  have h2 := gfPow_two_pow a (gfMul_one_right a)
  simp only [gfInvSquares, List.foldr_cons, List.foldr_nil, ← h2, ← gfPow_add]
  rfl

theorem gfInvSquares_mul : ∀ a : Byte, a ≠ 0 → gfMul (gfInvSquares a) a = 1 := by decide +kernel

/-- The power 254 of a nonzero element is its inverse. -/
theorem gfInv_mul {a : Byte} (h : a ≠ 0) (b : Byte) : gfMul (gfInv a) (gfMul a b) = b := by
  rw [← gfMul_assoc, gfInv_eq_squares, gfInvSquares_mul a h, gfMul_one_left]

theorem gfG_ne_zero : ∀ a : Fin 16, gfG a ≠ 0 := by decide +kernel

/-- The 16 positions have different coefficients. -/
theorem gfG_injective : ∀ a b : Fin 16, gfG a = gfG b → a = b := by decide +kernel

/-! ### Byte strings (R241, R259) -/

section
variable {a b c : List Byte}

theorem xorBytes_comm (a b : List Byte) : xorBytes a b = xorBytes b a := List.zipWith_comm_of_comm BitVec.xor_comm

theorem xorBytes_assoc (a b c : List Byte) : xorBytes (xorBytes a b) c = xorBytes a (xorBytes b c) := by
  induction a generalizing b c with
  | nil => rfl
  | cons x a ih =>
    cases b with
    | nil => rfl
    | cons y b =>
      cases c with
      | nil => rfl
      | cons z c => exact congrArg₂ List.cons (BitVec.xor_assoc x y z) (ih b c)

/-- What enters a sum twice leaves it. -/
theorem xorBytes_cancel (h : a.length = b.length) : xorBytes a (xorBytes a b) = b := by
  induction a generalizing b with
  | nil => exact (List.length_eq_zero_iff.mp h.symm).symm
  | cons x a ih =>
    cases b with
    | nil => simp at h
    | cons y b => exact congrArg₂ List.cons (show x ^^^ (x ^^^ y) = y by rw [← BitVec.xor_assoc, BitVec.xor_self, BitVec.zero_xor]) (ih (Nat.succ.inj h))

/-- A sum with one of its two parts taken off again. -/
theorem xorBytes_cancel_right (h : a.length = b.length) : xorBytes (xorBytes a b) a = b := by
  rw [xorBytes_comm, xorBytes_cancel h]

@[simp] theorem gfScale_length (k : Byte) (l : List Byte) : (gfScale k l).length = l.length := List.length_map ..

theorem gfScale_xorBytes (k : Byte) (a b : List Byte) : gfScale k (xorBytes a b) = xorBytes (gfScale k a) (gfScale k b) := by
  induction a generalizing b with
  | nil => rfl
  | cons x a ih =>
    cases b with
    | nil => rfl
    | cons y b => exact congrArg₂ List.cons (gfMul_additive k x y) (ih b)

theorem xorBytes_gfScale (j k : Byte) (l : List Byte) : xorBytes (gfScale j l) (gfScale k l) = gfScale (j ^^^ k) l := by
  induction l with
  | nil => rfl
  | cons x l ih => exact congrArg₂ List.cons (gfMul_additive_left x j k).symm ih

theorem gfScale_gfInv {k : Byte} (h : k ≠ 0) (l : List Byte) : gfScale (gfInv k) (gfScale k l) = l := by
  simp [gfScale, Function.comp_def, gfInv_mul h]

/-- Two lost stripes (R259): the sums of both, weighted and not, give the first. -/
theorem gfScale_two_lost {j k : Byte} (hne : j ≠ k) (hlen : a.length = b.length) :
    gfScale (gfInv (j ^^^ k)) (xorBytes (xorBytes (gfScale j a) (gfScale k b)) (gfScale k (xorBytes a b))) = a := by
  have hsum : xorBytes (xorBytes (gfScale j a) (gfScale k b)) (gfScale k (xorBytes a b)) = gfScale (j ^^^ k) a := by
    rw [gfScale_xorBytes, xorBytes_comm (gfScale k a), xorBytes_assoc, xorBytes_cancel (by simp [hlen]), xorBytes_gfScale]
  rw [hsum]
  exact gfScale_gfInv (fun h => hne (BitVec.xor_eq_zero_iff.mp h)) a

end

theorem xorBytes_right_comm (a b c : List Byte) : xorBytes (xorBytes a b) c = xorBytes (xorBytes a c) b := by
  rw [xorBytes_assoc, xorBytes_comm b, ← xorBytes_assoc]

/-- The order in which the stripes of two positions enter the sums does not matter. -/
theorem Rebuild.fold_comm {r : Rebuild} {i j : Nat} (hne : i ≠ j) (hi : i ∉ r.srcs) (hj : j ∉ r.srcs) (d e : List Byte) :
    ((r.fold i d).fold j e).xorSum = ((r.fold j e).fold i d).xorSum ∧ ((r.fold i d).fold j e).gfSum = ((r.fold j e).fold i d).gfSum := by
  simp [Rebuild.fold, hi, hj, hne, hne.symm, xorBytes_right_comm r.xorSum d, xorBytes_right_comm r.gfSum (gfScale (gfG i) d)]

/-! ### Adder operations (R290, R292) -/

theorem ofLE_leBytes (n x : Nat) : ofLE (leBytes n x) = x % 256 ^ n := by
  induction n generalizing x with
  | zero => simp [leBytes, ofLE, Nat.mod_one]
  | succ n ih =>
    rw [leBytes, ofLE, ih, BitVec.toNat_ofNat]
    exact (congrArg (x % ·) (Nat.pow_succ' (m := 256))).trans Nat.mod_mul |>.symm

theorem leBytes_mod (n x : Nat) : leBytes n (x % 256 ^ n) = leBytes n x := by
  induction n generalizing x with
  | zero => rfl
  | succ n ih =>
    have hhead : BitVec.ofNat 8 (x % 256 ^ (n + 1)) = BitVec.ofNat 8 x := by
      apply BitVec.eq_of_toNat_eq
      rw [BitVec.toNat_ofNat, BitVec.toNat_ofNat, Nat.pow_succ', Nat.mod_mul_right_mod]
    rw [leBytes, leBytes, hhead, Nat.pow_succ', Nat.mod_mul_right_div_self, ih]

theorem ofLE_lt (l : List Byte) : ofLE l < 256 ^ l.length := by
  induction l with
  | nil => simp [ofLE]
  | cons b l ih =>
    have := b.isLt
    rw [ofLE, List.length_cons, Nat.pow_succ']
    omega

theorem natAt_lt (l : List Byte) (o n : Nat) : natAt l o n < 256 ^ n := by
  have h := ofLE_lt (bytesAt l o n)
  rwa [show (bytesAt l o n).length = n by simp [bytesAt]] at h

/-- Elements of one size, in a row. -/
def elements (e n : Nat) (f : Nat → Nat) : List Byte := (List.range n).flatMap (fun i => leBytes e (f i))

@[simp] theorem elements_length (e n : Nat) (f : Nat → Nat) : (elements e n f).length = n * e := by
  simp [elements, List.length_flatMap, leBytes_length]

/-- The element at a place of a row. -/
theorem natAt_elements {e n i : Nat} (f : Nat → Nat) (h : i < n) : natAt (elements e n f) (i * e) e = f i % 256 ^ e := by
  have hcut : ((elements e n f).drop (i * e)).take e = leBytes e (f i) := by
    obtain ⟨k, rfl⟩ := Nat.exists_eq_add_of_lt h
    have hsplit : elements e (i + k + 1) f = elements e i f ++ (leBytes e (f i) ++ (List.range k).flatMap (fun j => leBytes e (f (i + 1 + j)))) := by
      simp [elements, show i + k + 1 = i + (1 + k) by omega, List.range_add, List.flatMap_append, List.flatMap_map]
    rw [hsplit, List.drop_left' (by simp), List.take_left' (leBytes_length ..)]
  rw [natAt, bytesAt, hcut, leBytes_length, Nat.sub_self, List.replicate_zero, List.append_nil, ofLE_leBytes]

theorem amoApply_eq_elements {op e : Nat} (h : amoElem op = some e) (coef : Byte) (mem src : List Byte) :
    amoApply op coef mem src = elements e (src.length / e) (fun i => amoElemF op coef (natAt mem (i * e) e) (natAt src (i * e) e)) := by
  simp only [amoApply, h, elements]

/-- On one element the two sources may come in either order. -/
def ElementCommutes (op e : Nat) (ca cb : Byte) : Prop := ∀ m x y, m < 256 ^ e → x < 256 ^ e → y < 256 ^ e →
  amoElemF op cb (amoElemF op ca m x % 256 ^ e) y = amoElemF op ca (amoElemF op cb m y % 256 ^ e) x

/-- An operation that commutes on its elements commutes on byte strings of one length. -/
theorem ElementCommutes.amoApply_comm {op e : Nat} {ca cb : Byte} (he : amoElem op = some e) (h : ElementCommutes op e ca cb) {mem a b : List Byte}
    (hlen : a.length = b.length) : amoApply op cb (amoApply op ca mem a) b = amoApply op ca (amoApply op cb mem b) a := by
  rw [amoApply_eq_elements he, amoApply_eq_elements he, amoApply_eq_elements he, amoApply_eq_elements he, hlen]
  refine List.flatMap_congr (fun i hi => ?_)
  simp only [natAt_elements _ (List.mem_range.mp hi)]
  rw [h _ _ _ (natAt_lt ..) (natAt_lt ..) (natAt_lt ..)]

theorem nat_xor_byte {m x : Nat} (hm : m < 256) (hx : x < 256) : Nat.xor m x % 256 = Nat.xor m x :=
  Nat.mod_eq_of_lt (Nat.xor_lt_two_pow (n := 8) hm hx)

theorem nat_xor_right_comm (m x y : Nat) : Nat.xor (Nat.xor m x) y = Nat.xor (Nat.xor m y) x := Nat.xor_right_comm ..

/-- Integer addition, XOR and GF_MAC, each with the size of its elements. -/
theorem elementCommutes_of_mem {op : Nat} (h : op ∈ [0x2, 0x3, 0x4, 0x5, 0x8, 0x9]) (ca cb : Byte) :
    ∃ e, amoElem op = some e ∧ ElementCommutes op e ca cb := by
  simp only [List.mem_cons, List.not_mem_nil, or_false] at h
  obtain rfl | rfl | rfl | rfl | rfl | rfl := h
  · exact ⟨4, rfl, fun m x y _ _ _ => by simp only [amoElemF]; omega⟩
  · exact ⟨8, rfl, fun m x y _ _ _ => by simp only [amoElemF]; omega⟩
  · refine ⟨1, rfl, fun m x y hm hx hy => ?_⟩
    simp only [amoElemF, Nat.pow_one] at hm hx hy ⊢
    rw [nat_xor_byte hm hx, nat_xor_byte hm hy, nat_xor_right_comm]
  · refine ⟨1, rfl, fun m x y hm _ _ => ?_⟩
    simp only [amoElemF, Nat.pow_one] at hm ⊢
    rw [nat_xor_byte hm (BitVec.isLt _), nat_xor_byte hm (BitVec.isLt _), nat_xor_right_comm]
  · exact ⟨4, rfl, fun m x y _ _ _ => by simp only [amoElemF]; omega⟩
  · exact ⟨8, rfl, fun m x y _ _ _ => by simp only [amoElemF]; omega⟩

end Sys2Proof.Machine

open Sys2Proof.Machine

/-- Settles O54: multiplication in GF(2^8) is additive in both factors and associative, and a nonzero element times its power 254 is 1; elements of an adder
operation do not meet. -/
theorem stripeRecovery : Obligations.StripeRecovery := by
  unfold Obligations.StripeRecovery
  refine ⟨fun a b dx dy hlen hne => ⟨?_, fun rest hrest => ?_, fun r _ _ ha hb => ?_⟩, fun op ca cb mem x y hop hx hy => ?_⟩
  · have hx := gfScale_two_lost (fun h => hne (gfG_injective a b h)) hlen
    refine ⟨hx, ?_⟩
    rw [hx]
    exact xorBytes_cancel_right hlen
  · refine ⟨xorBytes_cancel_right hrest, ?_⟩
    rw [xorBytes_cancel_right (by simpa using hrest)]
    exact gfScale_gfInv (gfG_ne_zero a) dx
  · exact Rebuild.fold_comm (fun h => hne (Fin.ext h)) ha hb dx dy
  · obtain ⟨e, he, hcomm⟩ := elementCommutes_of_mem hop ca cb
    exact hcomm.amoApply_comm he (hx.trans hy.symm)

end

section
/-! What the traffic of packets and the codewords of HBM leave of the cloche (spec 07, 08, 09): the groups, and the descriptors that have been
accepted. A rule per operation, beside those of traffic. -/

namespace Sys2Proof.Machine

variable {m m' m'' : Ilpiac}

/-! ### The relation -/

/-- The cloche groups and the accepted descriptors are as they were. -/
structure Ilpiac.Held (m m' : Ilpiac) : Prop where
  groups : m'.groups = m.groups
  descs : m'.ctl.descs = m.ctl.descs

theorem Ilpiac.Held.refl (m : Ilpiac) : m.Held m := ⟨rfl, rfl⟩

/-- An operation whose frame names the groups and the control state. -/
theorem Ilpiac.Held.frame (h : m.Held m') (hgroups : m''.groups = m'.groups := by simp) (hctl : m''.ctl = m'.ctl := by simp) : m.Held m'' :=
  ⟨hgroups.trans h.groups, (congrArg (·.descs) hctl).trans h.descs⟩

/-- Parts of the state that the relation does not speak of. -/
theorem Ilpiac.Held.beside {regs clk free ctl flt twin sw coll trellis hbm lanes links sync time record power boot} (h : m.Held m')
    (hctl : ctl.descs = m'.ctl.descs := by rfl) :
    m.Held ⟨regs, clk, free, ctl, flt, twin, sw, coll, trellis, hbm, m'.groups, lanes, links, sync, time, record, power, boot⟩ :=
  ⟨h.groups, hctl.trans h.descs⟩

theorem Ilpiac.Held.ite {c : Prop} [Decidable c] {m₁ m₂ : Ilpiac} (h₁ : m.Held m₁) (h₂ : m.Held m₂) : m.Held (if c then m₁ else m₂) := by
  split <;> assumption

theorem Ilpiac.Held.over {α : Type} {l : List α} {f : Ilpiac → α → Ilpiac} (h : m.Held m') (hf : ∀ m' a, m.Held m' → m.Held (f m' a)) :
    m.Held (m'.over l f) := Ilpiac.over_induct h hf

theorem Ilpiac.Held.wr {b : Blk} {n : Nat} {f : Fld} {v j : Nat} (h : m.Held m') : m.Held (m'.wr b n f v j) := h.beside

theorem Ilpiac.Held.gw {f : Fld} {v j : Nat} (h : m.Held m') : m.Held (m'.gw f v j) := h.wr

/-! ### Events, faults and messages -/

theorem Ilpiac.Held.event {e : Event} (h : m.Held m') : m.Held (m'.event e) := h.ite (h.gw.ite h.gw.beside)

theorem Ilpiac.Held.sbEvent {e : Nat} (h : m.Held m') : m.Held (m'.sbEvent e) := h.frame

theorem Ilpiac.Held.dueAtOnce {src : Nat} (h : m.Held m') : m.Held (m'.dueAtOnce src) := h.frame

theorem Ilpiac.Held.latch {a : Assertion} (h : m.Held m') : m.Held (m'.latch a) :=
  (Ilpiac.Held.frame (m' := (m'.markLatched a).firstFault a) h.frame).gw.event.sbEvent.dueAtOnce

theorem Ilpiac.Held.latchNext (h : m.Held m') : m.Held m'.latchNext := by
  unfold Ilpiac.latchNext
  split
  · exact h.latch.ite h
  · exact h

theorem Ilpiac.Held.raise {src unit detail : Nat} {wire : Bool} (h : m.Held m') : m.Held (m'.raise src unit detail wire) := by
  have hadd (a : Assertion) : m.Held (m'.addAssert a) := h.beside
  unfold Ilpiac.raise
  dsimp only
  split
  · exact h
  · split
    · exact hadd _
    · split
      · exact (hadd _).latch
      · exact ((hadd _).ite (hadd _).gw).ite (hadd _).latchNext

theorem Ilpiac.Held.send {x : HolmMsg} (h : m.Held m') : m.Held (m'.send x) := h.beside.ite h

theorem Ilpiac.Held.boardWrite {addr : Nat} {d : List Byte} (h : m.Held m') : m.Held (m'.boardWrite addr d) := by
  unfold Ilpiac.boardWrite
  split
  · exact h.beside
  · exact Ilpiac.Held.ite h.raise (h.over fun _ _ h => h.send)

/-! ### The packet buffer and the queues -/

theorem Ilpiac.Held.capture {ev port : Nat} {p : Packet} (h : m.Held m') : m.Held (m'.capture ev port p) := by
  unfold Ilpiac.capture Ilpiac.sieveLevel
  split
  · exact h
  · split
    · exact h.beside
    · dsimp only
      split
      · exact h.beside.gw
      · split
        · exact h.beside.gw.gw
        · exact h.beside.boardWrite.gw.gw.event.ite h.beside.boardWrite.gw.gw

theorem Ilpiac.Held.store {p : Packet} {a : Area} {ingress : Nat} {held : Bool} {land : Option (Nat × Nat)} {hose : Option Nat} {crcBad : Bool}
    (h : m.Held m') : m.Held (m'.store p a ingress held land hose crcBad).2 := h.frame

theorem Ilpiac.Held.reap {id : Nat} (h : m.Held m') : m.Held (m'.reap id) := h.frame

theorem Ilpiac.Held.unhold {id : Nat} (h : m.Held m') : m.Held (m'.unhold id) := h.frame

theorem Ilpiac.Held.unref {id : Nat} (h : m.Held m') : m.Held (m'.unref id) := (Ilpiac.Held.beside h).reap

theorem Ilpiac.Held.qstat {k : Nat} (h : m.Held m') : m.Held (m'.qstat k) := h.frame

theorem Ilpiac.Held.waking {p : Nat} {f : Ilpiac → Ilpiac} (h : m.Held (f m')) : m.Held (m'.waking p f) :=
  h.over (fun _ _ h => h.wr) |>.over fun _ _ h => h.beside

theorem Ilpiac.Held.enqAt {port q id : Nat} (h : m.Held m') : m.Held (m'.enqAt port q id) := by
  unfold Ilpiac.enqAt
  split
  · exact h
  · split
    · exact (h.capture.ite h).reap
    · exact Ilpiac.Held.waking (Ilpiac.Held.qstat h.beside)

theorem Ilpiac.Held.enq {port id : Nat} (h : m.Held m') : m.Held (m'.enq port id) := by
  unfold Ilpiac.enq
  split
  · exact h
  · exact h.enqAt

theorem Ilpiac.Held.dropFrom {k : Nat} {p : QEnt → Bool} {ev : Option Nat} (h : m.Held m') : m.Held (m'.dropFrom k p ev) := by
  have hout : m.Held ((m'.setQueue k ((m'.queue k).filter (fun e => !p e))).over ((m'.queue k).filter p) (fun m e =>
      match m.bufPkt e.id with
      | none => m
      | some b => Ilpiac.unref (match ev with | some v => m.capture v (k / 1024) b.pkt | none => m) e.id)) := by
    refine Ilpiac.Held.over (m' := m'.setQueue k _) h.beside fun _ _ h => ?_
    split
    · exact h
    · refine Ilpiac.Held.unref ?_
      split
      · exact h.capture
      · exact h
  exact hout.ite hout.qstat

theorem Ilpiac.Held.sharedRoom {c n : Nat} (h : m.Held m') (e : m'.sharedRoom c n = some m'') : m.Held m'' := by
  unfold Ilpiac.sharedRoom at e
  split at e
  · cases e
    exact h
  · dsimp only at e
    split at e
    · cases e
    · cases e
      exact h.over fun _ _ h => h.dropFrom.gw

theorem Ilpiac.Held.emitShared {port : Nat} {p : Packet} (h : m.Held m') : m.Held (m'.emitShared port p) := by
  unfold Ilpiac.emitShared
  split
  · exact h
  · exact (h.sharedRoom ‹_›).store.enq.reap

/-! ### Datagrams, hoses and relays -/

theorem Ilpiac.Held.datagram {id : Nat} (h : m.Held m') : m.Held (m'.datagram id) := by
  unfold Ilpiac.datagram
  split
  · exact h
  · split
    · exact h.enq
    · exact h.gw

theorem Ilpiac.Held.sendDatagram {p : Packet} {a : Area} (h : m.Held m') : m.Held (m'.sendDatagram p a) := h.ite h.store.datagram.reap

theorem Ilpiac.Held.hoseForward {x1 : Nat} {p : Packet} {ingress : Nat} {crcBad : Bool} (h : m.Held m') :
    m.Held (m'.hoseForward x1 p ingress crcBad) := h.wr.ite h.store.enqAt.reap.wr

theorem Ilpiac.Held.hosePump {x n : Nat} (h : m.Held m') : m.Held (m'.hosePump x n) := by
  induction n generalizing m' with
  | zero => exact h
  | succ n ih =>
    unfold Ilpiac.hosePump
    split
    · exact h
    · split
      · exact ih (Ilpiac.Held.hoseForward (Ilpiac.Held.wr (Ilpiac.Held.beside h)))
      · exact h

theorem Ilpiac.Held.sendTrunk {p : Packet} {buf : Option Nat} {a : Area} (h : m.Held m') : m.Held (m'.sendTrunk p buf a) := by
  unfold Ilpiac.sendTrunk
  split
  · exact Ilpiac.Held.hosePump h.beside
  · split
    · exact h.datagram
    · exact h.sendDatagram

theorem Ilpiac.Held.relayTo {relay plane : Nat} {p : Packet} (h : m.Held m') : m.Held (m'.relayTo relay plane p) := h.emitShared

theorem Ilpiac.Held.tack {p : Packet} {plane : Nat} {group : Option Nat} (h : m.Held m') : m.Held (m'.tack p plane group) :=
  h.sendDatagram.ite h.relayTo

/-! ### Channels and codewords -/

theorem Ilpiac.Held.outNow {ch : Nat} (h : m.Held m') : m.Held (m'.outNow ch) := h.frame

theorem Ilpiac.Held.recordOut {ch cause : Nat} (h : m.Held m') : m.Held (m'.recordOut ch cause) := h.frame

theorem Ilpiac.Held.migrate {slot source : Nat} {readable : Bool} {q : Nat} (h : m.Held m') : m.Held (m'.migrate slot source readable q) := h.frame

theorem Ilpiac.Held.unback {slot : Nat} (h : m.Held m') : m.Held (m'.unback slot) := h.beside.gw.raise

theorem Ilpiac.Held.mapOut {ch cause : Nat} (h : m.Held m') : m.Held (m'.mapOut ch cause) := by
  unfold Ilpiac.mapOut
  extract_lets +onlyGivenNames readable
  split
  · exact h
  · split
    · exact h.ite h.beside
    · extract_lets +onlyGivenNames m1 m2 m3
      have h3 : m.Held m3 := h.wr.recordOut.gw
      clear_value m3
      split
      · exact h3.beside.outNow.gw
      · extract_lets +onlyGivenNames slot
        split
        · exact h3.outNow
        · extract_lets +onlyGivenNames old
          clear_value old
          rcases m3.hbm.reserve with _ | ⟨q, l⟩
          · refine Ilpiac.Held.unback (Ilpiac.Held.outNow ?_)
            cases old with
            | some g => exact h3.outNow
            | none => exact h3
          · cases old with
            | some g => exact h3.outNow.migrate
            | none => exact h3.wr.wr.migrate

theorem Ilpiac.Held.failChannel {ch cause : Nat} (h : m.Held m') : m.Held (m'.failChannel ch cause) := h.mapOut.ite h

theorem Ilpiac.Held.countCe {cw sym : Nat} (h : m.Held m') : m.Held (m'.countCe cw sym) := by
  unfold Ilpiac.countCe
  exact h.wr.wr.wr.wr.wr.beside.failChannel.ite h.wr.wr.wr.wr.wr.beside

theorem Ilpiac.Held.countUe {cw : Nat} (h : m.Held m') : m.Held (m'.countUe cw) := by
  have hnoted {c : Prop} [Decidable c] {m1 : Ilpiac} {ch acc : Nat} (h1 : m.Held m1) :
      m.Held (if c then m1.raise srcHbmUe ch acc else m1) := h1.raise.ite h1
  unfold Ilpiac.countUe
  exact (hnoted h.wr.wr.wr.wr.wr).beside.failChannel.ite (hnoted h.wr.wr.wr.wr.wr).beside

theorem Ilpiac.Held.cwRead {cw : Nat} (h : m.Held m') : m.Held (m'.cwRead cw).2 := by
  have hbad (l : List (Nat × Nat)) (d : List Byte) : m.Held (((m'.setData cw d).setErrors cw l).setPoison cw true) := h.beside
  have hdata (d : List Byte) : m.Held ((m'.setData cw d).setErrors cw []) := h.beside
  unfold Ilpiac.cwRead
  dsimp only
  split
  · exact h
  · exact Ilpiac.Held.countCe h.beside
  · exact (hbad ..).countUe
  · split
    · exact (hbad ..).countUe
    · exact Ilpiac.Held.countCe ((Ilpiac.Held.beside (hdata _)).ite (hdata _))

theorem Ilpiac.Held.cwWrite {cw : Nat} {d : List Byte} {poison : Bool} (h : m.Held m') : m.Held (m'.cwWrite cw d poison) := h.frame

theorem Ilpiac.Held.wakeStack {ch : Nat} (h : m.Held m') : m.Held (m'.wakeStack ch) := h.frame

end Sys2Proof.Machine

end

section
/-! Accesses to HBM and transfers toward other modules (spec 07: R250 to R253, R273; spec 08: R269, R279, R287; spec 10: R77, R551): what they leave
of the communicators, the descriptors and the groups of the cloche. -/

namespace Sys2Proof.Machine

variable {m m' m'' : Ilpiac}

/-! ### What is touched of a group -/

/-- Of a group only the own stamp, the counts of deltas, and the lost-stripe marks have changed. -/
structure Ilpiac.Touches (m : Ilpiac) (g g' : Group) : Prop where
  rest : g' = { g with stamps := g'.stamps, stamp := g'.stamp, sent := g'.sent, unsettled := g'.unsettled, lostStripes := g'.lostStripes }
  others : ∀ pos v, m.myPos g = some pos → g'.stamps.set pos v = g.stamps.set pos v

theorem Ilpiac.Touches.refl (m : Ilpiac) (g : Group) : m.Touches g g := ⟨rfl, fun _ _ _ => rfl⟩

theorem Ilpiac.Touches.id {g g' : Group} (h : m.Touches g g') : g'.id = g.id := (congrArg Group.id h.rest).trans rfl
theorem Ilpiac.Touches.members {g g' : Group} (h : m.Touches g g') : g'.members = g.members := (congrArg Group.members h.rest).trans rfl
theorem Ilpiac.Touches.restore {g g' : Group} (h : m.Touches g g') : g'.restore = g.restore := (congrArg Group.restore h.rest).trans rfl
theorem Ilpiac.Touches.missM {g g' : Group} (h : m.Touches g g') : g'.missM = g.missM := (congrArg Group.missM h.rest).trans rfl
theorem Ilpiac.Touches.applied {g g' : Group} (h : m.Touches g g') : g'.applied = g.applied := (congrArg Group.applied h.rest).trans rfl

/-- The own position depends on the members alone. -/
theorem Ilpiac.myPos_congr {g g' : Group} (hbed : m'.bed = m.bed) (hplane : m'.plane = m.plane) (h : g'.members = g.members) : m'.myPos g' = m.myPos g := by
  rw [Ilpiac.myPos, Ilpiac.myPos, hbed, hplane, h]

theorem Ilpiac.Touches.trans {g g' g'' : Group} (h : m.Touches g g') (hbed : m'.bed = m.bed) (hplane : m'.plane = m.plane) (h' : m'.Touches g' g'') :
    m.Touches g g'' := by
  refine ⟨?_, fun pos v hpos => ?_⟩
  · rw [h'.rest, h.rest]
  · rw [h'.others pos v ((Ilpiac.myPos_congr hbed hplane h.members).trans hpos), h.others pos v hpos]

/-! ### The relation -/

/-- `m'` is `m` after accesses to HBM and transfers. -/
structure Ilpiac.Accesses (m m' : Ilpiac) : Prop where
  regs : ∀ k, pinnedReg k = true → m'.reg k = m.reg k
  cpl : m'.ctl.cpl = m.ctl.cpl
  descs : m'.ctl.descs = m.ctl.descs
  comms : m'.coll.comms = m.coll.comms
  groups : List.Forall₂ m.Touches m.groups m'.groups

theorem Ilpiac.Accesses.refl (m : Ilpiac) : m.Accesses m := ⟨fun _ _ => rfl, rfl, rfl, rfl, List.forall₂_same.mpr fun g _ => .refl m g⟩

theorem Ilpiac.Accesses.fld {b : Blk} {n : Nat} {f : Fld} (h : m.Accesses m') (hk : pinnedReg (f.key b n 0) = true) : m'.rd b n f = m.rd b n f := by
  unfold Ilpiac.rd
  rw [h.regs _ hk]

theorem Ilpiac.Accesses.bed (h : m.Accesses m') : m'.bed = m.bed := by
  have hg (f : Fld) (hk : pinnedReg (f.key .glob 0 0) = true) : m'.g f = m.g f := h.fld hk
  rw [Ilpiac.bed, hg _ (by decide), hg _ (by decide), hg _ (by decide), Ilpiac.bed]

theorem Ilpiac.Accesses.plane (h : m.Accesses m') : m'.plane = m.plane := h.fld (by decide)

theorem Ilpiac.Accesses.comm (h : m.Accesses m') (id : Nat) : m'.comm id = m.comm id := by
  rw [Ilpiac.comm, h.comms, Ilpiac.comm]

theorem Ilpiac.Accesses.descOf (h : m.Accesses m') (x : Nat × Nat) : m'.descOf x = m.descOf x := by
  rw [Ilpiac.descOf, h.descs, Ilpiac.descOf]

/-- The group that an identifier names is the one that it named, touched at most. -/
theorem Ilpiac.Accesses.group {id : Nat} {g : Group} (h : m.Accesses m') (hg : m.group id = some g) : ∃ g', m'.group id = some g' ∧ m.Touches g g' := by
  have hfind : ∀ {l l' : List Group}, List.Forall₂ m.Touches l l' → l.find? (fun g => g.id == id) = some g →
      ∃ g', l'.find? (fun g => g.id == id) = some g' ∧ m.Touches g g' := by
    intro l l' hl
    induction hl with
    | nil => exact fun h => by cases h
    | cons ha _ ih =>
      rw [List.find?_cons, List.find?_cons, ha.id]
      split
      · exact fun h => ⟨_, rfl, by cases h; exact ha⟩
      · exact ih
  exact hfind h.groups hg

theorem Ilpiac.Accesses.trans (h : m.Accesses m') (h' : m'.Accesses m'') : m.Accesses m'' where
  regs k hk := (h'.regs k hk).trans (h.regs k hk)
  cpl := h'.cpl.trans h.cpl
  descs := h'.descs.trans h.descs
  comms := h'.comms.trans h.comms
  groups := by
    have htrans : ∀ {l l' l'' : List Group}, List.Forall₂ m.Touches l l' → List.Forall₂ m'.Touches l' l'' → List.Forall₂ m.Touches l l'' := by
      intro l l' l'' hl
      induction hl generalizing l'' with
      | nil => exact fun h => by cases h; exact .nil
      | cons ha _ ih =>
        intro h
        cases h with
        | cons hb hl => exact .cons (ha.trans h.bed h.plane hb) (ih hl)
    exact htrans h.groups h'.groups

/-- Traffic that leaves groups and descriptors. -/
theorem Ilpiac.Accesses.traffic (h : m.Accesses m') (ht : m'.Traffic m'') (hk : m'.Held m'') : m.Accesses m'' :=
  h.trans ⟨ht.regs, ht.cpl, hk.descs, congrArg (·.comms) ht.coll, by rw [hk.groups]; exact (Ilpiac.Accesses.refl m').groups⟩

/-- Parts of the state that the relation does not speak of. -/
theorem Ilpiac.Accesses.beside {clk free flt twin sw coll trellis hbm lanes links sync time record power boot} (h : m.Accesses m')
    (hcoll : coll.comms = m'.coll.comms := by rfl) :
    m.Accesses ⟨m'.regs, clk, free, m'.ctl, flt, twin, sw, coll, trellis, hbm, m'.groups, lanes, links, sync, time, record, power, boot⟩ :=
  ⟨h.regs, h.cpl, h.descs, hcoll.trans h.comms, h.groups⟩

theorem Ilpiac.Accesses.ite {c : Prop} [Decidable c] {m₁ m₂ : Ilpiac} (h₁ : m.Accesses m₁) (h₂ : m.Accesses m₂) : m.Accesses (if c then m₁ else m₂) := by
  split <;> assumption

theorem Ilpiac.Accesses.over {α : Type} {l : List α} {f : Ilpiac → α → Ilpiac} (h : m.Accesses m') (hf : ∀ m' a, m.Accesses m' → m.Accesses (f m' a)) :
    m.Accesses (m'.over l f) := Ilpiac.over_induct h hf

theorem Ilpiac.Accesses.foldl_snd {α β : Type} {f : α × Ilpiac → β → α × Ilpiac} {l : List β} {p : α × Ilpiac} (h : m.Accesses p.2)
    (hf : ∀ p b, m.Accesses p.2 → m.Accesses (f p b).2) : m.Accesses (l.foldl f p).2 := by
  induction l generalizing p with
  | nil => exact h
  | cons b l ih => exact ih (hf p b h)

/-- The second part of an answer that is known. -/
theorem Ilpiac.Accesses.of_snd {α : Type} {p : α × Ilpiac} {a : α} (h : m.Accesses p.2) (e : p = (a, m')) : m.Accesses m' := by
  rw [e] at h
  exact h

/-- The second part of an answer whose first part is made anew. -/
theorem Ilpiac.Accesses.mk_snd {α β : Type} {p : α × Ilpiac} {b : β} (h : m.Accesses p.2) : m.Accesses (b, p.2).2 := h

/-! ### Changes of groups -/

theorem Ilpiac.forall₂_mapFirst {α : Type} {R : α → α → Prop} (hrefl : ∀ a, R a a) {p : α → Bool} {f : α → α} (l : List α)
    (hf : ∀ a, l.find? p = some a → R a (f a)) : List.Forall₂ R l (mapFirst p f l) := by
  induction l with
  | nil => exact .nil
  | cons a l ih =>
    unfold mapFirst
    rw [List.find?_cons] at hf
    split
    · rename_i hp
      exact .cons (hf a (by rw [hp])) (List.forall₂_same.mpr fun a _ => hrefl a)
    · rename_i hp
      rw [Bool.not_eq_true] at hp
      exact .cons (hrefl a) (ih fun b hb => hf b (by rw [hp]; exact hb))

theorem Ilpiac.Accesses.updGroup {gid : Nat} {f : Group → Group} (h : m.Accesses m') (hf : ∀ g, m'.group gid = some g → m'.Touches g (f g)) :
    m.Accesses (m'.updGroup gid f) :=
  h.trans ⟨fun _ _ => rfl, rfl, rfl, rfl, Ilpiac.forall₂_mapFirst (.refl m') _ hf⟩

/-- A unit that cannot be copied leaves lost-stripe marks (R284). -/
theorem Ilpiac.Accesses.lostUnit {a : Nat} (h : m.Accesses m') : m.Accesses (m'.lostUnit a) := by
  refine h.trans ⟨fun _ _ => rfl, rfl, rfl, rfl, ?_⟩
  refine List.forall₂_map_right_iff.mpr (List.forall₂_same.mpr fun g _ => ?_)
  split
  · split
    · exact ⟨rfl, fun _ _ _ => rfl⟩
    · exact .refl m' g
  · exact .refl m' g

theorem Ilpiac.Accesses.loseStripe {gid s : Nat} (h : m.Accesses m') : m.Accesses (m'.loseStripe gid s) := h.updGroup fun _ _ => ⟨rfl, fun _ _ _ => rfl⟩

/-! ### Codewords, units and lines (R269, R279, R287) -/

theorem Ilpiac.Traffic.inject {cw : Nat} (h : m.Traffic m') : m.Traffic (m'.inject cw) := by
  unfold Ilpiac.inject
  dsimp only
  split
  · split
    · exact Ilpiac.Traffic.setErrors (Ilpiac.Traffic.beside h.channelWr)
    · exact Ilpiac.Traffic.setErrors (Ilpiac.Traffic.beside h.channelWr)
  · exact h

theorem Ilpiac.Traffic.cwWrite {cw : Nat} {d : List Byte} {poison : Bool} (h : m.Traffic m') : m.Traffic (m'.cwWrite cw d poison) :=
  h.setData.setErrors.setPoison.inject

theorem Ilpiac.Traffic.wakeStack {ch : Nat} (h : m.Traffic m') : m.Traffic (m'.wakeStack ch) := h.stackWr.ite h

theorem Ilpiac.Accesses.cwRead {cw : Nat} (h : m.Accesses m') : m.Accesses (m'.cwRead cw).2 := h.traffic (.cwRead (.refl _)) (.cwRead (.refl _))

theorem Ilpiac.Accesses.cwWrite {cw : Nat} {d : List Byte} {poison : Bool} (h : m.Accesses m') : m.Accesses (m'.cwWrite cw d poison) :=
  h.traffic (.cwWrite (.refl _)) (.cwWrite (.refl _))

theorem Ilpiac.Accesses.wakeStack {ch : Nat} (h : m.Accesses m') : m.Accesses (m'.wakeStack ch) := h.traffic (.wakeStack (.refl _)) (.wakeStack (.refl _))

theorem Ilpiac.Accesses.channelWr {n : Nat} {f : Fld} {v j : Nat} (h : m.Accesses m') : m.Accesses (m'.wr .channel n f v j) :=
  h.traffic (.channelWr (.refl _)) (.wr (.refl _))

theorem Ilpiac.Accesses.gcnt {f : Fld} {k j : Nat} (h : m.Accesses m') (hk : pinnedReg (f.key .glob 0 j) = false := by decide) :
    m.Accesses (m'.gcnt f k j) := h.traffic (.gcnt (.refl _) hk) (.gw (.refl _))

theorem Ilpiac.Accesses.migrationEnd {g : Migration} (h : m.Accesses m') : m.Accesses (m'.migrationEnd g) :=
  h.ite (Ilpiac.Accesses.traffic (Ilpiac.Accesses.beside h) (.outNow (.refl _)) (.outNow (.refl _)))

theorem Ilpiac.Accesses.copyUnit {slot unit : Nat} (h : m.Accesses m') : m.Accesses (m'.copyUnit slot unit) := by
  unfold Ilpiac.copyUnit
  split
  · exact h
  · split
    · exact h
    · extract_lets +onlyGivenNames m1 m2 m3
      have h2 : m.Accesses m2 := by
        refine (h.wakeStack.ite h).wakeStack.over fun _ _ h => ?_
        dsimp only
        split
        · split
          · exact (h.cwRead.of_snd ‹_›).cwWrite
          · exact (h.cwRead.of_snd ‹_›).cwWrite.lostUnit
        · exact h.cwWrite
      have h3 : m.Accesses m3 := h2.ite h2.lostUnit
      clear_value m3
      split
      · exact h3
      · exact h3.ite (Ilpiac.Accesses.channelWr (Ilpiac.Accesses.beside h3)).migrationEnd

theorem Ilpiac.Accesses.lineRead {line : Nat} (h : m.Accesses m') : m.Accesses (m'.lineRead line).2 := by
  unfold Ilpiac.lineRead
  split
  · exact h
  · exact h.wakeStack.cwRead

theorem Ilpiac.Accesses.writeAt {line : Nat} (h : m.Accesses m') : m.Accesses (m'.writeAt line).2 := by
  unfold Ilpiac.writeAt
  dsimp only
  split
  · exact h
  · split
    · exact h.copyUnit
    · exact h.copyUnit.wakeStack

theorem Ilpiac.Accesses.lineWrite {line : Nat} {full need : Bool} {f : List Byte → List Byte} (h : m.Accesses m') :
    m.Accesses (m'.lineWrite line full need f).2 := by
  unfold Ilpiac.lineWrite
  split
  · exact h.writeAt.of_snd ‹_›
  · split
    · exact (h.writeAt.of_snd ‹_›).cwWrite
    · split
      · exact ((h.writeAt.of_snd ‹_›).cwRead.of_snd ‹_›).cwWrite
      · split
        · exact ((h.writeAt.of_snd ‹_›).cwRead.of_snd ‹_›).cwWrite
        · exact (h.writeAt.of_snd ‹_›).cwRead.of_snd ‹_›

/-! ### The cache -/

theorem Ilpiac.Accesses.setLines {l : List CacheLine} (h : m.Accesses m') : m.Accesses (m'.setLines l) := h.beside

theorem Ilpiac.Accesses.dropLine {line : Nat} (h : m.Accesses m') : m.Accesses (m'.dropLine line) := h.setLines

theorem Ilpiac.Accesses.evictLine {line : Nat} (h : m.Accesses m') : m.Accesses (m'.evictLine line) := by
  unfold Ilpiac.evictLine
  split
  · exact h
  · exact h.dropLine.lineWrite.ite h.dropLine

theorem Ilpiac.Accesses.allocate {line : Nat} {d : List Byte} {modified keep : Bool} (h : m.Accesses m') : m.Accesses (m'.allocate line d modified keep) := by
  unfold Ilpiac.allocate
  dsimp only
  refine Ilpiac.Accesses.setLines ?_
  split
  · exact h.evictLine
  · exact h

theorem Ilpiac.Accesses.touch {c : CacheLine} (h : m.Accesses m') : m.Accesses (m'.touch c) := h.dropLine.setLines

theorem Ilpiac.Accesses.writeLine {line off : Nat} {d : List Byte} {hint : Nat} {through : Bool} (h : m.Accesses m') :
    m.Accesses (m'.writeLine line off d hint through).2 := by
  unfold Ilpiac.writeLine
  extract_lets +onlyGivenNames full put
  have hhit := h.gcnt (f := F.CACHE_COUNTS_HITS) (k := 1) (j := 0)
  have hmiss := h.gcnt (f := F.CACHE_COUNTS_MISSES) (k := 1) (j := 0)
  generalize m'.gcnt F.CACHE_COUNTS_HITS 1 = m1 at hhit ⊢
  generalize m'.gcnt F.CACHE_COUNTS_MISSES 1 = m2 at hmiss ⊢
  have hread := hmiss.lineRead (line := line)
  split
  · exact h.lineWrite
  · cases m'.cached line with
    | some c =>
      dsimp only
      split
      · exact hhit.dropLine.lineWrite.mk_snd
      · split
        · exact Ilpiac.Accesses.ite hhit.lineWrite.touch hhit.lineWrite.dropLine
        · exact hhit.touch
    | none =>
      dsimp only
      generalize m2.lineRead line = r at hread ⊢
      split
      · split
        · exact hmiss.lineWrite.allocate
        · exact hmiss.lineWrite
      · split
        · exact hmiss
        · split
          · exact hmiss.allocate
          · obtain ⟨_ | d, m'⟩ := r
            · exact hread
            · exact hread.allocate

/-- Writes that form no delta (R249, R258). -/
theorem Ilpiac.Accesses.plainWrite {a : Nat} {d : List Byte} {hint : Nat} (h : m.Accesses m') : m.Accesses (m'.plainWrite a d hint).2 :=
  Ilpiac.Accesses.foldl_snd (p := (true, m')) h fun _ _ h => h.writeLine

theorem Ilpiac.Accesses.zeroRange {a n : Nat} (h : m.Accesses m') : m.Accesses (m'.zeroRange a n) := h.over fun _ _ h => h.plainWrite

/-! ### Transfers (R77, R551) -/

theorem Ilpiac.Accesses.sendCopy {t : TrunkCopy} (h : m.Accesses m') : m.Accesses (m'.sendCopy t) := by
  have hsent {m1 : Ilpiac} (h1 : m.Accesses m1) : m.Accesses (if t.plane = m1.plane then m1.sendTrunk t.pkt (some t.id) .retain
      else m1.relayTo (m1.relayOf t.group) t.plane t.pkt) :=
    (h1.traffic (.sendTrunk (.refl _)) (.sendTrunk (.refl _))).ite (h1.traffic (.relayTo (.refl _)) (.relayTo (.refl _)))
  unfold Ilpiac.sendCopy
  refine hsent ?_
  split
  · exact Ilpiac.Accesses.ite h.beside h
  · exact h

theorem Ilpiac.Accesses.startCopy {t : TrunkCopy} (h : m.Accesses m') (e : m'.startCopy t = some m'') : m.Accesses m'' := by
  unfold Ilpiac.startCopy at e
  split at e
  · cases e
    exact Ilpiac.Accesses.sendCopy (Ilpiac.Accesses.beside (h.traffic (.store (.refl _)) (.store (.refl _))))
  · cases e

theorem Ilpiac.Accesses.drainTrunk {n : Nat} (h : m.Accesses m') : m.Accesses (m'.drainTrunk n) := by
  induction n generalizing m' with
  | zero => exact h
  | succ n ih =>
    unfold Ilpiac.drainTrunk
    split
    · exact h
    · split
      · exact h
      · exact ih (Ilpiac.Accesses.beside (h.startCopy ‹_›))

theorem Ilpiac.Accesses.transfer {p : Packet} {bed plane : Nat} {k : Option CollId} {group : Option Nat} {writer : Option CollId} (h : m.Accesses m') :
    m.Accesses (m'.transfer p bed plane k group writer) := Ilpiac.Accesses.drainTrunk h.beside

theorem Ilpiac.Accesses.clocheSend {g : Group} {ty : Nat} {dest : Nat × Nat} {hs : List Nat} {body : List Byte} {by_ : Option CollId} (h : m.Accesses m') :
    m.Accesses (m'.clocheSend g ty dest hs body by_) := h.transfer

theorem Ilpiac.Accesses.tack {p : Packet} {plane : Nat} {group : Option Nat} (h : m.Accesses m') : m.Accesses (m'.tack p plane group) :=
  h.traffic (.tack (.refl _)) (.tack (.refl _))

/-! ### Deltas and stamps (R250, R253) -/

theorem Ilpiac.Accesses.sendDelta {g : Group} {pos j off : Nat} {keeper : Option (Nat × Nat)} {missing : Bool} {d : List Byte} {by_ : Option CollId}
    (h : m.Accesses m') : m.Accesses (m'.sendDelta g pos j off keeper missing d by_) := by
  unfold Ilpiac.sendDelta
  split
  · exact h
  · exact h.ite (Ilpiac.Accesses.clocheSend (h.updGroup fun _ _ => ⟨rfl, fun _ _ _ => rfl⟩))

theorem Ilpiac.Accesses.formDelta {gid o : Nat} {old new : List Byte} {by_ : Option CollId} (h : m.Accesses m') :
    m.Accesses (m'.formDelta gid o old new by_) := by
  unfold Ilpiac.formDelta
  dsimp only
  split
  · exact h
  · split
    · exact h
    · exact h.ite (h.sendDelta.sendDelta.ite h.sendDelta)

/-- The own stamp changes at the own position. -/
theorem Ilpiac.Accesses.setStamp {gid v : Nat} (h : m.Accesses m') : m.Accesses (m'.setStamp gid v) := by
  unfold Ilpiac.setStamp
  split
  · exact h
  · rename_i g hg
    split
    · exact h
    · rename_i pos hpos
      refine h.ite (Ilpiac.Accesses.over (h.updGroup fun g' hg' => ?_) fun _ _ h => h.clocheSend)
      obtain rfl : g' = g := Option.some.inj (hg'.symm.trans hg)
      refine ⟨rfl, fun i w hi => ?_⟩
      obtain rfl : i = pos := Option.some.inj (hi.symm.trans hpos)
      exact List.set_set ..

theorem Ilpiac.Accesses.afterWrite {sh : Option (Group × Nat)} {w : Wrote} {by_ : Option CollId} (h : m.Accesses m') : m.Accesses (m'.afterWrite sh w by_) := by
  unfold Ilpiac.afterWrite
  split
  · exact h
  · split
    · exact h
    · dsimp only
      refine Ilpiac.Accesses.setStamp ?_
      split
      · exact h.formDelta
      · exact h.loseStripe

theorem Ilpiac.Accesses.memWrite {a : Nat} {d : List Byte} {hint : Nat} {by_ : Option CollId} (h : m.Accesses m') :
    m.Accesses (m'.memWrite a d hint by_).2 :=
  Ilpiac.Accesses.foldl_snd (p := (true, m')) h fun _ _ h => h.writeLine.afterWrite

end Sys2Proof.Machine

end

section
/-! Deltas, stamps and ledger entries of a cloche group (spec 07: R251 to R255). -/

namespace Sys2Proof.Machine

variable {m m' m1 m2 m3 : Ilpiac} {g g' : Group} {p : Packet} {port id gid : Nat} {b : BufPkt}

/-! ### A group by its identifier -/

theorem Ilpiac.id_of_group (h : m.group gid = some g) : g.id = gid := by
  simpa using List.find?_some h

/-- What a group is after a change that keeps its identifier. -/
theorem Ilpiac.group_updGroup {f : Group → Group} (hf : ∀ g, (f g).id = g.id) (m : Ilpiac) (gid : Nat) :
    (m.updGroup gid f).group gid = (m.group gid).map f := find?_mapFirst (fun g => by rw [hf]) m.groups

theorem Ilpiac.group_congr (h : m'.groups = m.groups) (gid : Nat) : m'.group gid = m.group gid := by
  rw [Ilpiac.group, h, Ilpiac.group]

/-! ### Packets of the cloche that arrive (R325) -/

/-- The types of the cloche: DELTA, STRIPE, LEDGER and STAMP. -/
abbrev clocheTypes : List Nat := [0x64, 0x65, 0x66, 0x67]

/-- A packet of the cloche at its destination does what its type does, and moves on. -/
theorem Ilpiac.Lands.receive_cloche (h : m.Lands port p m2 id b) (hty : p.ty ∈ clocheTypes) (hdst : p.dstBed = m.bed) (hmove : m2.ilpMove port id p = some m3) :
    m.receive port p = m3.movedOn id b := by
  simp only [List.mem_cons, List.not_mem_nil, or_false] at hty
  have hland : m.Traffic ((m.counted port p).landIn port p).2 :=
    (Ilpiac.Traffic.counted (by rcases hty with hty | hty | hty | hty <;> rw [hty] <;> rfl)).landIn
  rw [h.room] at hland
  have hack : m2.landAck p = (true, m2) := by
    rw [Ilpiac.landAck, if_neg]
    rintro ⟨-, hcoll⟩
    rcases hty with hty | hty | hty | hty <;> rw [hty] at hcoll <;> cases hcoll
  have hon : m2.moveOn port id p = some m3 := by
    rw [Ilpiac.moveOn, if_neg (by omega), if_neg (by omega), if_neg (by omega), if_neg (by omega), if_pos (.inr (.inr (hdst.trans hland.bed.symm))), hmove]
  rw [h.receive, h.landed, hack]
  show m2.afterMove port id b (m2.moveOn port id p) = _
  rw [hon, Ilpiac.afterMove]

theorem Ilpiac.ilpMove_delta (hty : p.ty = 0x64) : m.ilpMove port id p = some (m.deltaRx p) := by
  simp only [Ilpiac.ilpMove, hty]

theorem Ilpiac.ilpMove_stripe (hty : p.ty = 0x65) : m.ilpMove port id p = some (m.stripeRx p) := by
  simp only [Ilpiac.ilpMove, hty]

theorem Ilpiac.ilpMove_ledger (hty : p.ty = 0x66) : m.ilpMove port id p = some (m.ledgerRx p) := by
  simp only [Ilpiac.ilpMove, hty]

theorem Ilpiac.ilpMove_stamp (hty : p.ty = 0x67) : m.ilpMove port id p = some (m.stampRx p) := by
  simp only [Ilpiac.ilpMove, hty]

/-! ### DELTA (R251, R252) -/

/-- A group that has applied one more delta. -/
def Group.countDelta (g : Group) : Group := { g with applied := (g.applied + 1) % 2 ^ 64 }

/-- A group that knows a delta. -/
def Group.see (g : Group) (x : Word × List Byte) : Group := if g.seen.contains x then g else { g with seen := g.seen ++ [x] }

theorem Group.see_id (g : Group) (x : Word × List Byte) : (g.see x).id = g.id := by
  unfold Group.see
  split <;> rfl

theorem Group.see_applied (g : Group) (x : Word × List Byte) : (g.see x).applied = g.applied := by
  unfold Group.see
  split <;> rfl

theorem Group.mem_see (g : Group) (x : Word × List Byte) : x ∈ (g.see x).seen := by
  unfold Group.see
  split
  · rename_i h
    simpa using h
  · simp

/-- What names a delta: its H1 and its body (R77). -/
def deltaOf (p : Packet) : Word × List Byte := (BitVec.ofNat 64 (p.h 1), p.body)

/-- A LOST group takes no delta. -/
theorem Ilpiac.deltaRx_of_lost (hg : m.group (p.f 1 0 16) = some g) (hlost : g.lost = true) : m.deltaRx p = m := by
  simp only [Ilpiac.deltaRx, hg, hlost, true_or, if_true]

/-- A delta that fits a piece kept here. -/
structure Group.TakesDelta (g : Group) (p : Packet) (y : Piece) : Prop where
  piece : g.pieces.filter (fun y => y.num == p.f 1 20 4) = [y]
  size : p.body.length = 64
  aligned : p.f 1 24 40 % 64 = 0
  inside : p.f 1 24 40 + 64 ≤ g.pieceBytes
  kept : g.lost = false
  joined : g.forming = none

/-- A delta that was not seen is folded into its piece once, and acknowledged. -/
theorem Ilpiac.deltaRx_of_new {y : Piece} {r : List Byte} (hg : m.group (p.f 1 0 16) = some g) (h : g.TakesDelta p y) (hnew : deltaOf p ∉ g.seen)
    (hadd : m.memAdd (if y.q = true then 0x5 else 0x4) (m.pieceAddr y (p.f 1 24 40)) (if y.q = true then gfG (p.f 1 16 4) else 0) p.body = (some r, m3)) :
    m.deltaRx p = ((m3.updGroup g.id (·.countDelta)).updGroup g.id (·.see (deltaOf p))).clocheTack g p := by
  have hunseen : g.seen.contains (deltaOf p) = false := by simpa using hnew
  have hfold : m.foldDelta g y (p.f 1 16 4) (p.f 1 24 40) p.body = m3.updGroup g.id (·.countDelta) := by
    simp only [Ilpiac.foldDelta, hadd, Group.countDelta]
  unfold deltaOf at hunseen
  simp only [Ilpiac.deltaRx, hg, h.piece, hunseen]
  rw [if_neg (by simp [h.kept, h.joined, h.size, h.aligned, h.inside])]
  simp only [Bool.false_and, Bool.false_eq_true, if_false]
  rw [show m.over [y] (fun m y => m.foldDelta g y (p.f 1 16 4) (p.f 1 24 40) p.body) = m3.updGroup g.id (·.countDelta) from hfold]
  rfl

/-! ### STAMP (R253) -/

/-- A group with a stamp as it was reported. -/
def Group.reStamp (g : Group) (pos v : Nat) : Group := { g with stamps := g.stamps.set pos v }

/-- A group in which a shard is MISSING. -/
def Group.addMissing (g : Group) (pos : Nat) : Group :=
  let g := { g with missM := g.missM ++ [pos] }
  { g with lost := g.lost || !g.recoverable }

/-- A group in which a shard is not MISSING; a restore of it that went on elsewhere has ended. -/
def Group.dropMissing (g : Group) (pos : Nat) : Group :=
  { g with
    missM := g.missM.filter (· != pos),
    restore := match g.restore with
      | some r => if !r.target && (bitIdx r.mask 16).all (fun i => i == pos || !g.missM.contains i) then none else some r
      | none => none }

theorem Ilpiac.stampRx_of_member {y : GMember} (hg : m.group (p.f 1 0 16) = some g) (hy : g.members[p.f 1 16 4]? = some y) :
    m.stampRx p =
      Ilpiac.clocheTack
        (if p.f 1 20 1 = 1 then
          if g.missM.contains (p.f 1 16 4) then m.updGroup g.id (·.reStamp (p.f 1 16 4) (p.h 2))
          else (m.updGroup g.id (·.reStamp (p.f 1 16 4) (p.h 2))).updGroup g.id (·.addMissing (p.f 1 16 4))
        else (m.updGroup g.id (·.reStamp (p.f 1 16 4) (p.h 2))).updGroup g.id (·.dropMissing (p.f 1 16 4))) g p := by
  simp only [Ilpiac.stampRx, hg, hy]
  rfl

/-- The group that a stamp leaves: the stamp is entered, and the shard is MISSING as the stamp says. -/
def Group.stamped (g : Group) (pos v missing : Nat) : Group :=
  if missing = 1 then if g.missM.contains pos then g.reStamp pos v else (g.reStamp pos v).addMissing pos else (g.reStamp pos v).dropMissing pos

theorem Ilpiac.stampRx_group {y : GMember} (hg : m.group (p.f 1 0 16) = some g) (hy : g.members[p.f 1 16 4]? = some y) :
    ∃ m' : Ilpiac, m.stampRx p = m'.clocheTack g p ∧ m'.group g.id = some (g.stamped (p.f 1 16 4) (p.h 2) (p.f 1 20 1)) := by
  have hid := Ilpiac.id_of_group hg
  have hstamp : (m.updGroup g.id (·.reStamp (p.f 1 16 4) (p.h 2))).group g.id = some (g.reStamp (p.f 1 16 4) (p.h 2)) := by
    rw [Ilpiac.group_updGroup (fun _ => by rfl), hid, hg]
    rfl
  refine ⟨_, Ilpiac.stampRx_of_member hg hy, ?_⟩
  unfold Group.stamped
  split
  · split
    · exact hstamp
    · rw [Ilpiac.group_updGroup (fun _ => by rfl), hstamp]
      rfl
  · rw [Ilpiac.group_updGroup (fun _ => by rfl), hstamp]
    rfl

section
variable (g : Group) (pos v missing : Nat)

theorem Group.stamped_stamps : (g.stamped pos v missing).stamps = g.stamps.set pos v := by
  unfold Group.stamped
  split
  · split <;> rfl
  · rfl

theorem Group.stamped_ledger : (g.stamped pos v missing).ledger = g.ledger := by
  unfold Group.stamped
  split
  · split <;> rfl
  · rfl

theorem Group.stamped_lost (h : g.lost = true) : (g.stamped pos v missing).lost = true := by
  unfold Group.stamped
  split
  · split
    · exact h
    · exact (congrArg (· || _) h).trans (Bool.true_or _)
  · exact h

theorem Group.mem_stamped_missM : pos ∈ (g.stamped pos v missing).missM ↔ missing = 1 := by
  unfold Group.stamped
  split
  · split
    · rename_i hmiss hin
      exact iff_of_true (by simpa [Group.reStamp] using hin) hmiss
    · exact iff_of_true (List.mem_append_right _ (List.mem_singleton_self pos)) ‹_›
  · exact iff_of_false (by simp [Group.dropMissing]) ‹_›

theorem Group.mem_stamped_missM_ne {i : Nat} (hi : i ≠ pos) : i ∈ (g.stamped pos v missing).missM ↔ i ∈ g.missM := by
  unfold Group.stamped
  split
  · split
    · exact Iff.rfl
    · simp [Group.addMissing, Group.reStamp, hi]
  · simp [Group.dropMissing, Group.reStamp, hi]

end

/-! ### Ledger entries (R254, R255) -/

section
variable (g : Group) (pos : Nat) (e : List Byte)

/-- Whether an entry is of the member, STEP and PART of another (R255). -/
def sameEntry (pos : Nat) (e : List Byte) (x : LedgerEnt) : Bool :=
  x.pos == pos && natAt x.bytes 0 8 == natAt e 0 8 && natAt x.bytes 0x28 1 == natAt e 0x28 1

/-- The ledger with a new entry, before the oldest are dropped. -/
def Group.withEntry : List LedgerEnt := g.ledger.filter (fun x => !sameEntry pos e x) ++ [⟨pos, e⟩]

/-- The earlier entries of a member that stay beside a new one. -/
def Group.ownBefore : List LedgerEnt := (g.ledger.filter (fun x => !sameEntry pos e x)).filter (fun x => x.pos == pos)

theorem Group.withEntry_own : (g.withEntry pos e).filter (fun x => x.pos == pos) = g.ownBefore pos e ++ [⟨pos, e⟩] := by
  simp [Group.withEntry, Group.ownBefore, List.filter_append]

theorem Group.withEntry_others : (g.withEntry pos e).filter (fun x => x.pos != pos) = g.ledger.filter (fun x => x.pos != pos) := by
  have hstay (x : LedgerEnt) : ((x.pos != pos) && !sameEntry pos e x) = (x.pos != pos) := by
    by_cases hx : x.pos = pos
    · simp [hx]
    · simp [sameEntry, hx]
  simp [Group.withEntry, List.filter_append, List.filter_filter, hstay]

/-- The entries of the others, then the latest 64 of the member. -/
theorem Group.keepEntry_ledger : (g.keepEntry pos e).ledger =
    g.ledger.filter (fun x => x.pos != pos) ++ ((g.ownBefore pos e).drop ((g.ownBefore pos e).length + 1 - 64) ++ [⟨pos, e⟩]) := by
  have hkeep : (g.keepEntry pos e).ledger = (g.withEntry pos e).filter (fun x => x.pos != pos) ++
      ((g.withEntry pos e).filter (fun x => x.pos == pos)).drop (((g.withEntry pos e).filter (fun x => x.pos == pos)).length - 64) := rfl
  rw [hkeep, Group.withEntry_others, Group.withEntry_own, List.length_append, List.length_singleton, List.drop_append_of_le_length (by omega)]

theorem Group.mem_keepEntry : (⟨pos, e⟩ : LedgerEnt) ∈ (g.keepEntry pos e).ledger := by
  simp [Group.keepEntry_ledger]

theorem Group.mem_keepEntry_of_ne {x : LedgerEnt} (hx : x ∈ g.ledger) (hne : x.pos ≠ pos) : x ∈ (g.keepEntry pos e).ledger := by
  rw [Group.keepEntry_ledger]
  exact List.mem_append_left _ (List.mem_filter.mpr ⟨hx, by simpa using hne⟩)

theorem Group.keepEntry_own_le : ((g.keepEntry pos e).ledger.filter (fun x => x.pos == pos)).length ≤ 64 := by
  have hnone : (g.ledger.filter (fun x => x.pos != pos)).filter (fun x => x.pos == pos) = [] := by
    rw [List.filter_filter, List.filter_eq_nil_iff]
    simp
  rw [Group.keepEntry_ledger, List.filter_append, hnone, List.nil_append]
  refine (List.length_filter_le ..).trans ?_
  rw [List.length_append, List.length_drop, List.length_singleton]
  omega

end

theorem Ilpiac.ledgerRx_of_entry (hg : m.group (p.f 1 0 16) = some g) (hlen : p.body.length = 512) :
    m.ledgerRx p = (m.updGroup g.id (fun g => g.keepEntry (p.f 1 16 4) p.body)).clocheTack g p := by
  simp only [Ilpiac.ledgerRx, hg]
  rw [if_neg (by simp [hlen])]

/-! ### LEDGER_WRITE (R255) -/

theorem Ilpiac.Accesses.noteRefusals {l : List (Nat × Nat × Bool)} (h : m.Accesses m') : m.Accesses (m'.noteRefusals l) := h.gcnt

theorem Ilpiac.noteRefusals_groups (m : Ilpiac) (l : List (Nat × Nat × Bool)) : (m.noteRefusals l).groups = m.groups := by simp

theorem Ilpiac.myEntry_congr (hbed : m'.bed = m.bed) (hplane : m'.plane = m.plane) (g : Group) : m'.myEntry g = m.myEntry g := by
  rw [Ilpiac.myEntry, hbed, hplane, Ilpiac.myEntry]

/-- A copy of an entry that every participant gets leaves the entry in the ledger. -/
theorem Ilpiac.ledgerCopy_keeps (hg : m.group gid = some g) (pos : Nat) (e : List Byte) :
    ∃ g', (m.ledgerCopy gid pos e).group gid = some g' ∧ (m.updGroup gid (·.keepEntry pos e)).Touches (g.keepEntry pos e) g' ∧
      (m.ledgerCopy gid pos e).ctl.cpl = m.ctl.cpl := by
  have hkeep : (m.updGroup gid (·.keepEntry pos e)).group gid = some (g.keepEntry pos e) := by
    rw [Ilpiac.group_updGroup (fun _ => by rfl), hg]
    rfl
  have hcopy : m.ledgerCopy gid pos e =
      (m.updGroup gid (·.keepEntry pos e)).over ((m.updGroup gid (·.keepEntry pos e)).reached g) (fun m x => m.clocheSend g 0x66 x [clocheH1 gid pos 0 0] e) := by
    simp only [Ilpiac.ledgerCopy, hg]
  have hacc : (m.updGroup gid (·.keepEntry pos e)).Accesses (m.ledgerCopy gid pos e) := by
    rw [hcopy]
    exact (Ilpiac.Accesses.refl _).over fun _ _ h => h.clocheSend
  obtain ⟨g', hg', htouch⟩ := hacc.group hkeep
  exact ⟨g', hg', htouch, hacc.cpl⟩

/-- The seeds of an entry are those of its communicator. -/
def Ilpiac.seedsOk (m : Ilpiac) (comm : Nat) (e : List Byte) : Bool :=
  match m.comm comm with
  | some cm => natAt e 8 8 == cm.seedLo.toNat && natAt e 0x10 8 == cm.seedHi.toNat
  | none => false

/-- The STEP of an entry lies below that of the member's latest entry. -/
def Group.entryLate (g : Group) (pos : Nat) (e : List Byte) : Bool :=
  match g.lastEntry pos with
  | some s => decide (natAt e 0 8 < s)
  | none => false

/-- A group with a LEDGER_WRITE that has not completed. -/
def Group.addWait (g : Group) (w : LedgerWait) : Group := { g with ledgerWaits := g.ledgerWaits ++ [w] }

/-- An accepted entry waits for its copies, which are sent unless a restore runs. -/
def Ilpiac.acceptEntry (m : Ilpiac) (g : Group) (gid pos : Nat) (d : AccDesc) (e : List Byte) : Ilpiac :=
  let m := m.updGroup gid (·.addWait ⟨d.ring, d.num, e, g.restoring⟩)
  if g.restoring then m else m.ledgerCopy gid pos e

/-- The reserved bits of LEDGER_WRITE. -/
abbrev ledgerZero : List (Nat × Nat × Nat) := [(1, 16, 48), (3, 0, 64), (4, 0, 64), (5, 0, 64), (6, 0, 64), (7, 0, 64)]

/-- A LEDGER_WRITE of a member whose words pass the checks of R255 (R254). -/
structure Ilpiac.LedgerAsked (m : Ilpiac) (d : AccDesc) (g : Group) (pos : Nat) (me : GMember) : Prop where
  placed : m.placed = true
  cloche : m.has F.CAP_PRESENT_CLOCHE = true
  w0 : d.w0ok = true
  reserved : d.zero ledgerZero = true
  aligned : d.f 2 0 64 % 64 = 0
  entry : m.Coherent (d.f 2 0 64) 512 false
  group : m.group (d.f 1 0 16) = some g
  pos : m.myPos g = some pos
  member : m.myEntry g = some me
  joined : g.forming = none

theorem Ilpiac.LedgerAsked.withDescs {d : AccDesc} {pos : Nat} {me : GMember} (h : m.LedgerAsked d g pos me) (l : List AccDesc) :
    (m.withDescs l).LedgerAsked d g pos me :=
  ⟨h.placed, h.cloche, h.w0, h.reserved, h.aligned, h.entry.withDescs l, h.group, h.pos, h.member, h.joined⟩

theorem Ilpiac.LedgerAsked.ledgerWrite {d : AccDesc} {pos : Nat} {me : GMember} {e : List Byte} (h : m.LedgerAsked d g pos me) (hlen : e.length = 512) :
    m.ledgerWrite d (some e) =
      if !entryCrcOk e ∨ natAt e 0x20 2 ≠ me.comm ∨ !m.seedsOk me.comm e ∨ g.entryLate pos e then
        (m.noteRefusals [(d.f 2 0 64, 512, false)]).done d stBadDescriptor { comm := d.f 1 0 16, step := natAt e 0 8 }
      else ((m.noteRefusals [(d.f 2 0 64, 512, false)]).acceptEntry g (d.f 1 0 16) pos d e).ledgerFlow (d.f 1 0 16) := by
  have hacc : m.Accesses (m.noteRefusals [(d.f 2 0 64, 512, false)]) := (Ilpiac.Accesses.refl m).noteRefusals
  have hg : (m.noteRefusals [(d.f 2 0 64, 512, false)]).group (d.f 1 0 16) = some g :=
    (Ilpiac.group_congr (m.noteRefusals_groups _) _).trans h.group
  have hpos : (m.noteRefusals [(d.f 2 0 64, 512, false)]).myPos g = some pos := (Ilpiac.myPos_congr hacc.bed hacc.plane rfl).trans h.pos
  have hme : (m.noteRefusals [(d.f 2 0 64, 512, false)]).myEntry g = some me := (Ilpiac.myEntry_congr hacc.bed hacc.plane g).trans h.member
  have hread := (h.entry.noteRefusals [(d.f 2 0 64, 512, false)]).boardRead e
  rw [toLen_of_length hlen] at hread
  have hseeds : (m.noteRefusals [(d.f 2 0 64, 512, false)]).seedsOk me.comm e = m.seedsOk me.comm e := by
    rw [Ilpiac.seedsOk, hacc.comm, Ilpiac.seedsOk]
  rw [← hseeds]
  simp only [Ilpiac.ledgerWrite, h.entry.addrOk, hg, hpos, hme, hread]
  rw [if_neg (by simp [h.placed]), if_neg (by simp [h.cloche]), if_neg (by simp [h.w0, h.reserved, h.aligned, h.joined])]
  rfl

/-- What an accepted entry leaves of its group: the LEDGER_WRITE waits, and the entry is kept at once unless a restore runs. -/
theorem Ilpiac.acceptEntry_keeps (hg : m.group gid = some g) (pos : Nat) (d : AccDesc) (e : List Byte) :
    ∃ g', (m.acceptEntry g gid pos d e).group gid = some g' ∧ g'.ledgerWaits = g.ledgerWaits ++ [⟨d.ring, d.num, e, g.restore.isSome⟩] ∧
      (m.acceptEntry g gid pos d e).ctl.cpl = m.ctl.cpl ∧ (g.restore = none → (⟨pos, e⟩ : LedgerEnt) ∈ g'.ledger) ∧
      (g.restore.isSome = true → g'.ledger = g.ledger) := by
  have hwait : (m.updGroup gid (·.addWait ⟨d.ring, d.num, e, g.restoring⟩)).group gid = some (g.addWait ⟨d.ring, d.num, e, g.restoring⟩) := by
    rw [Ilpiac.group_updGroup (fun _ => by rfl), hg]
    rfl
  unfold Ilpiac.acceptEntry
  by_cases hrest : g.restoring = true
  · rw [if_pos hrest]
    refine ⟨_, hwait, rfl, rfl, fun hnone => ?_, fun _ => rfl⟩
    rw [Group.restoring, hnone] at hrest
    cases hrest
  · rw [if_neg hrest]
    obtain ⟨g', hg', htouch, hcpl⟩ := Ilpiac.ledgerCopy_keeps hwait pos e
    refine ⟨g', hg', ?_, hcpl, fun _ => ?_, fun hsome => absurd hsome hrest⟩
    · rw [htouch.rest]
      rfl
    · rw [htouch.rest]
      exact Group.mem_keepEntry ..

end Sys2Proof.Machine

end

section
/-! Packets and LEDGER_WRITE of the cloche as commands (spec 07: R251 to R255). -/

namespace Sys2Proof.Machine

section
variable {s : State} {port : Fin 262} {p : Packet}

theorem exec_deltaReceived (hty : p.ty = 0x64) : exec (.deltaReceived port p) s = .next { s with m := (s.m.receive port p).settle } := by
  change ran s (s.m.arrive port.val [0x64] p) = _
  rw [ran, Ilpiac.arrive, if_pos (by simp [hty])]

theorem exec_ledgerReceived (hty : p.ty = 0x66) : exec (.ledgerReceived port p) s = .next { s with m := (s.m.receive port p).settle } := by
  change ran s (s.m.arrive port.val [0x66] p) = _
  rw [ran, Ilpiac.arrive, if_pos (by simp [hty])]

theorem exec_stampReceived (hty : p.ty = 0x67) : exec (.stampReceived port p) s = .next { s with m := (s.m.receive port p).settle } := by
  change ran s (s.m.arrive port.val [0x67] p) = _
  rw [ran, Ilpiac.arrive, if_pos (by simp [hty])]

theorem exec_ledgerWrite {ring : Fin 65536} {d : AccDesc} {m0 : Ilpiac} (h : s.m.begin ring 0x3A = some (d, m0)) (entry : Readback) :
    exec (.ledgerWrite ring entry) s = .next { s with m := (m0.ledgerWrite d entry).settle } := by
  change ran s (s.m.runDesc ring 0x3A (fun d m => m.ledgerWrite d entry)) = _
  rw [Ilpiac.runDesc_of_begin h, ran]

end

end Sys2Proof.Machine

open Sys2Proof.Machine

/-- Settles O52: each packet by its type, and an own entry by its CRC. -/
theorem clocheUpkeep : Obligations.ClocheUpkeep := by
  unfold Obligations.ClocheUpkeep
  refine fun s => ⟨fun port p m2 id b g hlands hdst hg => ?_, fun ring d m0 g pos me e hbegin hplaced hcloche hw hz haligned hcoh hg hpos hme hjoined hlen => ?_⟩
  · intro pos j off
    have hid := Ilpiac.id_of_group hg
    refine ⟨fun y hty hpiece hlen haligned hinside => ⟨fun hlost => ?_, fun r m3 g3 hlost hjoined hnew hadd hg3 => ?_⟩, fun y hty hy => ?_, fun hty hlen => ?_⟩
    · have hmove := Ilpiac.ilpMove_delta (m := m2) (port := port) (id := id) hty
      rw [Ilpiac.deltaRx_of_lost hg hlost] at hmove
      rw [exec_deltaReceived hty, hlands.receive_cloche (by simp [hty]) hdst hmove]
    · have hmove := Ilpiac.ilpMove_delta (m := m2) (port := port) (id := id) hty
      rw [Ilpiac.deltaRx_of_new hg ⟨hpiece, hlen, haligned, hinside, hlost, hjoined⟩ hnew hadd] at hmove
      have hexec := exec_deltaReceived (s := s) (port := port) hty
      rw [hlands.receive_cloche (by simp [hty]) hdst hmove] at hexec
      refine ⟨_, g3.countDelta.see (deltaOf p), hexec, ?_, Group.see_applied .., Group.mem_see .., rfl⟩
      rw [Ilpiac.group_updGroup (fun g => Group.see_id ..), Ilpiac.group_updGroup (fun _ => by rfl), hg3]
      rfl
    · obtain ⟨m', hrx, hg'⟩ := Ilpiac.stampRx_group hg hy
      have hmove := Ilpiac.ilpMove_stamp (m := m2) (port := port) (id := id) hty
      rw [hrx] at hmove
      have hexec := exec_stampReceived (s := s) (port := port) hty
      rw [hlands.receive_cloche (by simp [hty]) hdst hmove] at hexec
      exact ⟨m', _, hexec, hg', Group.stamped_stamps .., Group.mem_stamped_missM .., fun i hi => Group.mem_stamped_missM_ne _ _ _ _ hi,
        Group.stamped_lost _ _ _ _, Group.stamped_ledger ..⟩
    · have hmove := Ilpiac.ilpMove_ledger (m := m2) (port := port) (id := id) hty
      rw [Ilpiac.ledgerRx_of_entry hg hlen] at hmove
      have hexec := exec_ledgerReceived (s := s) (port := port) hty
      rw [hlands.receive_cloche (by simp [hty]) hdst hmove] at hexec
      refine ⟨_, g.keepEntry pos p.body, hexec, ?_, Group.mem_keepEntry .., Group.keepEntry_own_le .., fun x hx hne => Group.mem_keepEntry_of_ne _ _ _ hx hne, rfl⟩
      rw [Ilpiac.group_updGroup (fun _ => by rfl), hid, hg]
      rfl
  · have hasked : s.m.LedgerAsked d g pos me := ⟨hplaced, hcloche, hw, hz, haligned, hcoh, hg, hpos, hme, hjoined⟩
    have hexec := exec_ledgerWrite hbegin (some e)
    obtain ⟨descs, rfl⟩ := Ilpiac.begin_descs hbegin
    rw [(hasked.withDescs descs).ledgerWrite hlen] at hexec
    refine ⟨fun cm hcrc hcomm hcm hlo hhi hlate => ?_, fun hcrc => ?_⟩
    · have hseeds : (s.m.withDescs descs).seedsOk me.comm e = true := by
        rw [Ilpiac.seedsOk, show (s.m.withDescs descs).comm me.comm = some cm from hcm]
        simp [hlo, hhi]
      have hlate' : g.entryLate pos e = false := by
        unfold Group.entryLate
        split
        · rename_i x hx
          simpa using hlate x hx
        · rfl
      rw [if_neg (by simp [hcrc, hcomm, hseeds, hlate'])] at hexec
      obtain ⟨g', hg', hwaits, hcpl, hkept, hsame⟩ := Ilpiac.acceptEntry_keeps
        ((Ilpiac.group_congr ((s.m.withDescs descs).noteRefusals_groups [(d.f 2 0 64, 512, false)]) _).trans hg) pos d e
      rw [← Ilpiac.id_of_group hg] at hexec hg' hcpl
      refine ⟨_, g', hexec, hg', hwaits, ?_, hkept, hsame⟩
      rw [hcpl, Ilpiac.noteRefusals_ctl]
      rfl
    · rw [if_pos (by simp [hcrc])] at hexec
      refine ⟨_, hexec, ?_, ?_⟩
      · simp
        rfl
      · rw [Ilpiac.done_cpl, Ilpiac.noteRefusals_ctl]
        rfl

end

section
/-! CLOCHE_RESTORE (spec 07: R256, R257): the checks of a restore, and its start. -/

namespace Sys2Proof.Machine

variable {m m' : Ilpiac} {g : Group} {d : AccDesc} {record : List Byte} {answers : List RestoreAnswer}

/-! ### What the checks look at -/

theorem Ilpiac.kept_congr (hbed : m'.bed = m.bed) (hplane : m'.plane = m.plane) (g : Group) : m'.kept g = m.kept g := by
  rw [Ilpiac.kept, hbed, hplane, Ilpiac.kept]

theorem Ilpiac.Accesses.recordAgrees (h : m.Accesses m') : m'.recordAgrees g record answers = m.recordAgrees g record answers := by
  simp only [Ilpiac.recordAgrees, Ilpiac.myEntry_congr h.bed h.plane, h.comm]

theorem Ilpiac.Accesses.stampsAgree {mask step : Nat} {image : Bool} (h : m.Accesses m') :
    m'.stampsAgree g mask image answers step = m.stampsAgree g mask image answers step := by
  have hpos : m'.myPos g = m.myPos g := Ilpiac.myPos_congr h.bed h.plane rfl
  simp only [Ilpiac.stampsAgree, hpos, Ilpiac.kept_congr h.bed h.plane]

/-- The reserved bits of CLOCHE_RESTORE. -/
abbrev restoreZero : List (Nat × Nat × Nat) := [(1, 17, 15), (1, 48, 16), (4, 0, 64), (5, 0, 64), (6, 0, 64), (7, 0, 64)]

/-- A CLOCHE_RESTORE of a group that has joined, with a step record that can be read (R256). -/
structure Ilpiac.RestoreAsked (m : Ilpiac) (d : AccDesc) (g : Group) : Prop where
  placed : m.placed = true
  cloche : m.has F.CAP_PRESENT_CLOCHE = true
  w0 : d.w0ok = true
  reserved : d.zero restoreZero = true
  aligned : d.f 2 0 64 % 64 = 0
  record : m.Coherent (d.f 2 0 64) 64 false
  group : m.group (d.f 1 0 16) = some g
  joined : g.forming = none
  members : ∀ i ∈ bitIdx (d.f 1 32 16) 16, i < g.members.length

/-- A PARITY restore at a module that has a part in it: as a lost member, or as the keeper of pieces. -/
structure Ilpiac.ParityAsked (m : Ilpiac) (d : AccDesc) (g : Group) : Prop extends m.RestoreAsked d g where
  parity : d.f 1 16 1 = 0
  noImage : d.f 3 0 64 = 0
  role : (d.f 1 32 16 ≠ 0 ∧ ∃ pos, m.myPos g = some pos ∧ bitOf (d.f 1 32 16) pos = true) ∨ (d.f 1 32 16 = 0 ∧ m.kept g ≠ [])

/-- An IMAGE restore at a member, of an image that can be read. -/
structure Ilpiac.ImageAsked (m : Ilpiac) (d : AccDesc) (g : Group) : Prop extends m.RestoreAsked d g where
  image : d.f 1 16 1 = 1
  noMask : d.f 1 32 16 = 0
  imageAligned : d.f 3 0 64 % 64 = 0
  imageRead : m.Coherent (d.f 3 0 64) (64 + g.shardBytes) false
  role : ∃ pos, m.myPos g = some pos

theorem Ilpiac.RestoreAsked.withDescs (h : m.RestoreAsked d g) (l : List AccDesc) : (m.withDescs l).RestoreAsked d g :=
  ⟨h.placed, h.cloche, h.w0, h.reserved, h.aligned, h.record.withDescs l, h.group, h.joined, h.members⟩

theorem Ilpiac.ParityAsked.withDescs (h : m.ParityAsked d g) (l : List AccDesc) : (m.withDescs l).ParityAsked d g :=
  ⟨h.toRestoreAsked.withDescs l, h.parity, h.noImage, h.role⟩

theorem Ilpiac.ImageAsked.withDescs (h : m.ImageAsked d g) (l : List AccDesc) : (m.withDescs l).ImageAsked d g :=
  ⟨h.toRestoreAsked.withDescs l, h.image, h.noMask, h.imageAligned, h.imageRead.withDescs l, h.role⟩

/-- More is lost than the pieces can rebuild. -/
def Group.Beyond (g : Group) (mask : Nat) : Prop :=
  g.lost = true ∨ (if g.q = true then 2 else 1) < popCount mask 16 ∨ g.canRebuild mask = false ∨ (mask = 0 ∧ g.missM ≠ [])

/-- No restore runs at this module, and the others run none but this one. -/
structure Group.FreeFor (g : Group) (mask : Nat) (image : Bool) (answers : List RestoreAnswer) : Prop where
  here : g.restore = none
  others : ∀ a ∈ answers, ∀ r, a.running = some r → r = (mask, image)

theorem Group.FreeFor.none_other {mask : Nat} {image : Bool} (h : g.FreeFor mask image answers) :
    (answers.filterMap (·.running)).any (fun r => r != (mask, image)) = false := by
  rw [List.any_eq_false]
  intro r hr
  obtain ⟨a, ha, har⟩ := List.mem_filterMap.mp hr
  simp [h.others a ha r har]

/-- A group with a restore that has begun at this module. -/
def Group.target (g : Group) (d : AccDesc) (image : Bool) (mask step : Nat) (shard : List Byte) : Group :=
  { g with restore := some ⟨true, d.ring, d.num, image, mask, step, [], [], shard⟩ }

/-! ### A restore from parity -/

section
variable (h : m.ParityAsked d g)
include h

theorem Ilpiac.ParityAsked.here :
    (if d.f 1 32 16 = 0 then !(m.kept g).isEmpty else (m.myPos g).any (bitOf (d.f 1 32 16) ·)) = true := by
  rcases h.role with ⟨hmask, pos, hpos, hbit⟩ | ⟨hmask, hkept⟩
  · simp [hmask, hpos, hbit]
  · simp [hmask, hkept]

theorem Ilpiac.ParityAsked.restoreBegin_of_beyond (hbad : g.Beyond (d.f 1 32 16)) (image : Readback) :
    m.restoreBegin d (some record) image answers =
      (m.noteRefusals [(d.f 2 0 64, 64, false)]).done d stMemoryFault { comm := d.f 1 0 16 } := by
  have hlost : g.lost = true ∨ (!(d.f 1 16 1 == 1)) = true ∧ ((if g.q = true then 2 else 1) < popCount (d.f 1 32 16) 16 ∨
      (!g.canRebuild (d.f 1 32 16)) = true ∨ d.f 1 32 16 = 0 ∧ (!g.missM.isEmpty) = true) := by
    simpa [h.parity, Group.Beyond] using hbad
  simp only [Ilpiac.restoreBegin, h.group]
  rw [if_neg (by simp [h.placed]), if_neg (by simp [h.cloche]), if_neg]
  · rw [if_pos hlost, h.parity]
    rfl
  · have hhere := h.here
    simp only [h.parity, h.w0, h.reserved, h.aligned, h.record.addrOk, h.noImage, h.joined] at hhere ⊢
    simpa [hhere] using h.members

theorem Ilpiac.ParityAsked.restoreBegin_of_free (hlen : record.length = 64) (hgood : ¬g.Beyond (d.f 1 32 16))
    (hfree : g.FreeFor (d.f 1 32 16) false answers) (image : Readback) :
    m.restoreBegin d (some record) image answers =
      if (m.recordAgrees g record answers && m.stampsAgree g (d.f 1 32 16) false answers (natAt record 0 8)) = true then
        (m.noteRefusals [(d.f 2 0 64, 64, false)]).updGroup (d.f 1 0 16) (·.target d false (d.f 1 32 16) (natAt record 0 8) [])
      else (m.noteRefusals [(d.f 2 0 64, 64, false)]).done d stStepSkew { comm := d.f 1 0 16, step := natAt record 0 8 } := by
  have hacc : m.Accesses (m.noteRefusals [(d.f 2 0 64, 64, false)]) := (Ilpiac.Accesses.refl m).noteRefusals
  have hread := (h.record.noteRefusals [(d.f 2 0 64, 64, false)]).boardRead record
  rw [toLen_of_length hlen] at hread
  rw [← hacc.recordAgrees, ← hacc.stampsAgree]
  have hlost : ¬(g.lost = true ∨ (!(d.f 1 16 1 == 1)) = true ∧ ((if g.q = true then 2 else 1) < popCount (d.f 1 32 16) 16 ∨
      (!g.canRebuild (d.f 1 32 16)) = true ∨ d.f 1 32 16 = 0 ∧ (!g.missM.isEmpty) = true)) := by
    simpa [h.parity, Group.Beyond] using hgood
  simp only [Ilpiac.restoreBegin, h.group]
  rw [if_neg (by simp [h.placed]), if_neg (by simp [h.cloche]), if_neg, if_neg hlost, if_neg]
  · have hparity : (d.f 1 16 1 == 1) = false := by simp [h.parity]
    simp only [hparity, Bool.false_eq_true, if_false, List.append_nil, hread, Bool.not_false, if_true]
    rfl
  · have hnone := hfree.none_other
    simp only [h.parity, hfree.here]
    simpa using hnone
  · have hhere := h.here
    simp only [h.parity, h.w0, h.reserved, h.aligned, h.record.addrOk, h.noImage, h.joined] at hhere ⊢
    simpa [hhere] using h.members

end

/-! ### A restore from an image -/

/-- An image whose header is right and whose CRC holds (R191). -/
structure ImageRight (g : Group) (img : List Byte) : Prop where
  length : img.length = 64 + g.shardBytes
  magic : natAt img 0 4 = 0x434C4F31
  bytes : natAt img 0x10 8 = g.shardBytes
  zero : (bytesAt img 0x18 40).all (· == 0) = true
  crc : natAt img 4 4 = (crc32c (img.drop 64)).toNat

theorem Ilpiac.ImageAsked.restoreBegin (h : m.ImageAsked d g) {img : List Byte} (hlen : record.length = 64) (himg : ImageRight g img) (hlost : g.lost = false)
    (hfree : g.FreeFor 0 true answers) (hstep : natAt img 8 8 = natAt record 0 8) (hrecord : m.recordAgrees g record answers = true)
    (hstamps : m.stampsAgree g 0 true answers (natAt record 0 8) = true) :
    m.restoreBegin d (some record) (some img) answers =
      (m.noteRefusals [(d.f 2 0 64, 64, false), (d.f 3 0 64, 64 + g.shardBytes, false)]).updGroup (d.f 1 0 16)
        (·.target d true 0 (natAt record 0 8) (img.drop 64)) := by
  have hacc : m.Accesses (m.noteRefusals [(d.f 2 0 64, 64, false), (d.f 3 0 64, 64 + g.shardBytes, false)]) := (Ilpiac.Accesses.refl m).noteRefusals
  have hread := (h.record.noteRefusals [(d.f 2 0 64, 64, false), (d.f 3 0 64, 64 + g.shardBytes, false)]).boardRead record
  have hreadImg := (h.imageRead.noteRefusals [(d.f 2 0 64, 64, false), (d.f 3 0 64, 64 + g.shardBytes, false)]).boardRead img
  rw [toLen_of_length hlen] at hread
  rw [toLen_of_length himg.length] at hreadImg
  rw [← hacc.recordAgrees] at hrecord
  rw [← hacc.stampsAgree] at hstamps
  obtain ⟨pos, hpos⟩ := h.role
  simp only [Ilpiac.restoreBegin, h.group]
  rw [if_neg (by simp [h.placed]), if_neg (by simp [h.cloche]), if_neg, if_neg (by simp [hlost, h.image]), if_neg]
  · have himage : (d.f 1 16 1 == 1) = true := by simp [h.image]
    simp only [himage, if_true, List.cons_append, List.nil_append, hread, hreadImg, h.noMask, Bool.not_true, Bool.false_eq_true, if_false]
    rw [if_neg (by simpa using ⟨himg.magic, himg.bytes, by simpa using himg.zero, himg.crc⟩), if_pos (by simp [hrecord, hstamps, hstep])]
    rfl
  · have hnone := hfree.none_other
    simp only [h.image, h.noMask, hfree.here]
    simpa using hnone
  · simp only [h.image, h.noMask, h.w0, h.reserved, h.aligned, h.record.addrOk, h.imageRead.addrOk, h.imageAligned, h.joined, hpos]
    have hmembers := h.members
    rw [h.noMask] at hmembers
    simpa using hmembers

end Sys2Proof.Machine

end

section
/-! STRIPE packets of a restore (spec 07: R258, R259): a stripe at the target, and a survivor's stripe at a keeper. -/

namespace Sys2Proof.Machine

variable {m m' m'' : Ilpiac} {g : Group} {p : Packet}

/-! ### Transfers leave the groups (R77, R551) -/

theorem Ilpiac.Held.sendCopy {t : TrunkCopy} (h : m.Held m') : m.Held (m'.sendCopy t) := by
  have hsent {m1 : Ilpiac} (h1 : m.Held m1) : m.Held (if t.plane = m1.plane then m1.sendTrunk t.pkt (some t.id) .retain
      else m1.relayTo (m1.relayOf t.group) t.plane t.pkt) := h1.sendTrunk.ite h1.relayTo
  unfold Ilpiac.sendCopy
  refine hsent ?_
  split
  · exact Ilpiac.Held.ite h.beside h
  · exact h

theorem Ilpiac.Held.startCopy {t : TrunkCopy} (h : m.Held m') (e : m'.startCopy t = some m'') : m.Held m'' := by
  unfold Ilpiac.startCopy at e
  split at e
  · cases e
    exact Ilpiac.Held.sendCopy (Ilpiac.Held.beside h.store)
  · cases e

theorem Ilpiac.Held.drainTrunk {n : Nat} (h : m.Held m') : m.Held (m'.drainTrunk n) := by
  induction n generalizing m' with
  | zero => exact h
  | succ n ih =>
    unfold Ilpiac.drainTrunk
    split
    · exact h
    · split
      · exact h
      · exact ih (Ilpiac.Held.beside (h.startCopy ‹_›))

theorem Ilpiac.Held.transfer {p : Packet} {bed plane : Nat} {k : Option CollId} {group : Option Nat} {writer : Option CollId} (h : m.Held m') :
    m.Held (m'.transfer p bed plane k group writer) := Ilpiac.Held.drainTrunk h.beside

theorem Ilpiac.Held.clocheSend {g : Group} {ty : Nat} {dest : Nat × Nat} {hs : List Nat} {body : List Byte} {by_ : Option CollId} (h : m.Held m') :
    m.Held (m'.clocheSend g ty dest hs body by_) := h.transfer

theorem Ilpiac.Held.group (h : m.Held m') (id : Nat) : m'.group id = m.group id := Ilpiac.group_congr h.groups id

/-! ### STRIPE (R258, R259) -/

/-- A stripe that fits the shards of its group. -/
structure Group.TakesStripe (g : Group) (p : Packet) : Prop where
  size : p.body.length = 4096
  aligned : p.f 1 24 40 % 4096 = 0
  inside : g.stripeAt (p.f 1 20 4) (p.f 1 24 40) < g.shardBytes / 4096
  kept : g.lost = false
  joined : g.forming = none

theorem Group.TakesStripe.fits (h : g.TakesStripe p) : ¬(p.body.length ≠ 4096 ∨ g.lost = true ∨ g.forming.isSome = true ∨ p.f 1 24 40 % 4096 ≠ 0 ∨
    g.shardBytes / 4096 ≤ g.stripeAt (p.f 1 20 4) (p.f 1 24 40)) := by
  have hinside := h.inside
  simp [h.size, h.kept, h.joined, h.aligned, hinside]

/-- At the target of a PARITY restore a stripe of the own shard is written and counted. -/
theorem Ilpiac.stripeRx_target {r : Restore} {me : GMember} {m4 : Ilpiac} (hg : m.group (p.f 1 0 16) = some g) (h : g.TakesStripe p)
    (hrest : g.restore = some r) (htarget : r.target = true) (himage : r.image = false)
    (hpos : (m.clocheTack g p).myPos g = some (p.f 1 16 4)) (hme : (m.clocheTack g p).myEntry g = some me)
    (hwrite : (m.clocheTack g p).plainWrite (me.base + g.stripeAt (p.f 1 20 4) (p.f 1 24 40) * 4096) p.body
      ((m.clocheTack g p).hintAt (me.base + g.stripeAt (p.f 1 20 4) (p.f 1 24 40) * 4096) true) = (true, m4)) :
    m.stripeRx p = m4.updGroup g.id (·.countStripe (g.stripeAt (p.f 1 20 4) (p.f 1 24 40))) := by
  simp only [Ilpiac.stripeRx, hg, hrest, htarget, himage, hme, hwrite]
  rw [if_neg h.fits, if_pos (by simp [hpos])]
  rfl

/-- At a keeper a survivor's stripe enters what is rebuilt of its piece. -/
theorem Ilpiac.stripeRx_keeper {y : Piece} (hg : m.group (p.f 1 0 16) = some g) (h : g.TakesStripe p) (hrest : g.restore = none)
    (hy : y ∈ g.pieces) (hnum : y.num = p.f 1 20 4) (hpos : p.f 1 16 4 ∉ g.missM) :
    m.stripeRx p = ((m.clocheTack g p).updGroup g.id
        (·.setRebuild ((g.rebuildOf (p.f 1 20 4) (g.stripeAt (p.f 1 20 4) (p.f 1 24 40))).fold (p.f 1 16 4) p.body))).solve g.id
      ((g.rebuildOf (p.f 1 20 4) (g.stripeAt (p.f 1 20 4) (p.f 1 24 40))).fold (p.f 1 16 4) p.body) := by
  have hkeeps : ¬(g.pieces.filter (fun y => y.num == p.f 1 20 4)).isEmpty = true := by
    rw [List.isEmpty_iff, List.filter_eq_nil_iff]
    exact fun hnone => hnone y hy (by simp [hnum])
  simp only [Ilpiac.stripeRx, hg, hrest]
  rw [if_neg h.fits, if_neg (by simp), if_neg hkeeps, if_neg (by simpa using hpos), if_neg (by simp)]

/-- The first stripe of a rebuild. -/
theorem Group.fold_rebuildOf (hrest : g.restore = none) (j s pos : Nat) (d : List Byte) :
    (g.rebuildOf j s).fold pos d = ⟨j, s, [pos], xorBytes (List.replicate 4096 0) d, xorBytes (List.replicate 4096 0) (gfScale (gfG pos) d)⟩ := by
  have hnew : g.rebuildOf j s = ⟨j, s, [], List.replicate 4096 0, List.replicate 4096 0⟩ := by
    rw [Group.rebuildOf, hrest]
    rfl
  rw [hnew]
  rfl

theorem Group.mem_setRebuild (g : Group) (x : Rebuild) : x ∈ ((g.setRebuild x).restore.map (·.rebuilds)).getD [] := by
  simp [Group.setRebuild]

end Sys2Proof.Machine

end

section
/-! RESTORE_COMPLETE (spec 07: R258, R260, R261): what the end of a restore leaves of its group, its communicator and its descriptor. -/

namespace Sys2Proof.Machine

variable {m m' : Ilpiac} {g : Group} {r : Restore} {d : AccDesc} {me : GMember}

/-! ### The end of a restore -/

/-- A group in which no restore runs. -/
def Group.ended (g : Group) : Group := { g with restore := none }

theorem Ilpiac.doneAt_of_desc {x : Nat × Nat} (h : m.descOf x = some d) (st : Nat) (i : CplInfo) : m.doneAt x st i = m.done d st i := by
  simp only [Ilpiac.doneAt, h]

/-- A restore ends with ST_OK, and its descriptor completes. -/
def Ilpiac.restored (m : Ilpiac) (gid : Nat) (r : Restore) (d : AccDesc) : Ilpiac :=
  (m.updGroup gid (·.ended)).done d stOk { comm := gid, step := r.step, count := r.written.length }

/-- A restore that ends at its target completes its descriptor. -/
theorem Ilpiac.endRestore_of_target {gid : Nat} (hg : m.group gid = some g) (hrest : g.restore = some r) (htarget : r.target = true)
    (hdesc : m.descOf (r.ring, r.num) = some d) : m.endRestore gid stOk = (m.restored gid r d).ledgerFlow gid := by
  have hdesc' : (m.updGroup gid (·.ended)).descOf (r.ring, r.num) = some d := hdesc
  unfold Ilpiac.restored
  simp only [Ilpiac.endRestore, hg, hrest, htarget, if_true]
  rw [← Ilpiac.doneAt_of_desc hdesc']
  rfl

theorem Ilpiac.restored_group {gid : Nat} (hg : m.group gid = some g) (r : Restore) (d : AccDesc) : (m.restored gid r d).group gid = some g.ended := by
  rw [Ilpiac.restored, Ilpiac.group_congr (m' := Ilpiac.done _ _ _ _) (m := m.updGroup gid (·.ended)) (by simp), Ilpiac.group_updGroup (fun _ => by rfl), hg]
  rfl

theorem Ilpiac.restored_comm (m : Ilpiac) (gid : Nat) (r : Restore) (d : AccDesc) (id : Nat) : (m.restored gid r d).comm id = m.comm id := by
  rw [Ilpiac.restored, Ilpiac.comm, Ilpiac.done_coll, Ilpiac.comm]
  rfl

theorem Ilpiac.restored_cpl (m : Ilpiac) (gid : Nat) (r : Restore) (d : AccDesc) :
    (m.restored gid r d).ctl.cpl = m.ctl.cpl ++ [d.record stOk { comm := gid, step := r.step, count := r.written.length }] := by
  rw [Ilpiac.restored, Ilpiac.done_cpl]
  rfl

/-! ### The residuals of a restored communicator (R188, R261) -/

/-- Residuals that are +0, stamped with a step. -/
def Comm.resetResiduals (cm : Comm) (step : Nat) : Comm :=
  { cm with residuals := cm.residuals.map (fun r => { r with stamp := step, fresh := [], other := none }) }

/-- Writes of zero, then a change of the communicator's residuals. -/
theorem Ilpiac.zeroResiduals_parts (m : Ilpiac) (comm step : Nat) :
    ∃ m1 : Ilpiac, m.Accesses m1 ∧ (m.zeroResiduals comm step = m1 ∨ m.zeroResiduals comm step = m1.updComm comm (·.resetResiduals step)) := by
  unfold Ilpiac.zeroResiduals
  split
  · exact ⟨m, .refl m, .inl rfl⟩
  · exact ⟨_, (Ilpiac.Accesses.refl m).over fun _ _ h => h.memWrite, .inr rfl⟩

/-- What the zeroing of residuals leaves: the groups but for marks and own stamps, the descriptors, and that a communicator exists. -/
structure Ilpiac.Zeroed (m m' : Ilpiac) : Prop where
  cpl : m'.ctl.cpl = m.ctl.cpl
  desc : ∀ x, m'.descOf x = m.descOf x
  group : ∀ gid g, m.group gid = some g → ∃ g', m'.group gid = some g' ∧ m.Touches g g'
  comm : ∀ id, (m'.comm id).isSome = (m.comm id).isSome

theorem Ilpiac.zeroResiduals_zeroed (m : Ilpiac) (comm step : Nat) : m.Zeroed (m.zeroResiduals comm step) := by
  obtain ⟨m1, hacc, heq | heq⟩ := m.zeroResiduals_parts comm step
  · rw [heq]
    exact ⟨hacc.cpl, hacc.descOf, fun _ _ hg => hacc.group hg, fun id => by rw [hacc.comm]⟩
  · rw [heq]
    refine ⟨hacc.cpl, hacc.descOf, fun _ _ hg => hacc.group hg, fun id => ?_⟩
    by_cases hid : id = comm
    · rw [hid, Ilpiac.comm_updComm (fun _ => by rfl), Option.isSome_map, hacc.comm]
    · rw [Ilpiac.comm_updComm_ne (fun _ => by rfl) (Ne.symm hid), hacc.comm]

/-! ### A restored shard -/

/-- A group whose shard at a position holds a step, and is not MISSING. -/
def Group.holding (g : Group) (pos step : Nat) : Group := { g with missM := g.missM.filter (· != pos), stamp := step, stamps := g.stamps.set pos step }

/-- The stamp of a restored shard, reported to every participant that is reached. -/
def Ilpiac.reportShard (m : Ilpiac) (g : Group) (pos step : Nat) : Ilpiac :=
  let m := m.updGroup g.id (·.holding pos step)
  m.over (m.reached g) (fun m x => m.clocheSend g 0x67 x [clocheH1 g.id pos 0 0, step] [])

theorem Ilpiac.reportShard_held (m : Ilpiac) (g : Group) (pos step : Nat) : (m.updGroup g.id (·.holding pos step)).Held (m.reportShard g pos step) :=
  (Ilpiac.Held.refl _).over fun _ _ h => h.clocheSend

theorem Ilpiac.reportShard_accesses (m : Ilpiac) (g : Group) (pos step : Nat) :
    (m.updGroup g.id (·.holding pos step)).Accesses (m.reportShard g pos step) :=
  (Ilpiac.Accesses.refl _).over fun _ _ h => h.clocheSend

/-- A communicator that is not stale. -/
def Comm.fresh (cm : Comm) : Comm := { cm with stale := false }

/-- What stands before the LEDGER_WRITEs go on, once a shard is restored. -/
structure Ilpiac.ShardBack (m m' : Ilpiac) (g g' : Group) (r : Restore) (d : AccDesc) (pos comm : Nat) : Prop where
  group : m'.group g.id = some g'
  ended : g'.restore = none
  stamp : g'.stamp = r.step
  missM : g'.missM = g.missM.filter (· != pos)
  stamps : g'.stamps = g.stamps.set pos r.step
  comm : ∀ cm, m.comm comm = some cm → ∃ c, m'.comm comm = some c ∧ c.stale = false
  cpl : m'.ctl.cpl = m.ctl.cpl ++ [d.record stOk { comm := g.id, step := r.step, count := r.written.length }]

theorem Ilpiac.shardRestored_back {pos : Nat} (hg : m.group g.id = some g) (hrest : g.restore = some r) (htarget : r.target = true)
    (hdesc : m.descOf (r.ring, r.num) = some d) (hpos : m.myPos g = some pos) (comm : Nat) :
    ∃ m' g', m.shardRestored g comm r.step = m'.ledgerFlow g.id ∧ m.ShardBack m' g g' r d pos comm := by
  have hzero := m.zeroResiduals_zeroed comm r.step
  obtain ⟨g1, hg1, htouch⟩ := hzero.group g.id g hg
  set m1 := m.zeroResiduals comm r.step with hm1
  have hheld := m1.reportShard_held g pos r.step
  have hacc := m1.reportShard_accesses g pos r.step
  have hgroup : ((m1.reportShard g pos r.step).updComm comm (·.fresh)).group g.id = some (g1.holding pos r.step) := by
    change (m1.reportShard g pos r.step).group g.id = _
    rw [hheld.group, Ilpiac.group_updGroup (fun _ => by rfl), hg1]
    rfl
  have hdesc' : ((m1.reportShard g pos r.step).updComm comm (·.fresh)).descOf (r.ring, r.num) = some d :=
    (hacc.descOf _).trans ((hzero.desc _).trans hdesc)
  have hend := Ilpiac.endRestore_of_target hgroup (htouch.restore.trans hrest) htarget hdesc'
  have hcm (cm : Comm) (hcm : m.comm comm = some cm) :
      ∃ c, (((m1.reportShard g pos r.step).updComm comm (·.fresh)).restored g.id r d).comm comm = some c ∧ c.stale = false := by
    have hcm1 : (m1.comm comm).isSome = true := by rw [hzero.comm, hcm]; rfl
    obtain ⟨c1, hc1⟩ := Option.isSome_iff_exists.mp hcm1
    refine ⟨c1.fresh, ?_, rfl⟩
    rw [Ilpiac.restored_comm, Ilpiac.comm_updComm (fun _ => by rfl), hacc.comm]
    exact congrArg (Option.map Comm.fresh) hc1
  refine ⟨((m1.reportShard g pos r.step).updComm comm (·.fresh)).restored g.id r d, (g1.holding pos r.step).ended, ?_,
    Ilpiac.restored_group hgroup r d, rfl, rfl, congrArg (List.filter (· != pos)) htouch.missM, htouch.others pos r.step hpos, hcm, ?_⟩
  · rw [← hend]
    simp only [Ilpiac.shardRestored, hpos]
    rfl
  · rw [Ilpiac.restored_cpl]
    exact congrArg (· ++ _) (hacc.cpl.trans hzero.cpl)

/-! ### RESTORE_COMPLETE -/

section
variable {gid : Nat} (hg : m.group gid = some g) (hrest : g.restore = some r) (htarget : r.target = true)
include hg hrest htarget

/-- The last stripe of a shard that is rebuilt from parity. -/
theorem Ilpiac.restoreComplete_of_parity (himage : r.image = false) (hall : m.wanted g r ≤ r.written.length) (hmask : r.mask ≠ 0) (hme : m.myEntry g = some me) :
    m.restoreComplete gid = m.shardRestored g me.comm r.step := by
  simp only [Ilpiac.restoreComplete, hg, hrest, htarget, himage, hme]
  rw [if_neg (by simp), if_neg (by simp), if_neg (by omega), if_neg hmask]

/-- A group whose pieces of a list are not MISSING. -/
def Group.havePieces (g : Group) (ks : List (Nat × Bool)) : Group :=
  { g with missP := g.missP.filter (fun j => !ks.contains (j, false)), missQ := g.missQ.filter (fun j => !ks.contains (j, true)) }

/-- The last stripe of the pieces that are rebuilt at their keeper. -/
theorem Ilpiac.restoreComplete_of_pieces (himage : r.image = false) (hall : m.wanted g r ≤ r.written.length) (hmask : r.mask = 0) :
    m.restoreComplete gid = (m.updGroup gid (·.havePieces (m.kept g))).endRestore gid stOk := by
  simp only [Ilpiac.restoreComplete, hg, hrest, htarget, himage]
  rw [if_neg (by simp), if_neg (by simp), if_neg (by omega), if_pos hmask]
  rfl

/-- A group whose shard of some stripes has been written from an image. -/
def Group.imageWritten (g : Group) (r : Restore) (stripes : Nat) : Group := { g with restore := some { r with written := List.range stripes, shard := [] } }

/-- An image that has been written, while its writes have not settled. -/
theorem Ilpiac.restoreComplete_of_image {m1 : Ilpiac} {g1 : Group} (himage : r.image = true) (hleft : r.written.length < g.shardBytes / 4096)
    (hme : m.myEntry g = some me) (hwrite : m.memWrite me.base r.shard (m.hintAt me.base true) = (true, m1)) (hg1 : m1.group gid = some g1) (hopen : g1.unsettled ≠ 0) :
    m.restoreComplete gid = m1.updGroup gid (·.imageWritten r (g.shardBytes / 4096)) := by
  have hg2 : (m1.updGroup gid (·.imageWritten r (g.shardBytes / 4096))).group gid = some (g1.imageWritten r (g.shardBytes / 4096)) := by
    rw [Ilpiac.group_updGroup (fun _ => by rfl), hg1]
    rfl
  unfold Group.imageWritten at hg2 ⊢
  simp only [Ilpiac.restoreComplete, hg, hrest, hme, hwrite, hg2]
  rw [if_neg (by simp [htarget]), if_pos himage, if_pos hleft, if_neg (by simp), if_neg hopen]

/-- An image whose writes have settled. -/
theorem Ilpiac.restoreComplete_of_settled (himage : r.image = true) (hall : g.shardBytes / 4096 ≤ r.written.length) (hme : m.myEntry g = some me)
    (hsettled : g.unsettled = 0) : m.restoreComplete gid = m.shardRestored g me.comm r.step := by
  simp only [Ilpiac.restoreComplete, hg, hrest, hme]
  rw [if_neg (by simp [htarget]), if_pos himage, if_neg (by omega), if_pos hsettled]

end

end Sys2Proof.Machine

end

section
/-! CLOCHE_RESTORE, STRIPE_RECEIVED and RESTORE_COMPLETE as commands (spec 07: R256 to R261). -/

namespace Sys2Proof.Machine

variable {s : State} {d : AccDesc} {m0 m2 : Ilpiac} {g : Group} {r : Restore} {answers : List RestoreAnswer} {p : Packet}

theorem exec_stripeReceived {port : Fin 262} (hty : p.ty = 0x65) : exec (.stripeReceived port p) s = .next { s with m := (s.m.receive port p).settle } := by
  change ran s (s.m.arrive port.val [0x65] p) = _
  rw [ran, Ilpiac.arrive, if_pos (by simp [hty])]

theorem Ilpiac.settled_group (hg : s.m.group (d.f 1 0 16) = some g) (descs : List AccDesc) :
    (s.m.withDescs descs).settled (d.f 1 0 16) answers = s.m.settled g.id answers := by
  rw [Ilpiac.id_of_group hg]
  rfl

section
variable {ring : Fin 65536} (hbegin : s.m.begin ring 0x3B = some (d, m0)) (hg : s.m.group (d.f 1 0 16) = some g) (record image : Readback)
include hbegin hg

/-- A restore waits while writes into a shard have not settled. -/
theorem exec_clocheRestore_waits (h : s.m.settled g.id answers = false) :
    exec (.clocheRestore ring record image answers) s = .next { s with m := s.m.settle } := by
  change ran s (match s.m.begin ring.val 0x3B with
    | some (d, m) => if m.settled (d.f 1 0 16) answers then m.restoreBegin d record image answers else s.m
    | none => s.m) = _
  obtain ⟨descs, rfl⟩ := Ilpiac.begin_descs hbegin
  rw [hbegin]
  dsimp only
  rw [Ilpiac.settled_group hg, h, if_neg (by simp), ran]

theorem exec_clocheRestore_begins (h : s.m.settled g.id answers = true) :
    exec (.clocheRestore ring record image answers) s = .next { s with m := (m0.restoreBegin d record image answers).settle } := by
  change ran s (match s.m.begin ring.val 0x3B with
    | some (d, m) => if m.settled (d.f 1 0 16) answers then m.restoreBegin d record image answers else s.m
    | none => s.m) = _
  obtain ⟨descs, rfl⟩ := Ilpiac.begin_descs hbegin
  rw [hbegin]
  dsimp only
  rw [Ilpiac.settled_group hg, h, if_pos rfl, ran]

end

theorem Ilpiac.updGroup_ctl (m : Ilpiac) (gid : Nat) (f : Group → Group) : (m.updGroup gid f).ctl = m.ctl := rfl

/-- A restore that has begun, in the group that the descriptor names. -/
theorem Ilpiac.target_group {gid : Nat} {m : Ilpiac} (hg : m.group gid = some g) (l : List (Nat × Nat × Bool)) (image : Bool) (mask step : Nat) (shard : List Byte) :
    ((m.noteRefusals l).updGroup gid (·.target d image mask step shard)).group g.id = some (g.target d image mask step shard) ∧
      ((m.noteRefusals l).updGroup gid (·.target d image mask step shard)).ctl.cpl = m.ctl.cpl := by
  refine ⟨?_, ?_⟩
  · rw [Ilpiac.id_of_group hg, Ilpiac.group_updGroup (fun _ => by rfl), Ilpiac.group_congr (m.noteRefusals_groups l), hg]
    rfl
  · rw [Ilpiac.updGroup_ctl, Ilpiac.noteRefusals_ctl]

/-- A restore that completes at once leaves the groups. -/
theorem Ilpiac.refused_group {m : Ilpiac} (l : List (Nat × Nat × Bool)) (st : Nat) (i : CplInfo) :
    ((m.noteRefusals l).done d st i).groups = m.groups ∧ ((m.noteRefusals l).done d st i).ctl.cpl = m.ctl.cpl ++ [d.record st i] := by
  refine ⟨by simp, ?_⟩
  rw [Ilpiac.done_cpl, Ilpiac.noteRefusals_ctl]

end Sys2Proof.Machine

open Sys2Proof.Machine

/-- Settles O53: a restore by its source, a stripe by the role of the module, and the end of a restore by its kind. -/
theorem clocheRestores : Obligations.ClocheRestores := by
  unfold Obligations.ClocheRestores
  refine fun s => ⟨fun ring d m0 g record answers hbegin hg => ⟨exec_clocheRestore_waits hbegin hg _ _, ?_⟩, ?_, ?_, ?_⟩
  · intro mask hsettled hplaced hcloche hparity hw hz haligned hnoImage hcoh hrole hjoined hmembers hlen
    have hasked : s.m.ParityAsked d g := ⟨⟨hplaced, hcloche, hw, hz, haligned, hcoh, hg, hjoined, hmembers⟩, hparity, hnoImage, hrole⟩
    have hexec := exec_clocheRestore_begins hbegin hg (some record) none hsettled
    obtain ⟨descs, rfl⟩ := Ilpiac.begin_descs hbegin
    refine ⟨fun hbad => ?_, fun hgood hnone hothers => ?_⟩
    · rw [(hasked.withDescs descs).restoreBegin_of_beyond hbad, ← Ilpiac.id_of_group hg] at hexec
      exact ⟨_, hexec, Ilpiac.refused_group ..⟩
    · rw [(hasked.withDescs descs).restoreBegin_of_free hlen hgood ⟨hnone, hothers⟩] at hexec
      refine ⟨fun hrecord hstamps => ?_, fun hskew => ?_⟩
      · have hok : ((s.m.withDescs descs).recordAgrees g record answers &&
            (s.m.withDescs descs).stampsAgree g (d.f 1 32 16) false answers (natAt record 0 8)) = true := Bool.and_eq_true_iff.mpr ⟨hrecord, hstamps⟩
        rw [if_pos hok] at hexec
        obtain ⟨hgroup, hcpl⟩ := Ilpiac.target_group (d := d) (m := s.m.withDescs descs) hg [(d.f 2 0 64, 64, false)] false mask (natAt record 0 8) []
        exact ⟨_, _, hexec, hgroup, rfl, rfl, hcpl⟩
      · have hnot : ¬((s.m.withDescs descs).recordAgrees g record answers &&
            (s.m.withDescs descs).stampsAgree g (d.f 1 32 16) false answers (natAt record 0 8)) = true := by
          rw [Bool.and_eq_true]
          rintro ⟨hrecord, hstamps⟩
          rcases hskew with hskew | hskew
          · exact Bool.false_ne_true (hskew.symm.trans hrecord)
          · exact Bool.false_ne_true (hskew.symm.trans hstamps)
        rw [if_neg hnot, ← Ilpiac.id_of_group hg] at hexec
        exact ⟨_, hexec, Ilpiac.refused_group ..⟩
  · intro ring d m0 g pos record img answers hbegin hg hsettled hplaced hcloche himage hw hz haligned hialigned hmask hcoh hicoh hpos hjoined hlost hnone
      hothers hlen hilen hmagic hbytes hzero hcrc hstep hrecord hstamps
    have hasked : s.m.ImageAsked d g :=
      ⟨⟨hplaced, hcloche, hw, hz, haligned, hcoh, hg, hjoined, by simp [hmask, bitIdx, bitOf]⟩, himage, hmask, hialigned, hicoh, pos, hpos⟩
    have hexec := exec_clocheRestore_begins hbegin hg (some record) (some img) hsettled
    obtain ⟨descs, rfl⟩ := Ilpiac.begin_descs hbegin
    rw [(hasked.withDescs descs).restoreBegin hlen ⟨hilen, hmagic, hbytes, hzero, hcrc⟩ hlost ⟨hnone, hothers⟩ hstep hrecord hstamps] at hexec
    obtain ⟨hgroup, hcpl⟩ := Ilpiac.target_group (d := d) (m := s.m.withDescs descs) hg
      [(d.f 2 0 64, 64, false), (d.f 3 0 64, 64 + g.shardBytes, false)] true 0 (natAt record 0 8) (img.drop 64)
    exact ⟨_, _, hexec, hgroup, rfl, hcpl⟩
  · intro port p m2 id b g hlands hty hdst hg pos j off st m3 hlen haligned hinside hlost hjoined
    have htakes : g.TakesStripe p := ⟨hlen, haligned, hinside, hlost, hjoined⟩
    have hmove := Ilpiac.ilpMove_stripe (m := m2) (port := port) (id := id) hty
    have hexec := exec_stripeReceived (s := s) (port := port) hty
    have hid := Ilpiac.id_of_group hg
    refine ⟨fun r me m4 hrest htarget himage hpos hme hwrite => ?_, fun y hrest hy hnum hmiss => ?_⟩
    · rw [Ilpiac.stripeRx_target hg htakes hrest htarget himage hpos hme hwrite] at hmove
      rw [hlands.receive_cloche (by simp [hty]) hdst hmove] at hexec
      have hacc : m2.Accesses m4 := Ilpiac.Accesses.of_snd (Ilpiac.Accesses.plainWrite (Ilpiac.Accesses.tack (.refl m2))) hwrite
      obtain ⟨g4, hg4, htouch⟩ := hacc.group hg
      refine ⟨_, g4.countStripe st, hexec, ?_, rfl, ?_, htouch.missM, htouch.applied⟩
      · rw [Ilpiac.group_updGroup (fun _ => by rfl), hid, hg4]
        rfl
      · rw [Group.countStripe, htouch.restore, hrest]
        rfl
    · rw [Ilpiac.stripeRx_keeper hg htakes hrest hy hnum hmiss] at hmove
      rw [hlands.receive_cloche (by simp [hty]) hdst hmove] at hexec
      have hheld : m2.Held m3 := Ilpiac.Held.tack (.refl m2)
      refine ⟨_, _, _, hexec, ?_, Group.mem_setRebuild _ _, ?_, ?_, ?_, ?_, ?_, rfl⟩
      · rw [Ilpiac.group_updGroup (fun _ => by rfl), hid, hheld.group, hg]
        rfl
      all_goals rw [Group.fold_rebuildOf hrest]
  · intro g r d pos me hg hrest htarget hdesc hpos hme
    refine ⟨fun himage hmask hall => ?_, fun himage hmask hall => ?_, fun m1 g1 himage hleft hwrite hg1 hopen => ?_, fun himage hall hsettled => ?_⟩
    · obtain ⟨m', g', hflow, hback⟩ := Ilpiac.shardRestored_back hg hrest htarget hdesc hpos me.comm
      have hdone := (Ilpiac.restoreComplete_of_parity hg hrest htarget himage hall hmask hme).trans hflow
      exact ⟨m', g', congrArg (ran s) hdone, hback.group, hback.ended, hback.stamp, hback.missM, hback.stamps, hback.comm, hback.cpl⟩
    · have hhave : (s.m.updGroup g.id (·.havePieces (s.m.kept g))).group g.id = some (g.havePieces (s.m.kept g)) := by
        rw [Ilpiac.group_updGroup (fun _ => by rfl), hg]
        rfl
      have hdone := (Ilpiac.restoreComplete_of_pieces hg hrest htarget himage hall hmask).trans
        (Ilpiac.endRestore_of_target hhave hrest htarget hdesc)
      refine ⟨_, _, congrArg (ran s) hdone, Ilpiac.restored_group hhave r d, rfl, fun x => ?_, fun x => ?_, Ilpiac.restored_cpl ..⟩
      · simp [Group.ended, Group.havePieces]
      · simp [Group.ended, Group.havePieces]
    · have hdone := Ilpiac.restoreComplete_of_image hg hrest htarget himage hleft hme hwrite hg1 hopen
      refine ⟨_, g1.imageWritten r (g.shardBytes / 4096), congrArg (ran s) hdone, rfl, ?_, rfl⟩
      rw [Ilpiac.group_updGroup (fun _ => by rfl), hg1]
      rfl
    · obtain ⟨m', g', hflow, hback⟩ := Ilpiac.shardRestored_back hg hrest htarget hdesc hpos me.comm
      have hdone := (Ilpiac.restoreComplete_of_settled hg hrest htarget himage hall hme hsettled).trans hflow
      exact ⟨m', g', congrArg (ran s) hdone, hback.group, hback.ended, hback.stamp, hback.cpl⟩

end

section
/-! What has been handed over on the Holm link stays there while a command settles, unless the link goes down (spec 14: R453 to R457), which an image
load shows (R539). A rule per operation that settling reaches, in the order of the model, each a chain of the rules of the operations it is composed
of. Only `send` adds to what is said, and only `holmDown` takes it back. -/

namespace Sys2Proof.Machine

variable {m m' : Ilpiac}

/-- Something has been handed over on the Holm link, or the link is lost to an image load if one runs (R539). -/
structure Ilpiac.Spoken (m : Ilpiac) : Prop where
  said : m.told ≠ [] ∨ ∀ l, m.boot.load = some l → l.lost = true

/-- Parts of the state other than the companion's side and the boot state. -/
theorem Ilpiac.Spoken.beside {regs clk free flt twin sw coll trellis hbm groups lanes links sync time record power} (h : m.Spoken) :
    Ilpiac.Spoken ⟨regs, clk, free, m.ctl, flt, twin, sw, coll, trellis, hbm, groups, lanes, links, sync, time, record, power, m.boot⟩ := ⟨h.said⟩

/-- Parts of the companion's side other than the link layer of Holm. -/
theorem Ilpiac.Spoken.besideCtl {drings descs cpl irqDue coalDue pendLo latchHi held own crWait resetting funcReset} (h : m.Spoken) :
    Ilpiac.Spoken { m with ctl := ⟨m.ctl.holm, drings, descs, cpl, irqDue, coalDue, pendLo, latchHi, held, own, crWait, resetting, funcReset⟩ } := ⟨h.said⟩

theorem Ilpiac.Spoken.ite {c : Prop} [Decidable c] (h : m.Spoken) (h' : m'.Spoken) : Ilpiac.Spoken (if c then m else m') := by
  split <;> assumption

theorem Ilpiac.Spoken.ifThen {c : Prop} [Decidable c] (h : m.Spoken) (hf : m.Spoken → m'.Spoken) : Ilpiac.Spoken (if c then m' else m) := ite (hf h) h

theorem Ilpiac.Spoken.ifElse {c : Prop} [Decidable c] (h : m.Spoken) (hf : m.Spoken → m'.Spoken) : Ilpiac.Spoken (if c then m else m') := ite h (hf h)

theorem Ilpiac.Spoken.of_snd {α : Type} {p : α × Ilpiac} {a : α} (h : Ilpiac.Spoken p.2) (e : p = (a, m')) : m'.Spoken := by
  rw [e] at h
  exact h

theorem Ilpiac.Spoken.mk_snd {α : Type} {a : α} (h : m.Spoken) : Ilpiac.Spoken (a, m).2 := h

theorem Ilpiac.Spoken.foldl {α : Type} {f : Ilpiac → α → Ilpiac} {l : List α} (h : m.Spoken) (hf : ∀ m a, m.Spoken → (f m a).Spoken) :
    Ilpiac.Spoken (l.foldl f m) := by
  induction l generalizing m with
  | nil => exact h
  | cons a l ih => exact ih (hf m a h)

theorem Ilpiac.Spoken.foldl_snd {α β : Type} {f : α × Ilpiac → β → α × Ilpiac} {l : List β} {p : α × Ilpiac} (h : Ilpiac.Spoken p.2)
    (hf : ∀ p b, Ilpiac.Spoken p.2 → Ilpiac.Spoken (f p b).2) : Ilpiac.Spoken (l.foldl f p).2 := by
  induction l generalizing p with
  | nil => exact h
  | cons b l ih => exact ih (hf p b h)

theorem Ilpiac.Spoken.over {α : Type} {l : List α} {f : Ilpiac → α → Ilpiac} (h : m.Spoken) (hf : ∀ m a, m.Spoken → (f m a).Spoken) :
    Ilpiac.Spoken (m.over l f) := h.foldl hf

theorem Ilpiac.Spoken.send {x : HolmMsg} (h : m.Spoken) : (m.send x).Spoken := by
  obtain ⟨hsaid⟩ := h
  refine ⟨hsaid.imp (fun htold => ?_) fun hload => ?_⟩
  · rw [Ilpiac.send_told]
    split
    · simp
    · exact htold
  · rwa [show (m.send x).boot = m.boot by simp]

/-! ### Registers, events and faults -/

theorem Ilpiac.Spoken.setReg {k : Nat} {v : Word} (h : m.Spoken) : (m.setReg k v).Spoken := h.beside
theorem Ilpiac.Spoken.wr {b : Blk} {n : Nat} {f : Fld} {v j : Nat} (h : m.Spoken) : (m.wr b n f v j).Spoken := h.setReg
theorem Ilpiac.Spoken.gw {f : Fld} {v j : Nat} (h : m.Spoken) : (m.gw f v j).Spoken := h.wr
theorem Ilpiac.Spoken.cnt {b : Blk} {n : Nat} {f : Fld} {k j : Nat} (h : m.Spoken) : (m.cnt b n f k j).Spoken := h.wr
theorem Ilpiac.Spoken.gcnt {f : Fld} {k j : Nat} (h : m.Spoken) : (m.gcnt f k j).Spoken := h.cnt
theorem Ilpiac.Spoken.wrapCnt {b : Blk} {n : Nat} {f : Fld} {k j : Nat} (h : m.Spoken) : (m.wrapCnt b n f k j).Spoken := h.wr
theorem Ilpiac.Spoken.pw {p : Nat} {f : Fld} {v j : Nat} (h : m.Spoken) : (m.pw p f v j).Spoken := h.wr
theorem Ilpiac.Spoken.pcnt {p : Nat} {f : Fld} {k j : Nat} (h : m.Spoken) : (m.pcnt p f k j).Spoken := h.cnt
theorem Ilpiac.Spoken.draw (h : m.Spoken) : m.draw.2.Spoken := h.beside
theorem Ilpiac.Spoken.irqDue {vector : Nat} (h : m.Spoken) : (m.irqDue vector).Spoken := h.besideCtl
theorem Ilpiac.Spoken.event {e : Event} (h : m.Spoken) : (m.event e).Spoken := ite h (ite h.gw h.gw.irqDue)
theorem Ilpiac.Spoken.sbEvent {e : Nat} (h : m.Spoken) : (m.sbEvent e).Spoken := ite h (ite h.gw h.gw.beside)
theorem Ilpiac.Spoken.markLatched {a : Assertion} (h : m.Spoken) : (m.markLatched a).Spoken := h.beside
theorem Ilpiac.Spoken.addAssert {a : Assertion} (h : m.Spoken) : (m.addAssert a).Spoken := h.beside
theorem Ilpiac.Spoken.firstFault {a : Assertion} (h : m.Spoken) : (m.firstFault a).Spoken := h.gw.gw.gw.gw.gw.gw.gw
theorem Ilpiac.Spoken.dueAtOnce {src : Nat} (h : m.Spoken) : (m.dueAtOnce src).Spoken := ite h.beside h
theorem Ilpiac.Spoken.latch {a : Assertion} (h : m.Spoken) : (m.latch a).Spoken := h.markLatched.firstFault.gcnt.event.sbEvent.dueAtOnce

theorem Ilpiac.Spoken.latchNext (h : m.Spoken) : m.latchNext.Spoken := by
  unfold Ilpiac.latchNext
  split
  · exact ite h.latch h
  · exact h

theorem Ilpiac.Spoken.raise {src unit detail : Nat} {wire : Bool} (h : m.Spoken) : (m.raise src unit detail wire).Spoken := by
  unfold Ilpiac.raise
  dsimp only
  split
  · exact h
  · split
    · exact h.addAssert
    · split
      · exact h.addAssert.latch
      · exact ite (ite h.addAssert h.addAssert.gw) h.addAssert.latchNext

theorem Ilpiac.Spoken.release {src : Nat} {p : Nat → Bool} (h : m.Spoken) : (m.release src p).Spoken := h.beside
theorem Ilpiac.Spoken.regAccess {off : Nat} (h : m.Spoken) : (m.regAccess off).Spoken := h.raise
theorem Ilpiac.Spoken.stall {c : Nat} (h : m.Spoken) : (m.stall c).Spoken := h.wr
theorem Ilpiac.Spoken.due {r : CplRec} (h : m.Spoken) : (m.due r).Spoken := h.besideCtl.stall

theorem Ilpiac.Spoken.complete {ring num : Nat} {ws : List Word} {status : Nat} {i : CplInfo} {coll : Option CollId} (h : m.Spoken) :
    (m.complete ring num ws status i coll).Spoken := h.due

theorem Ilpiac.Spoken.done {d : AccDesc} {status : Nat} {i : CplInfo} (h : m.Spoken) : (m.done d status i).Spoken := h.complete

/-! ### Board addresses and the journal -/

theorem Ilpiac.Spoken.boardWrite {addr : Nat} {d : List Byte} (h : m.Spoken) : (m.boardWrite addr d).Spoken := by
  unfold Ilpiac.boardWrite
  split
  · exact h.besideCtl
  · exact ite h.regAccess (h.over (fun _ _ h => h.send))

theorem Ilpiac.Spoken.windowRefusal (h : m.Spoken) : m.windowRefusal.Spoken := h.gcnt

theorem Ilpiac.Spoken.journal {r : JRec} (h : m.Spoken) : (m.journal r).Spoken := by
  unfold Ilpiac.journal
  split
  · exact h.beside
  · exact ite h.beside h.beside.gcnt

/-! ### Channels, codewords and lines of HBM -/

theorem Ilpiac.Spoken.countOut {ch : Nat} (h : m.Spoken) : (m.countOut ch).Spoken := h.wr
theorem Ilpiac.Spoken.outNow {ch : Nat} (h : m.Spoken) : (m.outNow ch).Spoken := h.wr.wr.wr.countOut
theorem Ilpiac.Spoken.recordOut {ch cause : Nat} (h : m.Spoken) : (m.recordOut ch cause).Spoken := h.draw.journal.journal
theorem Ilpiac.Spoken.lostUnit {a : Nat} (h : m.Spoken) : (m.lostUnit a).Spoken := h.beside

theorem Ilpiac.Spoken.migrate {slot source : Nat} {readable : Bool} {q : Nat} (h : m.Spoken) : (m.migrate slot source readable q).Spoken :=
  h.beside.wr.wr.wr.gw

theorem Ilpiac.Spoken.unback {slot : Nat} (h : m.Spoken) : (m.unback slot).Spoken := h.beside.gw.raise

theorem Ilpiac.Spoken.mapOut {ch cause : Nat} (h : m.Spoken) : (m.mapOut ch cause).Spoken := by
  unfold Ilpiac.mapOut
  extract_lets +onlyGivenNames readable
  split
  · exact h
  · split
    · exact ite h h.beside
    · extract_lets +onlyGivenNames m1 m2 m3
      have h3 : m3.Spoken := h.wr.recordOut.gw
      clear_value m3
      split
      · exact h3.beside.outNow.gw
      · extract_lets +onlyGivenNames slot
        split
        · exact h3.outNow
        · extract_lets +onlyGivenNames old
          clear_value old
          rcases m3.hbm.reserve with _ | ⟨q, l⟩
          · refine unback (outNow ?_)
            cases old with
            | some g => exact h3.outNow
            | none => exact h3
          · cases old with
            | some g => exact h3.outNow.migrate
            | none => exact h3.wr.wr.migrate

theorem Ilpiac.Spoken.failChannel {ch cause : Nat} (h : m.Spoken) : (m.failChannel ch cause).Spoken := ite h.mapOut h
theorem Ilpiac.Spoken.setErrors {cw : Nat} {l : List (Nat × Nat)} (h : m.Spoken) : (m.setErrors cw l).Spoken := h.beside
theorem Ilpiac.Spoken.setPoison {cw : Nat} {b : Bool} (h : m.Spoken) : (m.setPoison cw b).Spoken := h.beside
theorem Ilpiac.Spoken.setData {cw : Nat} {d : List Byte} (h : m.Spoken) : (m.setData cw d).Spoken := h.beside

theorem Ilpiac.Spoken.countCe {cw sym : Nat} (h : m.Spoken) : (m.countCe cw sym).Spoken := by
  unfold Ilpiac.countCe
  dsimp only
  split
  · exact h.cnt.wr.wr.wr.wr.beside.failChannel
  · exact h.cnt.wr.wr.wr.wr.beside

theorem Ilpiac.Spoken.countUe {cw : Nat} (h : m.Spoken) : (m.countUe cw).Spoken := by
  unfold Ilpiac.countUe
  dsimp only
  split
  · split
    · exact h.cnt.wr.wr.wr.wr.raise.beside.failChannel
    · exact h.cnt.wr.wr.wr.wr.raise.beside
  · split
    · exact h.cnt.wr.wr.wr.wr.beside.failChannel
    · exact h.cnt.wr.wr.wr.wr.beside

theorem Ilpiac.Spoken.cwRead {cw : Nat} (h : m.Spoken) : (m.cwRead cw).2.Spoken := by
  unfold Ilpiac.cwRead
  dsimp only
  split
  · exact h
  · exact h.setErrors.countCe
  · exact h.setData.setErrors.setPoison.countUe
  · split
    · exact h.setData.setErrors.setPoison.countUe
    · exact (ite h.setData.setErrors.setPoison h.setData.setErrors).countCe

theorem Ilpiac.Spoken.inject {cw : Nat} (h : m.Spoken) : (m.inject cw).Spoken := ite (ite h.wr.draw.setErrors h.wr.draw.setErrors) h

theorem Ilpiac.Spoken.cwWrite {cw : Nat} {d : List Byte} {poison : Bool} (h : m.Spoken) : (m.cwWrite cw d poison).Spoken :=
  h.setData.setErrors.setPoison.inject

theorem Ilpiac.Spoken.wakeStack {ch : Nat} (h : m.Spoken) : (m.wakeStack ch).Spoken := ite h.wr h
theorem Ilpiac.Spoken.migrationEnd {g : Migration} (h : m.Spoken) : (m.migrationEnd g).Spoken := ite h h.beside.outNow

theorem Ilpiac.Spoken.copyUnit {slot unit : Nat} (h : m.Spoken) : (m.copyUnit slot unit).Spoken := by
  unfold Ilpiac.copyUnit
  split
  · exact h
  · split
    · exact h
    · extract_lets +onlyGivenNames m1 m2 m3
      have h2 : m2.Spoken := by
        refine (h.ifThen fun h => h.wakeStack).wakeStack.over fun _ _ h => ?_
        dsimp only
        split
        · split
          · exact h.cwRead.of_snd ‹_› |>.cwWrite
          · exact h.cwRead.of_snd ‹_› |>.cwWrite.lostUnit
        · exact h.cwWrite
      have h3 : m3.Spoken := h2.ifElse fun h => h.lostUnit
      clear_value m3
      split
      · exact h3
      · exact ite h3 h3.beside.wr.migrationEnd

theorem Ilpiac.Spoken.lineRead {line : Nat} (h : m.Spoken) : (m.lineRead line).2.Spoken := by
  unfold Ilpiac.lineRead
  split
  · exact h
  · exact h.wakeStack.cwRead

theorem Ilpiac.Spoken.writeAt {line : Nat} (h : m.Spoken) : (m.writeAt line).2.Spoken := by
  unfold Ilpiac.writeAt
  dsimp only
  split
  · exact h
  · split
    · exact h.copyUnit
    · exact h.copyUnit.wakeStack

theorem Ilpiac.Spoken.lineWrite {line : Nat} {full need : Bool} {f : List Byte → List Byte} (h : m.Spoken) : (m.lineWrite line full need f).2.Spoken := by
  unfold Ilpiac.lineWrite
  split
  · exact h.writeAt.of_snd ‹_›
  · split
    · exact h.writeAt.of_snd ‹_› |>.cwWrite
    · split
      · exact h.writeAt.of_snd ‹_› |>.cwRead.of_snd ‹_› |>.cwWrite
      · split
        · exact h.writeAt.of_snd ‹_› |>.cwRead.of_snd ‹_› |>.cwWrite
        · exact h.writeAt.of_snd ‹_› |>.cwRead.of_snd ‹_›

theorem Ilpiac.Spoken.setLines {l : List CacheLine} (h : m.Spoken) : (m.setLines l).Spoken := h.beside
theorem Ilpiac.Spoken.dropLine {line : Nat} (h : m.Spoken) : (m.dropLine line).Spoken := h.setLines
theorem Ilpiac.Spoken.writeBack {c : CacheLine} (h : m.Spoken) : (m.writeBack c).Spoken := ite h.lineWrite h

theorem Ilpiac.Spoken.evictLine {line : Nat} (h : m.Spoken) : (m.evictLine line).Spoken := by
  unfold Ilpiac.evictLine
  split
  · exact h
  · exact h.dropLine.writeBack

theorem Ilpiac.Spoken.allocate {line : Nat} {d : List Byte} {modified keep : Bool} (h : m.Spoken) : (m.allocate line d modified keep).Spoken := by
  unfold Ilpiac.allocate
  dsimp only
  refine setLines ?_
  split
  · exact h.evictLine
  · exact h

theorem Ilpiac.Spoken.touch {c : CacheLine} (h : m.Spoken) : (m.touch c).Spoken := h.dropLine.setLines

theorem Ilpiac.Spoken.writeLine {line off : Nat} {d : List Byte} {hint : Nat} {through : Bool} (h : m.Spoken) :
    (m.writeLine line off d hint through).2.Spoken := by
  unfold Ilpiac.writeLine
  extract_lets +onlyGivenNames full put
  have hm := h.gcnt (f := F.CACHE_COUNTS_MISSES) (k := 1) (j := 0)
  generalize m.gcnt F.CACHE_COUNTS_MISSES 1 = m2 at hm ⊢
  have hr := hm.lineRead (line := line)
  split
  · exact h.lineWrite
  · cases m.cached line with
    | some c =>
      dsimp only
      split
      · exact h.gcnt.dropLine.lineWrite.mk_snd
      · split
        · exact ite h.gcnt.lineWrite.touch h.gcnt.lineWrite.dropLine
        · exact h.gcnt.touch
    | none =>
      dsimp only
      generalize m2.lineRead line = r at hr ⊢
      split
      · split
        · exact hm.lineWrite.allocate
        · exact hm.lineWrite
      · split
        · exact hm
        · split
          · exact hm.allocate
          · obtain ⟨_ | d, m'⟩ := r
            · exact hr
            · exact hr.allocate

theorem Ilpiac.Spoken.flushCache (h : m.Spoken) : m.flushCache.Spoken := h.over (fun _ _ h => h.writeBack) |>.setLines

theorem Ilpiac.Spoken.adder {op a : Nat} {coef : Byte} {src : List Byte} (h : m.Spoken) : (m.adder op a coef src).2.2.Spoken := by
  unfold Ilpiac.adder
  dsimp only
  split
  · split
    · exact h.evictLine.lineRead.of_snd ‹_›
    · exact h.evictLine.lineRead.of_snd ‹_›
  · split
    · exact h.evictLine.lineWrite
    · exact h.evictLine.lineWrite

/-! ### Pools of HBM -/

theorem Ilpiac.Spoken.poolStat {i : Nat} (h : m.Spoken) : (m.poolStat i).Spoken := by
  unfold Ilpiac.poolStat
  split
  · exact h
  · exact ite h.gw.gw h.gw

theorem Ilpiac.Spoken.pool0Stat (h : m.Spoken) : m.pool0Stat.Spoken := ite h.gw.gw h.gw
theorem Ilpiac.Spoken.poolRefuse {i : Nat} (h : m.Spoken) : (m.poolRefuse i).Spoken := h.gcnt

theorem Ilpiac.Spoken.poolTakeHere {i a : Nat} (h : m.Spoken) (e : m.poolTakeHere i = some (a, m')) : m'.Spoken := by
  unfold Ilpiac.poolTakeHere at e
  split at e
  · cases e
  · split at e
    · cases e
    · cases e
      exact h.beside.poolStat

theorem Ilpiac.Spoken.poolTake {i : Nat} (h : m.Spoken) : (m.poolTake i).2.Spoken := by
  unfold Ilpiac.poolTake
  split
  · exact h.poolRefuse
  · split
    · exact h.poolTakeHere ‹_›
    · split
      · exact h.poolTakeHere ‹_›
      · exact h.poolRefuse

theorem Ilpiac.Spoken.spillTake (h : m.Spoken) : m.spillTake.2.Spoken := by
  unfold Ilpiac.spillTake
  dsimp only
  split
  · exact h
  · split
    · exact h.poolRefuse
    · split
      · exact h.poolTakeHere ‹_›
      · exact h.poolRefuse

theorem Ilpiac.Spoken.poolGive {a : Nat} (h : m.Spoken) : (m.poolGive a).Spoken := by
  unfold Ilpiac.poolGive
  split
  · exact h
  · exact h.beside.poolStat

theorem Ilpiac.Spoken.hbmStop (h : m.Spoken) : m.hbmStop.Spoken := h.flushCache.gw

/-! ### The packet buffer and the queues -/

theorem Ilpiac.Spoken.setPort {p : Nat} {x : PortX} (h : m.Spoken) : (m.setPort p x).Spoken := h.beside
theorem Ilpiac.Spoken.setCls {p c : Nat} {x : ClassX} (h : m.Spoken) : (m.setCls p c x).Spoken := h.setPort
theorem Ilpiac.Spoken.setQueue {k : Nat} {l : List QEnt} (h : m.Spoken) : (m.setQueue k l).Spoken := h.beside
theorem Ilpiac.Spoken.qw {k : Nat} {f : Fld} {v : Nat} (h : m.Spoken) : (m.qw k f v).Spoken := h.wr
theorem Ilpiac.Spoken.setPortState {p st : Nat} (h : m.Spoken) : (m.setPortState p st).Spoken := ite h h.pw.gw.event
theorem Ilpiac.Spoken.sieveLevel (h : m.Spoken) : m.sieveLevel.Spoken := ite h.event h

theorem Ilpiac.Spoken.capture {ev port : Nat} {p : Packet} (h : m.Spoken) : (m.capture ev port p).Spoken := by
  unfold Ilpiac.capture
  split
  · exact h
  · split
    · exact h.beside
    · dsimp only
      split
      · exact h.beside.gcnt
      · split
        · exact h.beside.gcnt.windowRefusal
        · exact h.beside.boardWrite.gw.gcnt.sieveLevel

theorem Ilpiac.Spoken.recount (h : m.Spoken) : m.recount.Spoken := h.gw

theorem Ilpiac.Spoken.areaTake {a : Area} {tc n : Nat} (h : m.Spoken) : (m.areaTake a tc n).Spoken := by
  unfold Ilpiac.areaTake
  split
  · exact h.beside
  · exact h.gw
  · exact h.gw
  · exact h.gw.recount
  · exact h
  · exact h

theorem Ilpiac.Spoken.areaGive {a : Area} {tc n : Nat} (h : m.Spoken) : (m.areaGive a tc n).Spoken := by
  unfold Ilpiac.areaGive
  split
  · exact h.beside
  · exact h.gw
  · exact h.gw
  · exact h.gw.recount
  · exact h
  · exact h

theorem Ilpiac.Spoken.setBuf {id : Nat} {f : BufPkt → BufPkt} (h : m.Spoken) : (m.setBuf id f).Spoken := h.beside

theorem Ilpiac.Spoken.store {p : Packet} {a : Area} {ingress : Nat} {held : Bool} {land : Option (Nat × Nat)} {hose : Option Nat} {crcBad : Bool} (h : m.Spoken) :
    (m.store p a ingress held land hose crcBad).2.Spoken := h.areaTake.beside

theorem Ilpiac.Spoken.landFree {b : BufPkt} (h : m.Spoken) : (m.landFree b).Spoken := by
  unfold Ilpiac.landFree
  split
  · exact h
  · exact h.setCls

theorem Ilpiac.Spoken.reap {id : Nat} (h : m.Spoken) : (m.reap id).Spoken := by
  unfold Ilpiac.reap
  split
  · exact h
  · exact ite h.beside.landFree.areaGive h

theorem Ilpiac.Spoken.unhold {id : Nat} (h : m.Spoken) : (m.unhold id).Spoken := h.setBuf.reap
theorem Ilpiac.Spoken.unref {id : Nat} (h : m.Spoken) : (m.unref id).Spoken := h.setBuf.reap
theorem Ilpiac.Spoken.wake {p : Nat} {before : List Nat} (h : m.Spoken) : (m.wake p before).Spoken := h.over (fun _ _ h => h.qw) |>.over fun _ _ h => h.setCls
theorem Ilpiac.Spoken.waking {p : Nat} {f : Ilpiac → Ilpiac} (h : m.Spoken) (hf : ∀ m, m.Spoken → (f m).Spoken) : (m.waking p f).Spoken := (hf m h).wake
theorem Ilpiac.Spoken.qstat {k : Nat} (h : m.Spoken) : (m.qstat k).Spoken := h.qw.qw.qw.qw.qw.qw

theorem Ilpiac.Spoken.enqAt {port q id : Nat} (h : m.Spoken) : (m.enqAt port q id).Spoken := by
  unfold Ilpiac.enqAt
  split
  · exact h
  · split
    · exact (ite h.capture h).reap
    · exact h.waking fun _ h => h.setBuf.setQueue.beside.qstat

theorem Ilpiac.Spoken.enq {port id : Nat} (h : m.Spoken) : (m.enq port id).Spoken := by
  unfold Ilpiac.enq
  split
  · exact h
  · exact h.enqAt

theorem Ilpiac.Spoken.dropFrom {k : Nat} {p : QEnt → Bool} {ev : Option Nat} (h : m.Spoken) : (m.dropFrom k p ev).Spoken := by
  unfold Ilpiac.dropFrom
  refine ifElse (h.setQueue.over fun _ _ h => ?_) fun h => h.qstat
  split
  · exact h
  · refine unref ?_
    split
    · exact h.capture
    · exact h

theorem Ilpiac.Spoken.emit {port : Nat} {p : Packet} {a : Area} {ingress : Nat} (h : m.Spoken) : (m.emit port p a ingress).Spoken := ite h h.store.enq.reap

theorem Ilpiac.Spoken.sharedRoom {c n : Nat} (h : m.Spoken) (e : m.sharedRoom c n = some m') : m'.Spoken := by
  unfold Ilpiac.sharedRoom at e
  split at e
  · cases e
    exact h
  · dsimp only at e
    split at e
    · cases e
    · cases e
      exact h.over fun _ _ h => h.dropFrom.gcnt

theorem Ilpiac.Spoken.emitShared {port : Nat} {p : Packet} (h : m.Spoken) : (m.emitShared port p).Spoken := by
  unfold Ilpiac.emitShared
  split
  · exact h
  · exact h.sharedRoom ‹_› |>.store.enq.reap

theorem Ilpiac.Spoken.stompTx {p : Nat} (h : m.Spoken) : (m.stompTx p).Spoken := by
  unfold Ilpiac.stompTx
  split
  · exact h
  · exact h.setPort

theorem Ilpiac.Spoken.fenceQueues {p : Nat} (h : m.Spoken) : (m.fenceQueues p).Spoken := by
  unfold Ilpiac.fenceQueues
  dsimp only
  split
  · exact h.pw.over (fun _ _ h => h.dropFrom) |>.ifElse fun h => h.stompTx
  · exact h.pw.over fun _ _ h => h.dropFrom

theorem Ilpiac.Spoken.flushPort {p : Nat} (h : m.Spoken) : (m.flushPort p).Spoken := by
  unfold Ilpiac.flushPort
  dsimp only
  split
  · refine h.over (fun _ _ h => ?_) |>.over (fun _ _ h => h.dropFrom) |>.setPort.unref
    split
    · exact h
    · split
      · exact h.cnt
      · exact h.pcnt
  · refine h.over (fun _ _ h => ?_) |>.over fun _ _ h => h.dropFrom
    split
    · exact h
    · split
      · exact h.cnt
      · exact h.pcnt

theorem Ilpiac.Spoken.setMask {bed mask : Nat} (h : m.Spoken) : (m.setMask bed mask).Spoken := ite h (h.over (fun _ _ h => h.gw)).gw.gw

theorem Ilpiac.Spoken.datagram {id : Nat} (h : m.Spoken) : (m.datagram id).Spoken := by
  unfold Ilpiac.datagram
  split
  · exact h
  · split
    · exact h.enq
    · exact h.gcnt

/-! ### Datagrams and hoses -/

theorem Ilpiac.Spoken.sendDatagram {p : Packet} {a : Area} (h : m.Spoken) : (m.sendDatagram p a).Spoken := ite h h.store.datagram.reap
theorem Ilpiac.Spoken.sendOn {k : Nat} {p : Packet} (h : m.Spoken) : (m.sendOn k p).Spoken := h.emit
theorem Ilpiac.Spoken.setHx {x1 : Nat} {x : HoseX} (h : m.Spoken) : (m.setHx x1 x).Spoken := h.beside
theorem Ilpiac.Spoken.hw {x1 : Nat} {f : Fld} {v : Nat} (h : m.Spoken) : (m.hw x1 f v).Spoken := h.wr
theorem Ilpiac.Spoken.countHoses (h : m.Spoken) : m.countHoses.Spoken := h.gw
theorem Ilpiac.Spoken.freeHoseEntry {x1 : Nat} (h : m.Spoken) : (m.freeHoseEntry x1).Spoken := h.beside.setReg.setReg.setReg.setHx.countHoses.recount

theorem Ilpiac.Spoken.hoseForward {x1 : Nat} {p : Packet} {ingress : Nat} {crcBad : Bool} (h : m.Spoken) : (m.hoseForward x1 p ingress crcBad).Spoken :=
  ite h.cnt h.store.enqAt.reap.wrapCnt

theorem Ilpiac.Spoken.hoseInject {x1 : Nat} {p : Packet} (h : m.Spoken) : (m.hoseInject x1 p).Spoken := h.hw.hoseForward

theorem Ilpiac.Spoken.hosePump {x n : Nat} (h : m.Spoken) : (m.hosePump x n).Spoken := by
  induction n generalizing m with
  | zero => exact h
  | succ n ih =>
    unfold Ilpiac.hosePump
    split
    · exact h
    · split
      · exact ih h.setHx.hoseInject
      · exact h

theorem Ilpiac.Spoken.pumpHose {x1 : Nat} (h : m.Spoken) : (m.pumpHose x1).Spoken := h.hosePump

theorem Ilpiac.Spoken.hoseSpill {x1 : Nat} (h : m.Spoken) : (m.hoseSpill x1).Spoken := by
  unfold Ilpiac.hoseSpill
  dsimp only
  refine h.setHx.over fun _ _ h => ?_
  split
  · exact h.datagram
  · exact h.sendDatagram

theorem Ilpiac.Spoken.sendTrunk {p : Packet} {buf : Option Nat} {a : Area} (h : m.Spoken) : (m.sendTrunk p buf a).Spoken := by
  unfold Ilpiac.sendTrunk
  split
  · exact h.setHx.pumpHose
  · split
    · exact h.datagram
    · exact h.sendDatagram

theorem Ilpiac.Spoken.newSetup {x1 : Nat} (h : m.Spoken) : (m.newSetup x1).2.Spoken := h.beside
theorem Ilpiac.Spoken.startSetup {x1 : Nat} (h : m.Spoken) : (m.startSetup x1).Spoken := h.newSetup.setHx.sendOn

theorem Ilpiac.Spoken.hoseDone {desc : Option (Nat × Nat)} {status : Nat} (h : m.Spoken) : (m.hoseDone desc status).Spoken := by
  unfold Ilpiac.hoseDone
  split
  · exact h
  · split
    · exact h.done
    · exact h

theorem Ilpiac.Spoken.setupFailed {x1 status : Nat} (h : m.Spoken) : (m.setupFailed x1 status).Spoken := ite h.hw.hoseSpill h.hoseSpill.freeHoseEntry.hoseDone

theorem Ilpiac.Spoken.reroute {x : Nat} (h : m.Spoken) : (m.reroute x).Spoken := by
  obtain ⟨newPath, hpath⟩ : ∃ f, f = @Ilpiac.newPath := ⟨_, rfl⟩
  generalize hf : @Ilpiac.reroute = f
  delta Ilpiac.reroute at hf
  subst hf
  rw [← hpath]
  dsimp only
  split
  · exact h.hw.gcnt.cnt.setHx.hoseForward.setupFailed
  · exact h.hw.gcnt.cnt.setHx.hoseForward.setupFailed
  · exact h.hw.gcnt.cnt.setHx.hoseForward.hw.hw.hw.setReg.startSetup

theorem Ilpiac.Spoken.checkHoses (h : m.Spoken) : m.checkHoses.Spoken := ite (h.over (fun _ _ h => ite h.reroute h)) h
theorem Ilpiac.Spoken.ownTrunks (h : m.Spoken) : m.ownTrunks.Spoken := h.setMask.checkHoses

/-! ### Twins -/

theorem Ilpiac.Spoken.diverge {key : List Word} {own partner : Nat} (h : m.Spoken) : (m.diverge key own partner).Spoken :=
  ite h h.gw.gw.gw.gw.gw.gw.gw.gw.gw.raise

theorem Ilpiac.Spoken.compareTwin {key : List Word} {own partner : Nat} (h : m.Spoken) : (m.compareTwin key own partner).Spoken := ite h.gw h.gw.diverge

theorem Ilpiac.Spoken.twinOwn {ty : Nat} {hs : List Nat} {body : List Byte} (h : m.Spoken) : (m.twinOwn ty hs body).Spoken := by
  unfold Ilpiac.twinOwn
  split
  · exact h
  · dsimp only
    split
    · exact h.beside.compareTwin
    · exact h.beside

/-! ### Copies that are retained, and transfers -/

theorem Ilpiac.Spoken.updComm {id : Nat} {f : Comm → Comm} (h : m.Spoken) : (m.updComm id f).Spoken := h.beside
theorem Ilpiac.Spoken.updColl {k : CollId} {f : Coll → Coll} (h : m.Spoken) : (m.updColl k f).Spoken := h.beside
theorem Ilpiac.Spoken.updCtx {x : CtxId} {f : Ctx → Ctx} (h : m.Spoken) : (m.updCtx x f).Spoken := h.beside
theorem Ilpiac.Spoken.count {comm : Nat} {f : CommCounts → CommCounts} (h : m.Spoken) : (m.count comm f).Spoken := h.updComm
theorem Ilpiac.Spoken.setInfo {k : CollId} {b : Nat} (h : m.Spoken) : (m.setInfo k b).Spoken := h.updColl

theorem Ilpiac.Spoken.dstOf {dests : List Nat} (h : m.Spoken) : (m.dstOf dests).2.Spoken := by
  unfold Ilpiac.dstOf
  split
  · exact h
  · exact h.draw

theorem Ilpiac.Spoken.retainSweep (h : m.Spoken) : m.retainSweep.Spoken := h.beside.over fun _ _ h => h.unhold

theorem Ilpiac.Spoken.retainCopy {k : CollId} {part expert index : Nat} {p : Packet} {dests : List Nat} (h : m.Spoken) :
    (m.retainCopy k part expert index p dests).Spoken := h.store.beside.over (fun _ _ h => h.enq) |>.retainSweep

theorem Ilpiac.Spoken.relayTo {relay plane : Nat} {p : Packet} (h : m.Spoken) : (m.relayTo relay plane p).Spoken := h.emitShared

theorem Ilpiac.Spoken.sendCopy {t : TrunkCopy} (h : m.Spoken) : (m.sendCopy t).Spoken := by
  unfold Ilpiac.sendCopy
  dsimp only
  split
  · exact ite (ite h.setInfo h).sendTrunk (ite h.setInfo h).relayTo
  · exact ite h.sendTrunk h.relayTo

theorem Ilpiac.Spoken.startCopy {t : TrunkCopy} (h : m.Spoken) (e : m.startCopy t = some m') : m'.Spoken := by
  unfold Ilpiac.startCopy at e
  split at e
  · cases e
    exact h.store.beside.sendCopy
  · cases e

theorem Ilpiac.Spoken.drainTrunk {n : Nat} (h : m.Spoken) : (m.drainTrunk n).Spoken := by
  induction n generalizing m with
  | zero => exact h
  | succ n ih =>
    unfold Ilpiac.drainTrunk
    split
    · exact h
    · split
      · exact h
      · exact ih (h.startCopy ‹_›).beside

theorem Ilpiac.Spoken.transfer {p : Packet} {bed plane : Nat} {k : Option CollId} {group : Option Nat} {writer : Option CollId} (h : m.Spoken) :
    (m.transfer p bed plane k group writer).Spoken := h.beside.drainTrunk

theorem Ilpiac.Spoken.transferColl {k : CollId} {ty bed : Nat} {hs : List Nat} {body : List Byte} (h : m.Spoken) :
    (m.transferColl k ty bed hs body).Spoken := h.transfer

theorem Ilpiac.Spoken.releaseCopy {id : Nat} (h : m.Spoken) : (m.releaseCopy id).Spoken := h.beside.unhold

/-! ### Collectives that fail -/

theorem Ilpiac.Spoken.unqueue {k : CollId} (h : m.Spoken) : (m.unqueue k).Spoken := h.beside

theorem Ilpiac.Spoken.failColl {k : CollId} {status : Nat} {fault : Option (Nat × Nat)} (h : m.Spoken) : (m.failColl k status fault).Spoken := by
  unfold Ilpiac.failColl
  split
  · exact h
  · exact ite h h.updColl.unqueue

theorem Ilpiac.Spoken.dropDest {addr : Nat} {p : Retained → Bool} (h : m.Spoken) : (m.dropDest addr p).Spoken := h.beside.retainSweep

theorem Ilpiac.Spoken.undeliver {k : CollId} {addr status : Nat} (h : m.Spoken) : (m.undeliver k addr status).Spoken := by
  unfold Ilpiac.undeliver
  split
  · exact h
  · exact ite h.updColl.dropDest h

theorem Ilpiac.Spoken.memberLost {k : CollId} {addr status : Nat} (h : m.Spoken) : (m.memberLost k addr status).Spoken := by
  unfold Ilpiac.memberLost
  split
  · exact h
  · exact ite h.undeliver h.failColl

/-! ### Writes into shards -/

theorem Ilpiac.Spoken.updGroup {id : Nat} {f : Group → Group} (h : m.Spoken) : (m.updGroup id f).Spoken := h.beside

theorem Ilpiac.Spoken.clocheSend {g : Group} {ty : Nat} {dest : Nat × Nat} {hs : List Nat} {body : List Byte} {by_ : Option CollId} (h : m.Spoken) :
    (m.clocheSend g ty dest hs body by_).Spoken := h.transfer

theorem Ilpiac.Spoken.sendDelta {g : Group} {pos j off : Nat} {keeper : Option (Nat × Nat)} {missing : Bool} {d : List Byte} {by_ : Option CollId} (h : m.Spoken) :
    (m.sendDelta g pos j off keeper missing d by_).Spoken := by
  unfold Ilpiac.sendDelta
  split
  · exact h
  · exact ite h h.updGroup.clocheSend

theorem Ilpiac.Spoken.formDelta {gid o : Nat} {old new : List Byte} {by_ : Option CollId} (h : m.Spoken) : (m.formDelta gid o old new by_).Spoken := by
  unfold Ilpiac.formDelta
  dsimp only
  split
  · exact h
  · split
    · exact h
    · exact ite h (ite h.sendDelta.sendDelta h.sendDelta)

theorem Ilpiac.Spoken.loseStripe {gid s : Nat} (h : m.Spoken) : (m.loseStripe gid s).Spoken := h.updGroup

theorem Ilpiac.Spoken.setStamp {gid v : Nat} (h : m.Spoken) : (m.setStamp gid v).Spoken := by
  unfold Ilpiac.setStamp
  split
  · exact h
  · split
    · exact h
    · exact ite h (h.updGroup.over (fun _ _ h => h.clocheSend))

theorem Ilpiac.Spoken.afterWrite {sh : Option (Group × Nat)} {w : Wrote} {by_ : Option CollId} (h : m.Spoken) : (m.afterWrite sh w by_).Spoken := by
  unfold Ilpiac.afterWrite
  split
  · exact h
  · split
    · exact h
    · dsimp only
      refine setStamp ?_
      split
      · exact h.formDelta
      · exact h.loseStripe

theorem Ilpiac.Spoken.memWrite {a : Nat} {d : List Byte} {hint : Nat} {by_ : Option CollId} (h : m.Spoken) :
    (m.memWrite a d hint by_).2.Spoken := h.foldl_snd (p := (true, m)) fun _ _ h => h.writeLine.afterWrite

theorem Ilpiac.Spoken.memAdd {op a : Nat} {coef : Byte} {src : List Byte} (h : m.Spoken) : (m.memAdd op a coef src).2.Spoken := by
  unfold Ilpiac.memAdd
  dsimp only
  split
  · exact h.adder
  · exact h.adder.afterWrite

/-! ### Routing, quotas and furrows -/

theorem Ilpiac.Spoken.stampShards {comm v : Nat} (h : m.Spoken) : (m.stampShards comm v).Spoken := h.over fun _ _ h => h.setStamp
theorem Ilpiac.Spoken.updRouting {k : CollId} {seq : Nat} {f : Routing → Routing} (h : m.Spoken) : (m.updRouting k seq f).Spoken := h.updComm

theorem Ilpiac.Spoken.quotaFlow (h : m.Spoken) : m.quotaFlow.Spoken := by
  unfold Ilpiac.quotaFlow
  dsimp only
  refine h.over (fun _ _ h => ?_) |>.over fun _ _ h => ?_
  · split
    · exact h
    · exact ite h h.updComm
  · split
    · exact h
    · split
      · exact h
      · exact h.updComm

theorem Ilpiac.Spoken.rmStat (h : m.Spoken) : m.rmStat.Spoken := h.pool0Stat.gw.gw.gw
theorem Ilpiac.Spoken.setFx {f : Nat} {x : FurrowX} (h : m.Spoken) : (m.setFx f x).Spoken := h.beside
theorem Ilpiac.Spoken.furrowCount {f : Nat} (h : m.Spoken) : (m.furrowCount f).Spoken := h.wr

theorem Ilpiac.Spoken.issue {x : CtxId} (h : m.Spoken) : (m.issue x).Spoken := by
  unfold Ilpiac.issue
  split
  · exact h
  · exact ite h h.setFx

theorem Ilpiac.Spoken.unissue {x : CtxId} (h : m.Spoken) : (m.unissue x).Spoken := by
  unfold Ilpiac.unissue
  split
  · exact h
  · exact h.setFx

theorem Ilpiac.Spoken.moveContexts {f : Nat} (h : m.Spoken) : (m.moveContexts f).Spoken := by
  unfold Ilpiac.moveContexts
  dsimp only
  split
  · refine h.over (fun _ _ h => ?_) |>.furrowCount.setFx
    split
    · exact h
    · split
      · exact h.unissue.updCtx.furrowCount.ifElse fun h => h.issue
      · exact h.unissue.updCtx.furrowCount
  · refine h.over (fun _ _ h => ?_) |>.furrowCount
    split
    · exact h
    · split
      · exact h.unissue.updCtx.furrowCount.ifElse fun h => h.issue
      · exact h.unissue.updCtx.furrowCount

theorem Ilpiac.Spoken.freeContrib {b : Contrib} (h : m.Spoken) : (m.freeContrib b).Spoken := h.unhold

/-! ### Results -/

theorem Ilpiac.Spoken.noteRun {x : CtxId} {sats : Nat} {nf : Bool} (h : m.Spoken) : (m.noteRun x sats nf).Spoken := by
  unfold Ilpiac.noteRun
  dsimp only
  split
  · exact (ite h.updCtx.updColl h.updCtx.updColl.setInfo).setInfo
  · exact ite h.updCtx.updColl h.updCtx.updColl.setInfo

theorem Ilpiac.Spoken.noteSide {k : CollId} {pos : Nat} {vals : List F32} (h : m.Spoken) : (m.noteSide k pos vals).Spoken := h.updColl
theorem Ilpiac.Spoken.noteSideVals {k : CollId} {key : Nat} {vals : List F32} (h : m.Spoken) : (m.noteSideVals k key vals).Spoken := h.updColl

theorem Ilpiac.Spoken.giveLocal {k : CollId} {r : ResChunk} {dests : List Nat} (h : m.Spoken) (e : m.giveLocal k r dests = some m') : m'.Spoken := by
  unfold Ilpiac.giveLocal at e
  split at e
  · cases e
    exact h
  · dsimp only at e
    split at e
    · cases e
      exact h
    · split at e
      · cases e
        exact h.dstOf.retainCopy
      · cases e

theorem Ilpiac.Spoken.sendResult {k : CollId} {r : ResChunk} {dests : List Nat} (h : m.Spoken) (e : m.sendResult k r dests = some m') : m'.Spoken := by
  unfold Ilpiac.sendResult at e
  dsimp only at e
  split at e
  · cases e
  · cases e
    exact h.giveLocal ‹_› |>.over fun _ _ h => h.transferColl

theorem Ilpiac.Spoken.deliver {k : CollId} {r : ResChunk} {dests : List Nat} (h : m.Spoken) : (m.deliver k r dests).Spoken := by
  unfold Ilpiac.deliver
  extract_lets +onlyGivenNames m1 hs m2 m3
  have h3 : m3.Spoken := h.updColl.ifThen (fun h => h.twinOwn) |>.ifThen fun h => h.twinOwn
  clear_value m3
  split
  · exact h3
  · dsimp only
    split
    · exact h3.beside
    · split
      · exact h3.sendResult ‹_›
      · exact h3.beside

theorem Ilpiac.Spoken.drainHeld (h : m.Spoken) : m.drainHeld.Spoken := by
  unfold Ilpiac.drainHeld
  refine h.over fun _ _ h => ?_
  split
  · exact h.beside
  · split
    · exact h
    · split
      · exact h.sendResult ‹_› |>.beside
      · exact h

theorem Ilpiac.Spoken.emitChunks {x : CtxId} (h : m.Spoken) : (m.emitChunks x).Spoken := by
  unfold Ilpiac.emitChunks
  split
  · dsimp only
    refine h.over fun _ _ h => ?_
    split
    · exact h
    · split
      · exact h
      · split
        · exact h
        · exact h.updCtx.noteRun.deliver
  · exact h

theorem Ilpiac.Spoken.emitTokens {x : CtxId} (h : m.Spoken) : (m.emitTokens x).Spoken := by
  unfold Ilpiac.emitTokens
  split
  · split
    · exact h
    · exact h.over fun _ _ h => ite h h.updColl.noteRun.deliver
  · exact h

/-! ### The reduction tree -/

theorem Ilpiac.Spoken.residualFor {comm tensor k node col : Nat} {r : Residual} (h : m.Spoken) (e : m.residualFor comm tensor k node col = some (r, m')) :
    m'.Spoken := by
  unfold Ilpiac.residualFor at e
  have hp := h.poolTake (i := 2)
  generalize m.poolTake 2 = p at hp e
  split at e
  · cases e
    exact h
  · obtain ⟨_ | a, m1⟩ := p
    · cases e
    · dsimp only at e
      have hw := hp.memWrite (a := a) (d := List.replicate 4096 0) (hint := hintNormal) (by_ := none)
      generalize m1.memWrite a (List.replicate 4096 0) hintNormal = w at hw e
      split at e
      · cases e
        exact hw.updComm
      · cases e

theorem Ilpiac.Spoken.addResidual {a : Nat} {v : List F32} (h : m.Spoken) : (m.addResidual a v).2.Spoken := by
  unfold Ilpiac.addResidual
  refine foldl_snd h fun acc i h => ?_
  dsimp only
  split
  · exact h.memAdd
  · exact h.memAdd

theorem Ilpiac.Spoken.columnBody {x : CtxId} {x2 q : Nat} {v : List F32} (h : m.Spoken) : (m.columnBody x x2 q v).2.Spoken := by
  unfold Ilpiac.columnBody
  split
  · exact h
  · split
    · exact h
    · dsimp only
      split
      · exact h
      · split
        · exact h
        · split
          · exact h.residualFor ‹_› |>.addResidual.of_snd ‹_›
          · split
            · exact h.residualFor ‹_› |>.addResidual.of_snd ‹_› |>.memWrite.updComm
            · exact h.residualFor ‹_› |>.addResidual.of_snd ‹_› |>.memWrite.updComm

theorem Ilpiac.Spoken.dropSpills {x : CtxId} (h : m.Spoken) : (m.dropSpills x).Spoken := by
  unfold Ilpiac.dropSpills
  split
  · exact h
  · exact h.over fun _ _ h => h.poolGive

theorem Ilpiac.Spoken.restart {x : CtxId} (h : m.Spoken) : (m.restart x).Spoken := h.dropSpills.unissue.updCtx.gcnt

theorem Ilpiac.Spoken.hold {x : CtxId} {L j : Nat} {v : List F32} (h : m.Spoken) : (m.hold x L j v).Spoken := by
  unfold Ilpiac.hold
  split
  · exact h
  · dsimp only
    split
    · exact h.updCtx
    · split
      · exact h.spillTake.of_snd ‹_› |>.restart
      · split
        · exact h.spillTake.of_snd ‹_› |>.memWrite.updCtx.gcnt.setInfo
        · exact h.spillTake.of_snd ‹_› |>.memWrite.poolGive.restart

theorem Ilpiac.Spoken.resultColumn {x : CtxId} {q : Nat} {v : List F32} (h : m.Spoken) : (m.resultColumn x q v).Spoken := by
  unfold Ilpiac.resultColumn
  split
  · exact h
  · extract_lets +onlyGivenNames m1
    have h1 : m1.Spoken := h.updCtx
    clear_value m1
    split
    · exact h1
    · extract_lets +onlyGivenNames whole vals m2 m3
      have h2 : m2.Spoken := by
        refine ite h1 (ite ?_ h1.noteSide)
        split
        · exact h1.noteSideVals
        · exact h1
      have h3 : m3.Spoken := h2.ifThen fun h => h.updColl
      exact ite h3 (ite h3.emitTokens h3.emitChunks)

theorem Ilpiac.Spoken.trunkClimb {x : CtxId} {q : Nat} {v : List F32} {n i : Nat} (h : m.Spoken) : (m.trunkClimb x q v n i).Spoken := by
  induction n generalizing i with
  | zero => exact h.resultColumn
  | succ n ih =>
    unfold Ilpiac.trunkClimb
    split
    · exact h
    · split
      · exact h.resultColumn
      · dsimp only
        split
        · exact ih
        · split
          · exact h
          · split
            · split
              · exact h.columnBody.of_snd ‹_› |>.failColl
              · exact h.columnBody.of_snd ‹_› |>.updCtx.twinOwn.transferColl
            · split
              · exact h.updCtx.updCtx.issue
              · exact h.updCtx

theorem Ilpiac.Spoken.rootDone {x : CtxId} {q : Nat} {v : List F32} (h : m.Spoken) : (m.rootDone x q v).Spoken := by
  unfold Ilpiac.rootDone
  split
  · exact h
  · dsimp only
    split
    · split
      · split
        · exact h.updCtx.over (fun _ _ h => h.freeContrib) |>.trunkClimb
        · exact h.updCtx.over (fun _ _ h => h.freeContrib) |>.resultColumn
      · exact h.updCtx.over (fun _ _ h => h.freeContrib) |>.resultColumn
    · split
      · split
        · exact h.updCtx.over (fun _ _ h => h.freeContrib) |>.trunkClimb
        · exact h.updCtx.over (fun _ _ h => h.freeContrib) |>.resultColumn
      · exact h.updCtx.over (fun _ _ h => h.freeContrib) |>.resultColumn

theorem Ilpiac.Spoken.climb {x : CtxId} {present : List Nat} {d q : Nat} {v : List F32} {n L j : Nat} (h : m.Spoken) :
    (m.climb x present d q v n L j).Spoken := by
  induction n generalizing L j with
  | zero => exact h.rootDone
  | succ n ih =>
    unfold Ilpiac.climb
    split
    · exact h.rootDone
    · dsimp only
      split
      · exact ih
      · split
        · exact h.hold
        · exact ite h.updCtx h.updCtx.issue

theorem Ilpiac.Spoken.enterLeaf {x : CtxId} {c : Coll} {b : Contrib} {q : Nat} (h : m.Spoken) : (m.enterLeaf x c b q).Spoken := h.noteRun.climb

theorem Ilpiac.Spoken.pump {x : CtxId} {n : Nat} (h : m.Spoken) : (m.pump x n).Spoken := by
  induction n generalizing m with
  | zero => exact h
  | succ n ih =>
    unfold Ilpiac.pump
    split
    · split
      · exact h
      · split
        · exact h.updCtx.issue
        · dsimp only
          split
          · exact h
          · split
            · exact ih h.rootDone
            · split
              · split
                · exact h
                · split
                  · exact h
                  · exact ih h.updCtx.enterLeaf
              · split
                · exact h
                · split
                  · exact h
                  · exact ih h.updCtx.enterLeaf
    · exact h

theorem Ilpiac.Spoken.pumpAll {x : CtxId} (h : m.Spoken) : (m.pumpAll x).Spoken := by
  unfold Ilpiac.pumpAll
  split
  · exact h.pump
  · exact h

theorem Ilpiac.Spoken.freeCtx {x : CtxId} (h : m.Spoken) : (m.freeCtx x).Spoken := by
  unfold Ilpiac.freeCtx
  split
  · exact h
  · dsimp only
    refine (quotaFlow ?_).rmStat
    split
    · exact h.dropSpills.unissue.over (fun _ _ h => h.freeContrib) |>.areaGive.beside.furrowCount
    · exact h.dropSpills.unissue.over (fun _ _ h => h.freeContrib) |>.areaGive.beside

theorem Ilpiac.Spoken.sweepCtxs {k : CollId} (h : m.Spoken) : (m.sweepCtxs k).Spoken := by
  unfold Ilpiac.sweepCtxs
  refine h.over fun _ _ h => ?_
  split
  · exact ite h.freeCtx h
  · exact h

/-! ### Dispatch and combine -/

theorem Ilpiac.Spoken.noteAccepted {x : CtxId} (h : m.Spoken) : (m.noteAccepted x).Spoken := by
  unfold Ilpiac.noteAccepted
  split
  · exact ite h.updColl h
  · exact h

theorem Ilpiac.Spoken.sendCounts {k : CollId} (h : m.Spoken) : (m.sendCounts k).Spoken := by
  unfold Ilpiac.sendCounts
  split
  · split
    · exact h
    · exact h.over fun _ _ h => h.over fun _ _ h => ite h h.updColl.transferColl
  · exact h

theorem Ilpiac.Spoken.sendMaps {k : CollId} {cm : Comm} {r : Routing} (h : m.Spoken) : (m.sendMaps k cm r).Spoken :=
  h.over fun _ _ h => ite h (ite h.updRouting (h.over (fun _ _ h => h.transferColl)))

theorem Ilpiac.Spoken.sendMasks {k : CollId} {cm : Comm} {r : Routing} (h : m.Spoken) : (m.sendMasks k cm r).Spoken :=
  h.over fun _ _ h => h.over fun _ _ h => h.deliver

theorem Ilpiac.Spoken.dispatchGo {k : CollId} (h : m.Spoken) : (m.dispatchGo k).Spoken := by
  unfold Ilpiac.dispatchGo
  split
  · split
    · exact h
    · exact ite h (ite h.updColl h.updColl.setInfo.count).sendMaps.sendMasks
  · exact h

theorem Ilpiac.Spoken.sendRowMaps {k : CollId} (h : m.Spoken) : (m.sendRowMaps k).Spoken := by
  unfold Ilpiac.sendRowMaps
  split
  · split
    · exact h
    · split
      · exact h
      · exact h.over fun _ _ h => h.over fun _ _ h => ite h (ite h h.updColl.deliver)
  · exact h

theorem Ilpiac.Spoken.sendToken {k : CollId} {cm : Comm} {c : Coll} {r : Routing} {leaf mi t : Nat} (h : m.Spoken) :
    (m.sendToken k cm c r leaf mi t).Spoken := by
  unfold Ilpiac.sendToken
  split
  · exact h
  · dsimp only
    refine h.updColl.over fun _ _ h => ?_
    split
    · exact h
    · exact h.over (fun _ _ h => h.noteRun) |>.noteSideVals.over fun _ _ h => h.deliver

theorem Ilpiac.Spoken.sendRows {k : CollId} (h : m.Spoken) : (m.sendRows k).Spoken := by
  unfold Ilpiac.sendRows
  split
  · split
    · exact h
    · exact ite h (h.over (fun _ _ h => h.over fun _ _ h => ite h h.sendToken))
  · exact h

theorem Ilpiac.Spoken.dispatchFlow {k : CollId} (h : m.Spoken) : (m.dispatchFlow k).Spoken := by
  unfold Ilpiac.dispatchFlow
  split
  · split
    · exact h
    · exact (ite h.updRouting h).sendCounts.dispatchGo.sendRowMaps.sendRows
  · exact h

theorem Ilpiac.Spoken.combineLeaf {c : Coll} {cm : Comm} {r : Routing} {src token slot seg : Nat} {b : Contrib} (h : m.Spoken)
    (e : m.combineLeaf c cm r src token slot seg b = some m') : m'.Spoken := by
  unfold Ilpiac.combineLeaf at e
  dsimp only at e
  split at e
  · split at e
    · cases e
    · cases e
      exact h.unhold
  · split at e
    · cases e
      exact h.unhold
    · cases e
      exact h.areaGive.updCtx.noteAccepted.pumpAll

theorem Ilpiac.Spoken.forwardRow {c : Coll} {cm : Comm} {r : Routing} {x : CtxId} (h : m.Spoken) : (m.forwardRow c cm r x).Spoken := by
  unfold Ilpiac.forwardRow
  split
  · dsimp only
    refine h.over fun _ _ h => ?_
    split
    · split
      · exact h.combineLeaf ‹_› |>.updCtx
      · exact h
    · exact h.transferColl.updCtx.unhold
  · exact h

theorem Ilpiac.Spoken.combineFlow {k : CollId} (h : m.Spoken) : (m.combineFlow k).Spoken := by
  unfold Ilpiac.combineFlow
  split
  · split
    · exact h
    · exact h.over fun _ _ h => h.forwardRow
  · exact h

theorem Ilpiac.Spoken.markDone {k : CollId} (h : m.Spoken) : (m.markDone k).Spoken := by
  unfold Ilpiac.markDone
  split
  · exact h.over fun _ _ h => ite h.updCtx h
  · exact h

theorem Ilpiac.Spoken.flow {k : CollId} (h : m.Spoken) : (m.flow k).Spoken := by
  unfold Ilpiac.flow
  split
  · exact h
  · split
    · exact h.markDone.sweepCtxs
    · exact (ite h.dispatchFlow (ite h.combineFlow h)).markDone.sweepCtxs

/-! ### Synchronisation -/

theorem Ilpiac.Spoken.setCval {n v : Nat} (h : m.Spoken) : (m.setCval n v).Spoken := h.beside
theorem Ilpiac.Spoken.setWaits {l : List SyncWaitE} (h : m.Spoken) : (m.setWaits l).Spoken := h.beside.gw
theorem Ilpiac.Spoken.syncAnswer {port tc tag result n value : Nat} (h : m.Spoken) : (m.syncAnswer port tc tag result n value).Spoken := h.setPort.emit

theorem Ilpiac.Spoken.endWait {w : SyncWaitE} {final value status result : Nat} (h : m.Spoken) : (m.endWait w final value status result).Spoken := by
  unfold Ilpiac.endWait
  split
  · split
    · exact h.complete
    · exact h
  · exact h.syncAnswer

theorem Ilpiac.Spoken.releaseWaits {n : Nat} (h : m.Spoken) : (m.releaseWaits n).Spoken := h.setCval.setWaits.over fun _ _ h => h.endWait
theorem Ilpiac.Spoken.dropMemberWaits {port : Nat} (h : m.Spoken) : (m.dropMemberWaits port).Spoken := ite h (h.setWaits.over (fun _ _ h => h.releaseWaits))

/-! ### Phase 3 and the ends of collectives -/

theorem Ilpiac.Spoken.sendList {k : CollId} {kind nb : Nat} {l : List VRec} (h : m.Spoken) : (m.sendList k kind nb l).Spoken := ite h h.transferColl

theorem Ilpiac.Spoken.sendPhase3 {k : CollId} (h : m.Spoken) : (m.sendPhase3 k).Spoken := by
  unfold Ilpiac.sendPhase3
  split
  · exact h.over fun _ _ h => ite h h.updColl.sendList
  · exact h

theorem Ilpiac.Spoken.phase3 {k : CollId} (h : m.Spoken) : (m.phase3 k).Spoken := by
  unfold Ilpiac.phase3
  split
  · split
    · exact h
    · dsimp only
      split
      · exact (ite h h.updColl).sendPhase3
      · split
        · exact (ite h h.updColl).sendPhase3
        · exact (ite h h.updColl).sendPhase3.updColl.beside
  · exact h

theorem Ilpiac.Spoken.freeCtxs {k : CollId} (h : m.Spoken) : (m.freeCtxs k).Spoken := h.over fun _ _ h => h.freeCtx

theorem Ilpiac.Spoken.flipResidual {k : CollId} {r : Residual} (h : m.Spoken) : (m.flipResidual k r).Spoken := by
  unfold Ilpiac.flipResidual
  split
  · exact h
  · exact (ite h h.memWrite).updComm

theorem Ilpiac.Spoken.flipResiduals {k : CollId} {ok : Bool} (h : m.Spoken) : (m.flipResiduals k ok).Spoken :=
  ite (h.over (fun _ _ h => h.flipResidual)) h.updComm

theorem Ilpiac.Spoken.endColl {k : CollId} {st info : Nat} {fault : Option (Nat × Nat)} (h : m.Spoken) : (m.endColl k st info fault).Spoken := by
  unfold Ilpiac.endColl
  split
  · exact h
  · dsimp only
    refine drainHeld (rmStat (ite ?_ (freeCtxs (beside ?_))))
    · exact h.updColl.unqueue.count.flipResiduals.ifThen (fun h => h.stampShards) |>.ifThen fun h => h.updRouting
    · exact h.updColl.unqueue.count.flipResiduals.ifThen (fun h => h.updComm) |>.ifThen fun h => h.updComm

theorem Ilpiac.Spoken.collStep {k : CollId} (h : m.Spoken) : (m.collStep k).Spoken := h.flow.phase3.flow
theorem Ilpiac.Spoken.collAll (h : m.Spoken) : m.collAll.Spoken := h.over fun _ _ h => h.collStep

theorem Ilpiac.Spoken.closeColl {k : CollId} (h : m.Spoken) : (m.closeColl k).Spoken := by
  unfold Ilpiac.closeColl
  split
  · exact h
  · exact ite h.freeCtxs.beside.updComm h.freeCtxs.beside

theorem Ilpiac.Spoken.recordColl {c : Coll} (h : m.Spoken) : (m.recordColl c).Spoken := ite h.closeColl h.complete

theorem Ilpiac.Spoken.fenceMember {port : Nat} (h : m.Spoken) : (m.fenceMember port).Spoken :=
  ite h (h.fenceQueues.dropMemberWaits.over (fun _ _ h => h.memberLost)).dropDest

theorem Ilpiac.Spoken.abortColl {k : CollId} (h : m.Spoken) : (m.abortColl k).Spoken := by
  unfold Ilpiac.abortColl
  split
  · exact h
  · extract_lets +onlyGivenNames m1 _coll m2 gone m3 ret _coll m4 m5 m6 _trellis m7
    have h1 : m1.Spoken := ite (h.over fun _ _ h => h.undeliver) h.endColl
    clear_value m1
    have h7 : m7.Spoken := h1.beside.over (fun _ _ h => h.releaseCopy) |>.beside.over (fun _ _ h => h.unhold) |>.freeCtxs.beside
    clear_value m7
    refine ite h7 ?_
    split
    · exact h7.recordColl
    · exact h7

theorem Ilpiac.Spoken.dropComm {cm : Comm} (h : m.Spoken) : (m.dropComm cm).Spoken := by
  unfold Ilpiac.dropComm
  dsimp only
  refine (Spoken.over ?_ (fun _ _ h => h.poolGive)).stampShards.beside.quotaFlow.rmStat
  split
  · split
    · exact h.over (fun _ _ h => h.abortColl) |>.done
    · exact h.over fun _ _ h => h.abortColl
  · exact h.over fun _ _ h => h.abortColl

theorem Ilpiac.Spoken.doneAt {x : Nat × Nat} {st : Nat} {i : CplInfo} (h : m.Spoken) : (m.doneAt x st i).Spoken := by
  unfold Ilpiac.doneAt
  split
  · exact h.done
  · exact h

/-! ### Cloche groups -/

theorem Ilpiac.Spoken.ledgerCopy {gid pos : Nat} {e : List Byte} (h : m.Spoken) : (m.ledgerCopy gid pos e).Spoken := by
  unfold Ilpiac.ledgerCopy
  split
  · exact h
  · exact h.updGroup.over fun _ _ h => h.clocheSend

theorem Ilpiac.Spoken.ledgerFlow {gid : Nat} (h : m.Spoken) : (m.ledgerFlow gid).Spoken := by
  unfold Ilpiac.ledgerFlow
  split
  · exact h
  · dsimp only
    split
    · exact ite h (h.over (fun _ _ h => h.ledgerCopy.updGroup))
    · exact (ite h (h.over (fun _ _ h => h.ledgerCopy.updGroup))).over fun _ _ h => h.updGroup.doneAt

theorem Ilpiac.Spoken.endRestore {gid st : Nat} (h : m.Spoken) : (m.endRestore gid st).Spoken := by
  unfold Ilpiac.endRestore
  split
  · exact h
  · split
    · exact h
    · exact ite h.updGroup.doneAt.ledgerFlow h.updGroup

theorem Ilpiac.Spoken.restoreLoss {gid : Nat} (h : m.Spoken) : (m.restoreLoss gid).Spoken := by
  unfold Ilpiac.restoreLoss
  split
  · exact ite h.endRestore (ite h.endRestore h)
  · exact h

theorem Ilpiac.Spoken.clocheFlow (h : m.Spoken) : m.clocheFlow.Spoken := h.over fun _ _ h => h.restoreLoss.ledgerFlow

/-! ### The loss of the Holm link -/

theorem Ilpiac.Spoken.stopRing {r : Nat} (h : m.Spoken) : (m.stopRing r).Spoken := h.wr.wr.wr.besideCtl

theorem Ilpiac.Spoken.enterHeadless {cause : Nat} (h : m.Spoken) : (m.enterHeadless cause).Spoken := by
  unfold Ilpiac.enterHeadless
  split
  · exact h
  · dsimp only
    exact h.gw.gw.over (fun _ _ h => h.stopRing) |>.besideCtl.over (fun _ _ h => h.stall) |>.sbEvent.raise

/-- The loss of the link takes back what was said, and ends an image load. -/
theorem Ilpiac.Spoken.holmDown (h : m.Spoken) : m.holmDown.Spoken := by
  have hcut (l : Option ImageLoading) (x : ImageLoading) (hx : l.map (fun l => { l with lost := true }) = some x) : x.lost = true := by
    cases l with
    | none => cases hx
    | some l =>
      cases hx
      rfl
  unfold Ilpiac.holmDown
  split
  · exact h
  · exact Ilpiac.Spoken.ifThen ⟨.inr (hcut _)⟩ fun h => h.enterHeadless

theorem Ilpiac.Spoken.setTimeState {st : Nat} (h : m.Spoken) : (m.setTimeState st).Spoken := by
  unfold Ilpiac.setTimeState
  dsimp only
  split
  · exact h
  · split
    · exact (ite h.gw.event.release h.gw.event).raise
    · exact ite h.gw.event.release h.gw.event

theorem Ilpiac.Spoken.resetTime (h : m.Spoken) : m.resetTime.Spoken := ite h h.beside.setTimeState

/-! ### Links and lanes -/

theorem Ilpiac.Spoken.holdPort {port : Nat} (h : m.Spoken) : (m.holdPort port).Spoken := by
  unfold Ilpiac.holdPort
  dsimp only
  split
  · exact h.setPortState.flushPort.ownTrunks
  · exact ite h.setPortState.flushPort.gw h.setPortState.flushPort

theorem Ilpiac.Spoken.setLane {l : Nat} {x : LaneX} (h : m.Spoken) : (m.setLane l x).Spoken := h.beside
theorem Ilpiac.Spoken.setLink {lp : Nat} {x : LinkX} (h : m.Spoken) : (m.setLink lp x).Spoken := h.beside
theorem Ilpiac.Spoken.lw {l : Nat} {f : Fld} {v : Nat} (h : m.Spoken) : (m.lw l f v).Spoken := h.wr
theorem Ilpiac.Spoken.plw {lp : Nat} {f : Fld} {v : Nat} (h : m.Spoken) : (m.plw lp f v).Spoken := h.wr
theorem Ilpiac.Spoken.laneStates {lp : Nat} (h : m.Spoken) : (m.laneStates lp).Spoken := h.over fun _ _ h => ite h.lw (ite h.lw h)
theorem Ilpiac.Spoken.laneBlind {l st : Nat} (h : m.Spoken) : (m.laneBlind l st).Spoken := h.lw.lw.lw.lw.setLink.setLane
theorem Ilpiac.Spoken.testLane {l : Nat} (h : m.Spoken) : (m.testLane l).Spoken := h.lw

theorem Ilpiac.Spoken.startLane {l : Nat} (h : m.Spoken) : (m.startLane l).Spoken := by
  unfold Ilpiac.startLane
  split
  · exact h.laneBlind.lw
  · exact ite h.laneBlind.testLane (ite h.laneBlind h.laneBlind)

theorem Ilpiac.Spoken.portDown {lp : Nat} {lane : Option Nat} (h : m.Spoken) : (m.portDown lp lane).Spoken := by
  unfold Ilpiac.portDown
  extract_lets +onlyGivenNames k _src m1 m2 m3 up m4 m5
  have h3 : m3.Spoken := h.setLink.plw.laneStates
  clear_value m3
  have h5 : m5.Spoken := by
    have h4 : m4.Spoken := h3.setPortState.flushPort
    unfold m5
    split
    · exact h4.ifThen fun h => h.raise
    · exact h4
  clear_value m5
  exact ite h3.holmDown (ite h5.ownTrunks (ite (ite h5.gw h5) (ite h5.fenceMember h5)))

theorem Ilpiac.Spoken.restartLanes {lp : Nat} (h : m.Spoken) : (m.restartLanes lp).Spoken := h.over fun _ _ h => h.startLane

theorem Ilpiac.Spoken.lanePower {lp : Nat} (h : m.Spoken) : (m.lanePower lp).Spoken := by
  unfold Ilpiac.lanePower
  dsimp only
  split
  · exact h
  · exact (ite h (ite h.portDown h)).over fun _ _ h => h.startLane

theorem Ilpiac.Spoken.lanePowerAll (h : m.Spoken) : m.lanePowerAll.Spoken := h.over fun _ _ h => h.lanePower

/-! ### Engines -/

theorem Ilpiac.Spoken.setEng {e : Nat} {x : Engine} (h : m.Spoken) : (m.setEng e x).Spoken := h.beside
theorem Ilpiac.Spoken.updEng {e : Nat} {f : Engine → Engine} (h : m.Spoken) : (m.updEng e f).Spoken := h.setEng
theorem Ilpiac.Spoken.setEngState {e s : Nat} (h : m.Spoken) : (m.setEngState e s).Spoken := h.wr
theorem Ilpiac.Spoken.updPhase4 {k : CollId} {f : Phase4 → Phase4} (h : m.Spoken) : (m.updPhase4 k f).Spoken := h.beside
theorem Ilpiac.Spoken.giveInv {e : Nat} {coll : CollId} {k : Nat} (h : m.Spoken) : (m.giveInv e coll k).Spoken := h.updEng

theorem Ilpiac.Spoken.assignOne {coll : CollId} {n : Nat} (h : m.Spoken) : (m.assignOne coll n).Spoken := by
  induction n generalizing m with
  | zero => exact h
  | succ n ih =>
    unfold Ilpiac.assignOne
    split
    · split
      · exact h
      · split
        · exact h
        · exact ih h.updPhase4.giveInv
    · exact h

theorem Ilpiac.Spoken.startFill {e : Nat} (h : m.Spoken) : (m.startFill e).Spoken := by
  unfold Ilpiac.startFill
  dsimp only
  split
  · split
    · exact ite h (ite h.setEng (ite h h.setEng))
    · exact h
  · exact h

theorem Ilpiac.Spoken.assign (h : m.Spoken) : m.assign.Spoken := h.over (fun _ _ h => h.assignOne) |>.over fun _ _ h => h.startFill

theorem Ilpiac.Spoken.takeBack {e : Nat} (h : m.Spoken) : (m.takeBack e).Spoken := by
  unfold Ilpiac.takeBack
  split
  · exact h
  · exact h.updEng.updPhase4

theorem Ilpiac.Spoken.clearEngineFault {e : Nat} (h : m.Spoken) : (m.clearEngineFault e).Spoken := by
  unfold Ilpiac.clearEngineFault
  extract_lets w m1 m2
  have h2 : m2.Spoken := release (h.foldl fun _ _ h => h.wr)
  exact ite h2.setEngState.assign h2

theorem Ilpiac.Spoken.disableEngine {e : Nat} (h : m.Spoken) : (m.disableEngine e).Spoken := (ite h.wr.takeBack.setEngState h.wr.takeBack).assign

/-! ### Fault actions and resets -/

theorem Ilpiac.Spoken.setRun {n st : Nat} (h : m.Spoken) : (m.setRun n st).Spoken := ite h.gw.gw h.gw
theorem Ilpiac.Spoken.dw {r : Nat} {f : Fld} {v : Nat} (h : m.Spoken) : (m.dw r f v).Spoken := h.wr
theorem Ilpiac.Spoken.cw {c : Nat} {f : Fld} {v : Nat} (h : m.Spoken) : (m.cw c f v).Spoken := h.wr
theorem Ilpiac.Spoken.restall {c : Nat} (h : m.Spoken) : (m.restall c).Spoken := ite h.stall.release h.stall
theorem Ilpiac.Spoken.cringDisable {c : Nat} (h : m.Spoken) : (m.cringDisable c).Spoken := h.cw.restall
theorem Ilpiac.Spoken.rehome (h : m.Spoken) : m.rehome.Spoken := h.over fun _ _ h => h.moveContexts
theorem Ilpiac.Spoken.enableFurrow {f : Nat} (h : m.Spoken) : (m.enableFurrow f).Spoken := ite h (ite h.wr h.wr.wr.rehome)
theorem Ilpiac.Spoken.disableFurrow {f : Nat} (h : m.Spoken) : (m.disableFurrow f).Spoken := ite h (ite h.wr.wr h.wr)
theorem Ilpiac.Spoken.addFence {src : Nat} {t : FenceTarget} (h : m.Spoken) : (m.addFence src t).Spoken := h.beside
theorem Ilpiac.Spoken.endFences {t : FenceTarget} (h : m.Spoken) : (m.endFences t).Spoken := h.beside
theorem Ilpiac.Spoken.fencePort {p : Nat} (h : m.Spoken) : (m.fencePort p).Spoken := ite h (ite (ite h.setPort.holdPort h.setPort) h.fenceMember)
theorem Ilpiac.Spoken.fenceChannel {c : Nat} (h : m.Spoken) : (m.fenceChannel c).Spoken := h.failChannel

theorem Ilpiac.Spoken.takeFence {src : Nat} {x2 : FaultTarget} (h : m.Spoken) : (m.takeFence src x2).Spoken := by
  unfold Ilpiac.takeFence
  split
  · exact h
  · exact ite h.addFence h
  · exact h.fencePort
  · exact h.disableFurrow
  · exact h.disableEngine
  · exact h.fenceChannel
  · exact ite h.addFence.dw.dw h.addFence
  · exact h.addFence.stall

theorem Ilpiac.Spoken.statusResetIn {p : Nat → Bool} (h : m.Spoken) : (m.statusResetIn p).Spoken := h.over fun _ _ h => h.setReg
theorem Ilpiac.Spoken.abortHoses (h : m.Spoken) : m.abortHoses.Spoken := h.over fun _ _ h => h.hoseDone

theorem Ilpiac.Spoken.abortGroups (h : m.Spoken) : m.abortGroups.Spoken := by
  unfold Ilpiac.abortGroups
  dsimp only
  refine h.over (fun _ _ h => ?_) |>.beside
  split
  · exact h
  · refine (endRestore ?_).over (fun _ _ h => h.doneAt) |>.updGroup
    split
    · exact h.doneAt
    · exact h

theorem Ilpiac.Spoken.resetSwitch (h : m.Spoken) : m.resetSwitch.Spoken :=
  h.over (fun _ _ h => h.dropComm) |>.over (fun _ _ h => h.updEng)
    |>.abortHoses.abortGroups.besideCtl.beside.over (fun _ _ h => h.setPort) |>.over (fun _ _ h => h.setFx)
    |>.over (fun _ _ h => h.furrowCount) |>.statusResetIn.over (fun _ _ h => h.pw.pw)
    |>.ownTrunks.recount.rmStat

theorem Ilpiac.Spoken.resetAdmission (h : m.Spoken) : m.resetAdmission.Spoken := h.over (fun _ _ h => h.unqueue.failColl) |>.statusResetIn.rmStat
theorem Ilpiac.Spoken.resetHbm (h : m.Spoken) : m.resetHbm.Spoken := ite h (h.hbmStop.statusResetIn.over (fun _ _ h => h.gw)).setRun.event.setRun

theorem Ilpiac.Spoken.resetSync (h : m.Spoken) : m.resetSync.Spoken := by
  unfold Ilpiac.resetSync
  dsimp only
  refine h.over (fun _ _ h => ?_) |>.statusResetIn.setWaits
  split
  · exact h.doneAt
  · exact h

theorem Ilpiac.Spoken.functionReset {n : Nat} (h : m.Spoken) : (m.functionReset n).Spoken := by
  unfold Ilpiac.functionReset
  have hm := (h.endFences (t := .function n)).gcnt (f := F.RESET_STATUS_FUNC_RESETS) (k := 1) (j := 0)
  generalize (m.endFences (.function n)).gcnt F.RESET_STATUS_FUNC_RESETS 1 = m1 at hm ⊢
  exact ite hm.resetSwitch <| ite hm.resetAdmission <| ite hm.resetHbm <|
    ite hm.resetSync <| ite hm.resetTime hm

theorem Ilpiac.Spoken.linkRestart {p : Nat} (h : m.Spoken) : (m.linkRestart p).Spoken :=
  (ite h (ite h h.fenceMember)).portDown.setPort.statusResetIn.pw.ifThen (fun h => h.gw.ownTrunks) |>.restartLanes

theorem Ilpiac.Spoken.linkReset {p : Nat} (h : m.Spoken) : (m.linkReset p).Spoken := ite h h.gcnt.linkRestart
theorem Ilpiac.Spoken.resetFurrow {f : Nat} (h : m.Spoken) : (m.resetFurrow f).Spoken := ite h (ite h.moveContexts h.wr.moveContexts.enableFurrow)

theorem Ilpiac.Spoken.takeReset {t : FaultTarget} (h : m.Spoken) : (m.takeReset t).Spoken := by
  cases t with
  | none => exact h
  | fn n => exact h.functionReset
  | port p => exact h.linkReset
  | furrow f => exact h.resetFurrow
  | engine e => exact h.clearEngineFault
  | channel c => exact h.fenceChannel
  | dring r => exact h.stopRing.endFences
  | cring c => exact h.cringDisable.endFences.restall

theorem Ilpiac.Spoken.stopFunctions (h : m.Spoken) : m.stopFunctions.Spoken := (ite h.hbmStop h).over fun _ _ h => ite h h.setRun.event
theorem Ilpiac.Spoken.refreshAll (h : m.Spoken) : m.refreshAll.Spoken := h.over fun _ _ h => h.wr
theorem Ilpiac.Spoken.stop (h : m.Spoken) : m.stop.Spoken := h.stopFunctions.refreshAll.gw.gw.beside.lanePowerAll
theorem Ilpiac.Spoken.logLatch {action : Nat} (h : m.Spoken) : (m.logLatch action).Spoken := h.journal
theorem Ilpiac.Spoken.freeLatch (h : m.Spoken) : m.freeLatch.Spoken := h.beside.gw.latchNext

theorem Ilpiac.Spoken.graceExpiry (h : m.Spoken) : m.graceExpiry.Spoken := by
  unfold Ilpiac.graceExpiry
  split
  · exact h
  · dsimp only
    split
    · exact (ite h.beside h.beside.gcnt).stop
    · split
      · exact (ite h.beside h.beside.gcnt).logLatch.freeLatch.takeFence
      · split
        · exact (ite h.beside h.beside.gcnt).logLatch.freeLatch.takeReset
        · exact (ite h.beside h.beside.gcnt).logLatch.freeLatch

theorem Ilpiac.Spoken.dueActions {n : Nat} (h : m.Spoken) : (Ilpiac.dueActions n m).Spoken := by
  induction n generalizing m with
  | zero => exact h
  | succ n ih =>
    unfold Ilpiac.dueActions
    split
    · exact h
    · exact ih (ite h.beside.graceExpiry h.beside)

/-! ### What follows from a command -/

theorem Ilpiac.Spoken.apertureStore {a : Nat} {d : List Byte} (h : m.Spoken) : (m.apertureStore a d).Spoken := ite h (ite h.raise (ite h.raise h.memWrite))
theorem Ilpiac.Spoken.ownWrites (h : m.Spoken) : m.ownWrites.Spoken := h.besideCtl.over fun _ _ h => h.apertureStore
theorem Ilpiac.Spoken.progress (h : m.Spoken) : m.progress.Spoken := h.ownWrites.collAll.clocheFlow.assign.dueActions.ownWrites
theorem Ilpiac.Spoken.settle (h : m.Spoken) : m.settle.Spoken := ite h h.progress

end Sys2Proof.Machine

end

section
/-! CLOCHE_QUERY toward the end of the aperture (spec 07: R266; spec 14: R458). A group without stamps, which no creation leaves, has a record of
128 bytes. At an address 128 bytes before the end of the aperture the 256 bytes that the query asks for are companion memory, while the record
lies inside the aperture: it is written there, and the companion is told nothing. -/

namespace Sys2Proof.Machine

/-- What a command leaves of the block is settled. -/
theorem settle_of_ran {s : State} {m m' : Ilpiac} (h : ran s m = .next { s with m := m'.settle }) : m.settle = m'.settle := by
  rw [ran] at h
  injection h with hstate
  exact congrArg State.m hstate

/-- A group without members and without stamps. -/
def stamplessGroup : Group :=
  { id := 1, q := false, k := 1, shardBytes := 4096, relay := 0, tc := 0, members := [], pKeep := [], qKeep := [], sites := [], digest := 0, forming := none,
    lost := false, missM := [], missP := [], missQ := [], stamps := [], stamp := stampInvalid, sent := 0, applied := 0, unsettled := 0, ledger := [],
    pieces := [], ledgerBuf := none, restore := none, ledgerWaits := [], seen := [], lostStripes := [] }

/-- CLOCHE_QUERY of group 1, with its record 128 bytes before the end of the aperture. -/
def endQuery : AccDesc := ⟨0, 0, [0x3C, 1, 0xBFFFFFFF80, 0, 0, 0, 0, 0], false, false⟩

/-- The registers of a placed module after Assign, with one window for writes that reaches past the aperture. -/
def windowedRegs : Ilpiac :=
  ((((Ilpiac.reset.gw F.PLACEMENT_VALID 1).gw F.HOLM_STATUS_STATE holmUp).gw F.WINDOW_BASE_VALID 1).gw F.WINDOW_BASE_WRITE 1).gw F.WINDOW_LIMIT_LIMIT (2 ^ 30)

/-- The module with the query accepted, and an image load in progress over the Holm link. -/
def endQueryBlock : Ilpiac :=
  { windowedRegs with
    ctl := { Ilpiac.reset.ctl with descs := [endQuery] }
    groups := [stamplessGroup]
    boot := { Ilpiac.reset.boot with load := some ⟨0, 0, 0, 0, false⟩ } }

/-- The same module with the query begun. -/
def endQueryBegun : Ilpiac := endQueryBlock.withDescs [{ endQuery with started := true }]

theorem endQueryBlock_coherent : endQueryBlock.Coherent (endQuery.f 2 0 64) 256 true :=
  ⟨by decide +kernel, by decide +kernel, by decide +kernel⟩

/-- The query tells the companion nothing, and the Holm link stays. -/
theorem endQuery_unspoken : ¬(endQueryBegun.clocheQuery endQuery).settle.Spoken := by
  have htold : (endQueryBegun.clocheQuery endQuery).settle.told = [] := by decide +kernel
  have hload : (endQueryBegun.clocheQuery endQuery).settle.boot.load = some ⟨0, 0, 0, 0, false⟩ := by decide +kernel
  rintro ⟨hsaid | hcut⟩
  · exact hsaid htold
  · exact Bool.false_ne_true (hcut _ hload)

/-- The record reaches the companion in at least one write. -/
theorem endQuery_pieces : cohPieces (endQuery.f 2 0 64) (endQueryBlock.groupRecord stamplessGroup) ≠ [] := by decide +kernel

end Sys2Proof.Machine

open Sys2Proof.Machine

/-- Refutes O51: a query whose record is shorter than the 256 bytes that were checked may lie inside the aperture, and is then told to nobody. -/
theorem not_clocheGroups : ¬ Obligations.ClocheGroups := by
  unfold Obligations.ClocheGroups
  intro h
  have hbegin : endQueryBlock.begin 0 0x3C = some (endQuery, endQueryBegun) := by decide +kernel
  obtain ⟨-, -, -, hquery⟩ := h ⟨endQueryBlock, []⟩ 0 endQuery endQueryBegun
  obtain ⟨m', hexec, -, htold, -, -⟩ := hquery stamplessGroup hbegin (by decide +kernel) (by decide +kernel) (by decide +kernel) (by decide +kernel)
    (by decide +kernel) (by decide +kernel) endQueryBlock_coherent (by decide +kernel)
  have hsaid : m'.Spoken :=
    ⟨.inl fun hnil => endQuery_pieces (List.map_eq_nil_iff.mp (List.append_eq_nil_iff.mp (htold.symm.trans hnil)).2)⟩
  have hrun : exec (.clocheQuery 0) ⟨endQueryBlock, []⟩ = ran ⟨endQueryBlock, []⟩ (endQueryBegun.clocheQuery endQuery) :=
    congrArg (ran ⟨endQueryBlock, []⟩) (Ilpiac.runDesc_of_begin hbegin fun d m => m.clocheQuery d)
  have hsame : (endQueryBegun.clocheQuery endQuery).settle = m'.settle := settle_of_ran (hrun.symm.trans hexec)
  exact endQuery_unspoken (hsame.symm ▸ hsaid.settle)

end

section
/-! The HBM aperture (spec 14: R455, R457; spec 08: R269, R272, R277, R286): what a read answers and what a write leaves, while the HBM function serves
accesses, while it does not, and above the logical capacity. -/

namespace Sys2Proof.Machine

variable {m m' : Ilpiac} {a len : Nat}

/-! ### Byte strings in memory -/

/-- Memories that agree on a range read the same there. -/
theorem Memory.read_congr {x y : Memory} {a n : Nat} (h : ∀ b, a ≤ b → b < a + n → x.byte b = y.byte b) : x.read a n = y.read a n := by
  induction n generalizing a with
  | zero => rfl
  | succ n ih => rw [Memory.read, Memory.read, h a (by omega) (by omega), ih fun b hlo hhi => h b (by omega) (by omega)]

/-- A byte string stored is the byte string read. -/
theorem Memory.read_write_self (x : Memory) (a : Nat) (l : List Byte) : (x.write a l).read a l.length = l := by
  induction l generalizing x a with
  | nil => rfl
  | cons v l ih =>
    rw [List.length_cons, Memory.read, Memory.write, ih, Memory.byte_write_out _ _ _ (.inl (Nat.lt_succ_self a)), Memory.byte_setByte_self]

/-- A range apart from the stored one reads as before. -/
theorem Memory.read_write_apart (x : Memory) {a b n : Nat} (l : List Byte) (h : b + n ≤ a ∨ a + l.length ≤ b) :
    (x.write a l).read b n = x.read b n :=
  Memory.read_congr fun c hlo hhi => Memory.byte_write_out _ _ _ (by omega)

/-! ### A codeword is written (R269, R272) -/

/-- What is read of codewords as stored: their data and their poison marks. -/
structure Ilpiac.SameStore (m m' : Ilpiac) : Prop where
  data : m'.hbm.data = m.hbm.data
  poison : m'.hbm.poison = m.hbm.poison

theorem Ilpiac.SameStore.cwData (h : m.SameStore m') (c : Nat) : m'.cwData c = m.cwData c := by
  rw [Ilpiac.cwData, h.data, Ilpiac.cwData]

theorem Ilpiac.SameStore.poisoned (h : m.SameStore m') (c : Nat) : m'.poisoned c = m.poisoned c := by
  rw [Ilpiac.poisoned, h.poison, Ilpiac.poisoned]

theorem Ilpiac.SameStore.of_hbm (h : m'.hbm = m.hbm) : m.SameStore m' := ⟨by rw [h], by rw [h]⟩

theorem Ilpiac.SameStore.setErrors {cw : Nat} {l : List (Nat × Nat)} (h : m.SameStore m') : m.SameStore (m'.setErrors cw l) := ⟨h.data, h.poison⟩

/-- An injected error is a difference of symbols, not of what was written (R301). -/
theorem Ilpiac.sameStore_inject (m : Ilpiac) (cw : Nat) : m.SameStore (m.inject cw) := by
  unfold Ilpiac.inject
  extract_lets ch m1 d s1 s2 v
  have h1 : m.SameStore d.2 := .of_hbm (by simp [d, m1])
  clear_value v s2 s1 d
  split
  · split
    · exact h1.setErrors
    · exact h1.setErrors
  · exact .of_hbm rfl

theorem Ilpiac.poisoned_setPoison_self (m : Ilpiac) (cw : Nat) (b : Bool) : (m.setPoison cw b).poisoned cw = b := by
  cases b <;> simp [Ilpiac.poisoned, Ilpiac.setPoison]

theorem Ilpiac.poisoned_setPoison_ne (m : Ilpiac) {cw c : Nat} (b : Bool) (h : c ≠ cw) : (m.setPoison cw b).poisoned c = m.poisoned c := by
  have hside : (c < cw ∨ cw < c) ↔ True := iff_true_intro (by omega)
  have hmem : c ∈ m.hbm.poison.filter (· < cw) ++ (if b then [cw] else []) ++ m.hbm.poison.filter (cw < ·) ↔ c ∈ m.hbm.poison := by
    cases b <;> simp [h, ← and_or_left, hside]
  simpa only [Ilpiac.poisoned, Ilpiac.setPoison, List.contains_eq_mem, decide_eq_decide] using hmem

/-- A full write of a codeword: it holds the data and the mark, and every other codeword is as before. -/
theorem Ilpiac.cwWrite_spec (m : Ilpiac) (cw : Nat) {d : List Byte} (b : Bool) (hd : d.length = 64) :
    (m.cwWrite cw d b).cwData cw = d ∧ (m.cwWrite cw d b).poisoned cw = b ∧
      ∀ c, c ≠ cw → (m.cwWrite cw d b).cwData c = m.cwData c ∧ (m.cwWrite cw d b).poisoned c = m.poisoned c := by
  have hstore := Ilpiac.sameStore_inject (((m.setData cw d).setErrors cw []).setPoison cw b) cw
  refine ⟨?_, ?_, fun c hc => ⟨?_, ?_⟩⟩
  · refine (hstore.cwData cw).trans ?_
    change (m.hbm.data.write (cw * 64) d).read (cw * 64) 64 = d
    rw [← hd, Memory.read_write_self]
  · exact (hstore.poisoned cw).trans (Ilpiac.poisoned_setPoison_self _ cw b)
  · exact (hstore.cwData c).trans (Memory.read_write_apart _ d (by omega))
  · exact (hstore.poisoned c).trans (Ilpiac.poisoned_setPoison_ne _ b hc)

/-! ### A whole line is written (R275, R277, R279) -/

/-- In a slot that does not migrate a write reaches the codeword that a read reaches, and its stack is awake (R302). -/
theorem Ilpiac.writeAt_of_readAt {line cw : Nat} (hread : m.readAt line = some cw) (hmig : m.migration (m.placeOf line).1 = none) :
    ∃ ch, m.writeAt line = (some cw, m.wakeStack ch) := by
  have hcopy (unit : Nat) : m.copyUnit (m.placeOf line).1 unit = m := by rw [Ilpiac.copyUnit, hmig]
  unfold Ilpiac.readAt at hread
  unfold Ilpiac.writeAt
  dsimp only at hread ⊢
  rw [hcopy]
  split at hread
  · cases hread
  · rename_i hserved
    rw [if_neg hserved]
    split at hread
    · cases hread
    · rename_i ch hback
      rw [hmig] at hread
      cases hread
      exact ⟨ch, rfl⟩

/-- Past the cache a whole line is one full write of its codeword, which reads no old content. -/
theorem Ilpiac.writeLine_whole {line cw : Nat} {d : List Byte} (hint : Nat) (hd : d.length = 64) (hcache : m.cacheOn = false)
    (hread : m.readAt line = some cw) (hmig : m.migration (m.placeOf line).1 = none) :
    ∃ ch, (m.writeLine line 0 d hint false).2 = (m.wakeStack ch).cwWrite cw d false := by
  obtain ⟨ch, hat⟩ := Ilpiac.writeAt_of_readAt hread hmig
  refine ⟨ch, ?_⟩
  simp [Ilpiac.writeLine, hcache, Ilpiac.lineWrite, hat, hd]

/-- An aligned range of 64 bytes is one line. -/
theorem lineParts_line (h : a % 64 = 0) : lineParts a 64 = [(a / 64, 0, 64)] := by
  have hcount : (a + 63) / 64 - a / 64 + 1 = 1 := by omega
  have hend : a + 64 - a / 64 * 64 = 64 := by omega
  simp [lineParts, hcount, hend, h]

/-- While no group has a shard here, a write of one line forms no delta. -/
theorem Ilpiac.memWrite_line {d : List Byte} (hint : Nat) (ha : a % 64 = 0) (hd : d.length = 64) (hgroups : m.groups = []) :
    (m.memWrite a d hint).2 = (m.writeLine (a / 64) 0 d hint false).2 := by
  have hshard : m.shardOf (a / 64) = none := by simp [Ilpiac.shardOf, hgroups]
  have hpiece : (d.drop (a / 64 * 64 + 0 - a)).take 64 = d := by
    rw [show a / 64 * 64 + 0 - a = 0 by omega, List.drop_zero, ← hd, List.take_length]
  rw [Ilpiac.memWrite, hd, lineParts_line ha, List.foldl_cons, List.foldl_nil]
  dsimp only
  rw [hshard, hpiece]
  rfl

/-! ### Reads of the aperture (R272, R277, R286, R455) -/

/-- An access that the Holm link carries is naturally aligned, on a link that is UP. -/
theorem Ilpiac.apertureHere_spec (h : m.apertureHere a len = true) : m.g F.HOLM_STATUS_STATE = holmUp ∧ a % max 1 len = 0 := by
  simp only [Ilpiac.apertureHere, Bool.and_eq_true, beq_iff_eq] at h
  obtain ⟨⟨⟨⟨hup, -⟩, -⟩, haligned⟩, -⟩ := h
  exact ⟨hup, haligned⟩

/-- Poison is all ones with the mark, and is counted. -/
theorem Ilpiac.poisonRead_spec (hup : m.g F.HOLM_STATUS_STATE = holmUp) (len : Nat) :
    (m.poisonRead len).told = m.told ++ [.apertureData (List.replicate len 0xFF) true] ∧
      (m.poisonRead len).g F.HOLM_STATUS_POISONED_READS = satAdd 16 (m.g F.HOLM_STATUS_POISONED_READS) 1 ∧ (m.poisonRead len).hbm = m.hbm := by
  have hup1 : (m.gcnt F.HOLM_STATUS_POISONED_READS 1).g F.HOLM_STATUS_STATE = holmUp :=
    (Ilpiac.g_gw_apart _ _ _ _ _ _ (by decide) (by decide)).trans hup
  refine ⟨?_, ?_, ?_⟩
  · have htold1 : (m.gcnt F.HOLM_STATUS_POISONED_READS 1).told = m.told := by simp [Ilpiac.told]
    rw [Ilpiac.poisonRead, Ilpiac.send_told, if_pos hup1, htold1]
  · have hregs : (m.poisonRead len).regs = (m.gcnt F.HOLM_STATUS_POISONED_READS 1).regs := (Ilpiac.send_frame _ _).1
    have hsame : (m.poisonRead len).g F.HOLM_STATUS_POISONED_READS = (m.gcnt F.HOLM_STATUS_POISONED_READS 1).g F.HOLM_STATUS_POISONED_READS := by
      rw [Ilpiac.g, Ilpiac.rd, Ilpiac.reg, hregs, Ilpiac.g, Ilpiac.rd, Ilpiac.reg]
    exact hsame.trans (m.rd_cnt_self .glob 0 F.HOLM_STATUS_POISONED_READS 1 0)
  · simp [Ilpiac.poisonRead]

theorem Ilpiac.apertureRead_stopped (h : m.apertureHere a len = true) (hon : m.hbmOn = false) (us : List Upset) :
    m.apertureRead a len us = m.poisonRead len := by
  rw [Ilpiac.apertureRead, if_neg (by simp [h]), if_pos (by simp [hon])]

theorem Ilpiac.apertureRead_above (h : m.apertureHere a len = true) (hon : m.hbmOn = true) (habove : m.slots * 2 ^ 30 < a + len) (us : List Upset) :
    m.apertureRead a len us = (m.send (.apertureData (List.replicate len 0xFF) false)).raise srcHbmAddress 0 0 := by
  rw [Ilpiac.apertureRead, if_neg (by simp [h]), if_neg (by simp [hon]), if_pos habove]

/-- The block when a read reaches HBM: its first codeword has suffered the upsets. -/
def Ilpiac.struck (m : Ilpiac) (a : Nat) (us : List Upset) : Ilpiac :=
  match m.readAt (a / 64) with
  | some cw => m.upset cw us
  | none => m

/-- What a read answers. -/
def readAnswer (len : Nat) : Option (List Byte) → HolmMsg
  | some d => .apertureData d false
  | none => .apertureData (List.replicate len 0xFF) true

/-- The block that has read its lines answers. -/
def Ilpiac.answered (len : Nat) : Option (List Byte) × Ilpiac → Ilpiac
  | (some d, m) => m.send (.apertureData d false)
  | (none, m) => m.poisonRead len

theorem Ilpiac.apertureRead_inside (h : m.apertureHere a len = true) (hon : m.hbmOn = true) (hin : a + len ≤ m.slots * 2 ^ 30) (us : List Upset) :
    m.apertureRead a len us = Ilpiac.answered len ((m.struck a us).memRead a len ((m.struck a us).hintAt a false)) := by
  rw [Ilpiac.apertureRead, if_neg (by simp [h]), if_neg (by simp [hon]), if_neg (by omega)]
  extract_lets m1
  have hstruck : m1 = m.struck a us := rfl
  clear_value m1
  subst hstruck
  obtain ⟨_ | d, m2⟩ := (m.struck a us).memRead a len ((m.struck a us).hintAt a false)
  · rfl
  · rfl

/-- What HBM holds is told last, and poison as all ones; HBM is left as the reads of its lines leave it. -/
theorem Ilpiac.answered_spec {r : Option (List Byte) × Ilpiac} (hup : r.2.g F.HOLM_STATUS_STATE = holmUp) (len : Nat) :
    (Ilpiac.answered len r).hbm = r.2.hbm ∧ (Ilpiac.answered len r).told = r.2.told ++ [readAnswer len r.1] := by
  obtain ⟨_ | d, m1⟩ := r
  · obtain ⟨htold, -, hhbm⟩ := Ilpiac.poisonRead_spec hup len
    exact ⟨hhbm, htold⟩
  · refine ⟨by simp [Ilpiac.answered], ?_⟩
    rw [Ilpiac.answered, Ilpiac.send_told, if_pos hup, readAnswer]

/-! ### An address above the capacity (R277) -/

/-- What a source that is raised leaves: registers other than the collector's, and what waits for the companion. -/
theorem Ilpiac.Records.raise {src unit detail : Nat} (h : m.Records m') : m.Records (m'.raise src unit detail) := by
  unfold Ilpiac.raise
  dsimp only
  split
  · exact h
  · split
    · exact h.addAssert
    · split
      · exact h.addAssert.latch
      · split
        · split
          · exact h.addAssert
          · exact h.addAssert.gw (by decide)
        · exact h.addAssert.latchNext

theorem Ilpiac.asserting_raise (m : Ilpiac) (src unit detail : Nat) : (m.raise src unit detail).asserting src = true := by
  obtain ⟨b, hb, hsrc, -⟩ := m.asserts_raise src unit detail
  exact List.any_eq_true.mpr ⟨b, hb, beq_iff_eq.mpr hsrc⟩

theorem Ilpiac.told_raise (m : Ilpiac) (src unit detail : Nat) : (m.raise src unit detail).told = m.told := by
  have hrec : m.Records (m.raise src unit detail) := (Ilpiac.Records.refl m).raise
  rw [Ilpiac.told, hrec.holm, Ilpiac.told]

/-! ### Writes of the aperture (R277, R286, R455) -/

theorem Ilpiac.apertureWrite_stopped {d : List Byte} (h : m.apertureHere a d.length = true) (hon : m.hbmOn = false) : m.apertureWrite a d = m := by
  rw [Ilpiac.apertureWrite, if_pos h, Ilpiac.apertureStore, if_pos (by simp [hon])]

theorem Ilpiac.apertureWrite_above {d : List Byte} (h : m.apertureHere a d.length = true) (hon : m.hbmOn = true)
    (habove : m.slots * 2 ^ 30 < a + d.length) : m.apertureWrite a d = m.raise srcHbmAddress 0 0 := by
  rw [Ilpiac.apertureWrite, if_pos h, Ilpiac.apertureStore, if_neg (by simp [hon]), if_pos habove]

/-- Inside the capacity, and while no group is held here, a write is a write of the range. -/
theorem Ilpiac.apertureWrite_inside {d : List Byte} (h : m.apertureHere a d.length = true) (hon : m.hbmOn = true)
    (hin : a + d.length ≤ m.slots * 2 ^ 30) (hgroups : m.groups = []) : m.apertureWrite a d = (m.memWrite a d (m.hintAt a true)).2 := by
  have hheld : m.heldShard a d.length = false := by simp [Ilpiac.heldShard, hgroups]
  rw [Ilpiac.apertureWrite, if_pos h, Ilpiac.apertureStore, if_neg (by simp [hon]), if_neg (by omega), if_neg (by simp [hheld])]

/-- A write of a whole line makes its codeword hold the data and leaves every other codeword alone. -/
theorem Ilpiac.apertureWrite_line {d : List Byte} {cw : Nat} (h : m.apertureHere a d.length = true) (hd : d.length = 64) (hon : m.hbmOn = true)
    (hin : a + 64 ≤ m.slots * 2 ^ 30) (hgroups : m.groups = []) (hcache : m.cacheOn = false) (hread : m.readAt (a / 64) = some cw)
    (hmig : m.migration (m.placeOf (a / 64)).1 = none) :
    (m.apertureWrite a d).cwData cw = d ∧ (m.apertureWrite a d).poisoned cw = false ∧
      ∀ c, c ≠ cw → (m.apertureWrite a d).cwData c = m.cwData c ∧ (m.apertureWrite a d).poisoned c = m.poisoned c := by
  have haligned : a % 64 = 0 := by simpa [hd] using (Ilpiac.apertureHere_spec h).2
  obtain ⟨ch, hline⟩ := Ilpiac.writeLine_whole (m.hintAt a true) hd hcache hread hmig
  rw [Ilpiac.apertureWrite_inside h hon (by omega) hgroups, Ilpiac.memWrite_line _ haligned hd hgroups, hline]
  have hawake : m.SameStore (m.wakeStack ch) := ⟨by simp, by simp⟩
  obtain ⟨hdata, hpoison, hothers⟩ := (m.wakeStack ch).cwWrite_spec cw false hd
  exact ⟨hdata, hpoison, fun c hc => (hothers c hc).imp (·.trans (hawake.cwData c)) (·.trans (hawake.poisoned c))⟩

/-! ### The commands -/

theorem exec_apertureRead (s : State) (a len : Nat) (us : List Upset) :
    exec (.apertureRead a len us) s = .next { s with m := (s.m.apertureRead a len us).settle } := rfl

theorem exec_apertureWrite (s : State) (a : Nat) (d : List Byte) :
    exec (.apertureWrite a d) s = .next { s with m := (s.m.apertureWrite a d).settle } := rfl

end Sys2Proof.Machine

open Sys2Proof.Machine

/-- Settles O36: by where the access falls, in a stopped function, above the logical capacity or inside it. -/
theorem aperture : Obligations.Aperture := by
  unfold Obligations.Aperture
  intro s a len hhere
  obtain ⟨hup, -⟩ := Ilpiac.apertureHere_spec hhere
  refine ⟨fun us hon hin => ?_, fun us d hon hd => ?_, fun us d hon habove hd => ?_, fun d cw hlen hd hon hin hgroups hcache hread hmig => ?_⟩
  · intro m0 r hr
    have hanswer : s.m.apertureRead a len us = Ilpiac.answered len r := Ilpiac.apertureRead_inside hhere hon hin us
    obtain ⟨hhbm, htold⟩ := Ilpiac.answered_spec hr len
    refine ⟨_, exec_apertureRead s a len us, ?_, ?_⟩
    · rw [hanswer, hhbm]
    · rw [hanswer, htold]
      rcases r.1 with _ | d <;> rfl
  · subst hd
    refine ⟨⟨_, exec_apertureRead s a d.length us, ?_⟩, ⟨_, exec_apertureWrite s a d, Ilpiac.apertureWrite_stopped hhere hon⟩⟩
    rw [Ilpiac.apertureRead_stopped hhere hon]
    exact Ilpiac.poisonRead_spec hup _
  · subst hd
    refine ⟨⟨_, exec_apertureRead s a d.length us, ?_⟩, ⟨_, exec_apertureWrite s a d, ?_⟩⟩
    · rw [Ilpiac.apertureRead_above hhere hon habove, Ilpiac.told_raise, Ilpiac.send_told, if_pos hup]
      exact ⟨rfl, Ilpiac.asserting_raise .., by simp⟩
    · rw [Ilpiac.apertureWrite_above hhere hon habove]
      exact ⟨Ilpiac.asserting_raise .., by simp⟩
  · subst hlen
    exact ⟨_, exec_apertureWrite s a d, Ilpiac.apertureWrite_line (hd.symm ▸ hhere) hd hon hin hgroups hcache hread hmig⟩

end

section
/-! Channels of the HBM (spec 08: R278 to R281, R299): where their registers lie, and the map-out of a channel that backs a slot while the reserve has
one to take its place. -/

namespace Sys2Proof.Machine

variable {m m' : Ilpiac} {ch n q cause : Nat} {f g : Fld}

/-! ### Registers of a channel -/

/-- The key of the register at an offset inside a channel's block (R14). -/
def channelKey (n off : Nat) : Nat := 0x600000 + n * 0x200 + off

theorem Fld.key_channel (f : Fld) (n : Nat) : f.key .channel n 0 = channelKey n f.off := by
  simp [Fld.key, Blk.at, Blk.base, Blk.stride, channelKey]

theorem locate_channel {off : Nat} (hn : n < 768) (hoff : off < 0x200) : locate (channelKey n off) = (.channel, n, off) := by
  unfold channelKey
  have hunit : (0x600000 + n * 0x200 + off - 0x600000) / 0x200 = n := by omega
  have hinside : (0x600000 + n * 0x200 + off - 0x600000) % 0x200 = off := by omega
  unfold locate
  repeat rw [if_neg (by omega)]
  rw [if_pos (by omega)]
  change (Blk.channel, (0x600000 + n * 0x200 + off - 0x600000) / 0x200, (0x600000 + n * 0x200 + off - 0x600000) % 0x200) = _
  rw [hunit, hinside]

/-- The registers of the channels fill one region of the window (R14). -/
theorem Fld.key_channel_range (hn : n < 768) (hf : f.off < 0x200) : 0x600000 ≤ f.key .channel n 0 ∧ f.key .channel n 0 < 0x660000 := by
  rw [Fld.key_channel, channelKey]
  omega

/-- A register at a fixed offset outside that region. -/
def Fld.besideChannels (f : Fld) : Bool := decide (f.off < 0x600000) || decide (0x660000 ≤ f.off)

theorem Fld.key_glob_ne_channel (hf : f.besideChannels = true) (hn : n < 768) (hg : g.off < 0x200) : f.key .glob 0 0 ≠ g.key .channel n 0 := by
  have hglob : f.key .glob 0 0 = f.off := by simp [Fld.key, Blk.at, Blk.base]
  have hrange := Fld.key_channel_range hn hg
  simp only [Fld.besideChannels, Bool.or_eq_true, decide_eq_true_eq] at hf
  omega

/-- A register of another channel reads as before. -/
theorem Ilpiac.rd_wr_otherChannel (m : Ilpiac) {v : Nat} (h : n ≠ q) (hf : f.off < 0x200 := by decide) (hg : g.off < 0x200 := by decide) :
    (m.wr .channel q f v).rd .channel n g = m.rd .channel n g := by
  refine Ilpiac.rd_wr_ne _ _ _ _ _ _ _ _ _ _ ?_
  rw [Fld.key_channel, Fld.key_channel, channelKey, channelKey]
  omega

theorem Ilpiac.rd_gw_channel (m : Ilpiac) {v : Nat} (hn : n < 768) (hg : g.off < 0x200) (hf : f.besideChannels = true := by decide) :
    (m.gw f v).rd .channel n g = m.rd .channel n g :=
  Ilpiac.rd_wr_ne _ _ _ _ _ _ _ _ _ _ (Fld.key_glob_ne_channel hf hn hg).symm

theorem Ilpiac.g_wr_channel (m : Ilpiac) {v : Nat} (hn : n < 768) (hg : g.off < 0x200 := by decide) (hf : f.besideChannels = true := by decide) :
    (m.wr .channel n g v).g f = m.g f :=
  Ilpiac.rd_wr_ne _ _ _ _ _ _ _ _ _ _ (Fld.key_glob_ne_channel hf hn hg)

/-! ### The map-out is recorded (R283, R521) -/

/-- A journal record may be dropped, which PWR_STATUS counts; no other register takes note of it. -/
theorem Ilpiac.reg_journal (m : Ilpiac) (r : JRec) {k : Nat} (hk : k ≠ 0x10008) : (m.journal r).reg k = m.reg k := by
  have hkept (p : Power) : Ilpiac.reg { m with power := p } k = m.reg k := rfl
  unfold Ilpiac.journal
  split
  · rfl
  · dsimp only
    split
    · exact hkept _
    · exact (Ilpiac.reg_wr_ne _ .glob 0 F.PWR_STATUS_JOURNAL_DROPS _ 0 k hk).trans (hkept _)

theorem Ilpiac.reg_recordOut (m : Ilpiac) (ch cause : Nat) {k : Nat} (hk : k ≠ 0x10008) : (m.recordOut ch cause).reg k = m.reg k :=
  (Ilpiac.reg_journal _ _ hk).trans (Ilpiac.reg_journal _ _ hk)

/-- A channel leaves service: its cause is noted, the map-out is recorded, and one good channel less is counted. -/
def Ilpiac.takenOut (m : Ilpiac) (ch cause : Nat) : Ilpiac :=
  ((m.wr .channel ch F.CH_STATUS_CAUSE cause).recordOut ch cause).gw F.HBM_STATUS_GOOD_CHANNELS
    (((m.wr .channel ch F.CH_STATUS_CAUSE cause).recordOut ch cause).g F.HBM_STATUS_GOOD_CHANNELS - 1)

@[simp] theorem Ilpiac.takenOut_hbm (m : Ilpiac) (ch cause : Nat) : (m.takenOut ch cause).hbm = m.hbm := by simp [Ilpiac.takenOut]

theorem Ilpiac.rd_takenOut (m : Ilpiac) (cause : Nat) (hch : ch < 768) (hg : g.off < 0x200) :
    (m.takenOut ch cause).rd .channel ch g = (m.wr .channel ch F.CH_STATUS_CAUSE cause).rd .channel ch g := by
  have hkey : g.key .channel ch 0 ≠ 0x10008 := by
    have hrange := Fld.key_channel_range hch hg
    omega
  rw [Ilpiac.takenOut, Ilpiac.rd_gw_channel _ hch hg, Ilpiac.rd, Ilpiac.reg_recordOut _ _ _ hkey, Ilpiac.rd]

/-- The fields of the channel but CAUSE read as before. -/
theorem Ilpiac.rd_takenOut_apart (m : Ilpiac) (cause : Nat) (hch : ch < 768) (hg : g.off < 0x200 := by decide)
    (hapart : Fld.apart F.CH_STATUS_CAUSE 0 g 0 = true := by decide) : (m.takenOut ch cause).rd .channel ch g = m.rd .channel ch g := by
  rw [Ilpiac.rd_takenOut _ _ hch hg, Ilpiac.rd_wr_apart _ _ _ _ hapart]

theorem Ilpiac.cause_takenOut (m : Ilpiac) (hch : ch < 768) (hcause : cause < 8) :
    (m.takenOut ch cause).rd .channel ch F.CH_STATUS_CAUSE = cause := by
  rw [Ilpiac.rd_takenOut _ _ hch (by decide), Ilpiac.rd_wr_self _ _ _ _ _ _ (by decide)]
  exact Nat.mod_eq_of_lt hcause

theorem Ilpiac.good_takenOut (m : Ilpiac) (cause : Nat) (hch : ch < 768) :
    (m.takenOut ch cause).g F.HBM_STATUS_GOOD_CHANNELS = m.g F.HBM_STATUS_GOOD_CHANNELS - 1 := by
  have hkey : F.HBM_STATUS_GOOD_CHANNELS.key .glob 0 0 ≠ 0x10008 := by decide
  have hsame : ((m.wr .channel ch F.CH_STATUS_CAUSE cause).recordOut ch cause).g F.HBM_STATUS_GOOD_CHANNELS = m.g F.HBM_STATUS_GOOD_CHANNELS := by
    rw [Ilpiac.g, Ilpiac.rd, Ilpiac.reg_recordOut _ _ _ hkey, ← Ilpiac.rd, ← Ilpiac.g, Ilpiac.g_wr_channel _ hch]
  have hlt : m.g F.HBM_STATUS_GOOD_CHANNELS < 2 ^ F.HBM_STATUS_GOOD_CHANNELS.w := bits_lt ..
  rw [Ilpiac.takenOut, Ilpiac.g_gw_self _ _ _ _ (by decide), hsame, Nat.mod_eq_of_lt (by omega)]

/-! ### A slot begins to migrate (R279, R281) -/

section
variable (m : Ilpiac) (slot source : Nat) (readable : Bool) (q : Nat)

theorem Ilpiac.migrate_slotmap : (m.migrate slot source readable q).hbm.slotmap = m.hbm.slotmap.set slot (some q) := by simp [Ilpiac.migrate]

theorem Ilpiac.migrate_reserve : (m.migrate slot source readable q).hbm.reserve = m.hbm.reserve.filter (· != q) := by simp [Ilpiac.migrate]

theorem Ilpiac.migrate_data : (m.migrate slot source readable q).hbm.data = m.hbm.data := by simp [Ilpiac.migrate]

theorem Ilpiac.migration_migrate : (m.migrate slot source readable q).migration slot = some ⟨slot, source, readable, q, []⟩ := by
  have hothers : (m.hbm.migrations.filter (fun g => g.slot != slot)).find? (fun g => g.slot == slot) = none := by simp [List.find?_eq_none]
  have hlist : (m.migrate slot source readable q).hbm.migrations =
      m.hbm.migrations.filter (fun g => g.slot != slot) ++ [⟨slot, source, readable, q, []⟩] := by simp [Ilpiac.migrate]
  rw [Ilpiac.migration, hlist, List.find?_append, hothers, Option.none_or, List.find?_cons_of_pos (by simp)]

variable {slot source readable q}

/-- The channel that takes the place is ACTIVE and holds the slot. -/
theorem Ilpiac.target_migrate (hq : q < 768) :
    (m.migrate slot source readable q).chState q = chActive ∧ (m.migrate slot source readable q).rd .channel q F.CH_STATUS_SLOT = slot % 2 ^ 10 := by
  rw [Ilpiac.migrate, Ilpiac.chState, Ilpiac.rd_gw_channel _ hq (by decide), Ilpiac.rd_gw_channel _ hq (by decide), Ilpiac.rd_wr_apart,
    Ilpiac.rd_wr_apart, Ilpiac.rd_wr_self _ _ _ _ _ _ (by decide), Ilpiac.rd_wr_apart, Ilpiac.rd_wr_self _ _ _ _ _ _ (by decide)]
  exact ⟨rfl, rfl⟩

/-- No other channel is written. -/
theorem Ilpiac.rd_migrate (hn : n < 768) (hne : n ≠ q) (hg : g.off < 0x200 := by decide) :
    (m.migrate slot source readable q).rd .channel n g = m.rd .channel n g := by
  rw [Ilpiac.migrate, Ilpiac.rd_gw_channel _ hn hg, Ilpiac.rd_wr_otherChannel _ hne (by decide) hg,
    Ilpiac.rd_wr_otherChannel _ hne (by decide) hg, Ilpiac.rd_wr_otherChannel _ hne (by decide) hg]
  rfl

theorem Ilpiac.good_migrate (hq : q < 768) :
    (m.migrate slot source readable q).g F.HBM_STATUS_GOOD_CHANNELS = m.g F.HBM_STATUS_GOOD_CHANNELS := by
  rw [Ilpiac.migrate, Ilpiac.g_gw_apart _ _ _ _ _ _ (by decide) (by decide), Ilpiac.g_wr_channel _ hq, Ilpiac.g_wr_channel _ hq,
    Ilpiac.g_wr_channel _ hq]
  rfl

end

/-! ### The map-out of a channel that backs a slot (R278 to R281) -/

/-- An ACTIVE channel that backs a slot, which does not migrate, with channel `q` first in reserve. -/
structure Ilpiac.Replaceable (m : Ilpiac) (ch q : Nat) (l : List Nat) : Prop where
  present : m.channelPresent ch = true
  active : m.chState ch = chActive
  backs : m.backing (m.rd .channel ch F.CH_STATUS_SLOT) = some ch
  settled : m.migration (m.rd .channel ch F.CH_STATUS_SLOT) = none
  reserve : m.hbm.reserve = q :: l

/-- The map-out of a channel has begun: it is the source of its slot's migration to `q`, with its cause. -/
structure Ilpiac.MapsOut (m m' : Ilpiac) (ch q : Nat) (l : List Nat) (readable : Bool) (cause : Nat) : Prop where
  source : m'.chState ch = chSource
  cause : m'.rd .channel ch F.CH_STATUS_CAUSE = cause
  target : m'.chState q = chActive
  slot : m'.rd .channel q F.CH_STATUS_SLOT = m.rd .channel ch F.CH_STATUS_SLOT
  backing : m'.backing (m.rd .channel ch F.CH_STATUS_SLOT) = some q
  reserve : m'.hbm.reserve = l
  migration : m'.migration (m.rd .channel ch F.CH_STATUS_SLOT) = some ⟨m.rd .channel ch F.CH_STATUS_SLOT, ch, readable, q, []⟩
  good : m'.g F.HBM_STATUS_GOOD_CHANNELS = m.g F.HBM_STATUS_GOOD_CHANNELS - 1
  data : m'.hbm.data = m.hbm.data

/-- A channel taken out that becomes the source of a migration. -/
def Ilpiac.sourced (m : Ilpiac) (ch cause : Nat) : Ilpiac :=
  ((m.takenOut ch cause).wr .channel ch F.CH_STATUS_STATE chSource).wr .channel ch F.CH_STATUS_MIGRATED 0

theorem Ilpiac.backing_congr (h : m'.hbm = m.hbm) (slot : Nat) : m'.backing slot = m.backing slot := by rw [Ilpiac.backing, h, Ilpiac.backing]

theorem Ilpiac.migration_congr (h : m'.hbm = m.hbm) (slot : Nat) : m'.migration slot = m.migration slot := by
  rw [Ilpiac.migration, h, Ilpiac.migration]

/-- A channel that can be replaced is taken out, and its slot migrates to the first reserve channel; a DEAD one cannot be read (R278, R279). -/
theorem Ilpiac.mapOut_replaceable {l : List Nat} (h : m.Replaceable ch q l) (hch : ch < 768) (cause : Nat) :
    m.mapOut ch cause = (m.sourced ch cause).migrate (m.rd .channel ch F.CH_STATUS_SLOT) ch (cause != 1) q := by
  obtain ⟨hpresent, hactive, hbacks, hsettled, hreserve⟩ := h
  have hhbm : (m.takenOut ch cause).hbm = m.hbm := m.takenOut_hbm ch cause
  have hstate : (m.takenOut ch cause).chState ch = chActive := (m.rd_takenOut_apart cause hch).trans hactive
  have hslot : (m.takenOut ch cause).rd .channel ch F.CH_STATUS_SLOT = m.rd .channel ch F.CH_STATUS_SLOT := m.rd_takenOut_apart cause hch
  have hserves : ¬(!m.channelPresent ch ∨ m.chState ch = chOut) := by simp [hpresent, hactive, chActive, chOut]
  have hnotSource : m.chState ch ≠ chSource := by rw [hactive]; decide
  unfold Ilpiac.mapOut
  extract_lets +onlyGivenNames readable
  rw [if_neg hserves, if_neg hnotSource]
  extract_lets +onlyGivenNames m1 m2 m3
  have hm3 : m3 = m.takenOut ch cause := rfl
  rw [Ilpiac.sourced]
  clear_value m3
  subst hm3
  rw [hstate, if_neg (by decide)]
  extract_lets +onlyGivenNames slot
  rw [show slot = m.rd .channel ch F.CH_STATUS_SLOT from hslot, Ilpiac.backing_congr hhbm, if_neg (not_not.mpr hbacks)]
  extract_lets +onlyGivenNames old
  have hold : old = none := (Ilpiac.migration_congr hhbm _).trans hsettled
  clear_value old
  subst hold
  rw [hhbm, hreserve]

/-- What the map-out of a channel that can be replaced leaves. -/
theorem Ilpiac.mapsOut_mapOut {l : List Nat} (h : m.Replaceable ch q l) (hch : ch < 768) (hq : q < 768) (hne : q ≠ ch) (hnot : q ∉ l)
    (hcause : cause < 8) : m.MapsOut (m.mapOut ch cause) ch q l (cause != 1) cause := by
  rw [Ilpiac.mapOut_replaceable h hch]
  obtain ⟨-, -, hbacks, -, hreserve⟩ := h
  have hhbm : (m.sourced ch cause).hbm = m.hbm := by simp [Ilpiac.sourced]
  have hslot : m.rd .channel ch F.CH_STATUS_SLOT < 2 ^ 10 := bits_lt ..
  obtain ⟨htarget, htargetSlot⟩ :=
    (m.sourced ch cause).target_migrate (slot := m.rd .channel ch F.CH_STATUS_SLOT) (source := ch) (readable := cause != 1) hq
  refine ⟨?_, ?_, htarget, htargetSlot.trans (Nat.mod_eq_of_lt hslot), ?_, ?_, Ilpiac.migration_migrate .., ?_, ?_⟩
  · rw [Ilpiac.chState, Ilpiac.rd_migrate _ hch hne.symm, Ilpiac.sourced, Ilpiac.rd_wr_apart, Ilpiac.rd_wr_self _ _ _ _ _ _ (by decide)]
    rfl
  · rw [Ilpiac.rd_migrate _ hch hne.symm, Ilpiac.sourced, Ilpiac.rd_wr_apart, Ilpiac.rd_wr_apart, Ilpiac.cause_takenOut _ hch hcause]
  · have hlt : m.rd .channel ch F.CH_STATUS_SLOT < m.hbm.slotmap.length := by
      by_contra hge
      rw [Ilpiac.backing, List.getElem?_eq_none (Nat.not_lt.mp hge)] at hbacks
      cases hbacks
    rw [Ilpiac.backing, Ilpiac.migrate_slotmap, hhbm, List.getElem?_set_self hlt, Option.getD_some]
  · have hkept : l.filter (· != q) = l := List.filter_eq_self.mpr fun c hc => bne_iff_ne.mpr (ne_of_mem_of_not_mem hc hnot)
    rw [Ilpiac.migrate_reserve, hhbm, hreserve, List.filter_cons_of_neg (by simp), hkept]
  · rw [Ilpiac.good_migrate _ hq, Ilpiac.sourced, Ilpiac.g_wr_channel _ hch, Ilpiac.g_wr_channel _ hch, Ilpiac.good_takenOut _ _ hch]
  · rw [Ilpiac.migrate_data, hhbm]

/-- CH_CTRL of the channel is another register than those that a map-out writes. -/
theorem Ilpiac.ctrl_mapOut {l : List Nat} (h : m.Replaceable ch q l) (hch : ch < 768) (hne : q ≠ ch) :
    (m.mapOut ch cause).rd .channel ch F.CH_CTRL_MAPOUT = m.rd .channel ch F.CH_CTRL_MAPOUT := by
  rw [Ilpiac.mapOut_replaceable h hch, Ilpiac.rd_migrate _ hch hne.symm, Ilpiac.sourced, Ilpiac.rd_wr_apart, Ilpiac.rd_wr_apart,
    Ilpiac.rd_takenOut_apart _ _ hch]

/-! ### A write of CH_CTRL (R299) -/

/-- CH_CTRL (R299). -/
def channelCtrlDef : RegDef := ⟨.channel, 0x0, 1, 8, [⟨0, 1, .w1s⟩, ⟨8, 8, .rws⟩, ⟨16, 16, .rws⟩], [0x4000200]⟩

theorem regDefAt_channelCtrl : regDefAt .channel 0 = some (channelCtrlDef, 0) := rfl

theorem channelCtrlDef_laid : channelCtrlDef.laid = true := by decide

theorem key_channelMapout (ch : Nat) : F.CH_CTRL_MAPOUT.key .channel ch 0 = channelKey ch 0 := Fld.key_channel _ _

/-- The companion reaches a register of a channel that is present once the boot is READY (R5, R541). -/
theorem Ilpiac.reaches_channel {off : Nat} (hlink : m.Linked) (hboot : m.bootReady = true) (hpresent : m.channelPresent ch = true) (hch : ch < 768)
    (hoff : off < 0x200) (haligned : off % 8 = 0) : m.Reaches (channelKey ch off) := by
  refine ⟨hlink, ?_, ?_, ?_⟩
  · unfold channelKey
    omega
  · unfold channelKey
    omega
  · simp [Ilpiac.responds, Ilpiac.unitHere, hboot, locate_channel hch hoff, hpresent]

/-- A write that touches no field which only a stopped function takes is refused by none (R19). -/
theorem RegDef.written_unrefused (d : RegDef) (stopped : Bool) (old v : Nat) {mask : Nat}
    (htaken : ∀ f ∈ d.fields, f.ty = .rws → bits mask f.lo f.w = 0) : (d.written stopped old v mask).2 = false := by
  rw [RegDef.written_snd, List.any_eq_false]
  intro f hf
  by_cases hty : f.ty = .rws
  · rw [f.written_unmasked stopped old v (htaken f hf hty)]
    exact Bool.false_ne_true
  · rw [FSpec.written_taken_whole old v mask (fun h => hty h.1)]
    exact Bool.false_ne_true

/-- A write of a channel's register that no field refuses: its fields are written by their types, and what the write brings about follows. -/
theorem Ilpiac.writeReg_channel_taken {off : Nat} {d : RegDef} {j : Nat} (hch : ch < 768) (hoff : off < 0x200)
    (hd : regDefAt .channel off = some (d, j)) (m : Ilpiac) (v mask : Nat) (htaken : ∀ f ∈ d.fields, f.ty = .rws → bits mask f.lo f.w = 0) :
    m.writeReg (channelKey ch off) v mask =
      (m.entered (channelKey ch off) d v mask).unitEffect .channel ch off (m.reg (channelKey ch off)).toNat := by
  have hloc : locate (channelKey ch off) = (.channel, ch, off) := locate_channel hch hoff
  have hk : 0x600000 ≤ channelKey ch off ∧ channelKey ch off < 0x660000 := by
    unfold channelKey
    omega
  have hc (m : Ilpiac) (old x : Nat) : m.constrained (channelKey ch off) old x = x := by
    unfold Ilpiac.constrained
    rw [hloc]
    dsimp only
    repeat rw [if_neg (by omega)]
    rw [if_neg (by simp), if_neg (by simp)]
  have hstore : m.writeReg (channelKey ch off) v mask = m.storeReg (channelKey ch off) v mask := by
    unfold Ilpiac.writeReg
    rw [hloc]
    dsimp only
    repeat rw [if_neg (by omega)]
    rw [if_neg (by simp), if_neg (by simp)]
  have hnone (stopped : Bool) (old : Nat) : (d.written stopped old v mask).2 = false := d.written_unrefused stopped old v htaken
  rw [hstore]
  unfold Ilpiac.storeReg
  simp only [hloc, hd, hc, hnone, Ilpiac.globEffect_of_ge _ (Nat.le_trans (by decide) hk.1), reduceCtorEq, false_and, if_false, Bool.false_eq_true,
    Ilpiac.entered]

/-- A block that differs in CH_CTRL of one channel, and in what waits for halves of it. -/
structure Ilpiac.CtrlWritten (m m' : Ilpiac) (ch : Nat) : Prop where
  regs : ∀ k, k ≠ channelKey ch 0 → m'.reg k = m.reg k
  hbm : m'.hbm = m.hbm

section
variable (h : m.CtrlWritten m' ch)
include h

theorem Ilpiac.CtrlWritten.g_eq (hch : ch < 768) (hf : f.besideChannels = true := by decide) : m'.g f = m.g f := by
  have hkey : f.key .glob 0 0 ≠ channelKey ch 0 := key_channelMapout ch ▸ Fld.key_glob_ne_channel hf hch (by decide)
  rw [Ilpiac.g, Ilpiac.rd, h.regs _ hkey, Ilpiac.g, Ilpiac.rd]

theorem Ilpiac.CtrlWritten.rd_eq (hg0 : 0 < g.off := by decide) : m'.rd .channel ch g = m.rd .channel ch g := by
  have hkey : g.key .channel ch 0 ≠ channelKey ch 0 := by
    rw [Fld.key_channel, channelKey, channelKey]
    omega
  rw [Ilpiac.rd, h.regs _ hkey, Ilpiac.rd]

theorem Ilpiac.CtrlWritten.hbmOn (hch : ch < 768) : m'.hbmOn = m.hbmOn := by
  have hhas : m'.has F.CAP_PRESENT_HBM = m.has F.CAP_PRESENT_HBM := by rw [Ilpiac.has, h.g_eq hch, Ilpiac.has]
  have hrun : m'.runState 2 = m.runState 2 := h.g_eq hch
  rw [Ilpiac.hbmOn, hhas, hrun, Ilpiac.hbmOn]

theorem Ilpiac.CtrlWritten.replaceable {l : List Nat} (hch : ch < 768) (hrep : m.Replaceable ch q l) : m'.Replaceable ch q l := by
  obtain ⟨hpresent, hactive, hbacks, hsettled, hreserve⟩ := hrep
  have hslot : m'.rd .channel ch F.CH_STATUS_SLOT = m.rd .channel ch F.CH_STATUS_SLOT := h.rd_eq
  refine ⟨?_, h.rd_eq.trans hactive, ?_, ?_, ?_⟩
  · rwa [Ilpiac.channelPresent, h.g_eq hch, ← Ilpiac.channelPresent]
  · rwa [hslot, Ilpiac.backing_congr h.hbm]
  · rwa [hslot, Ilpiac.migration_congr h.hbm]
  · rwa [h.hbm]

theorem Ilpiac.CtrlWritten.mapsOut {m'' : Ilpiac} {l : List Nat} {readable : Bool} (hch : ch < 768) (hout : m'.MapsOut m'' ch q l readable cause) :
    m.MapsOut m'' ch q l readable cause := by
  obtain ⟨hsource, hcause, htarget, hslot, hbacking, hreserve, hmigration, hgood, hdata⟩ := hout
  rw [h.rd_eq] at hslot hbacking hmigration
  exact ⟨hsource, hcause, htarget, hslot, hbacking, hreserve, hmigration, (h.g_eq (f := F.HBM_STATUS_GOOD_CHANNELS) hch) ▸ hgood, h.hbm ▸ hdata⟩

end

theorem Ilpiac.CtrlWritten.wr {v : Nat} (h : m.CtrlWritten m' ch) : m.CtrlWritten (m'.wr .channel ch F.CH_CTRL_MAPOUT v) ch :=
  ⟨fun k hk => (Ilpiac.reg_wr_ne _ _ _ _ _ _ _ (key_channelMapout ch ▸ hk)).trans (h.regs k hk), h.hbm⟩

/-- MAPOUT written 1 reads 1 until the map-out takes it. -/
theorem Ilpiac.mapout_entered (m : Ilpiac) (ch : Nat) :
    (m.entered (channelKey ch 0) channelCtrlDef 1 1).rd .channel ch F.CH_CTRL_MAPOUT = 1 := by
  rw [Ilpiac.rd, key_channelMapout, Ilpiac.entered, Ilpiac.reg_setReg_self, BitVec.toNat_ofNat,
    Nat.mod_eq_of_lt (RegDef.written_lt channelCtrlDef_laid _ _ _ (BitVec.isLt _))]
  exact (RegDef.bits_written channelCtrlDef_laid (f := ⟨0, 1, .w1s⟩) (by decide) _ _ _ _).trans (FSpec.written_w1s_one _ _ rfl rfl rfl rfl)

theorem Ilpiac.ctrlWritten_entered (m : Ilpiac) (ch : Nat) (d : RegDef) (v mask : Nat) :
    m.CtrlWritten ((m.whole (channelKey ch 0)).entered (channelKey ch 0) d v mask) ch :=
  ⟨fun _ hk => Ilpiac.reg_setReg_ne (m.whole (channelKey ch 0)) _ hk, rfl⟩

/-- A pending map-out is taken while the function serves accesses: MAPOUT is cleared, and the channel mapped out with cause 4. -/
theorem Ilpiac.CtrlWritten.softMapout (h : m.CtrlWritten m' ch) (hset : m'.rd .channel ch F.CH_CTRL_MAPOUT = 1) (hon : m.hbmOn = true) (hch : ch < 768) :
    ∃ m1, m.CtrlWritten m1 ch ∧ m1.rd .channel ch F.CH_CTRL_MAPOUT = 0 ∧ m'.softMapout ch = m1.mapOut ch 4 := by
  refine ⟨m'.wr .channel ch F.CH_CTRL_MAPOUT 0, h.wr, Ilpiac.rd_wr_self _ _ _ _ _ _ (by decide), ?_⟩
  rw [Ilpiac.softMapout, if_pos ⟨(h.hbmOn hch).trans hon, hset⟩, Ilpiac.failChannel, if_pos ((h.wr.hbmOn hch).trans hon)]

theorem Ilpiac.unitEffect_channelCtrl (m : Ilpiac) (ch old : Nat) : m.unitEffect .channel ch 0 old = m.softMapout ch := by simp [Ilpiac.unitEffect]

/-- MAPOUT written 1 enters the bit, and the map-out follows. -/
theorem Ilpiac.fieldAccess_mapout (hreach : m.Reaches (channelKey ch 0)) (hch : ch < 768) :
    m.fieldAccess .channel ch F.CH_CTRL_MAPOUT 1 =
      ((m.whole (channelKey ch 0)).entered (channelKey ch 0) channelCtrlDef 1 1).softMapout ch := by
  have hbit : 1 % 2 ^ F.CH_CTRL_MAPOUT.w * 2 ^ F.CH_CTRL_MAPOUT.lo = 1 := rfl
  have hmask : (2 ^ F.CH_CTRL_MAPOUT.w - 1) * 2 ^ F.CH_CTRL_MAPOUT.lo = 1 := rfl
  rw [Ilpiac.fieldAccess_reaches (key_channelMapout ch ▸ hreach), key_channelMapout, hbit, hmask,
    Ilpiac.writeReg_channel_taken hch (by decide) regDefAt_channelCtrl _ _ _ (by decide), Ilpiac.unitEffect_channelCtrl]

end Sys2Proof.Machine

end

section
/-! What a read of a codeword finds (spec 08: R269 to R272): nothing wrong, one wrong symbol, which is corrected and counted, or two, which make poison;
and the scrub (R274, R302). -/

namespace Sys2Proof.Machine

variable {m m' : Ilpiac} {ch cw : Nat} {f g : Fld}

/-! ### Symbols in error -/

@[simp] theorem Ilpiac.cwErrors_setErrors (m : Ilpiac) (cw : Nat) (l : List (Nat × Nat)) : (m.setErrors cw l).cwErrors cw = l := Map.get_put_self ..

theorem Ilpiac.cwErrors_congr (h : m'.hbm.errors = m.hbm.errors) (cw : Nat) : m'.cwErrors cw = m.cwErrors cw := by
  rw [Ilpiac.cwErrors, h, Ilpiac.cwErrors]

/-- A symbol that was as written and flips is in error by the flipped bits. -/
theorem flipSymbol_of_notMem {l : List (Nat × Nat)} {sym d : Nat} (h : ∀ e ∈ l, e.1 ≠ sym) (hd : d ≠ 0) : flipSymbol l sym d = l ++ [(sym, d)] := by
  have hfind : l.find? (fun e => e.1 == sym) = none := List.find?_eq_none.mpr fun e he => by simp [h e he]
  have hkept : l.filter (fun e => e.1 != sym) = l := List.filter_eq_self.mpr fun e he => by simp [h e he]
  simp [flipSymbol, hfind, hkept, hd]

theorem upset_bits_ne_zero {u : Upset} (h : u.bits ≠ 0) : u.bits.toNat ≠ 0 := fun hz => h (BitVec.eq_of_toNat_eq hz)

/-- What an upset of a symbol makes of a codeword. -/
def upsetError (u : Upset) : Nat × Nat := (u.symbol % 68, u.bits.toNat)

/-- One upset of a clean codeword leaves one symbol in error, and a second one of another symbol two. -/
theorem Ilpiac.upset_one {u : Upset} (hclean : m.cwErrors cw = []) (hu : u.bits ≠ 0) : m.upset cw [u] = m.setErrors cw [upsetError u] := by
  rw [Ilpiac.upset, hclean, List.foldl_cons, List.foldl_nil, flipSymbol_of_notMem (by simp) (upset_bits_ne_zero hu)]
  rfl

theorem Ilpiac.upset_two {u v : Upset} (hclean : m.cwErrors cw = []) (hu : u.bits ≠ 0) (hv : v.bits ≠ 0) (hne : u.symbol % 68 ≠ v.symbol % 68) :
    m.upset cw [u, v] = m.setErrors cw [upsetError u, upsetError v] := by
  rw [Ilpiac.upset, hclean, List.foldl_cons, List.foldl_cons, List.foldl_nil, flipSymbol_of_notMem (by simp) (upset_bits_ne_zero hu),
    flipSymbol_of_notMem (by simpa using hne) (upset_bits_ne_zero hv)]
  rfl

/-! ### A read of a codeword (R271, R272) -/

theorem Ilpiac.cwRead_clean (h : m.cwErrors cw = []) : (m.cwRead cw).2 = m := by
  rw [Ilpiac.cwRead, h]

theorem Ilpiac.cwRead_one {e : Nat × Nat} (h : m.cwErrors cw = [e]) : (m.cwRead cw).2 = (m.setErrors cw []).countCe cw e.1 := by
  rw [Ilpiac.cwRead, h]

/-- A codeword that cannot be corrected is kept as it reads, as poison. -/
def Ilpiac.spoiled (m : Ilpiac) (cw : Nat) (l : List (Nat × Nat)) : Ilpiac :=
  ((m.setData cw (withErrors (m.cwData cw) l)).setErrors cw []).setPoison cw true

theorem Ilpiac.cwRead_two {e₁ e₂ : Nat × Nat} (h : m.cwErrors cw = [e₁, e₂]) : (m.cwRead cw).2 = (m.spoiled cw [e₁, e₂]).countUe cw := by
  rw [Ilpiac.cwRead, h]
  rfl

section
variable (m : Ilpiac) (cw : Nat) (l : List (Nat × Nat))

theorem Ilpiac.spoiled_regs : (m.spoiled cw l).regs = m.regs := rfl

theorem Ilpiac.spoiled_ueCount : (m.spoiled cw l).hbm.ueCount = m.hbm.ueCount := rfl

theorem Ilpiac.poisoned_spoiled : (m.spoiled cw l).poisoned cw = true := Ilpiac.poisoned_setPoison_self ..

theorem Ilpiac.cwErrors_spoiled : (m.spoiled cw l).cwErrors cw = [] :=
  (Ilpiac.cwErrors_congr (m := (m.setData cw (withErrors (m.cwData cw) l)).setErrors cw []) rfl cw).trans (Ilpiac.cwErrors_setErrors ..)

end

/-! ### CH_ERRORS and CH_LAST_ERROR (R271, R301) -/

/-- An error of a channel is counted in a field of CH_ERRORS, and CH_LAST_ERROR names it. -/
def Ilpiac.errorNoted (m : Ilpiac) (ch : Nat) (count : Fld) (acc sym kind : Nat) : Ilpiac :=
  ((((m.cnt .channel ch count 1).wr .channel ch F.CH_LAST_ERROR_ACCESS acc).wr .channel ch F.CH_LAST_ERROR_SYMBOL sym).wr .channel ch
    F.CH_LAST_ERROR_KIND kind).wr .channel ch F.CH_LAST_ERROR_VALID 1

section
variable (m : Ilpiac) (ch : Nat) (count : Fld) (acc sym kind : Nat)

@[simp] theorem Ilpiac.errorNoted_hbm : (m.errorNoted ch count acc sym kind).hbm = m.hbm := by simp [Ilpiac.errorNoted]

/-- What CH_LAST_ERROR shows, cut to the widths of its fields. -/
theorem Ilpiac.lastError_errorNoted :
    (m.errorNoted ch count acc sym kind).rd .channel ch F.CH_LAST_ERROR_ACCESS = acc % 2 ^ 24 ∧
      (m.errorNoted ch count acc sym kind).rd .channel ch F.CH_LAST_ERROR_SYMBOL = sym % 2 ^ 7 ∧
      (m.errorNoted ch count acc sym kind).rd .channel ch F.CH_LAST_ERROR_KIND = kind % 2 ∧
      (m.errorNoted ch count acc sym kind).rd .channel ch F.CH_LAST_ERROR_VALID = 1 := by
  refine ⟨?_, ?_, ?_, ?_⟩
  · rw [Ilpiac.errorNoted, Ilpiac.rd_wr_apart, Ilpiac.rd_wr_apart, Ilpiac.rd_wr_apart, Ilpiac.rd_wr_self _ _ _ _ _ _ (by decide)]
    rfl
  · rw [Ilpiac.errorNoted, Ilpiac.rd_wr_apart, Ilpiac.rd_wr_apart, Ilpiac.rd_wr_self _ _ _ _ _ _ (by decide)]
    rfl
  · rw [Ilpiac.errorNoted, Ilpiac.rd_wr_apart, Ilpiac.rd_wr_self _ _ _ _ _ _ (by decide)]
    rfl
  · rw [Ilpiac.errorNoted, Ilpiac.rd_wr_self _ _ _ _ _ _ (by decide)]
    rfl

/-- A field of another register than CH_LAST_ERROR reads as after the count. -/
theorem Ilpiac.rd_errorNoted {g : Fld} (ha : Fld.apart F.CH_LAST_ERROR_ACCESS 0 g 0 = true := by decide)
    (hs : Fld.apart F.CH_LAST_ERROR_SYMBOL 0 g 0 = true := by decide) (hk : Fld.apart F.CH_LAST_ERROR_KIND 0 g 0 = true := by decide)
    (hv : Fld.apart F.CH_LAST_ERROR_VALID 0 g 0 = true := by decide) :
    (m.errorNoted ch count acc sym kind).rd .channel ch g = (m.cnt .channel ch count 1).rd .channel ch g := by
  rw [Ilpiac.errorNoted, Ilpiac.rd_wr_apart _ _ _ _ hv, Ilpiac.rd_wr_apart _ _ _ _ hk, Ilpiac.rd_wr_apart _ _ _ _ hs, Ilpiac.rd_wr_apart _ _ _ _ ha]

end

/-- A read of a codeword has found an error of channel `ch`: it is counted and noted, and the stored codewords are as before. -/
structure Ilpiac.ErrorFound (m m' : Ilpiac) (ch : Nat) (count : Fld) (acc sym kind : Nat) : Prop where
  regs : ∀ k, k ∉ collectorRegs → m'.reg k = (m.errorNoted ch count acc sym kind).reg k
  errors : m'.hbm.errors = m.hbm.errors
  data : m'.hbm.data = m.hbm.data
  poison : m'.hbm.poison = m.hbm.poison

theorem Ilpiac.ErrorFound.rd_eq {count : Fld} {acc sym kind : Nat} (h : m.ErrorFound m' ch count acc sym kind) (hch : ch < 768)
    (hg : g.off < 0x200 := by decide) : m'.rd .channel ch g = (m.errorNoted ch count acc sym kind).rd .channel ch g := by
  have hkey : g.key .channel ch 0 ∉ collectorRegs := by
    have hrange := Fld.key_channel_range hch hg
    simp only [collectorRegs, List.mem_cons, List.not_mem_nil, or_false]
    omega
  rw [Ilpiac.rd, h.regs _ hkey, Ilpiac.rd]

/-- While CH_CTRL sets no limit, a corrected read maps no channel out. -/
theorem Ilpiac.errorFound_countCe (hlimit : m.rd .channel (cw / 2 ^ 24) F.CH_CTRL_CE_LIMIT = 0) (sym : Nat) :
    m.ErrorFound (m.countCe cw sym) (cw / 2 ^ 24) F.CH_ERRORS_CE (cw % 2 ^ 24) sym 0 := by
  have hstill : (m.errorNoted (cw / 2 ^ 24) F.CH_ERRORS_CE (cw % 2 ^ 24) sym 0).rd .channel (cw / 2 ^ 24) F.CH_CTRL_CE_LIMIT = 0 := by
    rw [Ilpiac.rd_errorNoted, Ilpiac.cnt, Ilpiac.rd_wr_apart, hlimit]
  have hhbm := m.errorNoted_hbm (cw / 2 ^ 24) F.CH_ERRORS_CE (cw % 2 ^ 24) sym 0
  unfold Ilpiac.countCe
  extract_lets +onlyGivenNames ch acc m1 m2 m3 m4 m5 seen
  clear_value seen
  extract_lets +onlyGivenNames hbm
  have hstored : hbm = m.hbm := hhbm
  clear_value hbm
  extract_lets +onlyGivenNames m6 lim
  have hregs : m6.regs = m5.regs := rfl
  have hlim : lim = 0 := (Ilpiac.rd_congr hregs ..).trans hstill
  have hbelow : ¬(lim ≠ 0 ∧ lim ≤ (seen.filter (fun e => e.1 == ch)).length) := fun h => h.1 hlim
  rw [if_neg hbelow]
  exact ⟨fun _ _ => by rw [Ilpiac.reg, hregs]; rfl, (congrArg Hbm.errors hstored :), (congrArg Hbm.data hstored :),
    (congrArg Hbm.poison hstored :)⟩

/-- Below the limit of CH_CTRL an uncorrectable read maps no channel out; its source asserts where no such error is noted yet. -/
theorem Ilpiac.errorFound_countUe
    (hlimit : max 1 (m.rd .channel (cw / 2 ^ 24) F.CH_CTRL_UE_LIMIT) > Map.get (fun _ => 0) m.hbm.ueCount (cw / 2 ^ 24) + 1)
    (hch : cw / 2 ^ 24 < 768) : m.ErrorFound (m.countUe cw) (cw / 2 ^ 24) F.CH_ERRORS_UE (cw % 2 ^ 24) 0x7F 1 := by
  have hhbm := m.errorNoted_hbm (cw / 2 ^ 24) F.CH_ERRORS_UE (cw % 2 ^ 24) 0x7F 1
  have hlim : (m.errorNoted (cw / 2 ^ 24) F.CH_ERRORS_UE (cw % 2 ^ 24) 0x7F 1).rd .channel (cw / 2 ^ 24) F.CH_CTRL_UE_LIMIT =
      m.rd .channel (cw / 2 ^ 24) F.CH_CTRL_UE_LIMIT := by rw [Ilpiac.rd_errorNoted, Ilpiac.cnt, Ilpiac.rd_wr_apart]
  have hkey : F.CH_CTRL_UE_LIMIT.key .channel (cw / 2 ^ 24) 0 ∉ collectorRegs := by
    have hrange := Fld.key_channel_range (f := F.CH_CTRL_UE_LIMIT) hch (by decide)
    simp only [collectorRegs, List.mem_cons, List.not_mem_nil, or_false]
    omega
  unfold Ilpiac.countUe
  extract_lets +onlyGivenNames ch acc first m1 m2 m3 m4 m5 m6 n hbm m7
  have hrec : (m.errorNoted (cw / 2 ^ 24) F.CH_ERRORS_UE (cw % 2 ^ 24) 0x7F 1).Records m6 ∧ m6.hbm = m.hbm := by
    simp only [m6]
    split
    · exact ⟨(Ilpiac.Records.refl m5).raise, (by simp : (m5.raise _ _ _).hbm = m5.hbm).trans hhbm⟩
    · exact ⟨.refl m5, hhbm⟩
  clear_value m6
  obtain ⟨hrec, hsame⟩ := hrec
  have h7 : m7.rd .channel ch F.CH_CTRL_UE_LIMIT = m6.rd .channel ch F.CH_CTRL_UE_LIMIT := Ilpiac.rd_congr rfl ..
  have hn : n = Map.get (fun _ => 0) m6.hbm.ueCount ch + 1 := rfl
  have hbelow : ¬max 1 (m7.rd .channel ch F.CH_CTRL_UE_LIMIT) ≤ n := by
    rw [h7, Ilpiac.rd, hrec.regs _ hkey, ← Ilpiac.rd, hlim, hn, hsame]
    exact Nat.not_le.mpr hlimit
  rw [if_neg hbelow]
  exact ⟨hrec.regs, (congrArg Hbm.errors hsame :), (congrArg Hbm.data hsame :), (congrArg Hbm.poison hsame :)⟩

/-- What CH_ERRORS and CH_LAST_ERROR show of an error that was found. -/
theorem Ilpiac.ErrorFound.shown {count : Fld} {acc sym kind : Nat} (h : m.ErrorFound m' ch count acc sym kind) (hch : ch < 768)
    (hcount : count = F.CH_ERRORS_CE ∨ count = F.CH_ERRORS_UE) :
    m'.rd .channel ch count = satAdd 32 (m.rd .channel ch count) 1 ∧ m'.rd .channel ch F.CH_LAST_ERROR_ACCESS = acc % 2 ^ 24 ∧
      m'.rd .channel ch F.CH_LAST_ERROR_SYMBOL = sym % 2 ^ 7 ∧ m'.rd .channel ch F.CH_LAST_ERROR_KIND = kind % 2 ∧
      m'.rd .channel ch F.CH_LAST_ERROR_VALID = 1 := by
  obtain ⟨haccess, hsymbol, hkind, hvalid⟩ := m.lastError_errorNoted ch count acc sym kind
  refine ⟨?_, (h.rd_eq hch).trans haccess, (h.rd_eq hch).trans hsymbol, (h.rd_eq hch).trans hkind, (h.rd_eq hch).trans hvalid⟩
  rcases hcount with rfl | rfl
  · rw [h.rd_eq hch, Ilpiac.rd_errorNoted, Ilpiac.rd_cnt_self _ _ _ F.CH_ERRORS_CE]
    rfl
  · rw [h.rd_eq hch, Ilpiac.rd_errorNoted, Ilpiac.rd_cnt_self _ _ _ F.CH_ERRORS_UE]
    rfl

/-! ### The scrub (R274, R302) -/

/-- Waking a stack writes no register of a channel. -/
theorem Ilpiac.rd_wakeStack_channel (m : Ilpiac) (c : Nat) (hch : ch < 768) (hg : g.off < 0x200 := by decide) :
    (m.wakeStack c).rd .channel ch g = m.rd .channel ch g := by
  unfold Ilpiac.wakeStack
  split
  · refine Ilpiac.rd_wr_ne _ _ _ _ _ _ _ _ _ _ ?_
    have hstack : F.STACK_STATUS_STATE.key .stack (c / 64) 0 = 0x700000 + c / 64 * 0x1000 + 8 := rfl
    have hrange := Fld.key_channel_range hch hg
    omega
  · rfl

theorem Ilpiac.sameStore_wakeStack (m : Ilpiac) (ch : Nat) : m.SameStore (m.wakeStack ch) := .of_hbm (by simp)

theorem Ilpiac.cwErrors_wakeStack (m : Ilpiac) (ch cw : Nat) : (m.wakeStack ch).cwErrors cw = m.cwErrors cw := Ilpiac.cwErrors_congr (by simp) cw

/-- The access that the scrub of a channel reads next (R274). -/
def Ilpiac.scrubPlace (m : Ilpiac) (ch : Nat) : Nat := Map.get (fun _ => 0) m.hbm.scrubAt ch

/-- The scrub of a channel goes on behind access `a`. -/
def Ilpiac.scrubNext (m : Ilpiac) (ch a : Nat) : Ilpiac :=
  { m with hbm := { m.hbm with scrubAt := Map.put (fun _ => 0) m.hbm.scrubAt ch ((a + 1) % 2 ^ 24) } }

theorem Ilpiac.ErrorFound.scrubNext {count : Fld} {acc sym kind c a : Nat} (h : m.ErrorFound m' ch count acc sym kind) :
    m.ErrorFound (m'.scrubNext c a) ch count acc sym kind := ⟨h.regs, h.errors, h.data, h.poison⟩

theorem Ilpiac.SameStore.scrubNext {c a : Nat} (h : m.SameStore m') : m.SameStore (m'.scrubNext c a) := ⟨h.data, h.poison⟩

theorem Ilpiac.scrubPlace_scrubNext (m : Ilpiac) (ch a : Nat) : (m.scrubNext ch a).scrubPlace ch = (a + 1) % 2 ^ 24 := Map.get_put_self ..

theorem Ilpiac.scrubRead_active (hon : m.hbmOn = true) (hpresent : m.channelPresent ch = true) (hactive : m.chState ch = chActive)
    (hcw : ch * 2 ^ 24 + m.scrubPlace ch = cw) (us : List Upset) :
    m.scrubRead ch us = (((m.wakeStack ch).upset cw us).cwRead cw).2.scrubNext ch (m.scrubPlace ch) := by
  subst hcw
  rw [Ilpiac.scrubRead, if_neg (by simp [hon, hpresent, hactive])]
  rfl

section
variable (hon : m.hbmOn = true) (hpresent : m.channelPresent ch = true) (hactive : m.chState ch = chActive)
  (hcw : ch * 2 ^ 24 + m.scrubPlace ch = cw) (hclean : m.cwErrors cw = [])
include hon hpresent hactive hcw hclean

/-- A clean codeword: only the place of the scrub moves, in a stack that is awake. -/
theorem Ilpiac.scrubRead_clean :
    (m.scrubRead ch []).scrubPlace ch = (m.scrubPlace ch + 1) % 2 ^ 24 ∧ (m.scrubRead ch []).regs = (m.wakeStack ch).regs ∧
      (m.scrubRead ch []).hbm.data = m.hbm.data ∧ (m.scrubRead ch []).hbm.poison = m.hbm.poison := by
  have hread : (((m.wakeStack ch).upset cw []).cwRead cw).2 = (m.wakeStack ch).setErrors cw [] := by
    rw [Ilpiac.upset, List.foldl_nil, Ilpiac.cwErrors_wakeStack, hclean, Ilpiac.cwRead_clean (Ilpiac.cwErrors_setErrors ..)]
  have hstore := (m.sameStore_wakeStack ch).setErrors (cw := cw) (l := []) |>.scrubNext (c := ch) (a := m.scrubPlace ch)
  rw [Ilpiac.scrubRead_active hon hpresent hactive hcw, hread]
  exact ⟨Ilpiac.scrubPlace_scrubNext .., rfl, hstore.data, hstore.poison⟩

variable (hch : ch < 768) (hplace : m.scrubPlace ch < 2 ^ 24)
include hch hplace

/-- One wrong symbol, and no limit: it is corrected in place and counted. -/
theorem Ilpiac.scrubRead_one {u : Upset} (hu : u.bits ≠ 0) (hlimit : m.rd .channel ch F.CH_CTRL_CE_LIMIT = 0) :
    ∃ m1 : Ilpiac, m1.cwErrors cw = [] ∧ m.SameStore m1 ∧ (∀ g : Fld, g.off < 0x200 → m1.rd .channel ch g = m.rd .channel ch g) ∧
      m1.ErrorFound (m.scrubRead ch [u]) ch F.CH_ERRORS_CE (m.scrubPlace ch) (u.symbol % 68) 0 := by
  have hchannel : cw / 2 ^ 24 = ch := by omega
  have haccess : cw % 2 ^ 24 = m.scrubPlace ch := by omega
  have hrd (g : Fld) (hg : g.off < 0x200) : (((m.wakeStack ch).setErrors cw [upsetError u]).setErrors cw []).rd .channel ch g = m.rd .channel ch g :=
    (Ilpiac.rd_congr (by simp) ..).trans (m.rd_wakeStack_channel ch hch hg)
  refine ⟨_, Ilpiac.cwErrors_setErrors .., (m.sameStore_wakeStack ch).setErrors.setErrors, hrd, ?_⟩
  have hfound := Ilpiac.errorFound_countCe (cw := cw) (by rw [hchannel, hrd _ (by decide), hlimit]) (u.symbol % 68)
  rw [hchannel, haccess] at hfound
  rw [Ilpiac.scrubRead_active hon hpresent hactive hcw, Ilpiac.upset_one ((m.cwErrors_wakeStack ch cw).trans hclean) hu,
    Ilpiac.cwRead_one (Ilpiac.cwErrors_setErrors ..)]
  exact hfound.scrubNext

/-- Two wrong symbols, below the limit: the stored word is poison and counted. -/
theorem Ilpiac.scrubRead_two {u v : Upset} (hu : u.bits ≠ 0) (hv : v.bits ≠ 0) (hne : u.symbol % 68 ≠ v.symbol % 68)
    (hlimit : max 1 (m.rd .channel ch F.CH_CTRL_UE_LIMIT) > Map.get (fun _ => 0) m.hbm.ueCount ch + 1) :
    ∃ m1 : Ilpiac, m1.poisoned cw = true ∧ m1.cwErrors cw = [] ∧ (∀ g : Fld, g.off < 0x200 → m1.rd .channel ch g = m.rd .channel ch g) ∧
      m1.ErrorFound (m.scrubRead ch [u, v]) ch F.CH_ERRORS_UE (m.scrubPlace ch) 0x7F 1 := by
  have hchannel : cw / 2 ^ 24 = ch := by omega
  have haccess : cw % 2 ^ 24 = m.scrubPlace ch := by omega
  have hrd (g : Fld) (hg : g.off < 0x200) : (((m.wakeStack ch).setErrors cw [upsetError u, upsetError v]).spoiled cw
      [upsetError u, upsetError v]).rd .channel ch g = m.rd .channel ch g :=
    (Ilpiac.rd_congr ((Ilpiac.spoiled_regs ..).trans (by simp)) ..).trans (m.rd_wakeStack_channel ch hch hg)
  refine ⟨_, Ilpiac.poisoned_spoiled .., Ilpiac.cwErrors_spoiled .., hrd, ?_⟩
  have hcount : (((m.wakeStack ch).setErrors cw [upsetError u, upsetError v]).spoiled cw [upsetError u, upsetError v]).hbm.ueCount = m.hbm.ueCount := by
    rw [Ilpiac.spoiled_ueCount, Ilpiac.setErrors, (by simp : (m.wakeStack ch).hbm = m.hbm)]
  have hfound := Ilpiac.errorFound_countUe (cw := cw) (by rw [hchannel, hrd _ (by decide), hcount]; exact hlimit) (by rw [hchannel]; exact hch)
  rw [hchannel, haccess] at hfound
  rw [Ilpiac.scrubRead_active hon hpresent hactive hcw, Ilpiac.upset_two ((m.cwErrors_wakeStack ch cw).trans hclean) hu hv hne,
    Ilpiac.cwRead_two (Ilpiac.cwErrors_setErrors ..)]
  exact hfound.scrubNext

end

/-! ### The commands -/

theorem exec_scrubRead (s : State) (ch : Fin 768) (us : List Upset) :
    exec (.scrubRead ch us) s = .next { s with m := (s.m.scrubRead ch us).settle } := rfl

theorem exec_channelMapout (s : State) (ch : Fin 768) :
    exec (.channelMapout ch) s = .next { s with m := (s.m.fieldAccess .channel ch F.CH_CTRL_MAPOUT 1).settle } := rfl

/-- A channel that does not answer while the function serves accesses is mapped out as DEAD (R278). -/
theorem exec_channelAccessTimeout {s : State} {ch : Fin 768} (hon : s.m.hbmOn = true) (hpresent : s.m.channelPresent ch = true) :
    exec (.channelAccessTimeout ch) s = .next { s with m := (s.m.mapOut ch 1).settle } := by
  have hout : (if s.m.channelPresent ch.val then s.m.failChannel ch.val 1 else s.m) = s.m.mapOut ch 1 := by
    rw [if_pos hpresent, Ilpiac.failChannel, if_pos hon]
  rw [← hout]
  rfl

end Sys2Proof.Machine

open Sys2Proof.Machine

/-- Settles O33: by the blocks that a map-out passes through, and by the number of wrong symbols that the scrub reads. -/
theorem hbmChannels : Obligations.HbmChannels := by
  unfold Obligations.HbmChannels
  refine ⟨fun s ch q l hon hpresent hactive hreserve hq hne hnot => ?_, fun s ch hon hpresent hactive => ?_⟩
  · intro slot hbacks hsettled out
    have hrep : s.m.Replaceable ch q l := ⟨hpresent, hactive, hbacks, hsettled, hreserve⟩
    have hout {m' : Ilpiac} {readable : Bool} {cause : Nat} (h : s.m.MapsOut m' ch q l readable cause) : out m' readable cause :=
      ⟨h.source, h.cause, h.target, h.slot, h.backing, h.reserve, h.migration, h.good, h.data⟩
    refine ⟨⟨_, exec_channelAccessTimeout hon hpresent, ?_⟩, fun hlink hboot => ⟨_, exec_channelMapout s ch, ?_⟩⟩
    · exact hout (Ilpiac.mapsOut_mapOut hrep ch.isLt hq hne hnot (by decide))
    · have hreach := Ilpiac.reaches_channel (off := 0) hlink hboot hpresent ch.isLt (by decide) (by decide)
      obtain ⟨m1, hwritten, hcleared, htaken⟩ :=
        (s.m.ctrlWritten_entered ch channelCtrlDef 1 1).softMapout (Ilpiac.mapout_entered _ ch) hon ch.isLt
      have hrep1 := hwritten.replaceable ch.isLt hrep
      rw [Ilpiac.fieldAccess_mapout hreach ch.isLt, htaken]
      refine ⟨hout (hwritten.mapsOut ch.isLt ?_), (Ilpiac.ctrl_mapOut hrep1 ch.isLt hne).trans hcleared⟩
      exact Ilpiac.mapsOut_mapOut hrep1 ch.isLt hq hne hnot (by decide)
  · intro a cw hplace hclean
    refine ⟨⟨_, exec_scrubRead s ch [], Ilpiac.scrubRead_clean hon hpresent hactive rfl hclean⟩, fun u hu hlimit => ⟨_, exec_scrubRead s ch [u], ?_⟩,
      fun u v hu hv hsymbols hlimit => ⟨_, exec_scrubRead s ch [u, v], ?_⟩⟩
    · obtain ⟨m1, herrors, hstore, hrd, hfound⟩ := Ilpiac.scrubRead_one hon hpresent hactive rfl hclean ch.isLt hplace hu hlimit
      obtain ⟨hcount, haccess, hsymbol, hkind, hvalid⟩ := hfound.shown ch.isLt (.inl rfl)
      refine ⟨(Ilpiac.cwErrors_congr hfound.errors cw).trans herrors, hfound.data.trans hstore.data, hfound.poison.trans hstore.poison, ?_,
        haccess.trans (Nat.mod_eq_of_lt hplace), hsymbol.trans (Nat.mod_eq_of_lt (by omega)), hkind, hvalid⟩
      rw [hcount, hrd _ (by decide)]
    · obtain ⟨m1, hpoison, herrors, hrd, hfound⟩ := Ilpiac.scrubRead_two hon hpresent hactive rfl hclean ch.isLt hplace hu hv hsymbols hlimit
      obtain ⟨hcount, -, hsymbol, hkind, -⟩ := hfound.shown ch.isLt (.inr rfl)
      have hstored : m1.SameStore (s.m.scrubRead ch [u, v]) := ⟨hfound.data, hfound.poison⟩
      refine ⟨(hstored.poisoned cw).trans hpoison, (Ilpiac.cwErrors_congr hfound.errors cw).trans herrors, ?_, hsymbol, hkind⟩
      rw [hcount, hrd _ (by decide)]

end
